-- ==== Sys2Proof/Word.lean ====
section
/-! DEFINITION. The word types of the KY-4800 (R2, R3): bytes, 32-bit words, 64-bit words. -/

namespace Sys2Proof

/-- One byte of memory (R3). -/
abbrev Byte := BitVec 8

/-- A 32-bit word: one instruction word (R23) or one v-register (R14). -/
abbrev W32 := BitVec 32

/-- A 64-bit word: an s-register (R28), an instruction address (R24), a system register (R113). -/
abbrev W64 := BitVec 64

end Sys2Proof
end

