-- ==== Sys2Proof/Config.lean ====
section
/-! DEFINITION. What the spec leaves open, as constants without a body: nothing in Lean can evaluate one or prove a
value of one. The log entries name each. -/

namespace Sys2Proof.Config

/-- Either the old or the new value of a register read or written too early: true gives the old one (R48, R151).
Argument: the model's counter of free values and the register's number. -/
opaque keepsOld : Nat → Nat → Bool

/-- Core cycles a NAP may last beyond its count, of which the value modulo 65 is taken (R189). -/
opaque napExtra : Nat → Nat

/-- Bits of FRSQ, FEXP2, FLOG2, FSIN, FCOS and FTANH where the spec bounds the error only (R224, R225): function
code, format code, FTZ, operand bits. They are taken only where they meet the bound. -/
opaque approx : Nat → Nat → Bool → BitVec 64 → BitVec 64

/-- SHAKE256 with 256 bits of output (R495, R496). -/
opaque shake256 : List (BitVec 8) → BitVec 256

/-- Falcon-1024 verification: message digest, signature and key, for the vendor key (0) and the operator key (1)
(R495, R497). -/
opaque verifies : Nat → BitVec 256 → List (BitVec 8) → Bool

/-- Falcon-1024 signature of a report under the identity key (R496). -/
opaque signature : List (BitVec 8) → List (BitVec 8)

/-- The fused serial number (R496). -/
opaque serial : List (BitVec 8)

/-- The fused part number, KY-4800, in ASCII (R496). -/
def partNumber : List (BitVec 8) := [0x4B, 0x59, 0x2D, 0x34, 0x38, 0x30, 0x30]

/-- The fused device identity: the serial number and the part number; the private half of its key never leaves the management
processor, which signs with it (R496). -/
def identity : List (BitVec 8) × List (BitVec 8) := (serial, partNumber)

/-- A device's challenge of a management session (R497). -/
opaque challenge : Nat → List (BitVec 8)

/-- Firmware image header (R495): version, whether reserved fields are zero, whether it raises the rollback counter.
The spec gives no offsets. -/
opaque imageVersion : List (BitVec 8) → Nat
opaque imageReservedZero : List (BitVec 8) → Bool
opaque imageRaisesRollback : List (BitVec 8) → Bool

/-- A firmware image is a vendor's service image, which clears the fence list (R501). -/
opaque imageIsService : List (BitVec 8) → Bool

/-- The signature in an image's header (R495). -/
opaque imageSignature : List (BitVec 8) → List (BitVec 8)

/-- The boot ROM (0), the microcode for save and restore (1) and the engine sequencers (2), which the measurement log
covers (R496). -/
opaque stageImage : Nat → List (BitVec 8)

/-- Nanoseconds that the chronometer counts while core cycles pass: it is a time base of its own, not derived from the arithmetic
clock (R15). Argument: the model's counter of free values. -/
opaque nsPassed : Nat → Nat

/-- Hits, misses or mesh flits that a slice counter counts while cycles pass, for which no rule gives a number (R478). Arguments: the model's
counter of free values, and the counter. -/
opaque sliceEvents : Nat → Nat → BitVec 48

/-- A word of a log record whose contents the spec names and whose layout it does not give (R19, R444, R456). Arguments: the event's
code, and the contents. -/
opaque recordWord : Nat → List Nat → BitVec 64

/-- A byte of a peer's memory, which is no part of State, where the device reads it of itself (R447): for an index block, a capture or a
fetch. Arguments: the cycle, and the physical address. -/
opaque peerByte : Nat → Nat → BitVec 8

/-- How a peer answers the READ of an instruction fetch: 0 OK, 1 REFUSED, 2 POISON, 3 not at all, modulo 4 (R448). Arguments: the cycle,
and the physical address. -/
opaque peerStatus : Nat → Nat → Nat

/-- How many of the oldest packets of a port's retry buffer the acknowledgement field of a received flit acknowledges, beyond those whose
slots are back (R439). Arguments: the cycle, the port, and the packets it has received. -/
opaque linkAcked : Nat → Nat → Nat → Nat

/-- A value the spec states no rule for, at a call of the model's counter. -/
opaque freeWord : Nat → BitVec 64

end Sys2Proof.Config
end

