-- ==== Sys2Proof/Syntax.lean ====
section
/-! DEFINITION. The syntax of the machine: the fields of an instruction word sequence (R26, R29, R33, R37), the
arguments of the machine's events, and Instr, with one constructor for each row of the table of operations and
events. A program instruction carries the fields of its words; an event carries the names of what it happens to. -/

namespace Sys2Proof

/-- The fields of an instruction, all but OP (R26, R29, R37, R33). Fields of absent words hold the values of R43. -/
structure Fields where
  /-- X: the instruction names s-registers in D and A (R27). -/
  x : Bool
  /-- A, source A. -/
  a : BitVec 8
  /-- D, destination or data source. -/
  d : BitVec 8
  /-- YLD (R51). -/
  yld : Bool
  /-- STALL (R45). -/
  stall : BitVec 3
  /-- LEN, the length code (R23). -/
  len : BitVec 2
  /-- SUB (R31). -/
  sub : BitVec 8
  /-- PR.NEG (R29). -/
  neg : Bool
  /-- PR.NUM (R29). -/
  pnum : BitVec 3
  /-- C: operand specifier or memory control field (R29, R35). -/
  c : BitVec 10
  /-- B: operand specifier (R29). -/
  b : BitVec 10
  /-- Word 2: modifier word of an M-opcode, immediate of an I-opcode (R37). -/
  w2 : W32
  /-- The trailing literal (R33). -/
  lit : W64
deriving DecidableEq, Repr

/-- An executor of a group: its pilot, or the strand of an index (R143, R326). -/
inductive Who where
  | pilot
  | strand (k : Nat)
deriving DecidableEq, Repr

/-- One executor of the device, named by the model's number of its group. -/
structure ThreadId where
  gid : Nat
  who : Who
deriving DecidableEq, Repr

/-- Who issues a context command (R100): a function's driver (0 is the physical function) or the management processor. -/
inductive Commander where
  | func (v : Nat)
  | management
deriving DecidableEq, Repr

/-- The engines of a core, with the unit numbers of R373 and R459. -/
inductive Engine where
  | matrix
  | copy
  | reckoner
deriving DecidableEq, Repr

/-- A page of BAR0 (R451). -/
inductive HostPage where
  | function
  | control
  | trigger (slot : Nat)
  | context (slot : Nat)
  | queue (slot q : Nat)
  /-- A queue's page as the management processor reaches it, for which PRIV is writable (R118). -/
  | managed (ctx q : Nat)
deriving DecidableEq, Repr

/-- A part that can be fenced (R501). -/
inductive Part where
  /-- a logical core; in the fence list, a physical one -/
  | core (n : Nat)
  /-- a physical core, which may carry no logical number -/
  | spare (n : Nat)
  | slice (n : Nat)
  | lane (port n : Nat)
  /-- a stack, with the 16-byte units of its failing frames, and the page-table leaves that map them -/
  | stack (n : Nat) (units leaves : List Nat)
deriving DecidableEq, Repr

/-- The name of a barrier object within its context: level, number, instance (quad or die number, group for level 0,
home rank for level 5) and the grid mark (R323, R324, R330). -/
structure BarKey where
  level : Nat
  num : Nat
  inst : Nat
  grid : Bool
deriving DecidableEq, Repr

/-- What a barrier packet asks of the object (R323, R491). -/
inductive BarAsk where
  /-- BARINIT, with the configuration and whether the member's group has 32 parties (R332) -/
  | register (cfg : W64) (full : Bool)
  | arrive
  | drop
  /-- BARW and BART with their token (R334) -/
  | wait (tok : BitVec 16)
  | test (tok : BitVec 16)
  /-- the member's executor has exited (R337) -/
  | exit
  /-- the member's group is flushed, FAULTED, saved or placed, or has retired (R337, R491) -/
  | flush
  | fault
  | saved
  | placed
deriving DecidableEq, Repr

/-- A packet that tells a pod barrier's home what a member, or its group, on another device asks or has met (R323, R337, R491):
context, object, rank, core, the model's number of the group on that device, linear index, executor, request tag, wake tag. -/
structure BarrierPacket where
  ctx : Nat
  key : BarKey
  rank : BitVec 12
  core : BitVec 7
  gid : Nat
  group : W32
  who : Who
  ask : BarAsk
  tag : W32
  wake : BitVec 48
deriving DecidableEq, Repr

/-- The packet types of R440 that the model names. -/
inductive PacketType where
  | slotOnly | write | read | rdata | atom | adata | collData | collCtl | barCtl | mgmt
deriving DecidableEq, Repr

/-- What a COLLCTL packet says (R423, R425, R430, R431, R434, R504). -/
inductive CollMsg where
  | join | ack | notice | fail | probe | probeAnswer | confirm | close
deriving DecidableEq, Repr

/-- A link packet: the header fields of R440 and its payload. AUX, OPND and OPINFO are kept as the fields they hold. -/
structure Packet where
  wake : BitVec 48
  drank : BitVec 12
  srank : BitVec 12
  type : PacketType
  /-- The header flit as received, where TYPE is a reserved value or a reserved field is non-zero (R440, R449). -/
  bad : Option (List Byte)
  ctx : Nat
  vc : BitVec 2
  stat : BitVec 8
  addr : W64
  tag : W32
  /-- OPINFO: bits 5:0 size code, 10:6 ATOP, 13:11 SCOPE, 15:14 ORD. -/
  opinfo : W32
  lseq : W32
  /-- SRET: slot returns of VC 0-3. -/
  sret : List Byte
  /-- AUX: collective id in bits 9:0, GEN in bits 31:16, chunk in bits 47:32, or a barrier handle. -/
  aux : W64
  msg : CollMsg
  opnd : BitVec 128
  payload : List Byte
deriving DecidableEq, Repr

/-- The operations and events of the table, one constructor a row: the operations, the events that the machine itself sets
down, then the events that only come from outside. -/
inductive Instr where
  /-- NOP (R190): Does nothing beyond its STALL and YLD. -/
  | nop (f : Fields)
  /-- BRA (R176): Relative branch by a word displacement. -/
  | bra (f : Fields)
  /-- BRX (R177): Branches to a register target after a landing check against the tag. -/
  | brx (f : Fields)
  /-- CALL (R176): Relative call that writes the link register. -/
  | call (f : Fields)
  /-- CALLX (R177): Calls a register target after a landing check and writes the link. -/
  | callx (f : Fields)
  /-- RET (R177): Returns to a register target without a landing check. -/
  | ret (f : Fields)
  /-- LAND (R179): Marks a legal transfer target; executed in sequence it has no effect. -/
  | land (f : Fields)
  /-- JOIN (R181): ORs the lane bits of the active strands into a rejoin mask. -/
  | join (f : Fields)
  /-- WAITJ (R183): Arrives at a rejoin round and waits in JOINING for its completion or expiry. -/
  | waitj (f : Fields)
  /-- JMASK_GET (R182): Reads a rejoin mask. -/
  | jmaskGet (f : Fields)
  /-- JMASK_SET (R182): Writes a rejoin mask. -/
  | jmaskSet (f : Fields)
  /-- JMASK_OR (R182): ORs bits into a rejoin mask. -/
  | jmaskOr (f : Fields)
  /-- JMASK_ANDN (R182): Clears bits of a rejoin mask. -/
  | jmaskAndn (f : Fields)
  /-- EXIT (R187): Makes each active strand whose predicate is true EXITED. -/
  | exit (f : Fields)
  /-- YIELD (R188): Leaves the gang and passes over it at the next selection. -/
  | yield (f : Fields)
  /-- NAP (R189): Parks the executor for n to n + 64 core cycles. -/
  | nap (f : Fields)
  /-- TRAP (R193): Traps TRAPINSTR with the immediate as TINFO and TPC at the next instruction. -/
  | trap (f : Fields)
  /-- BKPT (R194): Traps BKPT with its own address, or halts the group when interception is on. -/
  | bkpt (f : Fields)
  /-- TRAPRET (R195): Ends a handler, frees the trap slot and resumes at TPC. -/
  | trapret (f : Fields)
  /-- RELEASE (R166): Moves a range of NEW strands to READY at the strand entry. -/
  | release (f : Fields)
  /-- DQPUSH (R167): Pushes a value into the decision queue, stalling while it is full. -/
  | dqpush (f : Fields)
  /-- DQPUSH_NB (R167): Pushes without stalling and reports success in a predicate. -/
  | dqpushNb (f : Fields)
  /-- DQPOP (R167): Pops a decision-queue entry, parking while the queue is empty. -/
  | dqpop (f : Fields)
  /-- DQPOP_NB (R167): Pops without parking and reports success in a predicate. -/
  | dqpopNb (f : Fields)
  /-- PHALT (R168): Ends the pilot, exits NEW strands and completes parked DQPOPs with all ones. -/
  | phalt (f : Fields)
  /-- LAUNCH (R131): Places a launch packet into a queue of the group's context without blocking. -/
  | launch (f : Fields)
  /-- QSIG (R132): Adds to a trigger counter, saturating. -/
  | qsig (f : Fields)
  /-- TRIGARM (R132): Writes a trigger counter and returns its old value. -/
  | trigarm (f : Fields)
  /-- IADD (R200): Integer add, wrapping or saturating. -/
  | iadd (f : Fields)
  /-- ISUB (R200): Integer subtract. -/
  | isub (f : Fields)
  /-- IMUL (R200): Integer multiply, low half. -/
  | imul (f : Fields)
  /-- IMULH (R200): Integer multiply, high half. -/
  | imulh (f : Fields)
  /-- IMAD (R200): Integer multiply-add. -/
  | imad (f : Fields)
  /-- IMADW (R201): Widening 32-bit multiply with a 64-bit addend. -/
  | imadw (f : Fields)
  /-- IDIV (R202): Integer divide that never traps. -/
  | idiv (f : Fields)
  /-- IREM (R202): Integer remainder that never traps. -/
  | irem (f : Fields)
  /-- IMIN (R200): Integer minimum. -/
  | imin (f : Fields)
  /-- IMAX (R200): Integer maximum. -/
  | imax (f : Fields)
  /-- IABS (R200): Integer absolute value. -/
  | iabs (f : Fields)
  /-- INEG (R200): Integer negation. -/
  | ineg (f : Fields)
  /-- ISAD (R200): Sum of an absolute difference and an addend. -/
  | isad (f : Fields)
  /-- IADC (R204): Add with carry through a predicate. -/
  | iadc (f : Fields)
  /-- ISBC (R204): Subtract with borrow through a predicate. -/
  | isbc (f : Fields)
  /-- CLAMP (R203): Clamps a value between a low and a high bound. -/
  | clamp (f : Fields)
  /-- AND (R205): Bitwise AND. -/
  | iand (f : Fields)
  /-- OR (R205): Bitwise OR. -/
  | ior (f : Fields)
  /-- XOR (R205): Bitwise XOR. -/
  | ixor (f : Fields)
  /-- NOT (R205): Bitwise NOT. -/
  | inot (f : Fields)
  /-- LOP3 (R205): Applies any three-input Boolean function given by a function word. -/
  | lop3 (f : Fields)
  /-- SHL (R206): Shift left. -/
  | shl (f : Fields)
  /-- SHR (R206): Logical shift right. -/
  | shr (f : Fields)
  /-- SAR (R206): Arithmetic shift right. -/
  | sar (f : Fields)
  /-- ROL (R206): Rotate left. -/
  | rol (f : Fields)
  /-- FSHR (R206): Funnel shift right of two registers. -/
  | fshr (f : Fields)
  /-- POPC (R207): Counts set bits. -/
  | popc (f : Fields)
  /-- CLZ (R207): Counts leading zeros. -/
  | clz (f : Fields)
  /-- CTZ (R207): Counts trailing zeros. -/
  | ctz (f : Fields)
  /-- BREV (R207): Reverses bit order. -/
  | brev (f : Fields)
  /-- BFX (R208): Extracts a bit field. -/
  | bfx (f : Fields)
  /-- BFI (R208): Inserts a bit field. -/
  | bfi (f : Fields)
  /-- PRMB (R209): Selects four bytes from an eight-byte pool. -/
  | prmb (f : Fields)
  /-- ICMP (R210): Integer compare into a predicate. -/
  | icmp (f : Fields)
  /-- ISET (R210): Integer compare into an all-ones or zero value. -/
  | iset (f : Fields)
  /-- SEL (R211): Selects one of two sources by a predicate. -/
  | sel (f : Fields)
  /-- MOV (R212): Copies register A, or operand B under SRCB. -/
  | mov (f : Fields)
  /-- MOVI (R212): Writes the word-2 immediate. -/
  | movi (f : Fields)
  /-- MOVL (R212): Writes the 64-bit literal. -/
  | movl (f : Fields)
  /-- LEA (R213): Forms an address offset, optionally with a reach check. -/
  | lea (f : Fields)
  /-- CVTI (R214): Converts between integer types. -/
  | cvti (f : Fields)
  /-- FADD (R219): Floating add. -/
  | fadd (f : Fields)
  /-- FSUB (R219): Floating subtract. -/
  | fsub (f : Fields)
  /-- FMUL (R219): Floating multiply. -/
  | fmul (f : Fields)
  /-- FFMA (R219): Fused multiply-add with one rounding. -/
  | ffma (f : Fields)
  /-- FMIN (R220): minimumNumber of two values. -/
  | fmin (f : Fields)
  /-- FMAX (R220): maximumNumber of two values. -/
  | fmax (f : Fields)
  /-- FCMP (R221): Floating compare into a predicate. -/
  | fcmp (f : Fields)
  /-- FSET (R221): Floating compare into an all-ones or zero value. -/
  | fset (f : Fields)
  /-- FCLASS (R222): Writes the class mask of a value. -/
  | fclass (f : Fields)
  /-- FRCP (R223): Correctly rounded reciprocal. -/
  | frcp (f : Fields)
  /-- FRSQ (R224): Approximate reciprocal square root. -/
  | frsq (f : Fields)
  /-- FSQRT (R223): Correctly rounded square root. -/
  | fsqrt (f : Fields)
  /-- FDIV (R223): Correctly rounded division. -/
  | fdiv (f : Fields)
  /-- FEXP2 (R224): Approximate base-2 exponential. -/
  | fexp2 (f : Fields)
  /-- FLOG2 (R224): Approximate base-2 logarithm. -/
  | flog2 (f : Fields)
  /-- FSIN (R224): Approximate sine. -/
  | fsin (f : Fields)
  /-- FCOS (R224): Approximate cosine. -/
  | fcos (f : Fields)
  /-- FTANH (R224): Approximate hyperbolic tangent. -/
  | ftanh (f : Fields)
  /-- FRND (R226): Rounds to an integral value. -/
  | frnd (f : Fields)
  /-- FSCALE (R227): Multiplies by a power of two with one rounding. -/
  | fscale (f : Fields)
  /-- FCVT (R228): Converts between IEEE formats. -/
  | fcvt (f : Fields)
  /-- FCVTI (R229): Converts floating to integer, saturating. -/
  | fcvti (f : Fields)
  /-- ICVTF (R230): Converts integer to floating. -/
  | icvtf (f : Fields)
  /-- FDOT2 (R231): Two-way 16-bit dot product plus an FP32 addend. -/
  | fdot2 (f : Fields)
  /-- NCVT (R233): Quantises an FP32 value to a narrow code under a block scale. -/
  | ncvt (f : Fields)
  /-- NEXP (R234): Expands a narrow code to FP32. -/
  | nexp (f : Fields)
  /-- BSCALE (R235): Computes an element's contribution to a block scale word. -/
  | bscale (f : Fields)
  /-- NPACK (R236): Packs a code into a 64-bit container. -/
  | npack (f : Fields)
  /-- NUNPK (R236): Unpacks a code from a 128-bit pool. -/
  | nunpk (f : Fields)
  /-- LMOV (R248): Reads a value from a data-dependent lane of the row. -/
  | lmov (f : Fields)
  /-- BALLOT (R243): Gathers the row's predicates into a mask. -/
  | ballot (f : Fields)
  /-- VOTE (R243): All, any or uniform vote over the row. -/
  | vote (f : Fields)
  /-- LRANK (R243): Counts voting lanes below the strand's own lane. -/
  | lrank (f : Fields)
  /-- MATCH (R244): Gives each lane the mask of lanes with an equal key. -/
  | laneMatch (f : Fields)
  /-- LRED (R247): Reduces the row as a left fold. -/
  | lred (f : Fields)
  /-- LSCAN (R247): Prefix scan over the row. -/
  | lscan (f : Fields)
  /-- LBCAST (R248): Broadcasts one lane's value to the row. -/
  | lbcast (f : Fields)
  /-- LCOMP (R249): Compacts the voting lanes' values to the low end of the row. -/
  | lcomp (f : Fields)
  /-- LFIRST (R248): Gives every lane the value of the lowest or highest active lane. -/
  | lfirst (f : Fields)
  /-- LD (R289): Loads from virtual memory. -/
  | ld (f : Fields)
  /-- ST (R289): Checks a store and enters it into the store queue. -/
  | st (f : Fields)
  /-- LDS (R289): Loads from the group's scratch. -/
  | lds (f : Fields)
  /-- STS (R289): Stores to the group's scratch through the store queue. -/
  | sts (f : Fields)
  /-- LDU (R290): Loads a block of 8-byte words into consecutive s-registers. -/
  | ldu (f : Fields)
  /-- STU (R290): Stores consecutive s-registers as a block. -/
  | stu (f : Fields)
  /-- LDE (R292): Expand-load of consecutive elements into the active lanes of a row. -/
  | lde (f : Fields)
  /-- STC (R293): Compress-store of the active lanes' data, resumable after faults. -/
  | stc (f : Fields)
  /-- PREF (R294): Prefetches lines; never faults. -/
  | pref (f : Fields)
  /-- CFLUSH (R295): Writes back, and optionally drops, lines at a scope. -/
  | cflush (f : Fields)
  /-- ATOM (R297): Atomic read-modify-write that returns the old value, combined per gang. -/
  | atom (f : Fields)
  /-- RED (R297): Atomic reduction with no result, sent through the store queue. -/
  | red (f : Fields)
  /-- CAS (R297): Compare-and-swap of 4 or 8 bytes. -/
  | cas (f : Fields)
  /-- CAS2 (R297): Compare-and-swap of 16 bytes. -/
  | cas2 (f : Fields)
  /-- WAITA (R299): Parks until a memory word satisfies a condition. -/
  | waita (f : Fields)
  /-- FENCE (R314): Acquire, release, acq_rel or sc fence at a scope. -/
  | fence (f : Fields)
  /-- ARMW (R301): Sets an arrival word's target, clears its count and returns GEN. -/
  | armw (f : Fields)
  /-- WAITW (R301): Parks until an arrival word's generation differs from the one expected. -/
  | waitw (f : Fields)
  /-- BANKSW (R286): Switches the mode of group banks after in-flight traffic drains. -/
  | banksw (f : Fields)
  /-- TLBINV_PAGE (R277): Invalidates the cached entries on one address's walk. -/
  | tlbinvPage (f : Fields)
  /-- TLBINV_RANGE (R277): Invalidates entries that overlap a range of granules. -/
  | tlbinvRange (f : Fields)
  /-- TLBINV_CTX (R277): Invalidates every entry and decoded line of the context. -/
  | tlbinvCtx (f : Fields)
  /-- BARINIT (R332): Creates or joins a barrier object. -/
  | barinit (f : Fields)
  /-- BARA (R333): Arrives at a barrier without waiting. -/
  | bara (f : Fields)
  /-- BARW (R334): Waits for a barrier phase to pass. -/
  | barw (f : Fields)
  /-- BART (R334): Tests whether a barrier phase has passed, without waiting. -/
  | bart (f : Fields)
  /-- BARDROP (R335): Removes a member from a barrier. -/
  | bardrop (f : Fields)
  /-- SEMP (R339): Takes units from a semaphore word, queueing and parking when too few remain. -/
  | semp (f : Fields)
  /-- SEMV (R339): Gives units back to a semaphore word. -/
  | semv (f : Fields)
  /-- CAPOPEN (R355): Tries to acquire a capsule record. -/
  | capopen (f : Fields)
  /-- CAPSTEP (R356): Commits a capsule step, or finds the strand displaced. -/
  | capstep (f : Fields)
  /-- CAPCLOSE (R358): Ends a holding, delivering the result to the mailbox when adopted. -/
  | capclose (f : Fields)
  /-- CAPADOPT (R357): Takes over an adoptable capsule from its last commit. -/
  | capadopt (f : Fields)
  /-- CAPRES (R359): Reads and clears a full mailbox. -/
  | capres (f : Fields)
  /-- MMA (R390): Queues a dense matrix multiply-accumulate into a tile. -/
  | mma (f : Fields)
  /-- MMAS (R390): Queues a structured-sparse matrix multiply-accumulate. -/
  | mmas (f : Fields)
  /-- MSPZ (R398): Queues compression of a dense scratch tile to structured sparsity. -/
  | mspz (f : Fields)
  /-- ACCALLOC (R388): Binds accumulator tiles, parking or yielding when the pool is short. -/
  | accalloc (f : Fields)
  /-- ACCFREE (R389): Queues the freeing of accumulator tiles. -/
  | accfree (f : Fields)
  /-- ACCST (R394): Queues conversion and storing of a tile region, with its overflow word. -/
  | accst (f : Fields)
  /-- ACCLD (R395): Queues loading of a tile region from memory. -/
  | accld (f : Fields)
  /-- CHNCFG_SET (R386): Configures a buffer channel and writes its header. -/
  | chncfgSet (f : Fields)
  /-- CHNCFG_RESET (R386): Unconfigures a channel once no operation names it. -/
  | chncfgReset (f : Fields)
  /-- CHNCFG_GET (R386): Reads a channel's producer and consumer indices. -/
  | chncfgGet (f : Fields)
  /-- TCOPY (R397): Queues a tile copy, a gather, or a collective contribution. -/
  | tcopy (f : Fields)
  /-- COLLOPEN (R425): Opens or joins a use of a collective id. -/
  | collopen (f : Fields)
  /-- COLLCLOSE (R426): Ends the group's membership of the current use. -/
  | collclose (f : Fields)
  /-- SCAN (R409): Queues a reckoner scan of a linear recurrence. -/
  | scan (f : Fields)
  /-- CARRYPUT (R410): Sends a software packet to the convoy successor. -/
  | carryput (f : Fields)
  /-- CARRYGET (R410): Takes a software packet of the current segment, parking when none has arrived. -/
  | carryget (f : Fields)
  /-- CARRYBAR (R411): Queues the close of the member's carry segment. -/
  | carrybar (f : Fields)
  /-- ENGWAIT (R376): Waits for a token's retirement and returns the first failure and flags. -/
  | engwait (f : Fields)
  /-- SYSRD (R116): Reads a system register. -/
  | sysrd (f : Fields)
  /-- SYSWR (R116): Writes a system register under its access code. -/
  | syswr (f : Fields)
  /-- LOGEV (R468): Emits a user log record. -/
  | logev (f : Fields)
  /-- CHRON (R458): Reads the chronometer copy. -/
  | chron (f : Fields)
  /-- CHRON_Q (R458): Reads the chronometer quality word. -/
  | chronQ (f : Fields)
  /-- CNTRD (R480): Reads one counter. -/
  | cntrd (f : Fields)
  /-- CNTCTL_OPEN (R481): Opens the function's counter session. -/
  | cntctlOpen (f : Fields)
  /-- CNTCTL_CLOSE (R481): Stops counting and ends the session. -/
  | cntctlClose (f : Fields)
  /-- CNTCTL_SEL (R481): Sets a counter slot's selector. -/
  | cntctlSel (f : Fields)
  /-- CNTCTL_RUN (R481): Sets the run mask. -/
  | cntctlRun (f : Fields)
  /-- CNTCTL_CLEAR (R481): Zeroes the selected counters. -/
  | cntctlClear (f : Fields)
  /-- CNTCTL_OVFEN (R481): Sets the overflow interrupt enables. -/
  | cntctlOvfen (f : Fields)
  /-- CNTCTL_PLAN (R481): Sets the counter plan of a replay pass. -/
  | cntctlPlan (f : Fields)
  /-- WAITJ_EXPIRY (R184): A rejoin round reaches its deadline and releases its strands with a false predicate. -/
  | waitjExpiry (gid n slot : Nat)
  /-- NAP_WAKE (R189): The count of a parked NAP expires and the executor becomes ready. -/
  | napWake (t : ThreadId)
  /-- WAITA_WAKE (R299): A watched word is written and a parked waiter reissues its test. -/
  | waitaWake (t : ThreadId)
  /-- WAITA_REREAD (R299): A waiter without a monitor entry rereads its word at least every 2 µs. -/
  | waitaReread (t : ThreadId)
  /-- SEMP_WAKE (R339): A write to a semaphore word wakes queued SEMP waiters to reissue. -/
  | sempWake (t : ThreadId)
  /-- ACCFREE_PERFORM (R389): An ACCFREE reaches the head of the matrix queue and frees its tiles. -/
  | accfreePerform (gid : Nat)
  /-- CARRYBAR_COMPLETE (R411): Every member has arrived, so the segment's packets are discarded and SEG advances. -/
  | carrybarComplete (kid : Nat)
  /-- INTERLOCKED_RESULT (R46): An interlocked result arrives and writes its register, releasing waiting instructions. -/
  | interlockedResult (t : ThreadId)
  /-- STARVATION_GUARD (R173): An entry's ready count reaches 4,096 and it becomes starving. -/
  | starvationGuard (core part : Nat) (t : ThreadId)
  /-- TEARDOWN_COMPLETE (R107): Nothing of the context remains in flight, so TLB entries are dropped and it enters FREE. -/
  | teardownComplete (ctx : Nat)
  /-- CONTEXT_FAULT (R103): A fatal event moves the context to FAULTED and stops its groups. -/
  | contextFault (ctx : Nat) (cause : BitVec 8)
  /-- SLICE_END (R110): A function's slice ends and switch-out of its contexts begins. -/
  | sliceEnd
  /-- SWITCH_OUT_COMPLETE (R110): Every group is saved, so the session is saved and the context enters SWITCHED-OUT. -/
  | switchOutComplete (ctx : Nat)
  /-- SWITCH_IN (R110): A function's slice begins: sessions are restored and placement resumes. -/
  | switchIn (func : Nat)
  /-- QUEUE_DRAIN_END (R120): Every taken kernel of a DRAINING queue has ended and it becomes DISABLED. -/
  | queueDrainEnd (ctx q : Nat)
  /-- QUEUE_RESET_END (R120): Every taken kernel of a resetting queue has ended; indices go to zero and it becomes DISABLED. -/
  | queueResetEnd (ctx q : Nat)
  /-- PACKET_INTAKE (R123): The launcher takes a packet into the intake window and advances RDIDX. -/
  | packetIntake (ctx q : Nat)
  /-- DEPENDENCE_WRITE (R124): A monitored write to a dependence word is reported and the dependence is re-evaluated. -/
  | dependenceWrite (kid dep : Nat)
  /-- HOST_DEPENDENCE_REREAD (R124): A dependence word in host memory is reread at least every 2 µs. -/
  | hostDependenceReread (kid dep : Nat)
  /-- PLACEMENT_OPPORTUNITY (R127): A die dispatcher has room and the launcher selects the next ARMED kernel. -/
  | placementOpportunity
  /-- DEADLINE_MISS (R127): An EDF kernel's deadline passes; it is logged and may be dropped under DROPLATE. -/
  | deadlineMiss (kid : Nat)
  /-- RECORD_DEAL (R138): The launcher deals the next group launch record to a die dispatcher. -/
  | recordDeal (die : Nat)
  /-- STEAL_REQUEST (R139): An idle core steals unstarted records from the longest pending list. -/
  | stealRequest (core : Nat)
  /-- RECORD_START (R145): A core starts a new or saved record and reserves its resources in PLACING. -/
  | recordStart (core gid : Nat)
  /-- PLACEMENT_READY (R148): Resources and routers are ready, so the group enters RUNNING, or HALTED if restored with HALTPEND. -/
  | placementReady (gid : Nat)
  /-- COHORT_RESERVATION (R140): Room for a whole GRIDSYNC or CONVOY grid is reserved in one step. -/
  | cohortReservation (kid : Nat)
  /-- COHORT_WAIT (R140): The cohort hold has lasted 1 ms and is logged. -/
  | cohortWait (kid : Nat)
  /-- GROUP_RETIRE (R149): The pilot has halted, every strand has exited and every engine operation is done, so the group retires. -/
  | groupRetire (gid : Nat)
  /-- KERNEL_COMPLETING (R141): Every group and engine operation of the kernel has ended, so it enters COMPLETING. -/
  | kernelCompleting (kid : Nat)
  /-- DRAIN_OVERRUN (R157): The drain latency elapses before retirement and the group is saved. -/
  | drainOverrun (gid : Nat)
  /-- SAVE_COMPLETE (R158): The save record has been written and the group enters DESCHEDULED. -/
  | saveComplete (gid : Nat) (written : Bool)
  /-- FLUSH_COMPLETE (R159): A flushed group's state is discarded and it re-enters PENDING. -/
  | flushComplete (gid : Nat)
  /-- PAGE_WALK (R254): A queued walk request is served and its walk completes or faults. -/
  | pageWalk (die : Nat)
  /-- FAULT_ENTRY_DELAYED (R264): A held fault's ring entry is written once the ring is enabled and has room. -/
  | faultEntryDelayed (ctx : Nat)
  /-- FLTRESP_RETRY (R264): A RETRY write to FLTRESP retries every access of the tagged fault. -/
  | fltrespRetry (ctx : Nat) (tag : W32)
  /-- CAPTURE_COPY_DONE (R275): The snapshot copy ends; CAPT is set and the held write proceeds. -/
  | captureCopyDone (ctx : Nat) (granule : BitVec 72)
  /-- STORE_QUEUE_DEPART (R287): The oldest store-queue entry leaves toward its point of performance. -/
  | storeQueueDepart (gid spreadIx : Nat)
  /-- BARRIER_PACKET (R323): A barrier registration, arrival or drop packet reaches the object's network or home device. -/
  | barrierPacket (p : BarrierPacket)
  /-- BARRIER_LATE (R344): The earliest expected arrival of an unarrived party passes its budget. -/
  | barrierLate (ctx : Nat) (key : BarKey)
  /-- BEARING_UPDATE (R341): A change reaches the bearing-record image within 2 µs. -/
  | bearingUpdate (ctx : Nat)
  /-- OPERATION_FIRE (R385): An engine operation starts once its channels have slots and its turn has come. -/
  | operationFire (gid : Nat) (eng : Engine)
  /-- ENGINE_RETIRE (R376): An engine operation finishes or fails, applies its arrival word and retires. -/
  | engineRetire (gid : Nat) (eng : Engine)
  /-- CARRY_DELIVERY (R412): A carry or software packet arrives in a convoy member's buffer. -/
  | carryDelivery (kid pos : Nat) (soft : Bool)
  /-- CONVOY_SEALED (R414): Every member is placed and the carry links are stitched. -/
  | convoySealed (kid : Nat)
  /-- JOIN_RECEIVE (R425): A home receives a JOIN and fills the member table, or fails on mismatch. -/
  | joinReceive (port : Nat) (p : Packet)
  /-- COLLDATA_RECEIVE (R423): A contribution packet arrives and is handled, held or discarded by GEN. -/
  | colldataReceive (port : Nat) (p : Packet)
  /-- REDUCTION_STEP (R429): A stack reducer applies one queued contribution step to the buffer. -/
  | reductionStep (stack : Nat)
  /-- ADD_ACK_RECEIVE (R430): An add acknowledgement raises ACKED and may set ADDED. -/
  | addAckReceive (port : Nat) (p : Packet)
  /-- COMPLETION_NOTICE_RECEIVE (R431): A completion notice, with data under DLV, makes the local record terminal. -/
  | completionNoticeReceive (port : Nat) (p : Packet)
  /-- FAIL_NOTICE_RECEIVE (R434): A FAIL notice moves the view to FAILED. -/
  | failNoticeReceive (port : Nat) (p : Packet)
  /-- LIVENESS_PROBE (R434): A device probes each member device at least every BUDGET/4. -/
  | livenessProbe (ctx id : Nat)
  /-- PROBE_TIMEOUT (R434): A member device has answered no probe for BUDGET/2 and is declared dead. -/
  | probeTimeout (ctx id : Nat) (rank : BitVec 12)
  /-- COLL_LATE (R437): The earliest expected contribution of a chunk passes its budget. -/
  | collLate (ctx id : Nat)
  /-- DELIVERY_ACK_RECEIVE (R504): A delivery acknowledgement confirms a collective packet. -/
  | deliveryAckReceive (port : Nat) (p : Packet)
  /-- CLOSE_NOTICE_SEND (R504): Every packet sent in the use is confirmed, so CLOSE notices go out. -/
  | closeNoticeSend (ctx id : Nat)
  /-- CLOSE_NOTICE_RECEIVE (R504): A CLOSE notice arrives and may end DRAINING. -/
  | closeNoticeReceive (port : Nat) (p : Packet)
  /-- SLOTONLY_RECEIVE (R441): Slot returns arrive and restore send credit. -/
  | slotonlyReceive (port : Nat) (p : Packet)
  /-- REMOTE_REQUEST_RECEIVE (R448): A WRITE, READ or ATOM arrives and is performed or refused. -/
  | remoteRequestReceive (port : Nat) (p : Packet)
  /-- REMOTE_RESPONSE_RECEIVE (R448): An RDATA or ADATA response completes a remote access. -/
  | remoteResponseReceive (port : Nat) (p : Packet)
  /-- REMOTE_TIMEOUT (R448): A remote read or atomic with no response after 4 ms traps POISON. -/
  | remoteTimeout (tag : W32)
  /-- TRAINING_ATTEMPT (R444): A DOWN port tries training every 100 ms. -/
  | trainingAttempt (port : Nat)
  /-- LINK_DRAIN_END (R444): A DRAINING port has every packet acknowledged and goes DOWN. -/
  | linkDrainEnd (port : Nat)
  /-- REPLAY_DELIVER (R450): A REPLAY port delivers the next recorded arrival once its send count is reached. -/
  | replayDeliver (port : Nat)
  /-- HOLDOVER_ENTRY (R457): No source for 2 s after LOCKED puts the discipline in HOLDOVER. -/
  | holdoverEntry
  /-- DROP_EMIT (R466): Once its buffer has room, a unit emits DROP with its discard counts. -/
  | dropEmit (unit : Nat)
  /-- LOG_HEAD_WRITE (R464): The head writes an arriving record into its partition and raises WRIDX. -/
  | logHeadWrite (unit : Nat)
  /-- RESTITCH (R19): A re-stitch request takes effect once its region is empty. -/
  | restitch (region : List Nat) (shape : BitVec 8)
  /-- REPLAY_PASS_END (R484): A replay pass ends; its write set is restored, or CAPT is cleared after the last pass. -/
  | replayPassEnd (kid : Nat)
  /-- BARRIER_COMPLETION_RECEIVE (R323): The completion of a pod barrier phase returns from the home device in a link packet and wakes the member device's waiters. -/
  | barrierCompletionReceive (port : Nat) (p : Packet)
  /-- PROBE_RECEIVE (R434): A collective liveness probe arrives and is answered, or a probe answer arrives and renews the member device's liveness. -/
  | probeReceive (port : Nat) (p : Packet)
  /-- BOUND_MISSED (R265): The bound of a pre-emption request passes while its save waits on an engine operation stalled on a fault, and BOUND_MISSED is logged. -/
  | boundMissed (gid : Nat)
  /-- CTX_CREATE (R102): CREATE command: checks the context area and binds a context in CREATED. -/
  | ctxCreate (by_ : Commander) (slot : Nat) (num : Option Nat) (area : W64) (debug : Bool)
  /-- CTX_ACTIVATE (R101): ACTIVATE command: moves a CREATED context to ACTIVE. -/
  | ctxActivate (by_ : Commander) (slot : Nat) (num : Option Nat)
  /-- CTX_TEARDOWN (R107): TEARDOWN command: stops placement, aborts groups and fails collectives. -/
  | ctxTeardown (by_ : Commander) (slot : Nat) (num : Option Nat)
  /-- WRIDX_WRITE (R119): A producer advances WRIDX; an overrun sends the queue to ERROR. -/
  | wridxWrite (ctx q : Nat) (v : W32)
  /-- QUEUE_ENABLE (R120): ENABLE command: checks QCFG and TICKETS and enables the queue. -/
  | queueEnable (ctx q : Nat)
  /-- QUEUE_SUSPEND (R120): SUSPEND command: stops intake and selection. -/
  | queueSuspend (ctx q : Nat)
  /-- QUEUE_RESUME (R120): RESUME command: returns the queue to ENABLED. -/
  | queueResume (ctx q : Nat)
  /-- QUEUE_DRAIN (R120): DRAIN command: intakes up to the current WRIDX, then drains. -/
  | queueDrain (ctx q : Nat)
  /-- QUEUE_DISABLE (R120): DISABLE command: aborts undispatched kernels and disables the queue. -/
  | queueDisable (ctx q : Nat)
  /-- QUEUE_RESET (R120): RESET command: leaves ERROR once every taken kernel has ended. -/
  | queueReset (ctx q : Nat)
  /-- TRIGGER_WINDOW_ADD (R451): A host write adds to a trigger counter. -/
  | triggerWindowAdd (func slot n : Nat) (v : W64)
  /-- TRIGGER_WINDOW_SET (R451): A host write sets a trigger counter. -/
  | triggerWindowSet (func slot n : Nat) (v : W64)
  /-- PREEMPT_REQUEST (R155): A pre-emption request picks drain, save or flush for a group. -/
  | preemptRequest (gid bound : Nat) (fromLauncher : Bool)
  /-- FLTRESP_FAIL (R264): A FAIL write to FLTRESP makes the tagged fault's accesses take PAGEFATAL. -/
  | fltrespFail (ctx : Nat) (tag : W32)
  /-- STOW_DECODE (R273): The home slice decodes a stowed tile, all or nothing. -/
  | stowDecode (ctx : Nat) (va : BitVec 72)
  /-- CACHE_WRITE_BACK (R305): Dirty core-store bytes are evicted to the home slice. -/
  | cacheWriteBack (core : Nat) (line : Nat)
  /-- ARRIVAL_WORD_STEP (R300): A copy arrival applies a count step to an arrival word. -/
  | arrivalWordStep (gid off bytes : Nat)
  /-- FLIT_ERROR (R439): A flit received in error is resent from the retry buffer. -/
  | flitError (port : Nat) (lane : Nat)
  /-- LANE_FENCE (R445): A lane with 16 retries in 1 ms is fenced and the link retrains. -/
  | laneFence (port lane : Nat)
  /-- LOSS_OF_SIGNAL (R444): Signal lost for 1 ms takes the port DOWN and reroutes its packets. -/
  | lossOfSignal (port : Nat)
  /-- TRAINING_COMPLETE (R445): Training ends UP, DEGRADED or FENCED. -/
  | trainingComplete (port lanes : Nat) (peer : BitVec 12)
  /-- HOST_CTXREG_WRITE (R452): A host write to a context register page acts as SYSWR with privilege. -/
  | hostCtxregWrite (func slot : Nat) (n : BitVec 8) (v : W64)
  /-- INTCAUSE_CLEAR (R453): Writing 1s to INTCAUSE clears causes and re-arms interrupts. -/
  | intcauseClear (func : Nat) (v : W64)
  /-- VFDIES_WRITE (R454): Sets a VF's exclusive dies, or is refused with BADSTATE. -/
  | vfdiesWrite (vf : Nat) (v : W64)
  /-- POWCAP_WRITE (R454): Sets the power cap, clamped to 1,200–2,800 W. -/
  | powcapWrite (v : W64)
  /-- RESETREQ_WRITE (R454): Writing 0x5752 requests a WARM reset. -/
  | resetreqWrite (v : W64)
  /-- REGISTER_WRITE (R4): A write to a register that has no row of its own, under its access code. -/
  | registerWrite (func : Nat) (page : HostPage) (offset : Nat) (v : W64)
  /-- PTP_MESSAGE (R455): An IEEE 1588 message disciplines the chronometer. -/
  | ptpMessage (time : W64) (err : W32)
  /-- PPS_PULSE (R455): A 1PPS edge disciplines the chronometer. -/
  | ppsPulse (time : W64) (err : W32)
  /-- CHRONRD (R471): Management command: returns the chronometer reading and quality word. -/
  | chronrd
  /-- LOGHDR (R471): Management command: returns a partition-table entry. -/
  | loghdr (part : Nat)
  /-- LOGRD (R471): Management command: returns log records with WRIDX before and after. -/
  | logrd (part index count : Nat)
  /-- FIX (R469): Management command: takes a fix of the wait-for graph. -/
  | takeFix (age : Nat) (autofix : Bool)
  /-- FIXRD (R471): Management command: returns bytes of the fix region. -/
  | fixrd (slot offset length : Nat)
  /-- PHYSRD (R471): Management command: reads main memory through the bypass ring. -/
  | physrd (pa length : Nat)
  /-- FWLOAD (R498): Management command: writes firmware bytes and checks a final image. -/
  | fwload (bank offset : Nat) (bytes : List Byte) (final : Bool)
  /-- COLDRST (R498): Management command: raises a level 1 reset after the reply. -/
  | coldrst
  /-- WARMRST (R498): Management command: raises a level 2 reset after the reply. -/
  | warmrst
  /-- DIERST (R498): Management command: raises a die reset, or is refused. -/
  | dierst (die : Nat)
  /-- PORT_DRAIN (R498): PORTCMD DRAIN: moves a port to DRAINING. -/
  | portDrain (port : Nat)
  /-- PORT_FENCE (R498): PORTCMD FENCE: fences a port. -/
  | portFence (port : Nat)
  /-- PORT_UNFENCE (R498): PORTCMD UNFENCE: moves a port from FENCED to DOWN. -/
  | portUnfence (port : Nat)
  /-- PORT_REPLAY (R498): PORTCMD REPLAY: puts a port in REPLAY. -/
  | portReplay (port : Nat)
  /-- PORT_REPLAYCLR (R498): PORTCMD REPLAYCLR: returns a port from REPLAY to DOWN. -/
  | portReplayclr (port : Nat)
  /-- PORT_TRAINOFF (R498): PORTCMD TRAINOFF: stops the periodic training attempts. -/
  | portTrainoff (port : Nat)
  /-- PORT_TRAINON (R498): PORTCMD TRAINON: restarts the training attempts. -/
  | portTrainon (port : Nat)
  /-- ROUTEWR (R498): Management command: writes route-table entries. -/
  | routewr (first : Nat) (dirs : List Byte)
  /-- POWCAP (R498): Management command: sets the power cap. -/
  | mgmtPowcap (watts : Nat)
  /-- CHRONCFG (R498): Management command: selects the discipline sources. -/
  | chroncfg (ptp pps : Bool) (domain : Byte)
  /-- ATTEST (R496): Returns a signed attestation report over the nonce. -/
  | attest (nonce : List Byte) (func : Option Nat)
  /-- SESSION_CHALLENGE (R497): Opens a management session by a signed challenge. -/
  | sessionChallenge (signature : List Byte)
  /-- POWER_RESET (R493): Loss and return of the auxiliary rail resets the whole package. -/
  | powerReset
  /-- COLD_RESET (R493): A level 1 reset of all but the auxiliary domain. -/
  | coldReset (thermal : Bool)
  /-- WARM_RESET (R493): A level 2 reset that keeps HBM4E contents and link training. -/
  | warmReset
  /-- DIE_RESET (R493): A level 3 reset of one compute die. -/
  | dieReset (die : Nat)
  /-- FUNCTION_RESET (R493): A PCIe function-level reset tears down a VF's contexts. -/
  | functionReset (vf : Nat)
  /-- PACING_CHANGE (R499): The management processor changes engine pacing to hold POWCAP. -/
  | pacingChange (level : BitVec 4)
  /-- THERMAL_LIMIT (R500): A die at 105 °C with deepest pacing has its groups saved and takes no new groups. -/
  | thermalLimit (die : Nat)
  /-- THERMAL_RECOVER (R500): A die falls below 95 °C and placement resumes. -/
  | thermalRecover (die : Nat)
  /-- THERMAL_SHUTDOWN (R500): At 115 °C compute-die power is removed as a level 1 reset. -/
  | thermalShutdown (die : Nat)
  /-- PART_FENCE (R501): A failing part is fenced and SERVICE_REQUESTED is set. -/
  | partFence (part : Part)
  /-- DEBUG_HALT (R475): DBGCMD HALT: halt request without FORCE. -/
  | debugHalt (ctx slot : Nat)
  /-- DEBUG_HALTF (R475): DBGCMD HALTF: halt request with FORCE. -/
  | debugHaltf (ctx slot : Nat)
  /-- DEBUG_RESUME (R475): DBGCMD RESUME: continues a halted group from its image. -/
  | debugResume (ctx slot : Nat)
  /-- DEBUG_BKPTON (R475): DBGCMD BKPTON: turns on breakpoint interception. -/
  | debugBkpton (ctx slot : Nat)
  /-- DEBUG_BKPTOFF (R475): DBGCMD BKPTOFF: turns off breakpoint interception. -/
  | debugBkptoff (ctx slot : Nat)
  /-- HOST_MEMORY_WRITE (R303): The host writes device main memory through the host interface, for example launch packets in a ring or page-table entries. -/
  | hostMemoryWrite (pa : Nat) (bytes : List Byte)
  /-- COUNTER_WRAP (R477): CYCLES or a top-down counter, which advances every cycle of a loaded session, wraps past 2^48 − 1, setting CNTOVF and possibly INTCAUSE bit 2. -/
  | counterWrap (func item : Nat)
deriving DecidableEq, Repr

end Sys2Proof
end

