-- ==== Sys2Proof/Machine/State.lean ====
section
/-! DEFINITION. The state of the machine as plain data, its reasons to stop, and the state after reset. One KY-4800
device is held whole: what another device or the host does reaches it as an event. Every field's docstring names the
rule that gives it and its reset value. -/

namespace Sys2Proof.Machine

open Sys2Proof

/-- Why a step stops. -/
inductive Fault where
  /-- A program instruction was executed with no issuing executor in State.cur, or one whose group does not exist.
  Raised by the meanings of program instructions; step never does so. Safe: the machine stops. -/
  | noExecutor
deriving DecidableEq, Repr

/-- Why an instruction has no meaning. -/
inductive Refusal where
  /-- The instruction is not modelled; raised by an arm of exec only. Safe: the machine stops. -/
  | notModelled (mnemonic : String)
deriving DecidableEq, Repr

/-- Sparse storage: keys strictly rising, and no entry equal to zero, which is what an unlisted key reads as. -/
abbrev Sparse (w : Nat) := List (Nat × BitVec w)

/-- A register an instruction reads or writes: v-register, s-register, predicate (`p` or `b`), capsule register. -/
inductive RegId where
  | v (n : Nat)
  | s (n : Nat)
  | p (n : Nat)
  | x (n : Nat)
deriving DecidableEq, Repr

/-- What watches the word of a parked WAITA (R299): nothing, so that it is reread; a monitor entry of its home slice; or the core
store. -/
inductive Watch where
  | reread
  | slice
  | core
deriving DecidableEq, Repr

/-- What a parked executor waits for (R169). -/
inductive ParkOn where
  /-- NAP: the device cycle at which it ends, and the next instruction's address (R189). -/
  | nap (wake : Nat) (next : W64)
  /-- DQPOP: the order in which it parked (R167). -/
  | dqpop (order : Nat)
  /-- WAITA: the watched word's reach and offset, its physical address, and what watches it (R299). -/
  | waita (va : BitVec 72) (pa : Nat) (watch : Watch)
  /-- WAITW: the scratch offset of the arrival word (R301). -/
  | waitw (off : Nat)
  /-- BARW: the barrier (R334). -/
  | barw (key : BarKey)
  /-- SEMP: the semaphore word's place (R339). -/
  | semp (pa : Nat)
  /-- ENGWAIT: engine and sequence number (R376). -/
  | engwait (eng : Engine) (seq : W32)
  /-- ACCALLOC: the mask, the destination s-register and the next instruction's address (R388). -/
  | accalloc (mask : W32) (dst : Nat) (next : W64)
  /-- CARRYGET (R410). -/
  | carryget
deriving DecidableEq, Repr

/-- Why an executor is STALLED (R169). -/
inductive StallOn where
  /-- interlocked results are pending (R46): the leaf of R479 in which the wait counts, and the registers they write -/
  | result (leaf : Nat) (on : List RegId)
  /-- a lane-modifier or cross-lane row is incomplete (R42, R239) -/
  | row
  /-- a trap is pending and no trap slot is free (R153) -/
  | trapSlot
  /-- a replayable fault (R262), with the fault tag -/
  | fault (tag : W32)
  /-- trap entry stalled on a replayable fault of the vector fetch (R191) -/
  | vector (tag : W32)
  /-- the walk queue is full (R268) -/
  | walkQueue
  /-- the store queue is full, or holds stores that must leave first (R287) -/
  | storeQueue
  /-- a FENCE waits for its executor's queued stores; the address after it, where a save that lets it end leaves its executor
  (R314) -/
  | fence (next : W64)
  /-- a TLBINV waits for the accesses that used what it covers: the tags of the requests that are out, and the address after it
  (R277) -/
  | tlbinv (tags : List W32) (next : W64)
  /-- the decision queue is full (R167) -/
  | decisionQueue
  /-- an engine queue is full (R372) -/
  | engineQueue
  /-- a CARRYPUT faces a full buffer (R410), or an earlier CARRYBAR (R410) -/
  | carry
  /-- a capture copy is in progress (R275) -/
  | capture
  /-- CHNCFG.reset or ACCALLOC waits for queued operations (R386, R388) -/
  | engineDrain
  /-- a BANKSW waits for what has begun on its banks, by number; nothing more begins on them (R286) -/
  | bankSwitch (banks : List Nat)
  /-- a remote access waits for its response (R448), with the request tag -/
  | remote (tag : W32)
deriving DecidableEq, Repr

/-- The state of a strand or pilot (R169). A halted executor is marked by Thread.stopped. -/
inductive Run where
  | new
  | ready
  | stalled (w : StallOn)
  /-- JOINING: mask, slot, result predicate and the address after the WAITJ (R183) -/
  | joining (n slot pd : Nat) (next : W64)
  | parked (w : ParkOn)
  /-- saved while it was parked, or JOINING: its instruction is reissued after the restore (R158, R163, R186) -/
  | reissue (joining : Bool)
  | trapped
  | exited
deriving DecidableEq, Repr

/-- A result that is interlocked and has not been written yet (R46, R237): what it writes, the tag of its cause, and the leaf of
R479 in which a wait for it counts (0 while its instruction executes). -/
structure Pend where
  dst : List (RegId × W64)
  flags : BitVec 6
  ovf : Nat
  cause : BitVec 48
  leaf : Nat
deriving DecidableEq, Repr

/-- A fixed-latency result that is not yet written, or whose latency has not elapsed in declared distance (R45-R49): the register,
the value it held before, the distance that is left, and the cycle at which it is written. -/
structure Fixed where
  reg : RegId
  old : W64
  left : Nat
  ripe : Nat
deriving DecidableEq, Repr

/-- A protected store of a capsule step (R347, R353): physical address, size code, value. -/
structure Intent where
  pa : Nat
  size : BitVec 2
  val : W64
deriving DecidableEq, Repr

/-- How a strand holds its capsule (R351, R361, R362). -/
inductive CapMode where
  | inside
  | suspended
  | skip
deriving DecidableEq, Repr

/-- A held capsule (R351): record address, physical and as the program gave it (R352), x-registers, local step, the step's start, its
counts and intents. -/
structure Capsule where
  record : Nat
  va : BitVec 72
  mode : CapMode
  x : List W64
  step : Nat
  start : W64
  count : Nat
  stores : Nat
  intents : List Intent
  /-- what the present step has added to the path signature of a REPLAY kernel (R483, R486) -/
  path : W64
deriving DecidableEq, Repr

/-- A replayable fault that got the response FAIL: its granule, whether its accesses write, and its level with the page size code, as
in OutFault (R264). -/
structure Refused where
  granule : Nat
  write : Bool
  level : Nat
deriving DecidableEq, Repr

/-- A trap on its way to its handler (R191). -/
structure TrapInfo where
  cause : W64
  addr : BitVec 72
  info : W64
  resume : W64
deriving DecidableEq, Repr

/-- A strand or a pilot (R143, R147, R150, R163, R169). -/
structure Thread where
  /-- state (R169). reset: NEW for a strand, READY for the pilot, at placement (R147) -/
  run : Run
  /-- stopped by a halt at an instruction boundary (R154). reset: false -/
  stopped : Bool
  /-- PC, 64 bits (R24, R163). reset: the entry (R147, R166) -/
  pc : W64
  /-- INH: inside its trap handler; the code reach is then TVREACH (R175, R163). reset: 0 -/
  inh : Bool
  /-- p0-p6 or b0-b6; p7 and b7 read true and discard writes (R28, R147). reset: 0 -/
  preds : BitVec 7
  /-- FLAGS bits 5:0 (R78). reset: 0 -/
  flags : BitVec 6
  /-- OVFCNT, 32 bits (R79). reset: 0 -/
  ovfcnt : W32
  /-- SRSTATE, 32 bits (R83). reset: R83 -/
  srstate : W32
  /-- STCRES, 32 bits (R113, R293). reset: 0 -/
  stcres : W32
  /-- TCAUSE, 64 bits (R113). reset: 0 -/
  tcause : W64
  /-- TPC, 64 bits (R113). reset: 0 -/
  tpc : W64
  /-- TADDRLO, 64 bits (R113). reset: 0 -/
  taddrlo : W64
  /-- TADDRHI, bits 7:0 (R113). reset: 0 -/
  taddrhi : BitVec 8
  /-- TINFO, 64 bits (R113). reset: 0 -/
  tinfo : W64
  /-- trap slot held, 0-31 (R153); none for the pilot. reset: none -/
  slot : Option Nat
  /-- LASTWAKE, 48 bits (R460, R467). reset: 0 -/
  lastwake : BitVec 48
  /-- v0-v254, 32 bits each (R14, R28, R147); empty for the pilot. reset: 0 -/
  regs : Sparse 32
  /-- interlocked results not yet written (R46). reset: none -/
  pend : List Pend
  /-- fixed-latency results that are not written yet, or whose distance is still open (R45-R49). reset: none -/
  fixed : List Fixed
  /-- the cycle from which it may issue again: 1 + STALL after its last issue (R45). reset: 0 -/
  issueAt : Nat
  /-- the leaf of R479 in which a wait of the instruction that it issued last counts. reset: 0 -/
  leaf : Nat
  /-- a halt reached it in an instruction already issued: it stops when that instruction has completed (R154). reset: false -/
  stopNext : Bool
  /-- the capsule held (R351). reset: none -/
  caps : Option Capsule
  /-- a trap waiting for a slot or for its vector (R153, R191). reset: none -/
  ptrap : Option TrapInfo
  /-- the fault that the response FAIL reached: its access takes PAGEFATAL 12 at the reissue (R264). reset: none -/
  failed : Option Refused
  /-- the chronometer stamp at which its present wait began (R470). reset: 0 -/
  since : W64
  /-- response bytes of a remote access that has come back: status and data (R448). reset: none -/
  remote : Option (BitVec 8 × List Byte)
  /-- a STATE value 1, 4 or 6 that a debugger wrote into its image, which resume applies (R473, R475). reset: none -/
  stateWr : Option (BitVec 4)
deriving DecidableEq, Repr

/-- The mode of a core-store bank (R283). -/
inductive BankMode where
  | cache
  | scratch
  | fifo
deriving DecidableEq, Repr

/-- One store of a store-queue entry (R287): a store of bytes, or a RED with its operation, format select and lane
operands in lane order. -/
structure StoreOp where
  who : Who
  scratch : Bool
  addr : Nat
  bytes : List Byte
  red : Option (BitVec 5 × Bool × List W64)
  scope : Nat
  ord : Nat
  cpol : Nat
deriving DecidableEq, Repr

/-- An entry of a group's store queue on one of its cores (R287). -/
structure StoreEntry where
  spreadIx : Nat
  ops : List StoreOp
deriving DecidableEq, Repr

/-- The state of a group (R148), less TRAPPED, PARKED and RUNNING, which follow from its executors: all three are
`running` here. -/
inductive GState where
  | pending | placing | running | halted | draining | saving | flushing | descheduled | retired | faulted
deriving DecidableEq, Repr

/-- An open rejoin round (R183): mask, slot, deadline in core cycles, arrival set of lanes. -/
structure Round where
  n : Nat
  slot : Nat
  deadline : Option Nat
  lanes : List Nat
deriving DecidableEq, Repr

/-- An allocated accumulator tile (R164, R388): logical and physical number, and whether it is a pool tile. -/
structure AccTile where
  logical : Nat
  phys : Nat
  pool : Bool
deriving DecidableEq, Repr

/-- A first failure of an engine (R376). -/
structure FirstFail where
  status : BitVec 8
  detail : BitVec 8
  seq : W32
deriving DecidableEq, Repr

/-- What a group keeps for one engine (R373, R376): sequence count, last retired, first failure, flag OR. -/
structure EngState where
  seq : W32
  retired : W32
  first : Option FirstFail
  flags : BitVec 6
deriving DecidableEq, Repr

/-- The context values a group takes at placement (R114, R152, R350, R467). -/
structure PlaceVals where
  chksb : Bool
  tvec : W64
  tvreach : BitVec 8
  ptvec : W64
  srseed : W32
  caplease : BitVec 40
  logfilt : BitVec 2
deriving DecidableEq, Repr

/-- The shape of a group (R134, R143): W, D, R', S, scratch and FIFO banks, accumulator quota. -/
structure GroupShape where
  w : Nat
  d : Nat
  regs : Nat
  spread : Nat
  ns : Nat
  nf : Nat
  acc : Nat
deriving DecidableEq, Repr

/-- A group (R143-R168, R283, R388). -/
structure Group where
  /-- the model's number of the group. reset: no group exists -/
  gid : Nat
  /-- its kernel (R138) -/
  kid : Nat
  /-- its context (R99) -/
  ctx : Nat
  /-- linear index, 32 bits (R138) -/
  lin : W32
  /-- privilege of its code (R112) -/
  priv : Bool
  /-- CODEREACH, 8 bits (R133) -/
  codeReach : BitVec 8
  /-- CODEBASE + SENTRY, 64 bits (R133, R166) -/
  sentry : W64
  shape : GroupShape
  gst : GState
  /-- HALTPEND (R154). reset: false -/
  haltPend : Bool
  /-- halted at a breakpoint (R474). reset: false -/
  atBkpt : Bool
  /-- the method of a pre-emption in progress began at this stamp, with this bound (R156, R157, R265) -/
  preempt : Option (Nat × Nat)
  /-- the pre-emption was asked by the launcher for this kernel (R155, R160) -/
  victimOf : Option Nat
  /-- the group was saved and awaits restore (R148) -/
  saved : Bool
  /-- stamp since which it has been RUNNING, PARKED or TRAPPED, and the ns counted before (R156: T) -/
  ranSince : Nat
  ranNs : Nat
  /-- die it was dealt to, core whose pending list holds it (R138, R139) -/
  die : Option Nat
  pcore : Option Nat
  /-- its cores in SPREADIX order (R143) -/
  cores : List Nat
  /-- core SPREADIX 0 of its last place, under which its records go out once it holds no core (R491, R505). reset: 0 -/
  core0 : Nat
  /-- partition, lane base, register base (R143) -/
  part : Nat
  lane0 : Nat
  regbase : Nat
  /-- physical address of its save record (R108, R346) -/
  saveRec : Nat
  /-- physical address of its accumulator extension block (R388). reset: none -/
  ext : Option Nat
  vals : PlaceVals
  /-- s0-s511, 64 bits each (R14, R147). reset: 0 but s0-s2 -/
  sregs : Sparse 64
  /-- decision queue, 64 entries of 64 bits (R165). reset: empty -/
  dq : List W64
  /-- slot of the queue's head, and words of slots outside the queue (R162, R165). reset: 0 -/
  dqHead : BitVec 6
  dqSpare : Sparse 64
  /-- rejoin masks j0-j15, 64 bits (R180). reset: 0 -/
  j : Sparse 64
  /-- reach registers h0-h7, 8 bits (R147, R278). reset: RDEF0-RDEF7 -/
  h : Sparse 8
  pilot : Thread
  /-- strands in index order (R143) -/
  strands : List Thread
  /-- open rejoin rounds (R183). reset: none -/
  rounds : List Round
  /-- scratch and FIFO bytes of its banks: key spreadIx * 2^32 + group offset (R284). reset: 0 -/
  scratch : Sparse 8
  /-- bank modes of its group banks (R283, R164) -/
  modes : List BankMode
  /-- store queues (R287). reset: empty -/
  stq : List StoreEntry
  /-- accumulator map (R164). reset: empty -/
  accMap : List AccTile
  /-- accumulator bytes: key logical * 65536 + byte (R387). reset: 0 -/
  acc : Sparse 8
  /-- tiles that an issued ACCFREE frees, in program order unallocated (R374, R389) -/
  accGone : List Nat
  mat : EngState
  cpy : EngState
  rek : EngState
  /-- configured channels and their configuration (R386). reset: none -/
  chans : List (Nat × W64)
  /-- path signature, 64 bits (R486). reset: 0 -/
  path : W64
deriving DecidableEq, Repr

/-- An engine operation in a core's queue (R372): group, engine, opcode, sequence, parameter block. -/
structure EngineOp where
  gid : Nat
  eng : Engine
  op : BitVec 9
  seq : W32
  blk : List W64
  started : Bool
  /-- stalled on a replayable fault with this tag (R262) -/
  stall : Option W32
  /-- the fault of its access that FAIL reached (R264) -/
  failed : Option Refused
  /-- incoming carry of a SCAN, as packets' words; or a failed carry (R406, R407) -/
  carry : Option (Bool × List W64)
  /-- a SCAN has sent its carry, and its output waits (R409) -/
  sent : Bool
  /-- stamp at which it entered its queue -/
  since : W64
deriving DecidableEq, Repr

/-- A launch packet as the launcher copied it (R121). -/
structure LaunchPacket where
  marker : Bool
  privreq : Bool
  fence : Bool
  trig : Bool
  chain : Bool
  reach : BitVec 8
  trigix : Nat
  kdesc : W64
  gridx : Nat
  gridy : Nat
  gridz : Nat
  args : W64
  deps : List (W64 × W64)
  trigth : W64
  deadline : W64
  doneaddr : W64
  doneval : W64
deriving DecidableEq, Repr

/-- The states of a kernel (R136). -/
inductive KState where
  | queued | waiting | armed | dispatching | running | completing | done | aborted | dropped
deriving DecidableEq, Repr

/-- A kernel descriptor as read at dispatch (R133). -/
structure Desc where
  kflags : BitVec 8
  codeReach : BitVec 8
  regs : Nat
  width : Nat
  depth : Nat
  codebase : W64
  pentry : Nat
  sentry : Nat
  scratch : Nat
  fifo : Nat
  acc : Nat
  passes : Nat
  drain : Nat
  codesize : Nat
deriving DecidableEq, Repr

/-- A kernel (R123, R136, R141, R142). -/
structure Kernel where
  kid : Nat
  ctx : Nat
  q : Nat
  /-- intake index (R118) -/
  ix : W32
  pkt : LaunchPacket
  kst : KState
  /-- dependences met, as a list of their indices (R124) -/
  met : List Nat
  /-- the trigger has fired (R126) -/
  fired : Bool
  /-- LATE (R127, R142) -/
  late : Bool
  /-- selection order (R138) -/
  sel : Nat
  desc : Option Desc
  /-- next linear index to deal; groups ended; groups ended FAULTED (R138, R141) -/
  dealt : Nat
  ended : Nat
  faulted : Nat
  /-- end status and detail (R141) -/
  status : BitVec 8
  detail : BitVec 24
  /-- current replay pass (R142, R484) -/
  pass : Nat
  /-- room for the whole grid is reserved (R140) -/
  cohort : Bool
  /-- stamp at which a cohort hold began, and whether COHORT_WAIT was logged (R140) -/
  holdSince : Nat
  waitLogged : Bool
  /-- SAVE_SPACE was logged for this kernel (R108) -/
  spaceLogged : Bool
  /-- the read of its descriptor, or its completion signal, waits on a replayable fault (R125, R135). reset: none -/
  stall : Option W32
  /-- dependences whose read waits on a replayable fault, with its tag (R122, R124). reset: none -/
  depStall : List (Nat × W32)
  /-- the faults that FAIL reached: the accesses that waited for them are fatal (R122, R264). reset: none -/
  refused : List Refused
  /-- a completion signal sent to a peer device, and the status of its answer (R125, R448). reset: none -/
  signal : Option (Option (BitVec 8))
  /-- the SRSEED that each group of pass 0 was placed with: key the linear index, bit 32 set (R83, R484). reset: none -/
  seeds : Sparse 33
deriving DecidableEq, Repr

/-- The states of a queue (R120). -/
inductive QState where
  | disabled | enabled | suspended | draining | error
deriving DecidableEq, Repr

/-- A queue (R118, R129). -/
structure Queue where
  ctx : Nat
  q : Nat
  /-- QCFG, 64 bits (R118). reset: 0 -/
  cfg : W64
  /-- TICKETS, 16 bits (R118). reset: 0 -/
  tickets : BitVec 16
  /-- WRIDX, 32 bits (R118). reset: 0 -/
  wridx : W32
  /-- RDIDX, 32 bits (R118). reset: 0 -/
  rdidx : W32
  /-- QSTATE: state, error status, index of the offending packet (R118). reset: 0 -/
  qst : QState
  err : BitVec 8
  errix : W32
  /-- WRIDX at DRAIN (R120) -/
  drainTo : W32
  /-- RESET waits for the kernels taken (R120). reset: false -/
  resetting : Bool
  /-- lottery guard (R129). reset: 0 -/
  guard : Nat
deriving DecidableEq, Repr

/-- An outstanding replayable fault (R262-R264): tag, kind (1 NOTMAPPED, 2 MIGRATE), 64 KiB granule, write class,
accesses merged, the data of its ring entry, and whether the entry has been written. `level` holds the level of the deciding entry plus 8 times
the page size code of R261. -/
structure OutFault where
  tag : W32
  kind : Nat
  granule : Nat
  write : Bool
  access : Nat
  level : Nat
  addr : BitVec 72
  wake : BitVec 48
  stamp : W64
  count : Nat
  inRing : Bool
deriving DecidableEq, Repr

/-- The states of a context (R101). -/
inductive CState where
  | free | created | active | switchedOut | teardown | faulted
deriving DecidableEq, Repr

/-- The states of a barrier object (R329). -/
inductive BState where
  | collecting | releasing | failed
deriving DecidableEq, Repr

/-- A member of a barrier (R326): its rank, the model's number of its group on that device, linear index, who, arrived bit,
registered waiter, exited. -/
structure Member where
  rank : BitVec 12
  gid : Nat
  lin : W32
  who : Who
  arrived : Bool
  waiter : Bool
  exited : Bool
deriving DecidableEq, Repr

/-- A party of a barrier (R326, R343): stamp, phase of the last arrival, wake tag, core, descheduled mark. -/
structure Party where
  rank : BitVec 12
  gid : Nat
  lin : W32
  core : BitVec 7
  stamp : W64
  lphase : BitVec 16
  wake : BitVec 48
  desched : Bool
deriving DecidableEq, Repr

/-- A barrier object that is not FREE (R323-R330). -/
structure Barrier where
  key : BarKey
  /-- kernel of a grid barrier (R330) -/
  kid : Option Nat
  /-- config of BARINIT with PARTIES current (R332, R342) -/
  cfg : W64
  bst : BState
  phase : BitVec 16
  wpend : Nat
  opened : W64
  members : List Member
  parties : List Party
  lateLogged : Bool
  /-- place in the order of creation of bearing records, and whether BEARING_LOST was logged (R341) -/
  made : Nat
  lost : Bool
  /-- LEVEL 5, on a device that is not the home: it keeps its own members and parties here, with the phase and the state FAILED as
  the home tells them (R323) -/
  remoteHome : Bool
deriving DecidableEq, Repr

/-- A waiter of a semaphore (R339, R343): its device's rank, its executor there, its group's linear index and core, units asked,
registration stamp, tag of its last request. -/
structure SemWaiter where
  rank : BitVec 12
  t : ThreadId
  lin : W32
  core : BitVec 7
  units : W64
  stamp : W64
  tag : BitVec 48
deriving DecidableEq, Repr

/-- What a group has taken of a semaphore since its record was made (R343): SEMP units less SEMV units. -/
structure SemHolder where
  rank : BitVec 12
  gid : Nat
  lin : W32
  core : BitVec 7
  taken : Int
  stamp : W64
  tag : BitVec 48
deriving DecidableEq, Repr

/-- A semaphore word with waiters (R339, R341-R343): its place, reach and offset, queue in order, holders, DROPS, creation stamp,
place in the order of creation, BEARING_LOST logged. The place is a physical address; one from 2^60 up is a word of the debug
window. -/
structure Sem where
  pa : Nat
  va : BitVec 72
  waiters : List SemWaiter
  holders : List SemHolder
  drops : BitVec 16
  opened : W64
  made : Nat
  lost : Bool
deriving DecidableEq, Repr

/-- The states of a collective view (R422). -/
inductive VState where
  | closed | opened | active | draining | failed
deriving DecidableEq, Repr

/-- A member of a collective (R432). -/
structure CollMember where
  ordinal : Nat
  rank : BitVec 12
  midx : Nat
  mst : BitVec 2
  gid : Option Nat
  group : W32
  cdone : Nat
  jstamp : W64
  wake : BitVec 48
deriving DecidableEq, Repr

/-- The state behind a chunk record (R429-R431), and the home's bitmap of ordinals begun and done. -/
structure Chunk where
  contrib : BitVec 16
  status : BitVec 4
  flags : BitVec 6
  sent : BitVec 16
  acked : BitVec 16
  wake : BitVec 48
  /-- the contribution bitmap: an ordinal whose first packet's step has been applied, with its contribution's tag (R429) -/
  begun : List (Nat × BitVec 48)
  error : Bool
  /-- local contributions that targets have yet to acknowledge: the contribution's tag, and how many (R430) -/
  awaiting : List (BitVec 48 × Nat)
  /-- ordinals whose last packet's step has been applied while others of them were queued (R429) -/
  ending : List Nat
  /-- ordinals that count in CONTRIB (R429) -/
  added : List Nat
  /-- elements to which a first contribution has been applied (R429) -/
  touched : List Nat
deriving DecidableEq, Repr

/-- A device's view of a collective id (R422, R425, R434, R437, R504). -/
structure CollView where
  id : Nat
  vst : VState
  gen : BitVec 16
  desc : List W64
  members : List CollMember
  chunks : List Chunk
  /-- packets sent in the use and not confirmed, by destination rank (R504) -/
  unconf : List (BitVec 12)
  closeSent : Bool
  closedBy : List (BitVec 12)
  dead : List (BitVec 12)
  /-- stamp of the last answer of each member rank (R434) -/
  heard : List (BitVec 12 × W64)
  probed : W64
  opened : W64
  lateLogged : Bool
  /-- groups of this device that have sent a contribution in the use (R426) -/
  sentBy : List Nat
  /-- record words that have changed and are not written yet: chunk, or NCHUNK + ordinal (R430) -/
  dirty : List Nat
  /-- a device write waits on a replayable fault, or on a capture copy (tag 0) (R430) -/
  stall : Option W32
  /-- the fault that FAIL reached (R264, R430) -/
  refused : Option Refused
deriving DecidableEq, Repr

/-- What a reduction step does within one 4 KiB page: first element (byte offset for a broadcast), element codes, scale words by element,
broadcast bytes (R428). -/
structure RedPart where
  elem : Nat
  codes : List W64
  scales : List W32
  bytes : List Byte
deriving DecidableEq, Repr

/-- One step in a stack reducer's queue (R428): context, id, GEN, chunk, member ordinal, its parts, the word of the format entry that its
contribution was issued with, the marks of its contribution's first packet and last step, failed marker, sender and wake tag; the
fault it waits on. -/
structure RedStep where
  stack : Nat
  ctx : Nat
  id : Nat
  gen : BitVec 16
  chunk : Nat
  ordinal : Nat
  parts : List RedPart
  fmt : W32
  first : Bool
  last : Bool
  failed : Bool
  sender : BitVec 12
  wake : BitVec 48
  stall : Option W32
  refused : Option Refused
deriving DecidableEq, Repr

/-- A counter session (R476, R477, R481, R485). -/
structure Session where
  func : Nat
  ctx : Nat
  buf : W64
  run : BitVec 9
  ovf : BitVec 10
  ovfen : BitVec 10
  sel : BitVec 48
  xsel : BitVec 48
  plans : Sparse 48
  loaded : Bool
  /-- counters, 48 bits, keyed as R480's selector with the own-core class resolved -/
  counts : Sparse 48
  /-- plan results (R485) -/
  results : Sparse 64
  /-- from the first planned pass of a REPLAY kernel to its last pass: the kernel, and the saved evc selectors and values (R485) -/
  held : Option (Nat × BitVec 48 × Sparse 48)
  /-- the present pass of that kernel has a plan (R485) -/
  planned : Bool
deriving DecidableEq, Repr

/-- A decoded stowed tile (R273): its virtual address, the slice that caches it, whether its page is a span, and its 4,096 bytes. -/
structure Decoded where
  va : BitVec 72
  slice : Nat
  span : Bool
  tile : List Byte
deriving DecidableEq, Repr

/-- A context (R99-R117, R126, R263, R422). -/
structure Context where
  num : Nat
  cst : CState
  /-- FUNC: 0 physical function, 1-15 virtual function (R106, R214) -/
  func : Nat
  slot : Option Nat
  /-- physical address of the context area (R102, R105) -/
  area : Nat
  savesize : Nat
  /-- the debug right (R112) -/
  debug : Bool
  /-- FCAUSE (R106). reset: 0 -/
  fcause : BitVec 8
  /-- system registers 0x200-0x2FF, key the address (R113, R129, R152, R263, R341, R350, R448), and LOGFILT 0x503,
  SIGBASE 0x308, REPSTAT 0x307, DBGSEL 0x400-0x403, DBGSTAT 0x405-0x408. reset: from SYSIMG at CREATE, others 0 -/
  sys : Sparse 64
  /-- trigger counters 0-255, 64 bits (R126). reset: 0 at CREATE -/
  trig : Sparse 64
  /-- save-region allocations: address and size (R108, R388, R413) -/
  allocs : List (Nat × Nat)
  faults : List OutFault
  /-- next fault tag less 1 (R263). reset: 0 -/
  ftag : W32
  /-- FAULT_RING_FULL was logged and no entry written since (R264) -/
  ringFull : Bool
  /-- granules whose capture copy is in progress (R275) -/
  capturing : List (BitVec 72)
  barriers : List Barrier
  sems : List Sem
  views : List CollView
  /-- collective packets that wait, with their port and whether their slots are withheld (R423, R428, R430) -/
  held : List (Nat × Bool × Packet)
  /-- COLL_HOLD was logged for the present filling (R423) -/
  holdLogged : Bool
  /-- breakpoint interception (R475). reset: off -/
  bkpt : Bool
  /-- decoded stowed tiles (R273) -/
  decoded : List Decoded
deriving DecidableEq, Repr

/-- A TLB entry (R266): the core or die that holds it, context, base and size of the range, entry words, level,
physical base, and the address of the page-table entry it was read from (R267). -/
structure TlbEntry where
  core : Option Nat
  die : Nat
  ctx : Nat
  base : BitVec 72
  bits : Nat
  w0 : W64
  w1 : W64
  level : Nat
  pa : Nat
  ea : Nat
deriving DecidableEq, Repr

/-- What asks for a walk: a PREF of a core and context, with its address, bytes and `.l2` (R268, R294). -/
structure WalkUse where
  core : Nat
  ctx : Nat
  va : BitVec 72
  size : Nat
  l2 : Bool
deriving DecidableEq, Repr

/-- A queued walk request of a die, for the page-table entry in which the walk ends, with what asks for it (R268). -/
structure WalkReq where
  die : Nat
  entry : Nat
  uses : List WalkUse
deriving DecidableEq, Repr

/-- A carry or software packet (R412): segment tag, failed mark, sender's carry size, eight words. -/
structure CarryPkt where
  seg : BitVec 16
  failed : Bool
  size : Nat
  data : List W64
deriving DecidableEq, Repr

/-- A convoy member (R412, R415). -/
structure ConvoyMember where
  pos : Nat
  gid : Nat
  seg : BitVec 16
  scanBuf : List CarryPkt
  softBuf : List CarryPkt
  /-- packets in flight from this member: path (true: software) and packet -/
  out : List (Bool × CarryPkt)
  barArr : Bool
  csb : Nat
  ended : Bool
deriving DecidableEq, Repr

/-- The states of a convoy (R414). -/
inductive CvState where
  | forming | sealed | running | broken | closed
deriving DecidableEq, Repr

/-- A convoy (R413-R416). -/
structure Convoy where
  kid : Nat
  cvst : CvState
  /-- the state that FORMING leads to: SEALED, or that of the save (R414) -/
  back : CvState
  len : Nat
  members : List ConvoyMember
deriving DecidableEq, Repr

/-- The states of a port (R444). -/
inductive LinkState where
  | down | training | up | degraded | draining | fenced | replay
deriving DecidableEq, Repr

/-- A port (R438-R446, R449, R450). -/
structure Port where
  num : Nat
  lst : LinkState
  /-- the lanes that the link has trained with, of 8; 0 while it has not since it was last DOWN or FENCED (R438, R445, R446).
  reset: 0 -/
  lanes : Nat
  /-- lanes fenced (R445). reset: none -/
  fencedLanes : List Nat
  /-- flit retries of the last millisecond: lane and stamp (R445). reset: none -/
  laneRetries : List (Nat × Nat)
  /-- stamp of the last LINK_RETRY (R439). reset: none -/
  retryLogged : Option Nat
  /-- stamp at which the port last entered DOWN: a training attempt is due 100 ms later (R444). reset: DESIGN CHOICE 0 -/
  downAt : Nat
  /-- periodic training attempts stopped (R498). reset: false -/
  trainOff : Bool
  /-- send credits per VC in flits (R441). reset: 0 -/
  credits : List Nat
  /-- slots to return to the peer per VC (R441). reset: 0 -/
  returns : List Nat
  /-- VC 2 slots whose return is withheld (R423, R428) -/
  withheld : Nat
  /-- packets sent and not acknowledged, oldest first (R439, R443) -/
  retry : List Packet
  /-- packets waiting for credits or for a working bundle (R441, R443) -/
  waiting : List Packet
  lseq : W32
  /-- packets sent and received since recording or replay began (R449, R450) -/
  sent : BitVec 16
  rcvd : BitVec 16
deriving DecidableEq, Repr

/-- A request sent to a peer that awaits its response (R448): its executor, or the kernel whose completion signal it is (R125). -/
structure RemoteReq where
  tag : W32
  ctx : Nat
  t : ThreadId ⊕ Nat
  since : W64
deriving DecidableEq, Repr

/-- A log record (R461). -/
structure LogRec where
  stamp : W64
  cls : BitVec 2
  event : BitVec 14
  own : BitVec 48
  cause : BitVec 48
  obj : W32
  payload : BitVec 48
deriving DecidableEq, Repr

/-- A partition-table entry of the log memory (R464). -/
structure Partition where
  num : Nat
  wridx : W64
  resets : W64
  drops : W64
  cgen : W32
  opened : W64
deriving DecidableEq, Repr

/-- A unit's emit buffer and drop counts (R459, R466). -/
structure LogUnit where
  num : Nat
  /-- sequence count, 25 bits (R459). reset: 0 -/
  seq : BitVec 25
  /-- up to 16 records, oldest first, each with its partition (R466). reset: empty -/
  buf : List (Nat × LogRec)
  /-- discarded records by class, and the tag of the first (R466). reset: 0 -/
  drops : List Nat
  dropTag : BitVec 48
deriving DecidableEq, Repr

/-- A function's page and scheduling registers (R453, R454). -/
structure Func where
  num : Nat
  /-- CTXARG (R453). reset: 0 -/
  ctxarg : W64
  /-- CTXSTAT (R453). reset: 0 -/
  ctxstat : W64
  /-- INTCAUSE, 5 bits (R453). reset: 0 -/
  intcause : BitVec 5
  /-- MSI-X interrupts raised, by vector, oldest first (R453) -/
  raised : List Nat
  /-- VFSLICE, 32 bits (R454). reset: 0 -/
  slice : W32
  /-- VFBOUND, 32 bits (R454). reset: 0 -/
  bound : W32
  /-- VFDIES, 4 bits (R454). reset: 0 -/
  dies : BitVec 4
  /-- VFFLAGS, 2 bits (R454). reset: 0; the physical function reads 3 -/
  vfflags : BitVec 2
deriving DecidableEq, Repr

/-- A reply of the management port (R471, R498): status and data. -/
structure Reply where
  status : BitVec 8
  data : List Byte
deriving DecidableEq, Repr

/-- The management processor, power and service (R455, R469, R495-R501). -/
structure Mgmt where
  /-- a session is open (R497). reset: false -/
  session : Bool
  /-- recovery: both flash banks failed (R495). reset: false -/
  recovery : Bool
  /-- AUTOFIX and FIXAGE (R469). reset: false, 1,000 -/
  autofix : Bool
  fixage : Nat
  /-- fixes taken and the stamp of the last automatic one (R469) -/
  fixno : W32
  lastAuto : Option Nat
  /-- fix region bytes (R463). reset: 0 -/
  fixMem : Sparse 8
  /-- flash banks 0 and 1: key bank * 2^40 + offset (R495, R498) -/
  flash : Sparse 8
  /-- bytes of the image in each bank, as the last FINAL left it (R495, R498). reset: 0 -/
  imageLen : List Nat
  /-- bank to boot first (R498). reset: DESIGN CHOICE 0 -/
  bootBank : Nat
  /-- fused rollback counter (R495) -/
  rollback : W32
  /-- fused fence list (R501) -/
  fences : List Part
  /-- SERVICE_REQUESTED (R501). reset: false -/
  service : Bool
  /-- measurement log: SHAKE256 digests (R496) -/
  measures : List (BitVec 256)
  /-- the challenge a session was opened on (R497) -/
  challenge : Nat
  /-- pacing level, 4 bits (R499). reset: 0 -/
  pacing : BitVec 4
  /-- POWCAP in W (R454). reset: 2,800 -/
  powcap : BitVec 12
  /-- dies that place no groups for temperature (R500). reset: none -/
  hotDies : List Nat
  /-- physical reads that PHYSRD has under way: address and length (R471, R494). reset: none -/
  reads : List (Nat × Nat)
  /-- replies sent, oldest first (R498) -/
  replies : List Reply
deriving DecidableEq, Repr

/-- The chronometer (R455-R457). -/
structure Chron where
  /-- nanosecond count, 64 bits (R455, R456). reset: 0 -/
  ns : W64
  /-- STATE of the quality word (R457). reset: 0 FREERUN -/
  st : BitVec 2
  /-- SRC of the quality word (R457). reset: 0 -/
  src : BitVec 2
  /-- ERRB (R457). reset: 0xFFFF_FFFF -/
  errb : W32
  /-- enabled sources and PTP domain (R455, R498). reset: none -/
  ptp : Bool
  pps : Bool
  domain : Byte
  /-- offset still to be slewed away, as source minus count (R456). reset: 0 -/
  slew : Int
  /-- ns counted since an ns was last slewed, below 5,000 (R456). reset: 0 -/
  rest : Nat
  /-- stamps of the last PTP and 1PPS event (R457) -/
  lastSrc : W64
deriving DecidableEq, Repr

/-- Which executors a step issues: a pilot, or a gang of strands of one group at one PC (R170). -/
inductive Issuer where
  | pilot (gid : Nat)
  | gang (gid : Nat) (strands : List Nat)
deriving DecidableEq, Repr

/-- What moves next: an issue, an issue by strands of a further group that share the gang of the issue before it (R146, R170),
an event, or time passing (core cycles and chronometer ns). -/
inductive Turn where
  | issue (by_ : Issuer)
  | joint (by_ : Issuer)
  | event (i : Instr)
  | pass (cycles ns : Nat)
deriving DecidableEq, Repr

/-- What tells the entries of a convergence table apart (R170): the kernel launch, the PC under its code reach, and
whether the strand reads its code as capsule code (R351). -/
structure Entry where
  kid : Nat
  pc : BitVec 72
  cap : Bool
deriving DecidableEq, Repr

/-- The choice state of a partition or of a helm (R150, R171, R173): its number, the group that issued last, the entry of the
current gang, how many instructions that gang has issued in a row, the mark of its last one, and for each READY executor the
consecutive slots in which it has not issued. -/
structure PartSched where
  unit : Nat
  gid : Nat
  entry : Entry
  inRow : Nat
  leave : Nat
  waits : List (ThreadId × Nat)
deriving DecidableEq, Repr

/-- The device. -/
structure State where
  /-- pod rank, 12 bits (R13). reset: DESIGN CHOICE 0 -/
  rank : BitVec 12
  /-- interleave mode DIE instead of PACKAGE (R17). reset: DESIGN CHOICE false -/
  modeDie : Bool
  /-- arithmetic clock count since the package left reset (R15, R34). reset: 0 -/
  cycle : Nat
  /-- the cycle at which each die last left reset (R34). reset: 0 -/
  dieStart : List Nat
  /-- the executors the present step issues; set by step for exec. reset: none -/
  cur : Option Issuer
  /-- MODEL's own: what moves next. reset: empty -/
  agenda : List Turn
  /-- MODEL's own: the counter of free values. reset: DESIGN CHOICE 0 -/
  free : Nat
  /-- MODEL's own: the units that have had their turn in the present cycle: those whose place in the order of a cycle is below this
number. reset: 0 -/
  unitsDone : Nat
  /-- what each partition and helm keeps for its choice (R150, R171, R173). reset: none -/
  gangs : List PartSched
  /-- the instruction just issued carried YLD (1) or was YIELD (2) (R171, R188). reset: 0 -/
  leave : Nat
  /-- entries that are starving, the longest waiting first: core, partition, the entry's oldest strand (R173). reset: none -/
  starving : List (Nat × Nat × ThreadId)
  /-- cores that have asked for records, and to which none has been dealt, nor has a group of theirs ended, since (R139). reset: none -/
  asked : List Nat
  /-- main memory, 768 GiB (R17). reset: DESIGN CHOICE 0 -/
  mem : Sparse 8
  /-- host memory as the device can reach it, by bus address (R447). reset: DESIGN CHOICE 0 -/
  hostMem : Sparse 8
  /-- physical addresses whose read is poisoned or uncorrectable (R103, R255, R260), as 16-byte unit numbers. reset: none -/
  poison : List Nat
  /-- dirty core-store bytes: key core * 2^52 + pa, value byte with bit 8 set, bit 9 where a wider write has overtaken it (R305, R317),
bits 12:10 log2 of the bytes of its write (R281). reset: none -/
  dirty : Sparse 13
  /-- clean core-store copies, keyed alike (R305). reset: none -/
  clean : Sparse 13
  tlb : List TlbEntry
  walkQ : List WalkReq
  contexts : List Context
  queues : List Queue
  kernels : List Kernel
  groups : List Group
  engineQ : List EngineOp
  convoys : List Convoy
  redQ : List RedStep
  ports : List Port
  /-- route table: key rank, value direction + 1, 7 unreachable; unlisted: default route (R442). reset: default -/
  routes : Sparse 8
  /-- packets handed to links, oldest first, with the port (R439) -/
  sentPkts : List (Nat × Packet)
  /-- directions whose set of bundles has changed, with the packets held until the old ones are acknowledged (R443) -/
  turning : List (Nat × List Packet)
  /-- ranks for which LINK_DROP has been logged since the last change of a port (R446) -/
  droppedTo : List (BitVec 12)
  remotes : List RemoteReq
  /-- next request tag (R440). reset: 0 -/
  nextTag : W32
  sessions : List Session
  funcs : List Func
  /-- RECBASE, RECSIZE, RECCTL, REPCTL (R454). reset: 0 -/
  recbase : W64
  recsize : W64
  recctl : W64
  repctl : W64
  /-- granules recorded, replay position per port (R449, R450). reset: 0 -/
  recpos : Nat
  replayPos : Sparse 32
  chron : Chron
  mgmt : Mgmt
  units : List LogUnit
  parts : List Partition
  /-- log records: partition, index, record (R463, R464). reset: none -/
  logs : List (Nat × Nat × LogRec)
  /-- function that the time-sliced dies run, and the stamp at which its slice ends (R110). reset: 0 -/
  turnOf : Nat
  sliceEnd : Nat
  /-- the slice of turnOf has ended, and its contexts are being switched out (R110). reset: false -/
  outgoing : Bool
  /-- consecutive EDF choices (R128) and the last lottery context (R128). reset: 0 -/
  edfRun : Nat
  lotCtx : Nat
  /-- MODEL's own: numbers for groups, kernels and selections -/
  nextGid : Nat
  nextKid : Nat
  nextSel : Nat
  nextPark : Nat
  nextMade : Nat
  /-- logical cores that are vacant (R12), physical core of a logical core where not the same (R12). reset: none -/
  vacant : List Nat
  coreMap : Sparse 8
  /-- cores fenced since the last reset (R501). reset: none -/
  fencedCores : List Nat
  /-- L2 slices whose range their neighbour took at the last reset (R501). reset: none -/
  fencedSlices : List Nat
  /-- MODEL's own: what issued in the present cycle, for the top-down counters: unit, kernel, and whether the gang was
  full (R479). reset: empty -/
  issued : List (Nat × Nat × Bool)
  /-- a re-stitch request: region and shape; regions re-stitched (R19). reset: none -/
  restitch : Option (List Nat × BitVec 8)
  stitched : List (List Nat × BitVec 8)
  /-- dies whose main routers are power-gated (R20). reset: none -/
  gated : List Nat
deriving DecidableEq, Repr

/-- The thread of a placed pilot or strand, before its entry is set (R147). -/
def Thread.fresh : Thread :=
  { run := .new, stopped := false, pc := 0, inh := false, preds := 0, flags := 0, ovfcnt := 0, srstate := 0,
    stcres := 0, tcause := 0, tpc := 0, taddrlo := 0, taddrhi := 0, tinfo := 0, slot := none, lastwake := 0,
    regs := [], pend := [], fixed := [], issueAt := 0, leaf := 0, stopNext := false, caps := none, ptrap := none, failed := none, since := 0, remote := none, stateWr := none }

/-- A port after reset (R444).
DESIGN CHOICE (log entry 1), unsafe. -/
def Port.fresh (n : Nat) : Port :=
  { num := n, lst := .down, lanes := 0, fencedLanes := [], laneRetries := [], retryLogged := none, downAt := 0,
    trainOff := false, credits := [0, 0, 0, 0], returns := [0, 0, 0, 0], withheld := 0, retry := [], waiting := [],
    lseq := 0, sent := 0, rcvd := 0 }

/-- A function's registers after reset (R453, R454).
DESIGN CHOICE (log entry 1), unsafe. -/
def Func.fresh (n : Nat) : Func :=
  { num := n, ctxarg := 0, ctxstat := 0, intcause := 0, raised := [], slice := 0, bound := 0, dies := 0,
    vfflags := if n = 0 then 3 else 0 }

/-- The chronometer after loss of the rail (R456, R457).
DESIGN CHOICE (log entry 1), unsafe. -/
def Chron.fresh : Chron :=
  { ns := 0, st := 0, src := 0, errb := 0xFFFFFFFF, ptp := false, pps := false, domain := 0, slew := 0,
    rest := 0, lastSrc := 0 }

/-- The management processor after a level 0 reset (R469, R495-R499).
DESIGN CHOICE (log entry 1), unsafe. -/
def Mgmt.fresh : Mgmt :=
  { session := false, recovery := false, autofix := false, fixage := 1000, fixno := 0, lastAuto := none, fixMem := [],
    flash := [], imageLen := [0, 0], bootBank := 0, rollback := 0, fences := [], service := false, measures := [], challenge := 0,
    pacing := 0, powcap := 2800, hotDies := [], reads := [], replies := [] }

/-- The machine right after a level 0 reset (R493, R494).
DESIGN CHOICE (log entry 1), unsafe. DESIGN CHOICE (log entry 2), unsafe. -/
def State.reset : State :=
  { rank := 0, modeDie := false, cycle := 0, dieStart := [0, 0, 0, 0], cur := none, agenda := [], free := 0,
    unitsDone := 0, gangs := [], leave := 0, starving := [], asked := [], mem := [], hostMem := [], poison := [], dirty := [], clean := [],
    tlb := [], walkQ := [], contexts := [], queues := [], kernels := [], groups := [], engineQ := [],
    convoys := [], redQ := [], ports := (List.range 18).map Port.fresh, routes := [], sentPkts := [], turning := [], droppedTo := [], remotes := [],
    nextTag := 0, sessions := [], funcs := (List.range 16).map Func.fresh, recbase := 0, recsize := 0, recctl := 0,
    repctl := 0, recpos := 0, replayPos := [], chron := Chron.fresh, mgmt := Mgmt.fresh, units := [], parts := [],
    logs := [], turnOf := 0, sliceEnd := 0, outgoing := false, edfRun := 0, lotCtx := 0, nextGid := 0, nextKid := 0, nextSel := 0,
    nextPark := 0, nextMade := 0, vacant := [], coreMap := [], fencedCores := [], fencedSlices := [], issued := [], restitch := none, stitched := [], gated := [] }

end Sys2Proof.Machine
end

