-- ==== Sys2Proof/Machine/Base.lean ====
section
/-! DEFINITION. The plainest operations: bit fields, sparse storage, bytes, and finding and replacing the parts of
State. -/

namespace Sys2Proof.Machine

open Sys2Proof

/-- Bits hi:lo of a word, as a number. -/
def fld {n : Nat} (x : BitVec n) (hi lo : Nat) : Nat := (x.toNat >>> lo) % 2 ^ (hi + 1 - lo)

/-- One bit of a word. -/
def bit1 {n : Nat} (x : BitVec n) (i : Nat) : Bool := x.getLsbD i

/-- A word with bits hi:lo replaced by the low bits of v. -/
def setFld {n : Nat} (x : BitVec n) (hi lo v : Nat) : BitVec n :=
  BitVec.ofNat n (x.toNat - fld x hi lo * 2 ^ lo + (v % 2 ^ (hi + 1 - lo)) * 2 ^ lo)

/-- The value an unlisted key reads as is zero.
DESIGN CHOICE (log entry 2), unsafe. -/
def sget {w : Nat} (m : Sparse w) (k : Nat) : BitVec w :=
  match m with
  | [] => 0
  | (k', v) :: r => if k = k' then v else if k < k' then 0 else sget r k

/-- Writes one key and keeps the canonical form: keys rising, no zero entry. -/
def sset {w : Nat} (m : Sparse w) (k : Nat) (v : BitVec w) : Sparse w :=
  match m with
  | [] => if v = 0 then [] else [(k, v)]
  | (k', v') :: r =>
    if k = k' then (if v = 0 then r else (k, v) :: r)
    else if k < k' then (if v = 0 then (k', v') :: r else (k, v) :: (k', v') :: r)
    else (k', v') :: sset r k v

/-- The canonical form: keys strictly rising and no entry equal to zero. -/
def swf {w : Nat} (m : Sparse w) : Bool :=
  match m with
  | [] => true
  | (k, v) :: r => (v != 0) && (match r with | [] => true | (k', _) :: _ => decide (k < k')) && swf r

/-- Main memory in its canonical form: addresses strictly rising, no listed byte equal to zero. -/
def Memory.wf (m : Sparse 8) : Bool := swf m

/-- n consecutive keys. -/
def sgets {w : Nat} (m : Sparse w) (k n : Nat) : List (BitVec w) := (List.range n).map fun i => sget m (k + i)

/-- Writes consecutive keys. -/
def ssets {w : Nat} (m : Sparse w) (k : Nat) (vs : List (BitVec w)) : Sparse w :=
  match vs with
  | [] => m
  | v :: r => ssets (sset m k v) (k + 1) r

/-- Drops the entries whose key fails a test. -/
def skeep {w : Nat} (m : Sparse w) (p : Nat → Bool) : Sparse w := m.filter fun e => p e.1

/-- The number in bytes of increasing address (little-endian, R3). -/
def ofBytes (bs : List Byte) : Nat :=
  match bs with
  | [] => 0
  | b :: r => b.toNat + 256 * ofBytes r

/-- The low n bytes of a number, in increasing address. -/
def toBytes (n v : Nat) : List Byte :=
  match n with
  | 0 => []
  | k + 1 => BitVec.ofNat 8 v :: toBytes k (v / 256)

/-- Ceiling of a division. -/
def ceilDiv (a b : Nat) : Nat := (a + b - 1) / b

/-- The signed value of the low n bits. -/
def sxNat (n v : Nat) : Int :=
  let u := v % 2 ^ n
  if n = 0 then 0 else if u < 2 ^ (n - 1) then (u : Int) else (u : Int) - (2 ^ n : Nat)

/-- An integer modulo 2^n. -/
def wrapInt (n : Nat) (x : Int) : Nat := (x % ((2 ^ n : Nat) : Int)).toNat

/-- Replaces the list entries that meet a test. -/
def replaceIf {α : Type} (p : α → Bool) (f : α → α) (l : List α) : List α := l.map fun a => if p a then f a else a

/-- Replaces every entry that meets a test, or adds the value at the end. -/
def upsert {α : Type} (p : α → Bool) (a : α) (l : List α) : List α :=
  if l.any p then l.map (fun b => if p b then a else b) else l ++ [a]

/-- Puts an element before the first one that it may stand before. -/
def insertBy {α : Type} (le : α → α → Bool) (a : α) (l : List α) : List α :=
  match l with
  | [] => [a]
  | b :: r => if le a b then a :: b :: r else b :: insertBy le a r

/-- A list in the order of a total preorder; equals keep their order. -/
def sortBy {α : Type} (le : α → α → Bool) (l : List α) : List α := l.foldr (insertBy le) []

def getGroup (s : State) (gid : Nat) : Option Group := s.groups.find? fun g => g.gid == gid

def modGroup (s : State) (gid : Nat) (f : Group → Group) : State :=
  { s with groups := replaceIf (fun g => g.gid == gid) f s.groups }

def getCtx (s : State) (n : Nat) : Option Context := s.contexts.find? fun c => c.num == n

def modCtx (s : State) (n : Nat) (f : Context → Context) : State :=
  { s with contexts := replaceIf (fun c => c.num == n) f s.contexts }

def getKernel (s : State) (kid : Nat) : Option Kernel := s.kernels.find? fun k => k.kid == kid

def modKernel (s : State) (kid : Nat) (f : Kernel → Kernel) : State :=
  { s with kernels := replaceIf (fun k => k.kid == kid) f s.kernels }

def getQueue (s : State) (ctx q : Nat) : Option Queue := s.queues.find? fun x => x.ctx == ctx && x.q == q

def modQueue (s : State) (ctx q : Nat) (f : Queue → Queue) : State :=
  { s with queues := replaceIf (fun x => x.ctx == ctx && x.q == q) f s.queues }

def getPort (s : State) (n : Nat) : Option Port := s.ports.find? fun p => p.num == n

def modPort (s : State) (n : Nat) (f : Port → Port) : State :=
  { s with ports := replaceIf (fun p => p.num == n) f s.ports }

def modFunc (s : State) (n : Nat) (f : Func → Func) : State :=
  { s with funcs := replaceIf (fun p => p.num == n) f s.funcs }

def getFunc (s : State) (n : Nat) : Func := (s.funcs.find? fun p => p.num == n).getD (Func.fresh n)

/-- An executor of a group. -/
def getThread (g : Group) (w : Who) : Option Thread :=
  match w with
  | .pilot => some g.pilot
  | .strand k => g.strands[k]?

/-- Replaces entry k of a list. -/
def modNth {α : Type} (l : List α) (k : Nat) (f : α → α) : List α :=
  match l, k with
  | [], _ => []
  | a :: r, 0 => f a :: r
  | a :: r, k + 1 => a :: modNth r k f

def modThreadOf (g : Group) (w : Who) (f : Thread → Thread) : Group :=
  match w with
  | .pilot => { g with pilot := f g.pilot }
  | .strand k => { g with strands := modNth g.strands k f }

def modThread (s : State) (t : ThreadId) (f : Thread → Thread) : State :=
  modGroup s t.gid fun g => modThreadOf g t.who f

/-- The executors of a group: pilot, then strands in index order. -/
def allWho (g : Group) : List Who := .pilot :: (List.range g.strands.length).map Who.strand

/-- Every executor that meets a test, with its group. -/
def whoWith (s : State) (p : Group → Thread → Bool) : List ThreadId :=
  s.groups.flatMap fun g => (allWho g).filterMap fun w =>
    match getThread g w with
    | some t => if p g t then some { gid := g.gid, who := w } else none
    | none => none

/-- Slot and lane of a strand (R143). -/
def slotOf (g : Group) (k : Nat) : Nat := if g.shape.w = 0 then 0 else k / g.shape.w
def laneOf (g : Group) (k : Nat) : Nat := if g.shape.w = 0 then 0 else k % g.shape.w

/-- SPREADIX of an executor: slots i*Q up to (i+1)*Q - 1 are on core i, with Q = ceil(D/S); the pilot is on core 0
(R143, R144). -/
def spreadIx (g : Group) (w : Who) : Nat :=
  match w with
  | .pilot => 0
  | .strand k =>
    let q := ceilDiv g.shape.d (max g.shape.spread 1)
    if q = 0 then 0 else slotOf g k / q

/-- The logical core of an executor. -/
def coreOf (g : Group) (w : Who) : Nat := g.cores.getD (spreadIx g w) 0

/-- Quad and die of a core (R11). -/
def quadOf (core : Nat) : Nat := core / 4
def dieOf (core : Nat) : Nat := core / 32

/-- The chronometer reading. -/
def now (s : State) : W64 := s.chron.ns

/-- A free value counter step.
DESIGN CHOICE (log entry 4), safe. -/
def tickFree (s : State) : State := { s with free := s.free + 1 }

/-- The system register n of a context; its checked access is in Ops. -/
def ctxReg (s : State) (ctx n : Nat) : W64 :=
  match getCtx s ctx with
  | some c => sget c.sys n
  | none => 0

def modCtxReg (s : State) (ctx n : Nat) (v : W64) : State :=
  modCtx s ctx fun c => { c with sys := sset c.sys n v }

end Sys2Proof.Machine
end

