-- ==== Sys2Proof/Machine/Log.lean ====
section
/-! DEFINITION. The logbook: wake tags, emitting a record into its unit's buffer, and the head's writing of it
(R459-R467, R502-R505). -/

namespace Sys2Proof.Machine

open Sys2Proof

/-- Event codes, (CLASS << 14) | EVENT (R461, R462). -/
def evReset : Nat := 0xC001
def evDrop : Nat := 0xC002
def evChronStep : Nat := 0xC003
def evChronState : Nat := 0x8004
def evRestitch : Nat := 0x8005
def evFixTaken : Nat := 0x8006
def evBadState : Nat := 0x4007
def evPowerLimit : Nat := 0x8008
def evContextFault : Nat := 0xC010
def evWorldOut : Nat := 0x8011
def evWorldIn : Nat := 0x8012
def evQueueState : Nat := 0x8020
def evDeadlineMiss : Nat := 0x8021
def evLotteryGuard : Nat := 0x4022
def evKernelEnd : Nat := 0x8023
def evCohortWait : Nat := 0x8024
def evSaveSpace : Nat := 0x8025
def evGroupPlace : Nat := 0x4030
def evGroupSave : Nat := 0x4031
def evGroupRetire : Nat := 0x4032
def evGroupFault : Nat := 0xC033
def evGroupPreempt : Nat := 0x4034
def evBoundMissed : Nat := 0x8035
def evDrainOverrun : Nat := 0x8036
def evUnreleased : Nat := 0x8037
def evTrapvecBad : Nat := 0xC038
def evTrap : Nat := 0x4040
def evNestedTrap : Nat := 0xC041
def evPageFault : Nat := 0x4050
def evFaultRingFull : Nat := 0x8051
def evStowFault : Nat := 0x8052
def evPageCapture : Nat := 0x4053
def evBarrierState : Nat := 0x0060
def evBarrierLate : Nat := 0xC061
def evBearingLost : Nat := 0x8062
def evCapDisplaced : Nat := 0x4070
def evCapAdopt : Nat := 0x8071
def evCapDeliver : Nat := 0x8072
def evCapMailboxLost : Nat := 0xC073
def evEngineFault : Nat := 0x8080
def evConvoyState : Nat := 0x8081
def evCarryDiscard : Nat := 0x4082
def evCollState : Nat := 0x8090
def evCollStale : Nat := 0x4091
def evCollHold : Nat := 0x8092
def evCollDup : Nat := 0x4093
def evCollFailed : Nat := 0xC094
def evCollLate : Nat := 0xC095
def evLinkRetry : Nat := 0x00A0
def evLinkBadpkt : Nat := 0x80A1
def evLinkState : Nat := 0x80A2
def evLinkDrop : Nat := 0x80A3
def evArrival : Nat := 0xC0A4
def evSend : Nat := 0xC0A5
def evReplayMismatch : Nat := 0xC0A6

/-- A unit's emit state; a unit that has emitted nothing has sequence 0. -/
def getUnit (s : State) (u : Nat) : LogUnit :=
  (s.units.find? fun x => x.num == u).getD { num := u, seq := 0, buf := [], drops := [0, 0, 0, 0], dropTag := 0 }

def setUnit (s : State) (u : LogUnit) : State := { s with units := upsert (fun x => x.num == u.num) u s.units }

/-- The next sequence; a wrap passes from 2^25 - 1 to 1 (R459). -/
def nextSeq (q : BitVec 25) : BitVec 25 := if q = BitVec.allOnes 25 then 1 else q + 1

/-- A wake tag: device rank, unit, sequence (R459). -/
def wakeTag (rank : BitVec 12) (unit : Nat) (q : BitVec 25) : BitVec 48 := rank ++ BitVec.ofNat 11 unit ++ q

/-- Advances a unit's sequence for an event and gives its tag. -/
def takeTag (s : State) (unit : Nat) : BitVec 48 × State :=
  let u := getUnit s unit
  let q := nextSeq u.seq
  (wakeTag s.rank unit q, setUnit s { u with seq := q })

/-- Counts a discarded record by class, saturating at 4,095, and keeps the tag of the first (R466). -/
def countDrop (u : LogUnit) (r : LogRec) : LogUnit :=
  { u with
    drops := modNth u.drops r.cls.toNat (fun n => min (n + 1) 4095),
    dropTag := if u.drops.all (· == 0) then r.own else u.dropTag }

/-- The lowest class present in a buffer. -/
def lowestClass (b : List (Nat × LogRec)) : Nat := b.foldl (fun m e => min m e.2.cls.toNat) 4

/-- Removes the youngest record of a class; gives it too. -/
def dropYoungest (b : List (Nat × LogRec)) (c : Nat) : Option (Nat × LogRec) × List (Nat × LogRec) :=
  match b with
  | [] => (none, [])
  | e :: r =>
    match dropYoungest r c with
    | (some x, r') => (some x, e :: r')
    | (none, _) => if e.2.cls.toNat = c then (some e, r) else (none, e :: r)

/-- A record enters its unit's buffer of 16, or displaces one of lower class, or is discarded (R466): the discarded record, with
its partition. -/
def pushRec (u : LogUnit) (part : Nat) (r : LogRec) : Option (Nat × LogRec) × LogUnit :=
  if u.buf.length < 16 then (none, { u with buf := u.buf ++ [(part, r)] })
  else if lowestClass u.buf < r.cls.toNat then
    match dropYoungest u.buf (lowestClass u.buf) with
    | (some x, b) => (some x, countDrop { u with buf := b ++ [(part, r)] } x.2)
    | (none, _) => (some (part, r), countDrop u r)
  else (some (part, r), countDrop u r)

/-- The DROP record of a unit that has room again (R466). -/
def flushDrop (s : State) (unit : Nat) : State :=
  let u := getUnit s unit
  if u.drops.all (· == 0) || 16 ≤ u.buf.length then s
  else
    let q := nextSeq u.seq
    let pay := (u.drops.getD 0 0) + 4096 * (u.drops.getD 1 0) + 4096 ^ 2 * (u.drops.getD 2 0) + 4096 ^ 3 * (u.drops.getD 3 0)
    let r : LogRec := { stamp := now s, cls := 3, event := 2, own := wakeTag s.rank unit q, cause := u.dropTag,
                        obj := 0, payload := BitVec.ofNat 48 pay }
    setUnit s { u with seq := q, buf := u.buf ++ [(0, r)], drops := [0, 0, 0, 0], dropTag := 0 }

/-- The partition of a record: of its context, or of the device (R463). -/
def partOf (ctx : Option Nat) : Nat := match ctx with | some n => n + 1 | none => 0

/-- Records of a partition (R463): capacity. -/
def partCap (part : Nat) : Nat := if part = 0 then 260014080 else 786432

def getPart (s : State) (n : Nat) : Partition :=
  (s.parts.find? fun p => p.num == n).getD { num := n, wridx := 0, resets := 0, drops := 0, cgen := 0, opened := 0 }

def setPart (s : State) (p : Partition) : State := { s with parts := upsert (fun x => x.num == p.num) p s.parts }

/-- A discarded record is counted by class in the DROPS of its partition, saturating (R464).
DESIGN CHOICE (log entry 93), unsafe. -/
def losePart (s : State) (x : Option (Nat × LogRec)) : State :=
  match x with
  | none => s
  | some (part, r) =>
    let p := getPart s part
    let lo := 16 * r.cls.toNat
    setPart s { p with drops := setFld p.drops (lo + 15) lo (min (fld p.drops (lo + 15) lo + 1) 0xFFFF) }

/-- Emits a record under a tag already taken (R459, R461). -/
def emitTagged (s : State) (unit : Nat) (ctx : Option Nat) (ev obj payload : Nat) (cause own : BitVec 48) : State :=
  let s := flushDrop s unit
  let r : LogRec := { stamp := now s, cls := BitVec.ofNat 2 (ev >>> 14), event := BitVec.ofNat 14 ev, own := own,
                      cause := cause, obj := BitVec.ofNat 32 obj, payload := BitVec.ofNat 48 payload }
  let (lost, u) := pushRec (getUnit s unit) (partOf ctx) r
  losePart (setUnit s u) lost

/-- The lowest class a context emits (R467). -/
def filtOf (s : State) (ctx : Option Nat) : Nat :=
  match ctx with | some n => fld (ctxReg s n 0x503) 1 0 | none => 0

/-- A record below the filter is not emitted and takes no sequence number; class 3 is always emitted (R467). -/
def passesFilter (filt ev : Nat) : Bool := decide (filt ≤ ev >>> 14) || ev >>> 14 == 3

/-- Emits a record of a unit under a given filter, with its own tag; the tag is zero when it is filtered. -/
def emitFilt (s : State) (filt unit : Nat) (ctx : Option Nat) (ev obj payload : Nat) (cause : BitVec 48) :
    BitVec 48 × State :=
  if passesFilter filt ev then
    let s := flushDrop s unit
    let (t, s) := takeTag s unit
    (t, emitTagged s unit ctx ev obj payload cause t)
  else (0, s)

/-- Emits a record under the filter of its context. -/
def emit (s : State) (unit : Nat) (ctx : Option Nat) (ev obj payload : Nat) (cause : BitVec 48 := 0) : State :=
  (emitFilt s (filtOf s ctx) unit ctx ev obj payload cause).2

/-- Emits a record and gives its own tag. -/
def emitGet (s : State) (unit : Nat) (ctx : Option Nat) (ev obj payload : Nat) (cause : BitVec 48 := 0) :
    BitVec 48 × State :=
  emitFilt s (filtOf s ctx) unit ctx ev obj payload cause

/-- Unit of strands and pilot of a core, of a home slice, of a stack reducer and of a port (R459). -/
def unitCore (core : Nat) : Nat := core * 4
def unitSlice (slice : Nat) : Nat := 512 + slice
def unitStack (stack : Nat) : Nat := 1024 + stack
def unitPort (p : Nat) : Nat := 1040 + p
def unitDie (d : Nat) : Nat := 1060 + d
def unitHost : Nat := 1064
def unitMgmt : Nat := 1065
def unitEngine (core : Nat) (e : Engine) : Nat :=
  core * 4 + match e with | .matrix => 1 | .copy => 2 | .reckoner => 3

/-- The head writes the oldest record of a unit into its partition, then raises WRIDX (R464, R465). -/
def headWrite (s : State) (unit : Nat) : State :=
  let u := getUnit s unit
  match u.buf with
  | [] => s
  | (part, r) :: rest =>
    let p := getPart s part
    let k := p.wridx.toNat % partCap part
    let s := setUnit s { u with buf := rest }
    let s := { s with logs := upsert (fun e => e.1 == part && e.2.1 == k) (part, k, r) s.logs }
    setPart s { p with wridx := p.wridx + 1 }

/-- Kernel id in the records of its groups: queue ‖ intake index<13:0> (R141, R502). -/
def kernelTag (s : State) (kid : Nat) : Nat :=
  match getKernel s kid with
  | some k => (k.q % 256) * 2 ^ 14 + k.ix.toNat % 2 ^ 14
  | none => 0

/-- Core SPREADIX 0 of a group: of its place, or of its last one (R491, R505). -/
def firstCore (g : Group) : Nat := g.cores.headD g.core0

/-- Emits a group's record under core x 4 of its core SPREADIX 0, filtered by the group's LOGFILT (R467, R491, R502). -/
def emitGroup (s : State) (g : Group) (ev payload : Nat) : BitVec 48 × State :=
  emitFilt s g.vals.logfilt.toNat (unitCore (firstCore g)) (some g.ctx) ev g.lin.toNat payload 0

end Sys2Proof.Machine
end

