-- ==== Sys2Proof/Machine/Tally.lean ====
section
/-! DEFINITION. Counting an event in the counters of the sessions that select it (R476-R478, R485), and interrupt
causes (R453). -/

namespace Sys2Proof.Machine

open Sys2Proof

/-- Raises an interrupt cause of a function; a bit already set raises no second interrupt (R453). -/
def raiseInt (s : State) (func b : Nat) : State :=
  modFunc s func fun f =>
    if f.intcause.getLsbD b then f
    else { f with intcause := f.intcause ||| BitVec.ofNat 5 (2 ^ b), raised := f.raised ++ [b] }

/-- Key of a counter, laid out as R480's selector: class 1 core, 2 slice, 3 port. -/
def ctrKey (cls unit item : Nat) : Nat := cls * 2 ^ 24 + unit * 2 ^ 12 + item

/-- The first counter slot of a class (R481): 0-3 evc, 4-5 slice, 6-7 link. -/
def ctrSlot (cls : Nat) : Nat := match cls with | 1 => 0 | 2 => 4 | _ => 6

/-- How many counters a unit of a class has. -/
def ctrCount (cls : Nat) : Nat := if cls = 1 then 4 else 2

/-- The selector of a counter slot (R477). -/
def slotSel (e : Session) (slot : Nat) : Nat :=
  if slot < 4 then fld e.sel (12 * slot + 11) (12 * slot) else fld e.xsel (12 * (slot - 4) + 11) (12 * (slot - 4))

/-- A counter wrapped: its CNTOVF bit is set, and INTCAUSE bit 2 of the function where enabled (R477). -/
def setOvf (s : State) (func bit : Nat) : State :=
  let on := s.sessions.any fun e => e.func == func && bit1 e.ovfen bit
  let s := { s with sessions := replaceIf (fun e => e.func == func) (fun e => { e with ovf := setFld e.ovf bit bit 1 }) s.sessions }
  if on then raiseInt s func 2 else s

/-- Adds to a counter of a session; a wrap modulo 2^48 sets its CNTOVF bit (R477). -/
def bumpCounter (s : State) (func key bit n : Nat) : State :=
  match s.sessions.find? fun e => e.func == func with
  | none => s
  | some e =>
    let x := (sget e.counts key).toNat + n
    let put (e : Session) : Session := { e with counts := sset e.counts key (BitVec.ofNat 48 x) }
    let s := { s with sessions := replaceIf (fun e => e.func == func) put s.sessions }
    if 2 ^ 48 ≤ x then setOvf s func bit else s

/-- A session counts an event: it is loaded, and core and slice events are of its owning context, core events during a
planned pass of the kernel's groups alone; link events count for the physical function (R476, R478, R485). -/
def counts (e : Session) (cls ctx kid : Nat) : Bool :=
  e.loaded && (if cls = 3 then e.func == 0
    else e.ctx == ctx && (cls != 1 || (match e.held with | some h => !e.planned || h.1 == kid | none => true)))

/-- Counts n events at a unit of a class, in the running counters that select them (R478). -/
def countEvent (s : State) (cls unit ctx kid ev n : Nat) : State :=
  s.sessions.foldl (fun s e =>
    if counts e cls ctx kid then
      (List.range (ctrCount cls)).foldl (fun s k =>
        let slot := ctrSlot cls + k
        if slotSel e slot = ev ∧ bit1 e.run slot = true then bumpCounter s e.func (ctrKey cls unit k) slot n else s) s
    else s) s

/-- Counts events of an executor's group at one of its cores. -/
def countCore (s : State) (g : Group) (core ev n : Nat) : State := countEvent s 1 core g.ctx g.kid ev n

/-- Event selectors (R478). -/
def selGissue : Nat := 0x001
def selSinstr : Nat := 0x002
def selPinstr : Nat := 0x003
def selTaken : Nat := 0x004
def selLoads : Nat := 0x010
def selStores : Nat := 0x011
def selAtomreq : Nat := 0x012
def selAtomlane : Nat := 0x013
def selRfault : Nat := 0x014
def selWjdone : Nat := 0x020
def selBaracc : Nat := 0x021
def selParks : Nat := 0x022
def selMmaret : Nat := 0x030
def selCpybytes : Nat := 0x031
def selScanstep : Nat := 0x032
def selL2hit : Nat := 0x040
def selL2miss : Nat := 0x041
def selTiledec : Nat := 0x042
def selMeshflit : Nat := 0x043
def selFlittx : Nat := 0x050
def selFlitrx : Nat := 0x051
def selRetry : Nat := 0x052

end Sys2Proof.Machine
end

