-- ==== Sys2Proof/Machine/Page.lean ====
section
/-! DEFINITION. Main memory, core-store copies, the page walk, the checks of an access, stowed tiles, capture and
replayable faults (R17, R18, R252-R275, R305, R317). -/

namespace Sys2Proof.Machine

open Sys2Proof

/-! ### Physical memory -/

/-- First address above main memory (R17). -/
def mainTop : Nat := 0xC000000000

/-- First aperture address (R447). -/
def apertureBase : Nat := 0x10000000000

def inMain (pa n : Nat) : Bool := decide (pa + n ≤ mainTop)

/-- Host bus address of an aperture address, or none for a peer (R447). -/
def hostBus (pa : Nat) : Option Nat :=
  let o := pa % 2 ^ 40
  if apertureBase ≤ pa ∧ mainTop ≤ o then some ((pa / 2 ^ 40 - 1) * 2 ^ 38 + (o - mainTop)) else none

/-- The stack that holds an address (R17). -/
def stackOf (s : State) (pa : Nat) : Nat :=
  let q := pa / 4096
  if s.modeDie then (pa / 0x3000000000) * 3 + q % 3 else q % 12

/-- The offset of an address within its stack (R17). -/
def stackOffset (s : State) (pa : Nat) : Nat :=
  (if s.modeDie then pa % 0x3000000000 / 4096 / 3 else pa / 4096 / 12) * 4096 + pa % 4096

/-- The home slice of an address (R18); the range of a fenced slice belongs to slice h XOR 1 (R501). -/
def homeSlice (s : State) (pa : Nat) : Nat :=
  let f (hi lo : Nat) : Nat := (pa >>> lo) % 2 ^ (hi + 1 - lo)
  let h := Nat.xor (Nat.xor (Nat.xor (f 14 8) (f 21 15)) (Nat.xor (f 28 22) (f 35 29))) (Nat.xor (f 42 36) (f 47 43))
  let n := (stackOf s pa / 3) * 128 + h % 128
  if s.fencedSlices.contains n then Nat.xor n 1 else n

/-- Bytes of main memory at the home slice; an unlisted byte reads 0.
DESIGN CHOICE (log entry 2), unsafe. -/
def memGet (s : State) (pa n : Nat) : List Byte := sgets s.mem pa n

/-- The physical reads that the management port has under way are answered, in order (R471, R498). -/
def answerReads (s : State) : State :=
  if s.mgmt.reads.isEmpty then s
  else
    let answer (e : Nat × Nat) : Reply := { status := 0, data := memGet s e.1 e.2 }
    { s with mgmt := { s.mgmt with reads := [], replies := s.mgmt.replies ++ s.mgmt.reads.map answer } }

def memGetNat (s : State) (pa n : Nat) : Nat := ofBytes (memGet s pa n)

/-- Bytes at a physical address as the device itself reads them: of main memory, of the host, or of a peer, whose memory is no part
of State (R447).
DESIGN CHOICE (log entry 107), unsafe. -/
def physBytes (s : State) (pa n : Nat) : List Byte :=
  if pa < apertureBase then memGet s pa n
  else match hostBus pa with
    | some a => sgets s.hostMem a n
    | none => (List.range n).map fun i => Config.peerByte s.cycle (pa + i)

/-- Bytes written at the home slice, with no other effect; there is no main memory beyond its top (R17). -/
def memPut (s : State) (pa : Nat) (bs : List Byte) : State :=
  if inMain pa bs.length then { s with mem := ssets s.mem pa bs } else s

def memPutNat (s : State) (pa n v : Nat) : State := memPut s pa (toBytes n v)

/-- Some 16-byte unit of the range is poisoned. -/
def poisoned (s : State) (pa n : Nat) : Bool := s.poison.any fun u => decide (pa / 16 ≤ u ∧ u ≤ (pa + n - 1) / 16)

/-- Key of a core-store copy. -/
def copyKey (core pa : Nat) : Nat := core * 2 ^ 52 + pa

/-- A core-store byte: bit 8 marks that the copy is present; bit 9 that the home slice has changed since it was fetched (R317);
bits 12:10 of a dirty byte hold log2 of the size of the write that it is of (R281). -/
def copyByte (b : Byte) : BitVec 13 := BitVec.ofNat 13 (256 + b.toNat)

/-- A byte of a dirty write of 2^k bytes. -/
def dirtyByte (k : Nat) (stale : Bool) (b : Byte) : BitVec 13 :=
  BitVec.ofNat 13 (256 + b.toNat + k % 8 * 1024 + if stale then 512 else 0)

def copyHeld (x : BitVec 13) : Bool := bit1 x 8
def copyStale (x : BitVec 13) : Bool := bit1 x 9
def staleCopy (x : BitVec 13) : BitVec 13 := x ||| 0x200
def copyVal (x : BitVec 13) : Byte := BitVec.ofNat 8 x.toNat
/-- The byte as a clean copy. -/
def cleanCopy (x : BitVec 13) : BitVec 13 := x &&& 0x3FF

/-- First byte and bytes of the write that an entry of the core store is of: a clean copy stands by itself. -/
def extentOf (e : Nat × BitVec 13) : Nat × Nat :=
  let n := 2 ^ fld e.2 12 10
  (e.1 % 2 ^ 52 / n * n, n)

/-- The write that an entry is of meets a range. -/
def extentMeets (pa n : Nat) (e : Nat × BitVec 13) : Bool :=
  decide (pa < (extentOf e).1 + (extentOf e).2 ∧ (extentOf e).1 < pa + n)

/-- A write touches the aligned 8 bytes that hold a watched address. -/
def touches (pa n p : Nat) : Bool := decide (p / 8 * 8 < pa + n ∧ pa < p / 8 * 8 + 8)

/-- Executors parked on the bytes of a write: watched WAITAs and SEMPs (R299, R339). -/
def watchersOf (s : State) (pa n : Nat) : List (ThreadId × Bool) :=
  (whoWith s fun _ t => match t.run with | .parked (.waita _ p w) => w != .reread && touches pa n p | _ => false).map (·, false) ++
    (whoWith s fun _ t => match t.run with | .parked (.semp p) => touches pa n p | _ => false).map (·, true)

/-- Wakes the executors parked on the bytes of a write, with the tag of the write (R299, R339, R460). -/
def wakeWatchers (s : State) (pa n : Nat) (tag : BitVec 48) : State :=
  let ws := watchersOf s pa n
  let s := ws.foldl (fun s w => modThread s w.1 fun t => { t with lastwake := tag }) s
  { s with agenda := s.agenda ++ ws.map fun w => Turn.event (if w.2 then .sempWake w.1 else .waitaWake w.1) }

/-- The own tag of a write by a unit: taken where the write wakes someone (R459, R460). -/
def writeTag (s : State) (unit pa n : Nat) : BitVec 48 × State :=
  if (watchersOf s pa n).isEmpty then (0, s) else takeTag s unit

/-- Every core's copies of the bytes are stale: a write-back of them is discarded, of a dirty write that meets them as a whole (R281,
R317). -/
def overtake (s : State) (pa n : Nat) : State :=
  let mark (m : Sparse 13) : Sparse 13 := m.map fun e => if extentMeets pa n e then (e.1, staleCopy e.2) else e
  { s with dirty := mark s.dirty, clean := mark s.clean }

/-- Writes a core's dirty bytes that meet a test of entries to their home slices, less those that a wider write has overtaken, and
keeps them as clean copies (R305, R317). -/
def writeBackE (s : State) (core : Nat) (p : Nat × BitVec 13 → Bool) : State :=
  let mine (e : Nat × BitVec 13) : Bool := e.1 / 2 ^ 52 == core && p e
  let out := s.dirty.filter mine
  let s := { s with
    dirty := s.dirty.filter fun e => !mine e
    clean := out.foldl (fun m e => sset m e.1 (cleanCopy e.2)) s.clean }
  (out.filter fun e => !copyStale e.2).foldl (fun s e =>
    wakeWatchers (memPut s (e.1 % 2 ^ 52) [copyVal e.2]) (e.1 % 2 ^ 52) 1 0) s

/-- The write-back of the dirty bytes whose address meets a test. -/
def writeBack (s : State) (core : Nat) (p : Nat → Bool) : State := writeBackE s core fun e => p (e.1 % 2 ^ 52)

/-- Drops a core's clean copies, and what it wrote over copies that a wider write has overtaken (R313, R314, R317). -/
def dropClean (s : State) (core : Nat) : State :=
  { s with
    clean := skeep s.clean fun k => !(k / 2 ^ 52 == core)
    dirty := s.dirty.filter fun e => !(e.1 / 2 ^ 52 == core && copyStale e.2) }

/-- The single-copy-atomic unit of an address: its aligned 16 bytes (R281). -/
def inUnits (pa n a : Nat) : Bool := decide (pa / 16 ≤ a / 16 ∧ a / 16 ≤ (pa + n - 1) / 16)

/-- A core's copies of the units of a range leave its core store (R305).
DESIGN CHOICE (log entry 82), unsafe. -/
def evictUnits (s : State) (core pa n : Nat) : State :=
  let s := writeBack s core (inUnits pa n)
  { s with clean := skeep s.clean fun k => !(k / 2 ^ 52 == core && inUnits pa n (k % 2 ^ 52)) }

/-- A write performed at the home slice, with the tag of its event; the writing core, if any, keeps no copy of its units (R305,
R317). -/
def homeWrite (s : State) (core : Option Nat) (pa : Nat) (bs : List Byte) (tag : BitVec 48) : State :=
  let s := match core with | some c => evictUnits s c pa bs.length | none => s
  wakeWatchers (overtake (memPut s pa bs) pa bs.length) pa bs.length tag

/-- A core's copy of one byte: the dirty one, or else the clean one. -/
def copyAt (s : State) (core pa : Nat) : BitVec 13 :=
  let d := sget s.dirty (copyKey core pa)
  if copyHeld d then d else sget s.clean (copyKey core pa)

/-- One byte as a core sees it in its core store: dirty copy, clean copy, or home slice (R305). -/
def coreByte (s : State) (core pa : Nat) : Byte :=
  let c := copyAt s core pa
  if copyHeld c then copyVal c else sget s.mem pa

/-- Fetches what a core does not hold of the units of a range, so that a unit's bytes are of one moment (R281, R305, R306).
DESIGN CHOICE (log entry 82), unsafe. -/
def fetchUnits (s : State) (core pa n : Nat) : State :=
  let first := pa / 16 * 16
  let keep (m : Sparse 13) (i : Nat) : Sparse 13 :=
    if copyHeld (copyAt s core (first + i)) then m else sset m (copyKey core (first + i)) (copyByte (sget s.mem (first + i)))
  { s with clean := (List.range (((pa + n - 1) / 16 + 1) * 16 - first)).foldl keep s.clean }

/-- Reads through the core store, which keeps copies of what came from the home slice.
DESIGN CHOICE (log entry 82), unsafe. -/
def coreRead (s : State) (core pa n : Nat) : List Byte × State :=
  ((List.range n).map fun i => coreByte s core (pa + i), fetchUnits s core pa n)

/-- One single-copy-atomic store of at most 16 bytes in the core store: dirty bytes, which as a whole are stale where they lie over a
stale copy. An earlier dirty write of other bytes that it meets goes to its home slice first (R281, R305, R317). -/
def coreWriteUnit (s : State) (core pa : Nat) (bs : List Byte) : State :=
  let n := bs.length
  let s := writeBackE s core fun e => extentMeets pa n e && extentOf e != (pa, n)
  let f := fetchUnits s core pa n
  let stale := (List.range n).any fun i => copyStale (copyAt s core (pa + i))
  let clean := skeep f.clean fun k => !decide (copyKey core pa ≤ k ∧ k < copyKey core pa + n)
  { s with dirty := ssets s.dirty (copyKey core pa) (bs.map (dirtyByte (Nat.log2 n) stale)), clean := clean }

/-- The single-copy-atomic parts of an access: the whole up to 16 bytes, and 16 bytes each beyond (R281); n bounds them. -/
def atomicParts (n pa : Nat) (bs : List Byte) : List (Nat × List Byte) :=
  match n with
  | 0 => []
  | k + 1 => if bs.isEmpty then [] else (pa, bs.take 16) :: atomicParts k (pa + 16) (bs.drop 16)

/-- A store performed in the core store (R305, R317).
DESIGN CHOICE (log entry 82), unsafe. -/
def coreWrite (s : State) (core pa : Nat) (bs : List Byte) (tag : BitVec 48) : State :=
  wakeWatchers ((atomicParts bs.length pa bs).foldl (fun s p => coreWriteUnit s core p.1 p.2) s) pa bs.length tag

/-- A read performed at the home slice for a core, after the core's own dirty bytes there have been written back
(R305, R307). -/
def wideRead (s : State) (core pa n : Nat) : List Byte × State :=
  let s := evictUnits s core pa n
  (memGet s pa n, s)

/-- Writes a context register and, for 0x200-0x2FF, its image in the control block (R106, R114). -/
def ctxRegWrite (s : State) (ctx n : Nat) (v : W64) : State :=
  match getCtx s ctx with
  | none => s
  | some c =>
    let s := modCtxReg s ctx n v
    if 0x200 ≤ n ∧ n < 0x300 then memPutNat s (c.area + 0x800 + 8 * (n - 0x200)) 8 v.toNat else s

/-! ### The walk -/

/-- A translation: the entry's words, its level, the physical base of its page (or, at level 0, its 64 KiB), the bits
it covers, and the address of the entry. -/
structure Leaf where
  w0 : W64
  w1 : W64
  level : Nat
  pa : Nat
  bits : Nat
  ea : Nat
deriving DecidableEq, Repr

/-- What a walk ends in (R254, R255, R258). -/
inductive Walk where
  | leaf (l : Leaf)
  | notMapped (level : Nat)
  | fatal (sub level psz : Nat)
  | poisonLeaf (level psz : Nat)
  | poisonTable
  /-- the walk queue of the die is full (R268) -/
  | queueFull
deriving DecidableEq, Repr

def leafV (w : W64) : Bool := bit1 w 0
def leafL (w : W64) : Bool := bit1 w 1
def leafSpan (w : W64) : Bool := bit1 w 2
def leafRd (w : W64) : Bool := bit1 w 3
def leafWr (w : W64) : Bool := bit1 w 4
def leafEx (w : W64) : Bool := bit1 w 5
def leafStow (w : W64) : Bool := bit1 w 6
def leafCapt (w : W64) : Bool := bit1 w 7
def leafPoison (w : W64) : Bool := bit1 w 8
def leafCpol (w : W64) : Nat := fld w 11 9
/-- MIG of a leaf; bit 12 of a stowed leaf is an address bit (R256). -/
def leafMig (w : W64) : Bool := bit1 w 12 && !leafStow w

/-- Page size code of R261. -/
def pszOf (level : Nat) (w0 : W64) : Nat :=
  if level = 0 then (if leafSpan w0 then 1 else 0) else if level = 1 then 2 else 3

/-- Index bits of a level (R254). -/
def walkIndex (va : BitVec 72) (level : Nat) : Nat :=
  match level with
  | 5 => fld va 71 61
  | 4 => fld va 60 52
  | 3 => fld va 51 43
  | 2 => fld va 42 34
  | 1 => fld va 33 25
  | _ => fld va 24 16

/-- The two words of a page-table entry, read at the home slice (R255). -/
def readEntry (s : State) (pa : Nat) : W64 × W64 :=
  (BitVec.ofNat 64 (memGetNat s pa 8), BitVec.ofNat 64 (memGetNat s (pa + 8) 8))

/-- Physical base that an entry names at a level. -/
def entryPa (level : Nat) (w0 : W64) : Nat :=
  if level = 2 then fld w0 51 34 * 2 ^ 34 else if level = 1 then fld w0 51 25 * 2 ^ 25 else fld w0 51 16 * 2 ^ 16

/-- Index-block address of a stowed leaf (R269). -/
def indexBlock (w0 : W64) : Nat := fld w0 51 12 * 4096

/-- Word 0 without PHYS and CAPT, for the span comparison (R258). -/
def spanCmp (w0 : W64) : Nat := w0.toNat - fld w0 51 16 * 2 ^ 16 - fld w0 7 7 * 2 ^ 7

/-- The span run agrees (R258); `run` holds word 0 of every entry of a stowed run. -/
def spanAgrees (f0 f1 e0 e1 : W64) (run : List W64) (ix : Nat) : Bool :=
  leafV f0 && leafL f0 && leafSpan f0 && f1 == e1 && spanCmp f0 == spanCmp e0 &&
    (if leafStow e0 then run.all fun e => fld e 51 16 == fld f0 51 16 && fld e 15 13 == fld f0 15 13
     else fld f0 20 16 == 0 && fld e0 51 16 == fld f0 51 16 + ix % 32)

/-- An address lies in the reserved range of R17. -/
def inReserved (pa : Nat) : Bool := decide (mainTop ≤ pa ∧ pa < apertureBase)

/-- The checks of R258 on an entry alone, up to subcode 4. -/
def entryShape (e0 e1 : W64) (level : Nat) : Option Nat :=
  let lf := leafL e0
  if fld e0 63 52 ≠ 0 ∨ (lf = false ∧ (fld e0 12 2 ≠ 0 ∨ fld e1 15 0 ≠ 0)) ∨
     (lf = true ∧ leafStow e0 = false ∧ fld e0 15 13 ≠ 0) then some 1
  else if (lf = true ∧ 3 ≤ level) ∨ (lf = false ∧ level = 0) then some 2
  else if lf = true ∧ leafSpan e0 = true ∧ level ≠ 0 then some 3
  else if lf = true ∧ ((level = 1 ∧ fld e0 24 16 ≠ 0) ∨ (level = 2 ∧ fld e0 33 16 ≠ 0)) then some 4
  else none

/-- The checks of R258 from subcode 5 on. `f0 f1` is the run's first entry, `run` word 0 of every entry of a stowed run. -/
def entryPlace (e0 e1 f0 f1 : W64) (run : List W64) (level ix : Nat) : Option Nat :=
  let page := if leafStow e0 then indexBlock e0 else entryPa level e0
  if leafL e0 = false then (if inMain (fld e0 51 13 * 8192) 8192 then none else some 6)
  else if leafSpan e0 = true ∧ spanAgrees f0 f1 e0 e1 run ix = false then some 5
  else if inReserved page then some 6
  else if 4 ≤ leafCpol e0 ∨ (leafCpol e0 ≤ 2 ∧ apertureBase ≤ page) then some 7
  else if (leafWr e0 = true ∧ leafRd e0 = false) ∨
     (leafStow e0 = true ∧ (leafWr e0 = true ∨ leafEx e0 = true ∨ leafRd e0 = false ∨ level ≠ 0)) ∨
     (leafStow e0 = false ∧ fld e1 15 8 ≠ 0) then some 8
  else none

/-- CheckEntry (R258): the first failing subcode, if any. -/
def checkEntry (e0 e1 f0 f1 : W64) (run : List W64) (level ix : Nat) : Option Nat :=
  match entryShape e0 e1 level with
  | some c => some c
  | none => entryPlace e0 e1 f0 f1 run level ix

/-- Bytes of a span run that CheckEntry reads besides the entry: the first entry, or all of a stowed run (R258). -/
def runBytes (e0 : W64) (level : Nat) : Nat :=
  if leafL e0 = true ∧ leafSpan e0 = true ∧ level = 0 then (if leafStow e0 then 512 else 16) else 0

/-- The walk from a table at a level (R254, R255). A poisoned entry at level 1 or 2 is a leaf where its data say so, and a leaf that is
malformed by its level counts as the largest page.
DESIGN CHOICE (log entry 104), unsafe. -/
def walkFrom (s : State) (va : BitVec 72) (table level : Nat) : Walk :=
  let ix := walkIndex va level
  let ea := table + 16 * ix
  let (e0, e1) := readEntry s ea
  let fa := table + 16 * (ix / 32 * 32)
  let (f0, f1) := readEntry s fa
  let n := runBytes e0 level
  let fatal (c : Nat) : Walk := .fatal c level (if leafL e0 then pszOf (min level 2) e0 else 0)
  if poisoned s ea 16 then
    if level = 0 ∨ (leafL e0 = true ∧ level ≤ 2) then .poisonLeaf level (pszOf level e0) else .poisonTable
  else if leafV e0 = false then .notMapped level
  else match entryShape e0 e1 level with
  | some c => fatal c
  | none =>
    if 0 < n ∧ poisoned s fa n = true then .poisonLeaf level (pszOf level e0)
    else match entryPlace e0 e1 f0 f1 ((List.range (n / 16)).map fun i => (readEntry s (fa + 16 * i)).1) level ix with
    | some c => fatal c
    | none =>
      if leafL e0 then
        let pa := if level = 0 ∧ leafSpan e0 = true ∧ leafStow e0 = false
          then fld f0 51 21 * 2 ^ 21 + fld va 20 16 * 2 ^ 16 else entryPa level e0
        .leaf { w0 := e0, w1 := e1, level := level, pa := pa,
                bits := if level = 0 then 16 else if level = 1 then 25 else 34, ea := ea }
      else match level with
        | 0 => .notMapped 0
        | l + 1 => walkFrom s va (fld e0 51 13 * 8192) l

/-- The address of the entry in which a walk from a table ends (R254, R268). -/
def lastEntry (s : State) (va : BitVec 72) (table level : Nat) : Nat :=
  let ea := table + 16 * walkIndex va level
  let (e0, e1) := readEntry s ea
  match level with
  | 0 => ea
  | l + 1 =>
    if leafV e0 = true ∧ leafL e0 = false ∧ checkEntry e0 e1 0 0 [] (l + 1) 0 = none
    then lastEntry s va (fld e0 51 13 * 8192) l else ea

/-- The walk of a context's tables from PTROOT (R113, R254).
DESIGN CHOICE (log entry 17), unsafe. -/
def walk (s : State) (ctx : Nat) (va : BitVec 72) : Walk := walkFrom s va (ctxReg s ctx 0x213).toNat 5

/-- A TLB entry covers an address of its context. -/
def tlbCovers (e : TlbEntry) (ctx : Nat) (va : BitVec 72) : Bool :=
  e.ctx == ctx && e.base.toNat / 2 ^ e.bits == va.toNat / 2 ^ e.bits

def tlbLeaf (e : TlbEntry) : Leaf := { w0 := e.w0, w1 := e.w1, level := e.level, pa := e.pa, bits := e.bits, ea := e.ea }

/-- Size of the page whose translation an entry holds part of: a span's entries hold 64 KiB each of its 2 MiB (R277). -/
def pageBits (e : TlbEntry) : Nat := if e.level = 0 ∧ leafSpan e.w0 = true then 21 else e.bits

/-- Base of that page. -/
def pageBase (e : TlbEntry) : BitVec 72 := BitVec.ofNat 72 (e.base.toNat / 2 ^ pageBits e * 2 ^ pageBits e)

/-- Looks an address up in a core's TLB, then in its die's (R266). -/
def tlbFind (s : State) (core ctx : Nat) (va : BitVec 72) : Option Leaf :=
  match s.tlb.find? fun e => e.core == some core && tlbCovers e ctx va with
  | some e => some (tlbLeaf e)
  | none => (s.tlb.find? fun e => e.core == none && e.die == dieOf core && tlbCovers e ctx va).map tlbLeaf

/-- Adds an entry as the youngest, dropping the oldest of a full TLB (R266).
DEDUCED (log entry 89), unsafe. -/
def tlbAdd (s : State) (e : TlbEntry) : State :=
  let same (x : TlbEntry) : Bool := x.core == e.core && x.die == e.die
  let cap := if e.core.isSome then 64 else 16384
  let l := if cap ≤ (s.tlb.filter same).length then s.tlb.eraseP same else s.tlb
  { s with tlb := l ++ [e] }

/-- Fills both TLBs of a core from a walk. -/
def tlbFill (s : State) (core ctx : Nat) (va : BitVec 72) (l : Leaf) : State :=
  let e : TlbEntry := { core := some core, die := dieOf core, ctx := ctx,
                        base := BitVec.ofNat 72 (va.toNat / 2 ^ l.bits * 2 ^ l.bits), bits := l.bits, w0 := l.w0,
                        w1 := l.w1, level := l.level, pa := l.pa, ea := l.ea }
  tlbAdd (tlbAdd s e) { e with core := none }

/-! ### Checks of an access -/

/-- The kinds of access of R261. -/
inductive Acc where
  | read | write | rmw | fetch | eread | ewrite
deriving DecidableEq, Repr

def accCode (a : Acc) : Nat :=
  match a with | .read => 0 | .write => 1 | .rmw => 2 | .fetch => 3 | .eread => 4 | .ewrite => 5

def accWrites (a : Acc) : Bool := match a with | .write | .rmw | .ewrite => true | _ => false
def accReads (a : Acc) : Bool := match a with | .write | .ewrite => false | _ => true

/-- What the checks of an access answer (R260). -/
inductive Chk where
  /-- the access may proceed, at a physical address -/
  | ok (l : Leaf) (pa : Nat)
  /-- a trap: cause code, TINFO -/
  | trap (cause info : Nat)
  /-- a replayable fault: kind; level, plus 8 times the page size code, of the deciding entry -/
  | replay (kind level : Nat)
  /-- a context fatal event: FCAUSE -/
  | ctxFatal (cause : Nat)
  /-- a capture copy must end first (R275) -/
  | capture
  /-- an access of the debug window (R472) -/
  | debug
  /-- the walk that it needs finds the walk queue full (R268) -/
  | queueFull
deriving DecidableEq, Repr

/-- Trap causes (R192). -/
def causeIllop : Nat := 0x01
def causePriv : Nat := 0x02
def causeStallshort : Nat := 0x03
def causeLandtag : Nat := 0x04
def causeMisalign : Nat := 0x05
def causePageprot : Nat := 0x06
def causePagefatal : Nat := 0x07
def causeStowbad : Nat := 0x08
def causePoison : Nat := 0x09
def causeBankmode : Nat := 0x0A
def causeCaplimit : Nat := 0x0B
def causeCapstate : Nat := 0x0C
def causeGridbar : Nat := 0x0D
def causeAccrange : Nat := 0x0E
def causeChnstate : Nat := 0x0F
def causeReach : Nat := 0x10
def causeTrapinstr : Nat := 0x20
def causeBkpt : Nat := 0x21

/-- TINFO of a page trap (R261). -/
def pageInfo (sub : Nat) (a : Acc) (psz level tile : Nat) : Nat :=
  sub + accCode a * 2 ^ 8 + psz * 2 ^ 11 + level * 2 ^ 13 + tile * 2 ^ 16

/-- CRC-16/CCITT-FALSE, one byte, bit by bit (R271). -/
def crc16Bits (n : Nat) (c : Nat) : Nat :=
  match n with
  | 0 => c
  | k + 1 => crc16Bits k (if 0x8000 ≤ c then Nat.xor ((c * 2) % 65536) 0x1021 else c * 2)

def crc16 (bs : List Byte) : Nat := bs.foldl (fun c b => crc16Bits 8 (Nat.xor c (b.toNat * 256))) 0xFFFF

/-- Code lengths of a code book (R69, R105, R272). -/
def bookLengths (s : State) (area cb : Nat) : List Nat :=
  (memGet s (area + 0x2000 + 128 * cb) 128).flatMap fun b => [b.toNat % 16, b.toNat / 16]

/-- Canonical codes (R272): (length, code, symbol). -/
def bookCodes (lens : List Nat) : List (Nat × Nat × Nat) :=
  let syms := lens.zip (List.range lens.length)
  ((List.range 15).foldl (fun (acc : List (Nat × Nat × Nat) × Nat) i =>
    let len := i + 1
    let here := syms.filter fun p => p.1 == len
    let rows := (here.zip (List.range here.length)).map fun p => (len, acc.2 + p.2, p.1.2)
    (acc.1 ++ rows, (acc.2 + here.length) * 2)) ([], 0)).1

/-- A symbol of the stream, or the subcode of its failure, 0 for a poisoned read; n is the number of bits that may still be
read. -/
def readSymbol (codes : List (Nat × Nat × Nat)) (bitAt : Nat → Option Bool) (pbits : Nat) (n pos len code : Nat) :
    Except Nat (Nat × Nat) :=
  match n with
  | 0 => .error 1
  | k + 1 =>
    if pbits ≤ pos then .error 2
    else match bitAt pos with
    | none => .error 0
    | some b =>
      let code := code * 2 + (if b then 1 else 0)
      let len := len + 1
      match codes.find? fun c => c.1 == len && c.2.1 == code with
      | some c => .ok (c.2.2, pos + 1)
      | none =>
        if codes.any fun c => decide (len < c.1) && c.2.1 / 2 ^ (c.1 - len) == code
        then readSymbol codes bitAt pbits k (pos + 1) len code else .error 1

/-- n symbols of the stream. -/
def readSymbols (codes : List (Nat × Nat × Nat)) (bitAt : Nat → Option Bool) (pbits : Nat) (wc : Bool) (n pos : Nat) :
    Except Nat (List Nat × Nat) :=
  match n with
  | 0 => .ok ([], pos)
  | k + 1 =>
    match readSymbol codes bitAt pbits 15 pos 0 0 with
    | .error e => .error e
    | .ok (sym, pos) =>
      if wc = true ∧ 15 < sym then .error 1
      else match readSymbols codes bitAt pbits wc k pos with
        | .error e => .error e
        | .ok (r, pos) => .ok (sym :: r, pos)

/-- Bytes of a decoded symbol list: 4-bit symbols pack two a byte, the even one low (R271). -/
def packSymbols (wc : Bool) (l : List Nat) : List Byte :=
  if wc then
    (List.range (l.length / 2)).map fun j => BitVec.ofNat 8 (l.getD (2 * j) 0 + 16 * l.getD (2 * j + 1) 0)
  else l.map (BitVec.ofNat 8)

/-- The failure of a decode that read a poisoned code book: a context fatal event (R103). -/
def badBook : Nat := 8

/-- The decoding of one stowed tile (R270-R272): its 4,096 bytes, or the STOWBAD subcode, 0 for a poisoned read, `badBook` for
a poisoned code book. What is read is tested for poison in the order of the reads. -/
def decodeTile (s : State) (area cb ib k : Nat) : Except Nat (List Byte) :=
  if poisoned s (ib + 8 * k) 8 then .error 0
  else
    let ie := BitVec.ofNat 64 (ofBytes (physBytes s (ib + 8 * k) 8))
    let n := fld ie 52 46 + 1
    let base := fld ie 45 0 * 64
    if fld ie 63 54 ≠ 0 then .error 5
    else if inMain base (64 * n) = false then .error 6
    else if bit1 ie 53 then
      if n ≠ 64 then .error 6
      else if poisoned s base 4096 then .error 0
      else .ok (memGet s base 4096)
    else if poisoned s (area + 0x2000 + 128 * cb) 128 then .error badBook
    else
      let lens := bookLengths s area cb
      let kraft := lens.foldl (fun a l => if l = 0 then a else a + 2 ^ (15 - l)) 0
      if 2 ^ 15 < kraft then .error 7
      else if poisoned s base 8 then .error 0
      else
        let h := BitVec.ofNat 64 (memGetNat s base 8)
        let pb := fld h 50 32
        let wc := bit1 h 14
        if fld h 63 51 ≠ 0 ∨ bit1 h 15 = true then .error 5
        else if fld h 13 0 ≠ (if wc then 8192 else 4096) then .error 2
        else if n ≠ ceilDiv (64 + pb) 512 then .error 6
        else
          let bitAt (j : Nat) : Option Bool :=
            let a := base + 8 + j / 8
            if s.poison.contains (a / 16) then none else some (bit1 (sget s.mem a) (j % 8))
          match readSymbols (bookCodes lens) bitAt pb wc (fld h 13 0) 0 with
          | .error e => .error e
          | .ok (syms, pos) =>
            let pad (j : Nat) : Option Nat := match bitAt (pb + j) with | none => some 0 | some b => if b then some 3 else none
            if pos ≠ pb then .error 2
            else match (List.range (64 * (8 * n - 1) - pb)).findSome? pad with
            | some e => .error e
            | none =>
              let tile := packSymbols wc syms
              if crc16 tile ≠ fld h 31 16 then .error 4 else .ok tile

/-- Tile index of an address in a stowed page (R269). -/
def tileIndex (l : Leaf) (va : BitVec 72) : Nat := if leafSpan l.w0 then fld va 20 12 else fld va 15 12

/-- Address of the tile that holds an address. -/
def tileVa (va : BitVec 72) : BitVec 72 := BitVec.ofNat 72 (va.toNat / 4096 * 4096)

/-- The subcode under which a failed decode is logged: 2 for one that met poison (R272). -/
def stowSub (sub : Nat) : Nat := if sub = 0 ∨ sub = badBook then 2 else sub

/-- The decoded bytes of a tile, from the slice's decoded lines or by decoding it now, all or nothing; a failure is
logged as STOW_FAULT with the tile and subcode (R272, R273). Decoded lines leave the slice by TLBINV and CFLUSH alone.
DESIGN CHOICE (log entry 105), unsafe. -/
def stowTile (s : State) (ctx : Nat) (l : Leaf) (va : BitVec 72) : Except Nat (List Byte) × State :=
  match getCtx s ctx with
  | none => (.error 0, s)
  | some c =>
    match c.decoded.find? fun d => d.va == tileVa va with
    | some d => (.ok d.tile, s)
    | none =>
      let ib := indexBlock l.w0
      match decodeTile s c.area (fld l.w1 15 8) ib (tileIndex l va) with
      | .ok tile =>
        let d : Decoded := { va := tileVa va, slice := homeSlice s ib, span := leafSpan l.w0, tile := tile }
        (.ok tile, countEvent (modCtx s ctx fun c => { c with decoded := c.decoded ++ [d] }) 2 (homeSlice s ib) ctx 0 selTiledec 1)
      | .error sub =>
        (.error sub, emit s (unitSlice (homeSlice s ib)) (some ctx) evStowFault ctx (tileIndex l va * 256 + stowSub sub))

/-- Granule of an address (R275). -/
def granuleOf (va : BitVec 72) : BitVec 72 := BitVec.ofNat 72 (va.toNat / 65536 * 65536)

/-- Steps 3-8 of R260 on a translation. An entry that makes a replayable fault is no longer cached (R266). `capt`: the access is a write of a REPLAY kernel in pass 0 (R275).
DEDUCED (log entry 62), unsafe. -/
def checkLeaf (s : State) (ctx : Nat) (l : Leaf) (va : BitVec 72) (a : Acc) (size : Nat) (capt : Bool) : Chk × State :=
  let psz := pszOf l.level l.w0
  let pa := l.pa + va.toNat % 2 ^ l.bits
  let info (sub : Nat) : Nat := pageInfo sub a psz l.level 0
  if leafPoison l.w0 then (.trap causePoison (info 1), s)
  else if accReads a = true ∧ a ≠ .fetch ∧ leafRd l.w0 = false then (.trap causePageprot (info 1), s)
  else if a = .fetch ∧ leafEx l.w0 = false then (.trap causePageprot (info 3), s)
  else if accWrites a = true ∧ leafStow l.w0 = true then (.trap causePageprot (info 4), s)
  else if accWrites a = true ∧ leafWr l.w0 = false then (.trap causePageprot (info 2), s)
  else if accWrites a = true ∧ leafMig l.w0 = true then
    (.replay 2 (l.level + 8 * psz), { s with tlb := s.tlb.filter fun e => !tlbCovers e ctx va })
  else if accWrites a = true ∧ capt = true ∧ leafCapt l.w0 = false then
    if l.level ≠ 0 then (.trap causePagefatal (info 9), s)
    else match getCtx s ctx with
      | none => (.ok l pa, s)
      | some c =>
        if c.capturing.contains (granuleOf va) then (.capture, s)
        else if fld (ctxReg s ctx 0x21E) 16 0 + c.capturing.length = fld (ctxReg s ctx 0x21D) 16 0 then (.trap causePagefatal (info 10), s)
        else (.capture, { modCtx s ctx (fun c => { c with capturing := c.capturing ++ [granuleOf va] }) with
                          agenda := s.agenda ++ [Turn.event (.captureCopyDone ctx (granuleOf va))] })
  else if leafStow l.w0 then
    match stowTile s ctx l va with
    | (.ok _, s) => (.ok l pa, s)
    | (.error 0, s) => (.trap causePoison (info 2), s)
    | (.error 8, s) => (.ctxFatal 3, s)
    | (.error sub, s) => (.trap causeStowbad (pageInfo sub a psz l.level (tileIndex l va)), s)
  else if accReads a = true ∧ pa < mainTop ∧ poisoned s pa size = true then (.trap causePoison (info 2), s)
  else (.ok l pa, s)

/-! ### Walk requests and prefetches -/

/-- Some bank of a core serves its cache (R283). -/
def hasCacheBank (s : State) (core : Nat) : Bool :=
  decide (((s.groups.filter fun g => g.cores.contains core).map fun g => (g.modes.filter (· != .cache)).length).sum < 32)

/-- PREF under a translation (R294): nothing where a check of R260 fails or no cache bank is there; a stowed tile is decoded
into the decoded lines (R269). -/
def prefetch (s : State) (u : WalkUse) (l : Leaf) : State :=
  match checkLeaf s u.ctx l u.va .read u.size false with
  | (.ok l pa, s) =>
    if u.l2 = false ∧ leafCpol l.w0 = 0 ∧ leafStow l.w0 = false ∧ hasCacheBank s u.core = true
    then fetchUnits s u.core (pa / 128 * 128) 128 else s
  | (_, s) => s

/-- Requests that wait at a die (R268). -/
def walksOf (s : State) (die : Nat) : List WalkReq := s.walkQ.filter fun q => q.die == die

/-- Requests that a die's queue holds (R268). -/
def walkSlots : Nat := 512

/-- One request is served: its entry, where it is a leaf, is cached for everything that asked for it (R266, R268). -/
def serveWalk (s : State) (q : WalkReq) : State :=
  q.uses.foldl (fun s u =>
    match walk s u.ctx u.va with
    | .leaf l => prefetch (tlbFill s u.core u.ctx u.va l) u l
    | _ => s) { s with walkQ := s.walkQ.erase q }

/-- A request enters its die's queue, or joins one for the same entry (R268). -/
def queueWalk (s : State) (u : WalkUse) : State :=
  let die := dieOf u.core
  let at_ := lastEntry s u.va (ctxReg s u.ctx 0x213).toNat 5
  let same (q : WalkReq) : Bool := q.die == die && q.entry == at_
  if s.walkQ.any same then { s with walkQ := replaceIf same (fun q => { q with uses := q.uses ++ [u] }) s.walkQ }
  else { s with walkQ := s.walkQ ++ [{ die := die, entry := at_, uses := [u] }] }

/-- Translates for a core through the TLBs, by a walk that takes its place after the requests of its die that wait already; or,
for an agent without a TLB, by a walk (R266, R268).
DESIGN CHOICE (log entry 17), unsafe. -/
def translate (s : State) (core : Option Nat) (ctx : Nat) (va : BitVec 72) : Walk × State :=
  match core with
  | none => (walk s ctx va, s)
  | some c =>
    match tlbFind s c ctx va with
    | some l => (.leaf l, s)
    | none =>
      let before := walksOf s (dieOf c)
      if walkSlots ≤ before.length then (.queueFull, s)
      else
        let s := before.foldl serveWalk s
        match walk s ctx va with
        | .leaf l => (.leaf l, tlbFill s c ctx va l)
        | w => (w, s)

/-- The checks of R260 in order, after the alignment check. -/
def checkAccess (s : State) (core : Option Nat) (ctx : Nat) (va : BitVec 72) (a : Acc) (size : Nat) (capt : Bool) :
    Chk × State :=
  let reach := fld va 71 64
  let debug := match getCtx s ctx with | some c => c.debug | none => false
  if reach = 0xFE ∧ debug = true then (.debug, s)
  else if 0xF0 ≤ reach then (.trap causeReach reach, s)
  else match translate s core ctx va with
  | (.leaf l, s) => checkLeaf s ctx l va a size capt
  | (.notMapped lvl, s) => (.replay 1 lvl, s)
  | (.fatal sub lvl psz, s) => (.trap causePagefatal (pageInfo sub a psz lvl 0), s)
  | (.poisonLeaf lvl psz, s) => (.trap causePoison (pageInfo 3 a psz lvl 0), s)
  | (.poisonTable, s) => (.ctxFatal 4, s)
  | (.queueFull, s) => (.queueFull, s)

/-! ### Replayable faults -/

/-- Size of the fault ring (R263). -/
def ringSize (s : State) (ctx : Nat) : Nat := 2 ^ (fld (ctxReg s ctx 0x218) 3 0 + 4)

def ringRoom (s : State) (ctx : Nat) : Bool :=
  bit1 (ctxReg s ctx 0x218) 4 &&
    decide (((ctxReg s ctx 0x219).toNat + 2 ^ 32 - (ctxReg s ctx 0x21A).toNat % 2 ^ 32) % 2 ^ 32 < ringSize s ctx)

/-- Writes a held fault's ring entry and interrupts the owning function (R263, R264). -/
def writeRing (s : State) (ctx : Nat) (f : OutFault) : State :=
  let wr := (ctxReg s ctx 0x219).toNat
  let at_ := (ctxReg s ctx 0x217).toNat + 32 * (wr % ringSize s ctx)
  let bytes := toBytes 8 (fld f.addr 63 0) ++ toBytes 1 (fld f.addr 71 64) ++ toBytes 1 f.kind ++ toBytes 1 f.access ++
    toBytes 1 (if f.kind = 1 then f.level % 8 else 0) ++ toBytes 4 f.tag.toNat ++ toBytes 6 f.wake.toNat ++ toBytes 2 (min f.count 0xFFFF) ++
    toBytes 8 f.stamp.toNat
  let s := memPut s at_ bytes
  let s := ctxRegWrite s ctx 0x219 (BitVec.ofNat 64 ((wr + 1) % 2 ^ 32))
  let func := match getCtx s ctx with | some c => c.func | none => 0
  let s := modCtx s ctx fun c =>
    { c with ringFull := false, faults := replaceIf (fun x => x.tag == f.tag) (fun x => { x with inRing := true }) c.faults }
  raiseInt s func 0

/-- A matching outstanding fault (R264). -/
def faultMatches (f : OutFault) (kind : Nat) (va : BitVec 72) (write : Bool) : Bool :=
  f.kind == kind && f.granule == va.toNat / 65536 && f.write == write

/-- Opens or joins a replayable fault of a unit: its tag, and whether this access opened it. PAGE_FAULT is logged when
`logIt`, under the filter of its agent (R262-R264, R467); `stc` is the resume count in its payload. The stamp of its ring entry is that
of the fault, whenever the entry is written.
DESIGN CHOICE (log entry 106), unsafe. -/
def openFault (s : State) (ctx unit filt : Nat) (kind level : Nat) (va : BitVec 72) (a : Acc) (logIt : Bool) (stc : Nat) :
    W32 × State :=
  match getCtx s ctx with
  | none => (0, s)
  | some c =>
    match c.faults.find? fun f => faultMatches f kind va (accWrites a) with
    | some f =>
      let s := modCtx s ctx fun c =>
        { c with faults := replaceIf (fun x => x.tag == f.tag) (fun x => { x with count := x.count + 1 }) c.faults }
      (f.tag, if logIt then (emitFilt s filt unit (some ctx) evPageFault ctx (f.tag.toNat + stc * 2 ^ 32) 0).2 else s)
    | none =>
      let tag := c.ftag + 1
      let (own, s) := if logIt then emitFilt s filt unit (some ctx) evPageFault ctx (tag.toNat + stc * 2 ^ 32) 0 else takeTag s unit
      let f : OutFault := { tag := tag, kind := kind, granule := va.toNat / 65536, write := accWrites a,
                            access := accCode a, level := level, addr := va, wake := own, stamp := now s, count := 1,
                            inRing := false }
      let s := modCtx s ctx fun c => { c with ftag := tag, faults := c.faults ++ [f] }
      if ringRoom s ctx then (tag, writeRing s ctx f)
      else
        let full := match getCtx s ctx with | some c => c.ringFull | none => true
        let s := modCtx s ctx fun c => { c with ringFull := true }
        (tag, if full then s else (emitFilt s filt unit (some ctx) evFaultRingFull ctx 0 0).2)

/-- An access that a response FAIL has reached: the level of its fault (R264). -/
def refusedAt (rf : Option Refused) (va : BitVec 72) (a : Acc) : Option Nat :=
  match rf with
  | some r => if r.granule = va.toNat / 65536 ∧ r.write = accWrites a then some r.level else none
  | none => none

/-- A kernel's accesses that wait on a fault try again (R122, R124, R125). -/
def freeKernel (tag : W32) (fail : Option Refused) (k : Kernel) : Kernel :=
  if k.stall = some tag ∨ k.depStall.any (fun e => e.2 == tag) then
    { k with stall := if k.stall = some tag then none else k.stall, depStall := k.depStall.filter fun e => e.2 != tag,
             refused := k.refused ++ fail.toList }
  else k

/-- The executors, engine operations and kernels that wait on a fault try again; with `fail` their access takes PAGEFATAL 12
(R264). -/
def retryFault (s : State) (ctx : Nat) (tag : W32) (failed : Bool) : State :=
  let fail : Option Refused :=
    if failed then
      ((getCtx s ctx).bind fun c => c.faults.find? fun f => f.tag == tag).map fun f =>
        { granule := f.granule, write := f.write, level := f.level }
    else none
  let go (t : Thread) : Thread :=
    match t.run with
    | .stalled (.fault x) => if x = tag then { t with run := .ready, failed := fail.or t.failed } else t
    | .stalled (.vector x) => if x = tag then { t with run := .stalled (.vector 0), failed := fail.or t.failed } else t
    | _ => t
  let s := { s with
    groups := s.groups.map fun g =>
      if g.ctx = ctx then { g with pilot := go g.pilot, strands := g.strands.map go } else g,
    engineQ := s.engineQ.map fun e =>
      if e.stall = some tag ∧ (match getGroup s e.gid with | some g => g.ctx == ctx | none => false) = true
      then { e with stall := none, failed := fail.or e.failed } else e,
    kernels := s.kernels.map fun k => if k.ctx = ctx then freeKernel tag fail k else k,
    redQ := s.redQ.map fun r => if r.ctx = ctx ∧ r.stall = some tag then { r with stall := none, refused := fail.or r.refused } else r }
  let free (v : CollView) : CollView := if v.stall = some tag then { v with stall := none, refused := fail.or v.refused } else v
  let s := modCtx s ctx fun c => { c with views := c.views.map free }
  modCtx s ctx fun c => { c with faults := c.faults.filter fun f => f.tag != tag }

/-- Every outstanding fault of a context is retried (R264, R277): the retries are the next events. -/
def retryAll (s : State) (ctx : Nat) : State :=
  match getCtx s ctx with
  | none => s
  | some c => { s with agenda := s.agenda ++ c.faults.map fun f => Turn.event (.fltrespRetry ctx f.tag) }

/-! ### What the agents of an access share -/

/-- Address under a reach (R252). -/
def vaOf (reach : BitVec 8) (off : W64) : BitVec 72 := reach ++ off

/-- A context fatal event is due at once (R103). -/
def raiseCtxFatal (s : State) (ctx cause : Nat) : State :=
  { s with agenda := Turn.event (.contextFault ctx (BitVec.ofNat 8 cause)) :: s.agenda }

/-- A group's writes are captured: its kernel is REPLAY and in pass 0 (R275). KFLAGS bit 4 is REPLAY (R133). -/
def capturing (s : State) (g : Group) : Bool :=
  match getKernel s g.kid with
  | some k => k.pass == 0 && (match k.desc with | some d => bit1 d.kflags 4 | none => false)
  | none => false

/-- Pieces of a range of virtual memory: fuel, then offset and bytes. -/
def pieces (k off n : Nat) : List (Nat × Nat) :=
  match k with
  | 0 => []
  | k + 1 =>
    if n = 0 then []
    else
      let m := min n (4096 - off % 4096)
      (off, m) :: pieces k (off + m) (n - m)

def piecesOf (off n : Nat) : List (Nat × Nat) := pieces (n / 4096 + 2) off n

end Sys2Proof.Machine
end

