-- ==== Sys2Proof/Machine/Operands.lean ====
section
/-! DEFINITION. What an executor sees at issue, the registers and operands it reads, and the writing of results
(R27-R41, R45-R51, R72, R78, R79). -/

namespace Sys2Proof.Machine

open Sys2Proof

/-- An executor at the issue of an instruction: the state before it, its group, itself, and the instruction. -/
structure View where
  s : State
  g : Group
  who : Who
  t : Thread
  f : Fields

def vid (v : View) : ThreadId := { gid := v.g.gid, who := v.who }

def isPilot (v : View) : Bool := match v.who with | .pilot => true | .strand _ => false

/-- Strand index; 65,536 for the pilot (R83, R486). -/
def strandIx (w : Who) : Nat := match w with | .pilot => 65536 | .strand k => k

/-- Words of a length code (R23). -/
def lenWords (len : BitVec 2) : Nat := if len = 0 then 1 else if len = 1 then 2 else if len = 2 then 3 else 5

/-- Words of an instruction. -/
def words (f : Fields) : Nat := lenWords f.len

/-- Address of the next instruction (R23). -/
def nextPc (v : View) : W64 := v.t.pc + BitVec.ofNat 64 (4 * words v.f)

/-- Registers A and D of an M-opcode, with AH and DH (R37, R38). -/
def nA (f : Fields) : Nat := f.a.toNat + (if bit1 f.w2 25 then 256 else 0)
def nD (f : Fields) : Nat := f.d.toNat + (if bit1 f.w2 24 then 256 else 0)

def satBit (f : Fields) : Bool := bit1 f.w2 26
def ovcBit (f : Fields) : Bool := bit1 f.w2 27

/-- A number that tells registers apart, for the choice of an old or new value. -/
def regKey (r : RegId) : Nat := match r with | .v n => 4 * n | .s n => 4 * n + 1 | .p n => 4 * n + 2 | .x n => 4 * n + 3

/-- The value a register's storage holds; v255, p7 and b7 are hard-wired (R28). -/
def heldReg (g : Group) (t : Thread) (r : RegId) : W64 :=
  match r with
  | .v n => if 255 ≤ n then 0 else (sget t.regs n).zeroExtend 64
  | .s n => sget g.sregs n
  | .p n => if 7 ≤ n then 1 else if t.preds.getLsbD n then 1 else 0
  | .x n => match t.caps with | some c => c.x.getD n 0 | none => 0

/-- A fixed-latency result of a register whose declared distance is open (R47). -/
def openFixed (l : List Fixed) (r : RegId) : Option Fixed := l.find? fun e => e.reg == r && decide (0 < e.left)

/-- Cycles after its write time within which a pilot's write of an s-register reaches every core copy (R151). -/
def spreadLag (g : Group) : Nat := if 1 < g.shape.spread then 8 else 0

/-- The results that are not written yet for a reader (R45, R151): of the s-registers the pilot's, which the strands of a spread group
may see later; the newest first. -/
def unwritten (s : State) (g : Group) (t : Thread) (r : RegId) : List Fixed :=
  match r with
  | .s _ => g.pilot.fixed.filter fun e => e.reg == r && decide (s.cycle < e.ripe + spreadLag g)
  | _ => t.fixed.filter fun e => e.reg == r && decide (s.cycle < e.ripe)

/-- The value a reader gets of a register that holds x: the value before any of the results that are not written yet, or after it
(R45, R48, R151).
DESIGN CHOICE (log entry 4), safe. -/
def oldOrNew (free : Nat) (key : Nat) (l : List Fixed) (x : W64) : W64 :=
  match l with
  | [] => x
  | e :: r => if Config.keepsOld free (key + 65536 * r.length) then oldOrNew free key r e.old else x

/-- The value a reader gets (R45, R48, R151). -/
def readReg (s : State) (g : Group) (t : Thread) (r : RegId) : W64 :=
  oldOrNew s.free (regKey r) (unwritten s g t r) (heldReg g t r)

/-- Stores a register; writes to v255, p7 and b7 are discarded (R28). -/
def storeReg (g : Group) (w : Who) (r : RegId) (x : W64) : Group :=
  match r with
  | .v n => if 255 ≤ n then g else modThreadOf g w fun t => { t with regs := sset t.regs n (x.setWidth 32) }
  | .s n => { g with sregs := sset g.sregs n x }
  | .x n => modThreadOf g w fun t =>
    { t with caps := t.caps.map fun c => { c with x := modNth c.x n fun _ => x } }
  | .p n => if 7 ≤ n then g
    else modThreadOf g w fun t =>
      { t with preds := if x.getLsbD 0 then t.preds ||| BitVec.ofNat 7 (2 ^ n) else t.preds &&& ~~~(BitVec.ofNat 7 (2 ^ n)) }

/-- n consecutive v-registers as one number, the lowest register in the low bits (R28, R279). -/
def vGroup (s : State) (g : Group) (t : Thread) (n k : Nat) : Nat :=
  match k with
  | 0 => 0
  | j + 1 => (readReg s g t (.v n)).toNat % 2 ^ 32 + 2 ^ 32 * vGroup s g t (n + 1) j

/-- n consecutive s-registers as one number (R279). -/
def sGroup (s : State) (g : Group) (t : Thread) (n k : Nat) : Nat :=
  match k with
  | 0 => 0
  | j + 1 => (readReg s g t (.s n)).toNat + 2 ^ 64 * sGroup s g t (n + 1) j

/-- The strand is in capsule mode (R351). -/
def inCap (t : Thread) : Bool := match t.caps with | some c => c.mode == .inside | none => false

/-- The strand passes over capsule code in skip mode (R361). -/
def inSkip (t : Thread) : Bool := match t.caps with | some c => c.mode == .skip | none => false

/-- The strand's instructions are read as capsule code: in capsule mode, or passed over in skip mode (R351, R361). -/
def capCode (t : Thread) : Bool := inCap t || inSkip t

/-- A v-register group of w bits, or in pilot code an s-register group, or in capsule mode an x-register (R351). -/
def readGroup (v : View) (t : Thread) (n w : Nat) : Nat :=
  if inCap v.t then (readReg v.s v.g t (.x (n % 8))).toNat % 2 ^ w
  else if isPilot v then sGroup v.s v.g t n (ceilDiv w 64) % 2 ^ w else vGroup v.s v.g t n (ceilDiv w 32) % 2 ^ w

/-- Source lane of a lane modifier (R40). -/
def laneSource (m l : Nat) : Nat :=
  let cls := m / 2 ^ 10
  let seg := 2 ^ ((m / 2 ^ 7) % 8)
  let dist := m % 2 ^ 7
  let base := l - l % seg
  let k := l % seg
  if cls = 1 then base + (k + dist) % seg
  else if cls = 2 then base + Nat.xor k dist
  else if cls = 3 then base + dist
  else l

/-- The strand a lane modifier reads: none where the lane is at or beyond W, or its strand has exited (R41). -/
def laneStrand (v : View) (m : Nat) : Option Thread :=
  match v.who with
  | .pilot => some v.t
  | .strand k =>
    if m = 0 then some v.t
    else
      let l := laneSource m (laneOf v.g k)
      if v.g.shape.w ≤ l then none
      else match v.g.strands[slotOf v.g k * v.g.shape.w + l]? with
        | some t => if t.run = .exited then none else some t
        | none => none

/-- MA and MB of the modifier word (R37). -/
def modA (f : Fields) : Nat := fld f.w2 11 0
def modB (f : Fields) : Nat := fld f.w2 23 12

/-- Source A of an M-opcode, w bits. -/
def readA (v : View) (w : Nat) : Nat :=
  match laneStrand v (modA v.f) with
  | some t => readGroup v t (nA v.f) w
  | none => 0

/-- Source A of an I-opcode, which takes no modifier and no AH (R37, R38). -/
def readAI (v : View) (w : Nat) : Nat := readGroup v v.t v.f.a.toNat w

/-- Data source D of an M-opcode. -/
def readD (v : View) (w : Nat) : Nat := readGroup v v.t (nD v.f) w

/-- Data source D of an I-opcode. -/
def readDI (v : View) (w : Nat) : Nat := readGroup v v.t v.f.d.toNat w

/-- The kernel of a group. -/
def kernelOf (v : View) : Option Kernel := getKernel v.s v.g.kid

/-- Grid extent (R34, R138). -/
def gridDims (v : View) : Nat × Nat × Nat :=
  match kernelOf v with | some k => (k.pkt.gridx, k.pkt.gridy, k.pkt.gridz) | none => (0, 0, 0)

/-- Convoy of a group, if it is a member (R34). -/
def convoyOf (v : View) : Option (Convoy × ConvoyMember) :=
  match v.s.convoys.find? fun c => c.kid == v.g.kid with
  | some c => (c.members.find? fun m => m.gid == v.g.gid).map fun m => (c, m)
  | none => none

/-- The GANG mask of a strand (R34). -/
def gangMask (v : View) : Nat :=
  match v.who, v.s.cur with
  | .strand k, some (.gang gid ks) =>
    if gid = v.g.gid then
      ks.foldl (fun m j =>
        if slotOf v.g j = slotOf v.g k ∧ laneOf v.g j / 32 = laneOf v.g k / 32
        then m ||| 2 ^ (laneOf v.g j % 32) else m) 0
    else 0
  | _, _ => 0

/-- Core cycle count: clocks since the core left reset (R34). -/
def coreCycle (s : State) (core : Nat) : Nat := s.cycle - s.dieStart.getD (dieOf core) 0

/-- Special source n, 32 bits (R34). -/
def special (v : View) (n : Nat) : Nat :=
  let core := coreOf v.g v.who
  let ix := match v.who with | .pilot => 0 | .strand k => k
  let (gx, gy, gz) := gridDims v
  let lin := v.g.lin.toNat
  match n with
  | 0x00 => laneOf v.g ix
  | 0x01 => slotOf v.g ix
  | 0x02 => ix
  | 0x03 => lin % max gx 1
  | 0x04 => lin / max gx 1 % max gy 1
  | 0x05 => lin / (max gx 1 * max gy 1)
  | 0x06 => gx
  | 0x07 => gy
  | 0x08 => gz
  | 0x09 => core
  | 0x0A => quadOf core
  | 0x0B => dieOf core
  | 0x0C => v.s.rank.toNat
  | 0x0D => v.g.shape.w
  | 0x0E => v.g.shape.d
  | 0x0F => v.g.part + (v.g.lane0 + laneOf v.g ix) / 32
  | 0x10 => v.g.shape.spread
  | 0x11 => spreadIx v.g v.who
  | 0x12 => match convoyOf v with | some (_, m) => m.pos | none => 0xFFFFFFFF
  | 0x13 => match convoyOf v with | some (c, _) => c.len | none => 0
  | 0x14 => v.g.ctx
  | 0x15 => coreCycle v.s core % 2 ^ 32
  | 0x16 => coreCycle v.s core / 2 ^ 32 % 2 ^ 32
  | 0x17 => gangMask v
  | 0x18 => 2 ^ (laneOf v.g ix % 32) - 1
  | 0x19 => 2 ^ 64 - 1
  | _ => 0

/-- Class of an operand specifier (R32): 0 v-register, 1 s-register, 2 special source, 3 inline immediate. -/
def specClass (x : BitVec 10) : Nat :=
  if fld x 9 8 = 0 then 0 else if fld x 9 8 ≠ 3 then 1 else if bit1 x 7 then 3 else 2

/-- Number of the s-register that a specifier of class 1 names. -/
def specS (x : BitVec 10) : Nat := fld x 7 0 + (if fld x 9 8 = 2 then 256 else 0)

/-- The inline immediate, signed (R32). -/
def specImm (x : BitVec 10) : Int := sxNat 7 (fld x 6 0)

/-- An operand specifier's value of w bits, read by thread t for v-registers; `inl` converts an inline immediate
(R32, R33, R34). -/
def specVal (v : View) (t : Option Thread) (x : BitVec 10) (w : Nat) (inl : Int → Nat) : Nat :=
  if x = 0x3FF then v.f.lit.toNat % 2 ^ w
  else match specClass x with
  | 0 => match t with
    | some t => if inCap v.t then (readReg v.s v.g t (.x (fld x 2 0))).toNat % 2 ^ w
      else vGroup v.s v.g t (fld x 7 0) (ceilDiv w 32) % 2 ^ w
    | none => 0
  | 1 => if w ≤ 64 then (readReg v.s v.g v.t (.s (specS x))).toNat % 2 ^ w
    else sGroup v.s v.g v.t (specS x) (ceilDiv w 64) % 2 ^ w
  | 2 => if fld x 6 0 = 0x19 then 2 ^ w - 1 else special v (fld x 6 0) % 2 ^ w
  | _ => inl (specImm x)

/-- Operand B of w bits, an integer or a bit pattern. -/
def readB (v : View) (w : Nat) : Nat := specVal v (laneStrand v (modB v.f)) v.f.b w (wrapInt w)

/-- Operand B of an I-opcode, whose word 2 is an immediate. -/
def readBI (v : View) (w : Nat) : Nat := specVal v (some v.t) v.f.b w (wrapInt w)

/-- Operand C of w bits. -/
def readC (v : View) (w : Nat) : Nat := specVal v (some v.t) v.f.c w (wrapInt w)

/-- Predicate n of the executor. -/
def readPred (v : View) (n : Nat) : Bool := (readReg v.s v.g v.t (.p n)).getLsbD 0

/-- The guard (R29, R30). -/
def guardTrue (v : View) : Bool := readPred v v.f.pnum.toNat != v.f.neg

/-- What an instruction writes at one executor. -/
structure Eff where
  writes : List (RegId × W64)
  flags : BitVec 6
  ovf : Nat
deriving DecidableEq, Repr

/-- No effect. -/
def effNone : Eff := { writes := [], flags := 0, ovf := 0 }

/-- FLAGS are sticky (R78). -/
def orFlags (t : Thread) (fl : BitVec 6) : Thread := { t with flags := t.flags ||| fl }

/-- OVFCNT stops at 0xFFFF_FFFF (R79). -/
def addOvf (t : Thread) (k : Nat) : Thread := { t with ovfcnt := BitVec.ofNat 32 (min (t.ovfcnt.toNat + k) 0xFFFFFFFF) }

/-- A result of w bits for register n: in strand code v-registers, in pilot code an s-register, zero-extended
(R28, R72). -/
def destWrites (pilot : Bool) (n w x : Nat) : List (RegId × W64) :=
  if pilot then (List.range (ceilDiv w 64)).map fun i => (.s (n + i), BitVec.ofNat 64 (x % 2 ^ w / 2 ^ (64 * i)))
  else (List.range (ceilDiv w 32)).map fun i => (.v (n + i), BitVec.ofNat 64 (x % 2 ^ w / 2 ^ (32 * i) % 2 ^ 32))

/-- Writes of register number n, an x-register in capsule mode (R351). -/
def writesN (v : View) (n w x : Nat) : List (RegId × W64) :=
  if inCap v.t then [(.x (n % 8), BitVec.ofNat 64 (x % 2 ^ w))] else destWrites (isPilot v) n w x

/-- Writes of an M-opcode's destination D. -/
def writesD (v : View) (w x : Nat) : List (RegId × W64) := writesN v (nD v.f) w x

/-- Writes of an I-opcode's destination D. -/
def writesDI (v : View) (w x : Nat) : List (RegId × W64) := writesN v v.f.d.toNat w x

/-- Writes of a predicate. -/
def writesP (n : Nat) (b : Bool) : List (RegId × W64) := [(.p n, if b then 1 else 0)]

/-- One fixed-latency write of latency `lat` (R45). A write that comes too early after another leaves the register with
either value (R47, R48).
DESIGN CHOICE (log entry 4), safe. -/
def writeFixed (s : State) (w : Who) (lat : Nat) (g : Group) (e : RegId × W64) : Group :=
  let t := (getThread g w).getD Thread.fresh
  let late := t.fixed.any fun x => x.reg == e.1 && decide (lat ≤ x.left)
  if late ∧ Config.keepsOld s.free (regKey e.1) = true then g
  else
    let fx : Fixed := { reg := e.1, old := heldReg g t e.1, left := lat, ripe := s.cycle + lat }
    let g := storeReg g w e.1 e.2
    modThreadOf g w fun t => { t with fixed := fx :: t.fixed }

/-- Applies an effect of fixed latency. -/
def applyFixed (s : State) (v : View) (lat : Nat) (e : Eff) : State :=
  modGroup s v.g.gid fun g =>
    let g := e.writes.foldl (writeFixed v.s v.who lat) g
    modThreadOf g v.who fun t => addOvf (orFlags t e.flags) e.ovf

/-- Applies an effect whose result is interlocked: it waits for INTERLOCKED_RESULT (R46). -/
def applyPend (s : State) (v : View) (e : Eff) (cause : BitVec 48) : State :=
  modThread s (vid v) fun t =>
    { t with pend := t.pend ++ [{ dst := e.writes, flags := e.flags, ovf := e.ovf, cause := cause, leaf := 0 }] }

/-- Applies an effect: `lat` 0 means interlocked. -/
def applyEff (s : State) (v : View) (lat : Nat) (e : Eff) : State :=
  if lat = 0 then applyPend s v e 0 else applyFixed s v lat e

/-- The executors of the current issue, as they are before the instruction; none when there is no such executor.
DESIGN CHOICE (log entry 83), safe. -/
def viewsOf (s : State) (f : Fields) : Option (List View) :=
  match s.cur with
  | none => none
  | some (.pilot gid) =>
    match getGroup s gid with
    | some g => some [{ s := s, g := g, who := .pilot, t := g.pilot, f := f }]
    | none => none
  | some (.gang gid ks) =>
    match getGroup s gid with
    | some g => ks.mapM fun k => (g.strands[k]?).map fun t => { s := s, g := g, who := .strand k, t := t, f := f }
    | none => none

/-- A strand in skip mode passes over the instruction (R361). -/
def skipping (v : View) : Bool := inSkip v.t

/-- A result that is kept: its distance is open, or it is a write of an s-register that a strand may not see yet (R47, R151). -/
def keptFixed (cycle : Nat) (e : Fixed) : Bool :=
  decide (0 < e.left) || (match e.reg with | .s _ => decide (cycle < e.ripe + 8) | _ => false)

/-- Declared distance passes: (1 + STALL) for the open fixed-latency results, and the executor issues no earlier than 1 + STALL
cycles later (R45, R47). -/
def ageFixed (cycle : Nat) (f : Fields) (t : Thread) : Thread :=
  { t with
    fixed := (t.fixed.map fun e => { e with left := e.left - (1 + f.stall.toNat) }).filter (keptFixed cycle)
    issueAt := cycle + 1 + f.stall.toNat }

/-- A park, a trap or a stop ends the obligations of every result (R50); an s-register's write time stands (R151). -/
def endFixed (l : List Fixed) : List Fixed :=
  l.filterMap fun e => match e.reg with | .s _ => some { e with left := 0 } | _ => none

/-- The executor stalls at its instruction, which it issues again: it has not executed it (R169). -/
def stalledAt (pc : W64) (t : Thread) : Bool := t.pc == pc && (match t.run with | .stalled _ => true | _ => false)

/-- What declared distance does to an executor of an issue: an instruction that it has not executed counts none (R47). -/
def ageExecuted (v : View) (t : Thread) : Thread := if stalledAt v.t.pc t then t else ageFixed v.s.cycle v.f t

/-- Every issuing executor goes on to the next instruction (R23). -/
def advance (s : State) (vs : List View) : State :=
  vs.foldl (fun s v => modThread s (vid v) fun t => { t with pc := nextPc v }) s

/-- The shared frame of every program instruction: the executors of the issue advance, those whose guard is true and
that are not in skip mode take the body's effect, and declared distance passes.
DESIGN CHOICE (log entry 83), safe. -/
def issueWith (f : Fields) (s : State) (skip : Bool) (body : List View → State → State) :
    Host.Outcome State Fault Refusal :=
  match viewsOf s f with
  | none => .fault .noExecutor
  | some vs =>
    let act := vs.filter fun v => guardTrue v && (skip || !skipping v)
    let s := body act (advance s vs)
    .next (tickFree (vs.foldl (fun s v => modThread s (vid v) (ageExecuted v)) s))

/-- An instruction whose active executors act together. -/
def issueGang (f : Fields) (s : State) (body : List View → State → State) : Host.Outcome State Fault Refusal :=
  issueWith f s false body

/-- An instruction whose active executors act one by one in lane order. -/
def issueEach (f : Fields) (s : State) (body : View → State → State) : Host.Outcome State Fault Refusal :=
  issueGang f s fun vs s => vs.foldl (fun s v => body v s) s

/-- An instruction that computes results from registers alone, with a latency (0: interlocked). -/
def issueAlu (lat : Nat) (f : Fields) (s : State) (eff : View → Eff) : Host.Outcome State Fault Refusal :=
  issueEach f s fun v s => applyEff s v lat (eff v)

end Sys2Proof.Machine
end

