-- ==== Sys2Proof/Machine/Net.lean ====
section
/-! DEFINITION. Sending packets over the links: routes, virtual channels, slots, the retry buffer, send records and
replay comparison (R438-R446, R449, R450). -/

namespace Sys2Proof.Machine

open Sys2Proof

/-- A packet with nothing in it but its addressing. -/
def pkt0 (s : State) (dst : BitVec 12) (type : PacketType) (vc : BitVec 2) (ctx : Nat) (wake : BitVec 48) : Packet :=
  { wake := wake, drank := dst, srank := s.rank, type := type, bad := none, ctx := ctx, vc := vc, stat := 0, addr := 0,
    tag := 0, opinfo := 0, lseq := 0, sret := [0, 0, 0, 0], aux := 0, msg := .join, opnd := 0, payload := [] }

/-- The tag of a packet that has no response.
DESIGN CHOICE (log entry 35), unsafe. -/
def postedTag : W32 := 0xFFFFFFFF

/-- TYPE codes (R440). -/
def typeCode (t : PacketType) : Nat :=
  match t with
  | .slotOnly => 0 | .write => 1 | .read => 2 | .rdata => 3 | .atom => 4 | .adata => 5 | .collData => 6
  | .collCtl => 7 | .barCtl => 8 | .mgmt => 9

/-- PLEN: payload flits (R439). -/
def plenOf (p : Packet) : Nat := ceilDiv p.payload.length 64

/-- Codes of the COLLCTL messages, in OPINFO bits 23:20 of such a packet. -/
def msgCode (m : CollMsg) : Nat :=
  match m with
  | .join => 0 | .ack => 1 | .notice => 2 | .fail => 3 | .probe => 4 | .probeAnswer => 5 | .confirm => 6 | .close => 7

/-- OPINFO as it travels: its type-specific bits 31:26 hold the bytes by which the last flit is filled up, and bits 23:20
of a COLLCTL packet its message.
DESIGN CHOICE (log entry 86), safe. -/
def wireInfo (p : Packet) : Nat :=
  p.opinfo.toNat % 2 ^ 26 + (64 * plenOf p - p.payload.length) * 2 ^ 26 +
    (if p.type = .collCtl then msgCode p.msg * 2 ^ 20 else 0)

/-- The 64 bytes of a header flit (R440); of a packet that is to be discarded, as they were received (R449). -/
def headerBytes (p : Packet) : List Byte :=
  match p.bad with
  | some h => h
  | none => toBytes 6 p.wake.toNat ++ toBytes 2 p.drank.toNat ++ toBytes 2 p.srank.toNat ++ toBytes 1 (typeCode p.type) ++
  toBytes 1 (plenOf p) ++ toBytes 2 p.ctx ++ toBytes 1 p.vc.toNat ++ toBytes 1 p.stat.toNat ++ toBytes 8 p.addr.toNat ++
  toBytes 4 p.tag.toNat ++ toBytes 4 (wireInfo p) ++ toBytes 4 p.lseq.toNat ++
  ((List.range 4).map fun i => p.sret.getD i 0) ++ toBytes 8 p.aux.toNat ++ toBytes 16 p.opnd.toNat

/-- A packet as flits.
DESIGN CHOICE (log entry 86), safe. -/
def packetBytes (p : Packet) : List Byte := headerBytes p ++ p.payload ++ toBytes (64 * plenOf p - p.payload.length) 0

/-- The bytes that a SEND record's CRC covers: WAKE, LSEQ and SRET are taken as zero (R449). -/
def crcBytes (p : Packet) : List Byte := packetBytes { p with wake := 0, lseq := 0, sret := [] }

def typeOf (n : Nat) : Option PacketType :=
  ([.slotOnly, .write, .read, .rdata, .atom, .adata, .collData, .collCtl, .barCtl, .mgmt] : List PacketType)[n]?

def msgOf (n : Nat) : CollMsg :=
  (([.join, .ack, .notice, .fail, .probe, .probeAnswer, .confirm, .close] : List CollMsg)[n]?).getD .join

/-- A packet read back from its flits (R440, R450). -/
def parsePacket (h payload : List Byte) : Packet :=
  let n (o k : Nat) : Nat := ofBytes ((h.drop o).take k)
  let info := n 28 4
  let ctl := n 10 1 == 7
  { wake := BitVec.ofNat 48 (n 0 6), drank := BitVec.ofNat 12 (n 6 2), srank := BitVec.ofNat 12 (n 8 2),
    type := (typeOf (n 10 1)).getD .mgmt,
    bad := if (typeOf (n 10 1)).isNone ∨ 2 ^ 12 ≤ n 6 2 ∨ 2 ^ 12 ≤ n 8 2 ∨ 128 ≤ n 11 1 ∨ 1024 ≤ n 12 2 ∨ 4 ≤ n 14 1 then some h else none,
    ctx := n 12 2 % 1024, vc := BitVec.ofNat 2 (n 14 1), stat := BitVec.ofNat 8 (n 15 1), addr := BitVec.ofNat 64 (n 16 8),
    tag := BitVec.ofNat 32 (n 24 4), opinfo := BitVec.ofNat 32 (info % 2 ^ (if ctl then 20 else 26)),
    lseq := BitVec.ofNat 32 (n 32 4), sret := (h.drop 36).take 4, aux := BitVec.ofNat 64 (n 40 8),
    msg := if ctl then msgOf (info / 2 ^ 20 % 16) else .join, opnd := BitVec.ofNat 128 (n 48 16),
    payload := payload.take (payload.length - info / 2 ^ 26) }

/-- CRC-32 (IEEE 802.3), bit by bit. -/
def crc32Bits (n c : Nat) : Nat :=
  match n with
  | 0 => c
  | k + 1 => crc32Bits k (if c % 2 = 1 then Nat.xor (c / 2) 0xEDB88320 else c / 2)

def crc32 (bs : List Byte) : Nat :=
  Nat.xor (bs.foldl (fun c b => crc32Bits 8 (Nat.xor c b.toNat)) 0xFFFFFFFF) 0xFFFFFFFF

/-- Coordinate i (0 x, 1 y, 2 z) of a rank (R13). -/
def coordOf (r : BitVec 12) (i : Nat) : Nat := fld r (11 - 4 * i) (8 - 4 * i)

/-- The default route: dimension-ordered, minimal, + at a distance of 8 (R442). -/
def defaultDir (src dst : BitVec 12) : Option Nat :=
  ((List.range 3).find? fun i => coordOf src i != coordOf dst i).map fun i =>
    if (coordOf dst i + 16 - coordOf src i) % 16 ≤ 8 then 2 * i else 2 * i + 1

/-- Direction of a rank; none where it is unreachable (R442). -/
def routeDir (s : State) (dst : BitVec 12) : Option Nat :=
  let e := (sget s.routes dst.toNat).toNat
  if e = 0 then defaultDir s.rank dst else if e ≤ 6 then some (e - 1) else none

/-- A port carries traffic. -/
def portWorks (p : Port) : Bool := p.lst == .up || p.lst == .degraded || p.lst == .replay

/-- Working bundles of a direction, in increasing port order (R443). -/
def bundlesOf (s : State) (dir : Nat) : List Nat := (s.ports.filter fun p => p.num % 6 == dir && portWorks p).map (·.num)

/-- Bundles of a direction that are retraining: packets wait for them (R444). A port that has gone DOWN carries nothing until its
training succeeds (R446). -/
def trainingOf (s : State) (dir : Nat) : List Nat :=
  (s.ports.filter fun p => p.num % 6 == dir && p.lst == .training && decide (0 < p.lanes)).map (·.num)

/-- Object id of ARRIVAL and SEND records: TYPE, VC and PLEN as the header has them (R449). -/
def portObj (port : Nat) (p : Packet) : Nat :=
  let (type, vc, plen) := match p.bad with
    | some h => (ofBytes ((h.drop 10).take 1), ofBytes ((h.drop 14).take 1), ofBytes ((h.drop 11).take 1))
    | none => (typeCode p.type, p.vc.toNat, plenOf p)
  port * 2 ^ 24 + type * 2 ^ 16 + vc * 2 ^ 8 + plen

/-- The context that a packet's CTX names: its records belong to that context's partition (R463). -/
def packetCtx (p : Packet) : Option Nat := match p.type with | .slotOnly | .mgmt => none | _ => some p.ctx

/-- Recording is on for a port (R454). -/
def recording (s : State) (port : Nat) : Bool := bit1 s.recctl port && !bit1 s.recctl 31

/-- Recording stops on every port (R449). -/
def stopRecording (s : State) : State := { s with recctl := setFld s.recctl 31 31 1 }

/-- Emits an ARRIVAL or SEND record; recording stops where it is lost (R449). -/
def emitPacket (s : State) (port ev : Nat) (p : Packet) (payload : Nat) : State :=
  let before := (getUnit s (unitPort port)).drops
  let s := emit s (unitPort port) (packetCtx p) ev (portObj port p) payload p.wake
  if before.getD 3 0 < (getUnit s (unitPort port)).drops.getD 3 0 then stopRecording s else s

/-- The logged records of a port with an event, in the order in which the port emitted them (R450). -/
def portRecords (s : State) (port ev : Nat) : List LogRec :=
  let l := (s.logs.map (·.2.2)).filter fun r => r.cls == 3 && r.event.toNat == ev % 2 ^ 14 && fld r.obj 31 24 == port
  let key (r : LogRec) : Nat := r.stamp.toNat * 2 ^ 25 + fld r.own 24 0
  sortBy (fun a b => decide (key a ≤ key b)) l

/-- Compares an outgoing packet of a port in REPLAY with its next SEND record (R450). -/
def replaySend (s : State) (port : Nat) (p : Packet) : State :=
  let pos := (sget s.replayPos (2 * port)).toNat
  let crc := crc32 (crcBytes p)
  let ok := match (portRecords s port evSend)[pos]? with
    | some r => fld r.payload 31 0 == crc && fld r.obj 23 16 == typeCode p.type && fld r.obj 7 0 == plenOf p
    | none => false
  let s := { s with replayPos := sset s.replayPos (2 * port) (BitVec.ofNat 32 (pos + 1)) }
  if ok then s
  else
    let first := !bit1 s.repctl 31
    let r := setFld s.repctl 31 31 1
    let s := { s with repctl := if first then setFld r 28 24 port else r }
    emit s (unitPort port) (packetCtx p) evReplayMismatch (port * 2 ^ 24) (crc + typeCode p.type * 2 ^ 32 + plenOf p * 2 ^ 40)

/-- A packet leaves a port (R439, R449, R450).
DESIGN CHOICE (log entry 15), safe. -/
def portEmit (s : State) (port : Nat) (p : Packet) : State :=
  match getPort s port with
  | none => s
  | some q =>
    let sret := q.returns.map fun n => BitVec.ofNat 8 (min n 255)
    let p := { p with lseq := q.lseq, sret := sret }
    let s := modPort s port fun q =>
      { q with lseq := q.lseq + 1, sent := q.sent + 1, returns := q.returns.map fun n => n - min n 255,
               retry := if q.lst = .replay then q.retry else q.retry ++ [p] }
    let s := countEvent s 3 port 0 0 selFlittx (1 + plenOf p)
    let s := if q.lst = .replay then replaySend s port p else { s with sentPkts := s.sentPkts ++ [(port, p)] }
    if recording s port && bit1 s.recctl 24 then
      emitPacket s port evSend p (crc32 (crcBytes p) + 2 ^ 32 * (match getPort s port with | some q => q.rcvd.toNat | none => 0))
    else s

/-- Slots a packet needs and holds on its VC (R441). -/
def hasSlots (q : Port) (p : Packet) : Bool :=
  q.lst == .replay || decide (1 + plenOf p ≤ q.credits.getD p.vc.toNat 0)

def spendSlots (q : Port) (p : Packet) : Port :=
  if q.lst = .replay then q else { q with credits := modNth q.credits p.vc.toNat fun n => n - (1 + plenOf p) }

/-- A port sends a packet, or keeps it until slots return; packets of one VC stay in order (R441, R443). -/
def portSend (s : State) (port : Nat) (p : Packet) : State :=
  match getPort s port with
  | none => s
  | some q =>
    if portWorks q && hasSlots q p && !(q.waiting.any fun w => w.vc == p.vc) then
      portEmit (modPort s port fun q => spendSlots q p) port p
    else modPort s port fun q => { q with waiting := q.waiting ++ [p] }

/-- Object id of LINK_DROP and LINK_BADPKT: the packet's context, where it has one (R462). -/
def linkObj (p : Packet) : Nat := match packetCtx p with | some c => c % 1024 | none => 0

/-- A packet for an unreachable rank is dropped, and logged once per rank and change of a port (R446). -/
def dropPacket (s : State) (p : Packet) : State :=
  if s.droppedTo.contains p.drank then s
  else
    let dir := match routeDir s p.drank with | some d => d | none => (defaultDir s.rank p.drank).getD 0
    emit { s with droppedTo := s.droppedTo ++ [p.drank] } (unitPort dir) (packetCtx p) evLinkDrop (linkObj p) 0 p.wake

/-- Sends a packet over the route to its rank (R442, R443). A packet to the device itself has no route.
DESIGN CHOICE (log entry 15), safe. -/
def sendNow (s : State) (p : Packet) : State :=
  match routeDir s p.drank with
  | none => dropPacket s p
  | some dir =>
    let l := bundlesOf s dir
    let l := if l.isEmpty then trainingOf s dir else l
    match l[(p.srank.toNat + p.drank.toNat) % max l.length 1]? with
    | some port => portSend s port p
    | none => dropPacket s p

/-- Sends a packet, which a direction whose bundles have changed holds (R443). -/
def sendPacket (s : State) (p : Packet) : State :=
  match routeDir s p.drank with
  | none => dropPacket s p
  | some dir =>
    if s.turning.any fun e => e.1 == dir then
      { s with turning := replaceIf (fun e => e.1 == dir) (fun e => (e.1, e.2 ++ [p])) s.turning }
    else sendNow s p

/-- Every packet sent on a direction's bundles, those that carry no traffic now among them, has been acknowledged by the next hop. -/
def dirClean (s : State) (dir : Nat) : Bool :=
  (s.ports.filter fun q => q.num % 6 == dir).all fun q => q.retry.isEmpty && q.waiting.isEmpty

/-- Directions that hold packets no longer send them, in order (R443). -/
def releaseDirs (s : State) : State :=
  let free := s.turning.filter fun e => dirClean s e.1
  free.foldl (fun s e => e.2.foldl sendNow s) { s with turning := s.turning.filter fun e => !dirClean s e.1 }

/-- The set of working bundles of a port's direction has changed: new packets wait while older ones are not
acknowledged (R443). -/
def turnDir (s : State) (port : Nat) : State :=
  let s := { s with droppedTo := [] }
  if dirClean s (port % 6) || s.turning.any fun e => e.1 == port % 6 then s
  else { s with turning := s.turning ++ [(port % 6, [])] }

/-- A rank can be reached now. -/
def reachable (s : State) (dst : BitVec 12) : Bool :=
  match routeDir s dst with
  | none => false
  | some dir => !(bundlesOf s dir).isEmpty || !(trainingOf s dir).isEmpty

/-- The packet that a port sends next: the first of its VC to wait, with slots; a DRAINING port sends what it has (R441, R444). -/
def nextWaiting (q : Port) : Option Packet :=
  ((q.waiting.zip (List.range q.waiting.length)).find? fun e =>
    (portWorks q || q.lst == .draining) && hasSlots q e.1 && !((q.waiting.take e.2).any fun w => w.vc == e.1.vc)).map (·.1)

/-- Packets that wait at a port leave while slots last, each VC on its own (R441). -/
def flushWaiting (s : State) (port : Nat) (n : Nat) : State :=
  match n with
  | 0 => s
  | k + 1 =>
    match (getPort s port).bind nextWaiting with
    | none => s
    | some p => flushWaiting (portEmit (modPort s port fun q => spendSlots { q with waiting := q.waiting.erase p } p) port p) port k

/-! ### Receiving -/

/-- Receive buffer of a VC in flits (R441). -/
def vcSlots (vc : Nat) : Nat := match vc with | 0 | 1 => 512 | 2 => 2048 | _ => 128

/-- The youngest packets of a list, youngest first, that fit in the flits left of each VC: older ones have had their slots
returned, so they have arrived. -/
def keepUnacked (left : List Nat) (l : List Packet) : List Packet :=
  match l with
  | [] => []
  | p :: r =>
    let n := 1 + plenOf p
    if n ≤ left.getD p.vc.toNat 0 then p :: keepUnacked (modNth left p.vc.toNat fun x => x - n) r
    else keepUnacked (modNth left p.vc.toNat fun _ => 0) r

/-- A received flit brings slots back to the sender (R441), and the link's acknowledgement (R439): of at least the packets whose slots are
back, and of the oldest ones up to a number that the spec leaves to the acknowledgement field, which no flit shows.
DESIGN CHOICE (log entry 110), safe. -/
def takeSlots (q : Port) (sret : List Byte) (acked : Nat) : Port :=
  let cr := (List.range 4).map fun v => min (q.credits.getD v 0 + (sret.getD v 0).toNat) (vcSlots v)
  let left := (List.range 4).map fun v => vcSlots v - cr.getD v 0
  let l := (keepUnacked left q.retry.reverse).reverse
  { q with credits := cr, retry := ((l.zip (List.range l.length)).filter fun e => decide (acked ≤ e.2)).map (·.1) }

/-- The recorder of a port writes a received packet to the recording region and logs ARRIVAL (R449). -/
def recordArrival (s : State) (port : Nat) (p : Packet) : State :=
  if recording s port then
    let at_ := fld s.recbase 51 12 * 4096 + 64 * s.recpos
    let n := 64 * (1 + plenOf p)
    if fld s.recsize 39 12 * 4096 < 64 * s.recpos + n ∨ mainTop < at_ + n then stopRecording s
    else
      let s := memPut s at_ (packetBytes p)
      let sent := match getPort s port with | some q => q.sent.toNat | none => 0
      emitPacket { s with recpos := s.recpos + 1 + plenOf p } port evArrival p (s.recpos % 2 ^ 32 + sent * 2 ^ 32)
  else s

/-- The neighbour of a device in a direction, on a torus of 16 in each dimension (R13, R442). -/
def neighbour (r : BitVec 12) (dir : Nat) : BitVec 12 :=
  let i := dir / 2
  let c := (coordOf r i + (if dir % 2 = 0 then 1 else 15)) % 16
  setFld r (11 - 4 * i) (8 - 4 * i) c

/-- A SLOTONLY header carries returns when many are due and no other packet can leave the port, under a tag of the port (R441, R459).
DESIGN CHOICE (log entry 36), safe. -/
def sendSlots (s : State) (port : Nat) : State :=
  match getPort s port with
  | some q =>
    if q.lst != .replay && (nextWaiting q).isNone && !(q.waiting.any fun w => w.vc == 3) && q.returns.any fun n => decide (64 ≤ n) then
      let (tag, s) := takeTag s (unitPort port)
      portSend s port (pkt0 s (neighbour s.rank (port % 6)) .slotOnly 3 0 tag)
    else s
  | none => s

/-- A packet whose slots stay with the port until it has been handled: they may be withheld (R423, R428, R441). -/
def keepsSlots (p : Packet) : Bool := p.type == .collData && p.vc == 2

/-- What every received packet does (R440-R443, R449): slots come back, the recorder writes, the buffer's slots are to be
returned; a bad packet is discarded, and one for another rank goes on. True: the packet is for this device. -/
def receive (s : State) (port : Nat) (p : Packet) : Bool × State :=
  match getPort s port with
  | none => (false, s)
  | some q =>
    if !(portWorks q || q.lst == .draining) then (false, s)
    else
      let mine := p.bad.isNone && (p.type == .slotOnly || p.drank == s.rank)
      let n := 1 + plenOf p
      let kept := mine && keepsSlots p
      let s := modPort s port fun q =>
        let q := if q.lst = .replay then q else takeSlots q p.sret (Config.linkAcked s.cycle port q.rcvd.toNat)
        { q with rcvd := q.rcvd + 1, withheld := if kept then q.withheld + n else q.withheld,
                 returns := if kept then q.returns else modNth q.returns p.vc.toNat fun x => x + n }
      let s := recordArrival (countEvent s 3 port 0 0 selFlitrx n) port p
      let s := sendSlots (releaseDirs (flushWaiting s port q.waiting.length)) port
      if p.bad.isSome then (false, emit s (unitPort port) (packetCtx p) evLinkBadpkt (linkObj p) 0 p.wake)
      else if mine then (true, s)
      else (false, sendPacket s p)

/-- The slots of a packet that was kept are to be returned (R423, R428, R441). -/
def freeKept (s : State) (port : Nat) (p : Packet) : State :=
  if keepsSlots p then
    sendSlots (modPort s port fun q =>
      let n := min (1 + plenOf p) q.withheld
      { q with returns := modNth q.returns 2 fun x => x + n, withheld := q.withheld - n }) port
  else s

end Sys2Proof.Machine
end

