-- ==== Sys2Proof/Machine/BarObj.lean ====
section
/-! DEFINITION. Barrier objects: handles, members, parties, phases and states, and the packets between a pod object's home and the
other devices (R323-R330, R335, R337); semaphore queues (R339, R341-R343). -/

namespace Sys2Proof.Machine

open Sys2Proof

/-- Level, number, GRID and home rank of a handle (R324). -/
def hLevel (h : W64) : Nat := fld h 2 0
def hNum (h : W64) : Nat := fld h 13 4
def hGrid (h : W64) : Bool := bit1 h 3
def hHome (h : W64) : Nat := fld h 47 36

/-- Objects and parties of a level (R323). -/
def levelCount (l : Nat) : Nat := match l with | 0 => 16 | 2 => 64 | 3 => 256 | _ => 1024
def levelParties (l : Nat) : Nat := match l with | 0 => 1 | 2 => 256 | 3 => 2048 | 4 => 8192 | _ => 65535

/-- A legal handle (R325). -/
def handleOk (h : W64) : Bool :=
  let l := hLevel h
  fld h 63 48 == 0 && fld h 35 14 == 0 && [0, 2, 3, 4, 5].contains l && decide (hNum h < levelCount l) &&
    (l == 5 || hHome h == 0)

/-- The object a handle names for an executor of a group (R323, R330). The grid barrier's instance is its kernel. -/
def keyOf (g : Group) (w : Who) (h : W64) : BarKey :=
  let core := coreOf g w
  let inst := if hGrid h then g.kid
    else match hLevel h with
    | 0 => g.gid
    | 2 => quadOf core
    | 3 => dieOf core
    | 4 => 0
    | _ => hHome h
  { level := hLevel h, num := hNum h, inst := inst, grid := hGrid h }

/-- Handle bits 13:0 of an object. -/
def keyHandle (k : BarKey) : Nat := k.num * 16 + (if k.grid then 8 else 0) + k.level

/-- Home rank of an object (R342). -/
def keyHome (s : State) (k : BarKey) : BitVec 12 := if k.level = 5 then BitVec.ofNat 12 k.inst else s.rank

/-- The object lives on another device. -/
def keyRemote (s : State) (k : BarKey) : Bool := k.level == 5 && keyHome s k != s.rank

def findBar (s : State) (ctx : Nat) (k : BarKey) : Option Barrier :=
  (getCtx s ctx).bind fun c => c.barriers.find? fun b => b.key == k

def putBar (s : State) (ctx : Nat) (b : Barrier) : State :=
  modCtx s ctx fun c => { c with barriers := upsert (fun x => x.key == b.key) b c.barriers }

def delBar (s : State) (ctx : Nat) (k : BarKey) : State :=
  modCtx s ctx fun c => { c with barriers := c.barriers.filter fun x => x.key != k }

/-- The unit of an object's records (R491, R505). -/
def barUnit (s : State) (k : BarKey) : Nat :=
  match k.level with
  | 0 => match getGroup s k.inst with | some g => unitCore (firstCore g) | none => unitHost
  | 2 => unitDie (k.inst / 8)
  | 3 => unitDie k.inst
  | _ => unitHost

def bstCode (b : BState) : Nat := match b with | .collecting => 1 | .releasing => 2 | .failed => 3

/-- Object id of a barrier's records (R344). -/
def barObj (ctx : Nat) (k : BarKey) : Nat := (ctx % 1024) * 2 ^ 22 + keyHandle k

/-- Logs BARRIER_STATE (R329, R503). -/
def logBar (s : State) (ctx : Nat) (k : BarKey) (code : Nat) (phase : BitVec 16) : State :=
  let home := if k.level = 5 then k.inst else 0
  emit s (barUnit s k) (some ctx) evBarrierState (barObj ctx k) (home * 2 ^ 36 + code * 2 ^ 32 + phase.toNat)

def sameParty (m : Member) (p : Party) : Bool := m.rank == p.rank && m.gid == p.gid && m.lin == p.lin

/-- A party is arrived when it has members and every one has arrived and none is EXITED (R326). -/
def partyArrived (b : Barrier) (p : Party) : Bool := (b.members.filter fun m => sameParty m p).all fun m => m.arrived && !m.exited

/-- PARTIES of the present configuration. -/
def partiesOf (b : Barrier) : Nat := fld b.cfg 15 0

/-- The completion condition of the current phase (R327). -/
def phaseDone (b : Barrier) : Bool := b.parties.length == partiesOf b && b.parties.all (partyArrived b)

/-- Wakes the executors parked in BARW on an object. -/
def wakeBar (s : State) (ctx : Nat) (k : BarKey) (tag : BitVec 48) : State :=
  let go (t : Thread) : Thread :=
    match t.run with
    | .parked (.barw x) => if x = k then { t with run := .ready, lastwake := tag } else t
    | _ => t
  { s with groups := s.groups.map fun g =>
      if g.ctx = ctx then { g with pilot := go g.pilot, strands := g.strands.map go } else g }

/-- The code by which a barrier packet asks.
DESIGN CHOICE (log entry 33), safe. -/
def askCode (a : BarAsk) : Nat :=
  match a with
  | .register _ _ => 0 | .arrive => 1 | .drop => 2 | .wait _ => 3 | .test _ => 4 | .exit => 5 | .flush => 6 | .fault => 7
  | .saved => 8 | .placed => 9

/-- The word that a barrier packet's request carries. -/
def askWord (a : BarAsk) : Nat :=
  match a with | .register cfg _ => cfg.toNat | .wait tok | .test tok => tok.toNat | _ => 0

/-- The request of a code, with its word. -/
def askOf (code word : Nat) (full : Bool) : BarAsk :=
  match code with
  | 0 => .register (BitVec.ofNat 64 word) full
  | 1 => .arrive
  | 2 => .drop
  | 3 => .wait (BitVec.ofNat 16 word)
  | 4 => .test (BitVec.ofNat 16 word)
  | 5 => .exit
  | 6 => .flush
  | 7 => .fault
  | 8 => .saved
  | _ => .placed

/-- AUX of a packet about an object. -/
def keyAux (k : BarKey) : W64 := BitVec.ofNat 64 (k.inst * 2 ^ 36 + keyHandle k)

/-- OPINFO of a barrier packet: a request, its answer, or what the home tells of the object.
DESIGN CHOICE (log entry 33), safe. -/
def barKindInfo (kind : Nat) : W32 := BitVec.ofNat 32 (kind * 2 ^ 16)

/-- A packet to the home of a pod object, for an executor of a group (R323, R337, R491).
DESIGN CHOICE (log entry 33), safe. -/
def barMsg (s : State) (ctx : Nat) (k : BarKey) (gid : Nat) (lin : W32) (core : Nat) (w : Who) (ask : BarAsk)
    (wake : BitVec 48) : Packet :=
  let full := match ask with | .register _ true => 2 ^ 7 | _ => 0
  { pkt0 s (keyHome s k) .barCtl 3 ctx wake with
    tag := postedTag, aux := keyAux k, addr := BitVec.ofNat 64 (core % 128 + gid * 2 ^ 7), opinfo := barKindInfo 0,
    opnd := BitVec.ofNat 128 (askCode ask + full + strandIx w * 2 ^ 8 + lin.toNat * 2 ^ 32 + askWord ask * 2 ^ 64) }

/-- The other devices that have a party in an object. -/
def otherRanks (s : State) (b : Barrier) : List (BitVec 12) := ((b.parties.map (·.rank)).filter (· != s.rank)).dedup

/-- The home of a pod object tells devices its phase and state: 0 FREE, 1 COLLECTING, 2 RELEASING, 3 FAILED (R323). -/
def tellState (s : State) (ctx : Nat) (b : Barrier) (code : Nat) (ranks : List (BitVec 12)) (tag : BitVec 48) : State :=
  if b.key.level = 5 ∧ b.remoteHome = false then
    ranks.foldl (fun s r =>
      let (tag, s) := if tag = 0 then takeTag s (barUnit s b.key) else (tag, s)
      sendPacket s { pkt0 s r .barCtl 3 ctx tag with
        tag := postedTag, aux := keyAux b.key, opinfo := barKindInfo 2,
        opnd := BitVec.ofNat 128 (b.phase.toNat + code * 2 ^ 16) }) s
  else s

/-- The completion of a phase, in one step (R327, R328). -/
def completeBar (s : State) (ctx : Nat) (b : Barrier) (tag : BitVec 48) : State :=
  let rel := decide (0 < b.wpend)
  let b' : Barrier :=
    { b with phase := b.phase + 1, opened := now s, lateLogged := false,
             bst := if rel then .releasing else .collecting,
             members := b.members.map fun m => { m with arrived := false },
             parties := b.parties.map fun p => { p with stamp := now s } }
  let s := putBar s ctx b'
  let s := if rel then logBar s ctx b.key 2 b'.phase else s
  tellState (wakeBar s ctx b.key tag) ctx b' (bstCode b'.bst) (otherRanks s b') tag

/-- Stores an object and completes its phase where the condition holds. -/
def settleBar (s : State) (ctx : Nat) (b : Barrier) (tag : BitVec 48) : State :=
  let s := putBar s ctx b
  if b.bst = .collecting ∧ phaseDone b = true then completeBar s ctx b tag else s

/-- A member of a group of this device. -/
def ownMember (s : State) (gid : Nat) (m : Member) : Bool := m.rank == s.rank && m.gid == gid

/-- An executor as a member of its context's objects. -/
def isMember (s : State) (gid : Nat) (w : Who) (m : Member) : Bool := ownMember s gid m && m.who == w

/-- A party of a group of this device. -/
def ownParty (s : State) (gid : Nat) (p : Party) : Bool := p.rank == s.rank && p.gid == gid

/-- A registered waiter leaves WPEND; at zero a RELEASING object collects again (R328, R337). -/
def leaveWait (s : State) (ctx : Nat) (b : Barrier) (p : Member → Bool) : State :=
  let n := (b.members.filter fun m => p m && m.waiter).length
  let w := b.wpend - n
  let b := { b with wpend := w, members := b.members.map fun m => if p m then { m with waiter := false } else m }
  if b.bst = .releasing ∧ w = 0 then logBar (putBar s ctx { b with bst := .collecting }) ctx b.key 1 b.phase
  else putBar s ctx b

/-- An object without the members that meet a test: a party without members goes and lowers PARTIES, and one that has lost a member
takes the tag of the drop (R335, R491). -/
def withoutMembers (b : Barrier) (p : Member → Bool) (tag : BitVec 48) : Barrier :=
  let ms := b.members.filter fun m => !p m
  let hit (q : Party) : Bool := b.members.any fun m => p m && sameParty m q
  let ps := (b.parties.filter fun q => ms.any fun m => sameParty m q).map fun q => if hit q then { q with wake := tag } else q
  { b with members := ms, parties := ps, cfg := setFld b.cfg 15 0 (partiesOf b - (b.parties.length - ps.length)) }

/-- Removes members; the last drop frees the object, and a drop can complete a phase (R335). On a device that is not the home it
removes what is kept here. -/
def dropMembers (s : State) (ctx : Nat) (k : BarKey) (p : Member → Bool) (tag : BitVec 48) : State :=
  match findBar s ctx k with
  | none => s
  | some b =>
    if b.remoteHome then
      let b := withoutMembers b p tag
      if b.members.isEmpty then delBar s ctx k else putBar s ctx b
    else
      let s := leaveWait s ctx b p
      match findBar s ctx k with
      | none => s
      | some old =>
        let b := withoutMembers old p tag
        if partiesOf b = 0 then
          tellState (logBar (wakeBar (delBar s ctx k) ctx k tag) ctx k 0 b.phase) ctx b 0 (otherRanks s old) tag
        else settleBar s ctx b tag

/-- An object enters FAILED: its waiters complete false, and the other devices are told (R329, R334). What a device that is not the
home keeps of it changes unlogged. -/
def failBar (s : State) (ctx : Nat) (b : Barrier) : State :=
  if b.bst = .failed then s
  else
    let s := putBar s ctx { b with bst := .failed, wpend := 0, members := b.members.map fun m => { m with waiter := false } }
    let s := if b.remoteHome then s else logBar s ctx b.key 3 b.phase
    tellState (wakeBar s ctx b.key 0) ctx b 3 (otherRanks s b) 0

/-- Objects of a context. -/
def barsOf (s : State) (ctx : Nat) : List Barrier := match getCtx s ctx with | some c => c.barriers | none => []

/-- Tells the homes of the pod objects kept here, in which a group has a party, what the group has met (R337, R491); a packet without a
record takes a tag of its own (R459). -/
def tellHomes (s : State) (g : Group) (ask : BarAsk) (tag : BitVec 48) : State :=
  ((barsOf s g.ctx).filter fun b => b.remoteHome && b.parties.any (ownParty s g.gid)).foldl (fun s b =>
    let (tag, s) := if tag = 0 then takeTag s (unitCore (firstCore g)) else (tag, s)
    sendPacket s (barMsg s g.ctx b.key g.gid g.lin (firstCore g) .pilot ask tag)) s

/-- A group FAULTED fails every object in which it has a party (R337). -/
def barFailGroup (s : State) (g : Group) : State :=
  (barsOf s g.ctx).foldl (fun s b => if b.parties.any (ownParty s g.gid) then failBar s g.ctx b else s)
    (tellHomes s g .fault 0)

/-- A fatal event of a context fails every object of it (R323). -/
def barFailCtx (s : State) (ctx : Nat) : State := (barsOf s ctx).foldl (fun s b => failBar s ctx b) s

/-- The objects of a context are freed (R323, R329): the homes of its pod objects learn that its groups here are gone, as of FAULTED
ones.
DESIGN CHOICE (log entry 33), safe. -/
def freeBars (s : State) (ctx : Nat) : State :=
  (barsOf s ctx).foldl (fun s b =>
    if b.remoteHome then
      (b.parties.filter fun p => p.rank == s.rank).foldl (fun s p =>
        let (tag, s) := takeTag s (unitCore p.core.toNat)
        sendPacket s (barMsg s ctx b.key p.gid p.lin p.core.toNat .pilot .fault tag)) (delBar s ctx b.key)
    else tellState (logBar (delBar s ctx b.key) ctx b.key 0 b.phase) ctx b 0 (otherRanks s b) 0) s

/-- Pod objects whose home has become unreachable enter FAILED (R329). -/
def failUnreachable (s : State) : State :=
  s.contexts.foldl (fun s c => c.barriers.foldl (fun s b =>
    if b.remoteHome && b.bst != .failed && !reachable s (keyHome s b.key) then
      logBar (failBar s c.num b) c.num b.key 3 b.phase
    else s) s) s

/-- A member executor that exits is dropped, or stays as an EXITED member (R337); the home of a pod object is told. -/
def barExit (s : State) (g : Group) (w : Who) : State :=
  let core := coreOf g w
  (barsOf s g.ctx).foldl (fun s b =>
    if b.members.any (isMember s g.gid w) then
      let (tag, s) := takeTag s (unitCore core)
      let s := if b.remoteHome then sendPacket s (barMsg s g.ctx b.key g.gid g.lin core w .exit tag) else s
      exitMember s g.ctx b (isMember s g.gid w) tag
    else s) s
where
  /-- The exit at an object. -/
  exitMember (s : State) (ctx : Nat) (b : Barrier) (p : Member → Bool) (tag : BitVec 48) : State :=
    if bit1 b.cfg 16 then dropMembers s ctx b.key p tag
    else putBar s ctx { b with members := b.members.map fun m => if p m then { m with exited := true } else m }

/-- A group that is flushed loses every membership, each drop under a tag of its core's unit (R337, R491). -/
def barFlush (s : State) (g : Group) : State :=
  let s := tellHomes s g .flush 0
  (barsOf s g.ctx).foldl (fun s b =>
    if b.members.any (ownMember s g.gid) then
      let (tag, s) := takeTag s (unitCore (firstCore g))
      dropMembers s g.ctx b.key (ownMember s g.gid) tag
    else s) s

/-- Marks parties of an object as descheduled or not, with the tag of the record that says so and the core (R337, R343, R491). -/
def markParties (b : Barrier) (p : Party → Bool) (d : Bool) (core : BitVec 7) (tag : BitVec 48) : Barrier :=
  let one (q : Party) : Party := if p q then { q with desched := d, wake := tag, core := if d then q.core else core } else q
  { b with parties := b.parties.map one }

/-- A group has been saved, or placed or retired: its entries in this device's objects and in pod objects elsewhere (R337, R491). -/
def barDesched (s : State) (g : Group) (d : Bool) (tag : BitVec 48) : State :=
  let s := tellHomes s g (if d then .saved else .placed) tag
  let one (b : Barrier) : Barrier := markParties b (ownParty s g.gid) d (BitVec.ofNat 7 (g.cores.getD 0 0)) tag
  modCtx s g.ctx fun c => { c with barriers := c.barriers.map one }

/-- Objects in which a group of this device has a party (R326). -/
def partyCount (s : State) (ctx gid : Nat) : Nat := ((barsOf s ctx).filter fun b => b.parties.any (ownParty s gid)).length

/-- Register (R332): a member, and its party where it is the group's first. -/
def registerMember (s : State) (b : Barrier) (m : Member) (core : Nat) (tag : BitVec 48) : Barrier :=
  let p : Party := { rank := m.rank, gid := m.gid, lin := m.lin, core := BitVec.ofNat 7 core, stamp := now s, lphase := 0,
                     wake := tag, desched := false }
  let ps := if b.parties.any (sameParty m) then b.parties.map fun q => if sameParty m q then { q with wake := tag } else q
    else b.parties ++ [p]
  { b with members := b.members ++ [m], parties := ps }

/-- An object as BARINIT creates it, before its first member (R332). -/
def freshBar (s : State) (k : BarKey) (cfg : W64) : Barrier :=
  { key := k, kid := none, cfg := cfg, bst := .collecting, phase := 0, wpend := 0, opened := now s, members := [], parties := [],
    lateLogged := false, made := s.nextMade, lost := false, remoteHome := false }

/-- BARINIT's configuration is legal (R332). -/
def barCfgOk (level : Nat) (cfg : W64) : Bool :=
  fld cfg 23 17 == 0 && decide (1 ≤ fld cfg 15 0 ∧ fld cfg 15 0 ≤ levelParties level)

/-- The effect of BARINIT at the object, and its status (R332); `full`: the member's group has 32 parties. Status 5: Register finds
that a new party would be the group's 33rd, and nothing changes. -/
def barInit (s : State) (ctx : Nat) (k : BarKey) (cfg : W64) (m : Member) (core : Nat) (full : Bool) (tag : BitVec 48) :
    Nat × State :=
  if barCfgOk k.level cfg = false then (2, s)
  else match findBar s ctx k with
  | none =>
    if full then (5, s)
    else (0, logBar (putBar { s with nextMade := s.nextMade + 1 } ctx (registerMember s (freshBar s k cfg) m core tag)) ctx k 1 0)
  | some b =>
    if b.bst = .failed then (4, s)
    else if fld b.cfg 63 16 ≠ fld cfg 63 16 then (2, s)
    else if b.members.any fun x => x.rank == m.rank && x.gid == m.gid && x.who == m.who then (1, s)
    else if !b.parties.any (sameParty m) && b.parties.length == partiesOf b then (3, s)
    else if !b.parties.any (sameParty m) && full then (5, s)
    else (1, putBar s ctx (registerMember s b m core tag))

/-- An arrival at the object: the phase where it is accepted (R333). -/
def barArrive (s : State) (ctx : Nat) (k : BarKey) (p : Member → Bool) (tag : BitVec 48) : Option (BitVec 16) × State :=
  match findBar s ctx k with
  | none => (none, s)
  | some b =>
    match b.members.find? p with
    | none => (none, s)
    | some m =>
      if b.bst ≠ .collecting ∨ m.arrived = true then (none, s)
      else
        let b := { b with
          members := b.members.map fun x => if p x then { x with arrived := true } else x,
          parties := b.parties.map fun q => if sameParty m q then { q with lphase := b.phase, wake := tag } else q }
        (some b.phase, settleBar s ctx b tag)

/-- Phase tok has passed (R334). -/
def phasePassed (phase tok : BitVec 16) : Bool := let d := (phase - tok).toNat; decide (1 ≤ d ∧ d ≤ 32767)

/-- What BARW and BART answer: true, false, or wait (R334). -/
inductive BarWait where
  | yes | no | wait
deriving DecidableEq, Repr

/-- The wait or test of a member (R334). -/
def barTest (s : State) (ctx : Nat) (k : BarKey) (p : Member → Bool) (tok : BitVec 16) (test : Bool) : BarWait × State :=
  match findBar s ctx k with
  | none => (.no, s)
  | some b =>
    match b.members.find? p with
    | none => (.no, s)
    | some m =>
      if phasePassed b.phase tok then (.yes, if m.waiter && !test then leaveWait s ctx b p else s)
      else if b.bst = .failed ∨ b.bst = .releasing ∨ tok ≠ b.phase ∨ test = true then (.no, s)
      else if m.waiter then (.wait, s)
      else (.wait, putBar s ctx { b with wpend := b.wpend + 1,
                                         members := b.members.map fun x => if p x then { x with waiter := true } else x })

/-! ### Semaphore queues -/

/-- A semaphore of a context, by the place of its word. -/
def semOf (s : State) (ctx pa : Nat) : Option Sem := (getCtx s ctx).bind fun c => c.sems.find? fun m => m.pa == pa

def putSem (s : State) (ctx : Nat) (m : Sem) : State :=
  modCtx s ctx fun c => { c with sems := upsert (fun x => x.pa == m.pa) m c.sems }

/-- A semaphore whose last waiter has left loses its record (R341). -/
def settleSem (s : State) (ctx : Nat) (m : Sem) : State :=
  if m.waiters.isEmpty then modCtx s ctx fun c => { c with sems := c.sems.filter fun x => x.pa != m.pa } else putSem s ctx m

/-- Groups that hold units: those whose units taken exceed those given back (R343). -/
def holdersOf (m : Sem) : List SemHolder := m.holders.filter fun h => decide (0 < h.taken)

/-- A new entry of a record that has 31 already is counted as dropped (R342). -/
def countEntry (m : Sem) : Sem :=
  if 31 < m.waiters.length + (holdersOf m).length ∧ m.drops ≠ 0xFFFF then { m with drops := m.drops + 1 } else m

/-- An executor in a semaphore's queue. -/
def sameWaiter (w x : SemWaiter) : Bool := x.rank == w.rank && x.t == w.t

/-- Counts units that the group of an executor has taken since the record was made; a group that becomes a holder is a new entry
(R342, R343). -/
def holdUnits (m : Sem) (w : SemWaiter) (d : Int) : Sem :=
  let mine (h : SemHolder) : Bool := h.rank == w.rank && h.gid == w.t.gid
  let before := (holdersOf m).length
  let m := match m.holders.find? mine with
    | some _ => { m with holders := replaceIf mine (fun h => { h with taken := h.taken + d, tag := w.tag, core := w.core }) m.holders }
    | none => { m with holders := m.holders ++ [{ rank := w.rank, gid := w.t.gid, lin := w.lin, core := w.core, taken := d,
                                                  stamp := w.stamp, tag := w.tag }] }
  if before < (holdersOf m).length then countEntry m else m

/-- A completion word that takes an increment, with its mark of a failed predecessor (R125). -/
def signalWord (inc : Nat) (bad : Bool) (old : Nat) : Nat :=
  (old % 2 ^ 63 + inc % 2 ^ 63) % 2 ^ 63 + (if bad then 2 ^ 63 else 0)

/-- Every entry of the party of a request takes the request's tag (R343). -/
def tagParty (m : Sem) (w : SemWaiter) : Sem :=
  { m with waiters := replaceIf (fun y => y.rank == w.rank && y.t.gid == w.t.gid) (fun y => { y with tag := w.tag }) m.waiters,
           holders := replaceIf (fun h => h.rank == w.rank && h.gid == w.t.gid) (fun h => { h with tag := w.tag }) m.holders }

/-- What SEMP's step answers (R339). -/
inductive SemAnswer where
  | refused | taken | queued
deriving DecidableEq, Repr

/-- SEMP's step at the queue of a word that holds m, less the word itself (R339): taken where the units suffice and no other
executor is ahead; else refused under TRY, or the executor stands in the queue. -/
def semAsk (s : State) (ctx pa : Nat) (va : BitVec 72) (w : SemWaiter) (m : Nat) (try_ : Bool) : SemAnswer × State :=
  let sem := semOf s ctx pa
  let ws := match sem with | some x => x.waiters | none => []
  let head := match ws with | [] => true | y :: _ => sameWaiter w y
  if w.units.toNat ≤ m ∧ head = true then
    (.taken, match sem with
      | some x => settleSem s ctx (tagParty (holdUnits { x with waiters := x.waiters.filter fun y => !sameWaiter w y } w w.units.toNat) w)
      | none => s)
  else if try_ then (.refused, s)
  else
    (.queued, match sem with
      | some x =>
        putSem s ctx (tagParty (if x.waiters.any (sameWaiter w) then x else countEntry { x with waiters := x.waiters ++ [w] }) w)
      | none => putSem { s with nextMade := s.nextMade + 1 } ctx
          { pa := pa, va := va, waiters := [w], holders := [], drops := 0, opened := now s, made := s.nextMade, lost := false })

/-- SEMV's step at the record of a word, less the word itself (R343). -/
def semGive (s : State) (ctx pa : Nat) (w : SemWaiter) : State :=
  match semOf s ctx pa with
  | some x => putSem s ctx (tagParty (holdUnits x w (-(w.units.toNat : Int))) w)
  | none => s

/-- Executors of a device leave a word's queue. -/
def semLeave (s : State) (ctx pa : Nat) (p : SemWaiter → Bool) : State :=
  match semOf s ctx pa with
  | some m => settleSem s ctx { m with waiters := m.waiters.filter fun w => !p w }
  | none => s

/-- The words that a semaphore request carries beside its units: group, linear index, executor, core, TRY, reach and offset.
DESIGN CHOICE (log entry 34), unsafe. -/
def semPayload (w : SemWaiter) (try_ : Bool) (va : BitVec 72) : List Byte :=
  toBytes 8 w.units.toNat ++ toBytes 4 w.t.gid ++ toBytes 4 w.lin.toNat ++ toBytes 4 (strandIx w.t.who) ++ toBytes 1 w.core.toNat ++
    toBytes 1 (if try_ then 1 else 0) ++ toBytes 9 va.toNat

/-- A semaphore request to the rank of a peer's word: an ATOM with its kind in OPINFO bits 23:20, 1 SEMP, 2 SEMV, 3 an executor
leaves the queue.
DESIGN CHOICE (log entry 34), unsafe. -/
def semPacket (s : State) (ctx : Nat) (rank : BitVec 12) (a kind scope : Nat) (w : SemWaiter) (try_ : Bool) (va : BitVec 72) :
    Packet :=
  { pkt0 s rank .atom 0 ctx w.tag with
    addr := BitVec.ofNat 64 a, opinfo := BitVec.ofNat 32 (3 + scope * 2 ^ 11 + 2 * 2 ^ 14 + kind * 2 ^ 20),
    opnd := BitVec.ofNat 128 w.units.toNat, payload := semPayload w try_ va }

/-- An executor as a waiter of a semaphore. -/
def semWho (s : State) (g : Group) (w : Who) (units : W64) (tag : BitVec 48) : SemWaiter :=
  { rank := s.rank, t := { gid := g.gid, who := w }, lin := g.lin, core := BitVec.ofNat 7 (g.cores.getD 0 0), units := units,
    stamp := now s, tag := tag }

/-- The peer's word that a place names (R447). A device keeps such a word's waiters that are its own.
DESIGN CHOICE (log entry 34), unsafe. -/
def semPeer (s : State) (pa : Nat) : Option (BitVec 12 × Nat) :=
  if pa < 2 ^ 40 ∨ 2 ^ 52 ≤ pa ∨ 0xC000000000 ≤ pa % 2 ^ 40 then none
  else some (s.rank ^^^ BitVec.ofNat 12 (pa / 2 ^ 40), pa % 2 ^ 40)

/-- A group that is saved, or will not come back, leaves the semaphore queues, here and at peers (R339).
DESIGN CHOICE (log entry 34), unsafe. -/
def leaveSems (s : State) (gid : Nat) : State :=
  match getGroup s gid with
  | none => s
  | some g =>
    let mine (w : SemWaiter) : Bool := w.rank == s.rank && w.t.gid == gid
    match getCtx s g.ctx with
    | none => s
    | some c => c.sems.foldl (fun s m =>
        let s := match semPeer s m.pa with
          | some (rank, a) => (m.waiters.filter mine).foldl (fun s w =>
              let (tag, s) := takeTag s (unitCore (firstCore g))
              sendPacket s { semPacket s g.ctx rank a 3 0 { w with tag := tag } false m.va with tag := postedTag }) s
          | none => s
        semLeave s g.ctx m.pa mine) s

end Sys2Proof.Machine
end

