-- ==== Sys2Proof/Machine/CollObj.lean ====
section
/-! DEFINITION. A device's view of a collective: its descriptor, its records and member table in memory, its states, its
failure and its draining (R419-R422, R426, R430-R435, R504). -/

namespace Sys2Proof.Machine

open Sys2Proof

/-! ### The descriptor -/

/-- Word i of a descriptor (R419). -/
def dw (d : List W64) (i : Nat) : W64 := d.getD i 0

def cChunks (d : List W64) : Nat := fld (dw d 2) 63 48
def cElems (d : List W64) : Nat := fld (dw d 2) 47 32
def cMidx (d : List W64) : Nat := fld (dw d 3) 34 32
def cGpr (d : List W64) : Nat := fld (dw d 3) 26 24 + 1
def cId (d : List W64) : Nat := fld (dw d 4) 9 0
def cRedop (d : List W64) : Nat := fld (dw d 4) 15 12
def cFmt (d : List W64) : Nat := fld (dw d 4) 21 16
def cGeo (d : List W64) : Nat := fld (dw d 4) 23 22
def cRtype (d : List W64) : Nat := fld (dw d 4) 25 24
def cDlv (d : List W64) : Bool := bit1 (dw d 4) 26
def cHomemap (d : List W64) : Bool := bit1 (dw d 4) 27
def cBudget (d : List W64) : Nat := fld (dw d 5) 63 24
def cRreach (d : List W64) : BitVec 8 := BitVec.ofNat 8 (fld (dw d 6) 15 8)
def cBreach (d : List W64) : BitVec 8 := BitVec.ofNat 8 (fld (dw d 6) 7 0)

/-- Bounds of the member box in coordinate i: lowest, and how many (R419). -/
def cBox (d : List W64) (i : Nat) : Nat × Nat :=
  let lo := fld (dw d 3) (8 * i + 3) (8 * i)
  (lo, fld (dw d 3) (8 * i + 7) (8 * i + 4) + 1 - lo)

def boxAxis (d : List W64) (i : Nat) : List Nat := (List.range (cBox d i).2).map fun k => (cBox d i).1 + k

/-- Member ranks in increasing rank (R420). -/
def cRanks (d : List W64) : List (BitVec 12) :=
  (boxAxis d 0).flatMap fun x => (boxAxis d 1).flatMap fun y => (boxAxis d 2).map fun z =>
    BitVec.ofNat 12 (x * 256 + y * 16 + z)

/-- Result element size and chunk bytes (R420). -/
def cRs (d : List W64) : Nat := if cRtype d = 2 then 8 else 4
def cBytes (d : List W64) : Nat := cElems d * cRs d

/-- Home of chunk c (R420), and the ranks that are a home. -/
def cHome (d : List W64) (c : Nat) : BitVec 12 :=
  let l := cRanks d
  if cHomemap d then l.headD 0 else l.getD (c % max l.length 1) 0
def cHomes (d : List W64) : List (BitVec 12) :=
  if cHomemap d then (cRanks d).take 1 else (cRanks d).take (cChunks d)

/-- Expected contributions (R420). -/
def cExpect (d : List W64) : Nat := if cRedop d = 0 then 1 else (cRanks d).length * cGpr d

/-- Member ordinal (R420). -/
def cOrdinal (d : List W64) (rank : BitVec 12) (midx : Nat) : Nat := ((cRanks d).idxOf rank) * cGpr d + midx

/-- Address of byte o of chunk c. -/
def chunkVa (d : List W64) (c o : Nat) : BitVec 72 :=
  vaOf (cBreach d) (dw d 0 + BitVec.ofNat 64 (c * cBytes d + o))

/-! ### Views -/

def getView (s : State) (ctx id : Nat) : Option CollView :=
  (getCtx s ctx).bind fun c => c.views.find? fun v => v.id == id

def modView (s : State) (ctx id : Nat) (f : CollView → CollView) : State :=
  modCtx s ctx fun c => { c with views := replaceIf (fun v => v.id == id) f c.views }

def putView (s : State) (ctx : Nat) (v : CollView) : State :=
  modCtx s ctx fun c => { c with views := upsert (fun x => x.id == v.id) v c.views }

def viewCode (v : VState) : Nat :=
  match v with | .closed => 0 | .opened => 1 | .active => 2 | .draining => 3 | .failed => 4

/-- OPEN or ACTIVE: contributions are accepted (R422). -/
def viewLive (v : CollView) : Bool := v.vst == .opened || v.vst == .active

/-- The stack of a virtual address; 0 where it is not mapped.
DEDUCED (log entry 48), unsafe. -/
def stackOfVa (s : State) (ctx : Nat) (va : BitVec 72) : Nat :=
  match walk s ctx va with
  | .leaf l => stackOf s (l.pa + va.toNat % 2 ^ l.bits)
  | _ => 0

/-- The unit of a view's records: the stack that holds BUF (R491). -/
def viewUnit (s : State) (ctx : Nat) (v : CollView) : Nat := unitStack (stackOfVa s ctx (chunkVa v.desc 0 0))

/-- Object id of COLL_STATE and COLL_FAILED (R503). -/
def viewObj (v : CollView) : Nat := v.id * 2 ^ 16 + v.gen.toNat

/-- A view enters a state, which is logged; gives the record's own tag (R422, R503). -/
def setView (s : State) (ctx id : Nat) (st : VState) (cause : BitVec 48) : BitVec 48 × State :=
  let s := modView s ctx id fun v => { v with vst := st }
  match getView s ctx id with
  | some v => emitGet s (viewUnit s ctx v) (some ctx) evCollState (viewObj v) (viewCode st) cause
  | none => (0, s)

/-- Statuses of 8 and above are terminal (R430). -/
def terminal (c : Chunk) : Bool := decide (8 ≤ c.status.toNat)

/-- Words of record i, or of a member-table entry (R430, R432). -/
def recWords (v : CollView) (i : Nat) : W64 × W64 :=
  match v.chunks[i]? with
  | some c =>
    (BitVec.ofNat 64 (v.gen.toNat * 2 ^ 48 + c.contrib.toNat * 2 ^ 32 + c.status.toNat * 2 ^ 28 + c.flags.toNat * 2 ^ 22 +
       c.sent.toNat),
     BitVec.ofNat 64 (c.acked.toNat * 2 ^ 48 + c.wake.toNat))
  | none =>
    match v.members[i - v.chunks.length]? with
    | some m =>
      (BitVec.ofNat 64 (m.rank.toNat * 2 ^ 52 + m.midx % 8 * 2 ^ 49 + m.mst.toNat * 2 ^ 47 + min m.cdone 0x7FFF * 2 ^ 32 +
         m.group.toNat), m.jstamp)
    | none => (0, 0)

/-- Record words that have changed are to be written. -/
def mark (v : CollView) (l : List Nat) : CollView := { v with dirty := v.dirty ++ l.filter fun i => !v.dirty.contains i }

/-- This device's own GEN of an id, which every packet it sends about it carries (R422). -/
def ownGen (s : State) (ctx id : Nat) : BitVec 16 := match getView s ctx id with | some v => v.gen | none => 0

/-- Fields of a packet's AUX: id, GEN and chunk.
DESIGN CHOICE (log entry 46), safe. -/
def pktId (p : Packet) : Nat := fld p.aux 9 0
def pktGen (p : Packet) : BitVec 16 := BitVec.ofNat 16 (fld p.aux 31 16)
def pktChunk (p : Packet) : Nat := fld p.aux 47 32

/-- Changes chunk c and has its record written. -/
def modChunk (v : CollView) (c : Nat) (f : Chunk → Chunk) : CollView := mark { v with chunks := modNth v.chunks c f } [c]

/-- Changes a member-table entry and has it written. -/
def modMember_ (v : CollView) (o : Nat) (f : CollMember → CollMember) : CollView :=
  mark { v with members := modNth v.members o f } [v.chunks.length + o]

/-! ### Device writes -/

/-- What the checks of a device write answer (R430): the place, a fault that holds it (0: a capture copy), a fault that
drops it. -/
inductive DevRes where
  | ok (pa : Nat)
  | hold (tag : W32)
  | bad
deriving DecidableEq, Repr

/-- The checks of a write of a collective's device in its context (R260, R430).
DEDUCED (log entry 48), unsafe. -/
def devCheck (s : State) (ctx unit : Nat) (refused : Option Refused) (va : BitVec 72) (n : Nat) (capt : Bool) : DevRes × State :=
  if (refusedAt refused va .ewrite).isSome then (.bad, s)
  else match checkAccess s none ctx va .ewrite n capt with
  | (.ok _ pa, s) => (if apertureBase ≤ pa then .bad else .ok pa, s)
  | (.replay k l, s) =>
    let (tag, s) := openFault s ctx unit (filtOf s (some ctx)) k l va .ewrite true 0
    (.hold tag, s)
  | (.capture, s) | (.queueFull, s) => (.hold 0, s)
  | (.ctxFatal c, s) => (.bad, raiseCtxFatal s ctx c)
  | (.trap _ _, s) => (.bad, s)
  | (.debug, s) => (.bad, s)

/-- The view serves a kernel whose writes are captured (R275, R431). -/
def viewCapt (s : State) (v : CollView) : Bool :=
  v.members.any fun m => match m.gid.bind (getGroup s) with | some g => capturing s g | none => false

/-- Writes one record: word 1 before word 0, at the home slice (R430). True: a fault has dropped the write. -/
def flushOne (ctx id : Nat) (acc : Bool × State) (i : Nat) : Bool × State :=
  let s := acc.2
  match getView s ctx id with
  | none => acc
  | some v =>
    if v.stall.isSome then acc
    else
      let (w0, w1) := recWords v i
      let va := vaOf (cRreach v.desc) (dw v.desc 1 + BitVec.ofNat 64 (16 * i))
      let wake := match v.chunks[i]? with | some c => c.wake | none => 0
      let done (s : State) : State := modView s ctx id fun v => { v with dirty := v.dirty.erase i, refused := none }
      match devCheck s ctx (viewUnit s ctx v) v.refused va 16 (viewCapt s v) with
      | (.ok pa, s) =>
        (acc.1, done (homeWrite (homeWrite s none (pa + 8) (toBytes 8 w1.toNat) wake) none pa (toBytes 8 w0.toNat) wake))
      | (.hold tag, s) => (acc.1, modView s ctx id fun v => { v with stall := some tag })
      | (.bad, s) => (true, done s)

def flushRaw (s : State) (ctx id : Nat) : Bool × State :=
  match getView s ctx id with
  | some v => v.dirty.foldl (flushOne ctx id) (false, s)
  | none => (false, s)

/-! ### Packets -/

/-- A COLLCTL packet of a view's use (R423, R440). -/
def collPkt (s : State) (ctx : Nat) (v : CollView) (dst : BitVec 12) (msg : CollMsg) (chunk : Nat) (wake : BitVec 48) : Packet :=
  { pkt0 s dst .collCtl 3 ctx wake with
    aux := BitVec.ofNat 64 (v.id + v.gen.toNat * 2 ^ 16 + chunk * 2 ^ 32), msg := msg }

/-- Sends a packet of a use that its receiver confirms (R504).
DEDUCED (log entry 47), unsafe. -/
def sendColl (s : State) (ctx id : Nat) (p : Packet) : State :=
  sendPacket (modView s ctx id fun v => { v with unconf := v.unconf ++ [p.drank] }) p

/-- The other member devices of a view that have not been declared dead. -/
def othersOf (s : State) (v : CollView) : List (BitVec 12) :=
  (cRanks v.desc).filter fun r => r != s.rank && !v.dead.contains r

/-! ### Held packets -/

/-- Packets of one kind wait in order: contributions, and notices, whose data must land; any other is handled at once (R423, R428, R430,
R441). -/
inductive PktLane where
  | data | notice | free
deriving DecidableEq, Repr

def laneOfPkt (p : Packet) : PktLane :=
  if p.type = .collData then .data else if p.msg = .notice then .notice else .free

/-- A held packet is gone: its slots are free, or its place goes to the first packet of a newer use that was kept back (R423). -/
def letGo (s : State) (ctx : Nat) (h : Nat × Bool × Packet) : State :=
  let s := modCtx s ctx fun c => { c with held := c.held.erase h }
  if h.2.1 then freeKept s h.1 h.2.2
  else match (getCtx s ctx).bind fun c => c.held.find? fun e => e.2.1 && pktGen e.2.2 != ownGen s ctx (pktId e.2.2) with
  | some e => freeKept (modCtx s ctx fun c => { c with held := replaceIf (fun x => x == e) (fun x => (x.1, false, x.2.2)) c.held }) e.1 e.2.2
  | none => s

/-- Packets of a use that has ended are discarded where they are held (R435). -/
def dropHeld (s : State) (ctx id : Nat) : State :=
  match getCtx s ctx with
  | none => s
  | some c => (c.held.filter fun h => pktId h.2.2 == id && pktGen h.2.2 == ownGen s ctx id).foldl (fun s h => letGo s ctx h) s

/-! ### Failure and closing -/

/-- Causes of COLL_FAILED (R503). -/
def cfDead : Nat := 1
def cfFault : Nat := 2
def cfCtx : Nat := 3
def cfClosed : Nat := 4
def cfMismatch : Nat := 5
def cfNotice : Nat := 6
def cfWrite : Nat := 7

/-- What becomes of a record that is not terminal (R435). -/
def resolveChunk (tag : BitVec 48) (c : Chunk) : Chunk :=
  if terminal c then c else { c with status := if 0 < c.sent.toNat ∧ c.acked = c.sent then 9 else 10, wake := tag }

/-- A view enters FAILED, with a cause and the rank concerned (R434, R435). -/
def collFail (s : State) (ctx id cause : Nat) (rank : BitVec 12) (wake : BitVec 48) : State :=
  match getView s ctx id with
  | none => s
  | some v =>
    if viewLive v = false then s
    else
      let (tag, s) := emitGet s (viewUnit s ctx v) (some ctx) evCollFailed (viewObj v) (cause * 2 ^ 40 + rank.toNat) wake
      let (_, s) := setView s ctx id .failed wake
      let open_ := (List.range v.chunks.length).filter fun i =>
        match v.chunks[i]? with | some c => !terminal c | none => false
      let s := modView s ctx id fun v => mark { v with chunks := v.chunks.map (resolveChunk tag) } open_
      let s := dropHeld { s with redQ := s.redQ.filter fun r => !(r.ctx == ctx && r.id == id) } ctx id
      let s := ((othersOf s v).filter (reachable s)).foldl (fun s r => sendColl s ctx id (collPkt s ctx v r .fail 0 tag)) s
      (flushRaw s ctx id).2

/-- Writes what has changed; a write that a fault drops makes the view FAILED (R430). -/
def flushView (s : State) (ctx id : Nat) : State :=
  match flushRaw s ctx id with
  | (true, s) => collFail s ctx id cfWrite s.rank 0
  | (false, s) => s

/-- A use whose draining has ended is CLOSED (R504).
DEDUCED (log entry 47), unsafe. -/
def settleDrain (s : State) (ctx id : Nat) (wake : BitVec 48) : State :=
  match getView s ctx id with
  | none => s
  | some v =>
    if v.vst = .draining ∧ v.closeSent = true ∧ v.dirty.isEmpty = true ∧ (v.chunks.all terminal) = true ∧
      (v.unconf.all fun r => v.dead.contains r) = true ∧ ((othersOf s v).all fun r => v.closedBy.contains r) = true then
      modView (setView s ctx id .closed wake).2 ctx id fun v => { v with unconf := [], members := [], chunks := [], sentBy := [] }
    else s

/-- This device's groups that are members of a use. -/
def localMembers (v : CollView) : List CollMember := v.members.filter fun m => m.gid.isSome && m.mst == 1

/-- A group's memberships end, by COLLCLOSE or as if by it (R426): the status. -/
def closeMember (s : State) (ctx id gid : Nat) : Nat × State :=
  match getView s ctx id with
  | none => (2, s)
  | some v =>
    let mine := (localMembers v).filter fun m => m.gid == some gid
    if mine.isEmpty ∨ v.vst = .closed ∨ v.vst = .draining then (2, s)
    else
      let s := if v.chunks.all terminal then s else collFail s ctx id cfClosed s.rank 0
      let close (v : CollView) (m : CollMember) : CollView := modMember_ v m.ordinal fun m => { m with mst := 2 }
      let s := modView s ctx id fun v => { mine.foldl close v with sentBy := v.sentBy.filter fun g => g != gid }
      let st := match getView s ctx id with | some v => if v.vst = .failed then 1 else 0 | none => 0
      let last := match getView s ctx id with | some v => (localMembers v).isEmpty | none => false
      let s := if last then dropHeld (setView s ctx id .draining 0).2 ctx id else s
      (st, settleDrain (flushView s ctx id) ctx id 0)

/-- A group leaves every use it is a member of: it retires, is flushed, or enters FAULTED (R426). -/
def collLeave (s : State) (g : Group) (faulted : Bool) : State :=
  match getCtx s g.ctx with
  | none => s
  | some c =>
    (c.views.filter fun v => (localMembers v).any fun m => m.gid == some g.gid).foldl (fun s v =>
      let s := if faulted then collFail s g.ctx v.id cfFault s.rank 0 else s
      (closeMember s g.ctx v.id g.gid).2) s

/-- CLOSE notices of a use go to every other member device (R504). -/
def sendCloses (s : State) (ctx id : Nat) : State :=
  match getView s ctx id with
  | none => s
  | some v =>
    if v.closeSent then s
    else
      let s := modView s ctx id fun v => { v with closeSent := true }
      let (tag, s) := takeTag s (viewUnit s ctx v)
      (othersOf s v).foldl (fun s r => sendColl s ctx id (collPkt s ctx v r .close 0 tag)) s

/-- A context's fatal event or TEARDOWN at this device: its uses fail; TEARDOWN sends their CLOSE notices (R434, R504). -/
def collCtxEnd (s : State) (ctx : Nat) (teardown : Bool) : State :=
  match getCtx s ctx with
  | none => s
  | some c =>
    c.views.foldl (fun s v =>
      if v.vst = .closed then s
      else
        let s := collFail s ctx v.id cfCtx s.rank 0
        if teardown then sendCloses s ctx v.id else s) s

end Sys2Proof.Machine
end

