-- ==== Sys2Proof/Machine/Image.lean ====
section
/-! DEFINITION. The image of a group in the layout of its save record: its items, reading and writing it (R108,
R162-R164, R415, R473). -/

namespace Sys2Proof.Machine

open Sys2Proof

/-- Sizes and offsets of the record (R108, R162). -/
def strandBytes (sh : GroupShape) : Nat := sh.regs * 4 + 32
def strandOff (sh : GroupShape) (k : Nat) : Nat := 0x2000 + k * strandBytes sh
def bankCount (sh : GroupShape) : Nat := sh.ns + sh.nf
def banksOff (sh : GroupShape) : Nat := strandOff sh (sh.w * sh.d)
def accOff (sh : GroupShape) : Nat := banksOff sh + sh.spread * bankCount sh * 98304
def tailOff (sh : GroupShape) : Nat := accOff sh + sh.acc * 65536
def wakeOff (sh : GroupShape) : Nat := tailOff sh + 8192
def recordSize (sh : GroupShape) : Nat := 4096 * ceilDiv (wakeOff sh + sh.w * sh.d * 8) 4096

/-- STATE of a strand's status block (R163, R169, R473): the value that a debugger has written; in a group that is HALTED, or was when it
was saved, 5 for what the halt stopped. A strand in JOINING shows 3 in both.
DESIGN CHOICE (log entry 66), unsafe. -/
def stateCode (halted : Bool) (t : Thread) : Nat :=
  let stopped := halted || t.stopped
  match t.stateWr with
  | some x => x.toNat
  | none => match t.run with
  | .new => 0
  | .joining _ _ _ _ => 3
  | .trapped => 4
  | .exited => 6
  | .parked _ => if stopped then 5 else 2
  | .reissue true => 3
  | .reissue false => if stopped then 5 else 2
  | _ => if stopped then 5 else 1

/-- PC of a strand as saved: the start of its capsule step (R362). -/
def savedPc (t : Thread) : W64 :=
  match t.caps with
  | some c => if c.mode = .inside then c.start else t.pc
  | none => t.pc

/-- An item of the image: offset, bytes, value. -/
abbrev Item := Nat × Nat × Nat

/-- Status block of a strand (R163). -/
def statusItems (halted : Bool) (at_ : Nat) (t : Thread) : List Item :=
  [(at_, 8, (if halted then t.pc else savedPc t).toNat), (at_ + 8, 8, t.tpc.toNat),
   (at_ + 16, 4, stateCode halted t + t.preds.toNat * 2 ^ 4 + t.flags.toNat * 2 ^ 11 + (if t.inh then 2 ^ 17 else 0) +
      (match t.slot with | some n => n * 2 ^ 18 + 2 ^ 23 | none => 0)),
   (at_ + 20, 4, t.ovfcnt.toNat), (at_ + 24, 4, t.srstate.toNat), (at_ + 28, 4, t.stcres.toNat)]

/-- Strand k: registers, status block, LASTWAKE. -/
def strandItems (halted : Bool) (sh : GroupShape) (k : Nat) (t : Thread) : List Item :=
  let o := strandOff sh k
  (t.regs.filter fun e => decide (e.1 < sh.regs)).map (fun e => (o + 4 * e.1, 4, e.2.toNat)) ++
    statusItems halted (o + sh.regs * 4) t ++ [(wakeOff sh + 8 * k, 8, t.lastwake.toNat)]

/-- The pilot block (R162). The spec gives no offsets after LASTWAKE: the model's order is b0-b6 with status and
HALTPEND, then CHKSB with LOGFILT and TVREACH, TVEC, SRSEED, CAPLEASE, PTVEC, 8 bytes each.
DESIGN CHOICE (log entry 81), unsafe. -/
def pilotItems (halted : Bool) (g : Group) : List Item :=
  let t := g.pilot
  let v := g.vals
  [(0x1300, 8, t.pc.toNat), (0x1308, 8, t.tpc.toNat), (0x1310, 8, t.tcause.toNat), (0x1318, 8, t.taddrlo.toNat),
   (0x1320, 8, t.taddrhi.toNat), (0x1328, 8, t.tinfo.toNat), (0x1330, 8, t.flags.toNat), (0x1338, 8, t.ovfcnt.toNat),
   (0x1340, 8, t.srstate.toNat), (0x1348, 8, t.stcres.toNat), (0x1350, 8, t.lastwake.toNat),
   (0x1358, 8, t.preds.toNat + stateCode halted t * 2 ^ 8 + (if t.inh then 2 ^ 12 else 0) + (if g.haltPend then 2 ^ 16 else 0)),
   (0x1360, 8, (if v.chksb then 1 else 0) + v.logfilt.toNat * 2 ^ 8 + v.tvreach.toNat * 2 ^ 16), (0x1368, 8, v.tvec.toNat),
   (0x1370, 8, v.srseed.toNat), (0x1378, 8, v.caplease.toNat), (0x1380, 8, v.ptvec.toNat)]

/-- Trap slots (R153, R162): TCAUSE, TADDRLO, TADDRHI and TINFO of a slot in this order, 8 bytes each; R162 gives their size only.
DESIGN CHOICE (log entry 81), unsafe. -/
def slotItems (g : Group) : List Item :=
  g.strands.flatMap fun t =>
    match t.slot with
    | some n => [(0x1400 + 32 * n, 8, t.tcause.toNat), (0x1408 + 32 * n, 8, t.taddrlo.toNat),
                 (0x1410 + 32 * n, 8, t.taddrhi.toNat), (0x1418 + 32 * n, 8, t.tinfo.toNat)]
    | none => []

/-- Open capsule references (R362). -/
def capItems (g : Group) : List Item :=
  let held := (List.range g.strands.length).filterMap fun k => ((g.strands[k]?).bind (·.caps)).map fun c => (k, c.record)
  (held.zip (List.range 64)).map fun e => (0x1800 + 8 * e.2, 8, 2 ^ 63 + e.1.1 % 2 ^ 14 * 2 ^ 44 + e.1.2 / 256 % 2 ^ 44)

/-- Convoy membership (R415). -/
def convoyItems (s : State) (g : Group) : List Item :=
  match s.convoys.find? fun c => c.kid == g.kid with
  | none => []
  | some c =>
    match c.members.find? fun m => m.gid == g.gid with
    | none => []
    | some m =>
      let st := match c.cvst with | .sealed => 1 | .running => 2 | .broken => 3 | _ => 0
      [(0x1A00, 8, m.csb),
       (0x1A08, 8, m.seg.toNat * 2 ^ 48 + c.len * 2 ^ 40 + m.pos * 2 ^ 32 + m.scanBuf.length * 2 ^ 24 +
          m.softBuf.length * 2 ^ 16 + m.out.length * 2 ^ 8 + (if m.barArr then 8 else 0) + st)]

def modeCode (m : BankMode) : Nat := match m with | .cache => 0 | .scratch => 1 | .fifo => 2
def engCode (e : Engine) : Nat := match e with | .matrix => 1 | .copy => 2 | .reckoner => 3

/-- Engine operations of a group that have not started (R164). -/
def savedOps (s : State) (gid : Nat) : List EngineOp := s.engineQ.filter fun e => e.gid == gid && (!e.started || e.op == 0x1EE)

/-- One saved operation of the engine tail (R164). -/
def opItems (at_ : Nat) (e : EngineOp) : List Item :=
  (at_, 2, e.op.toNat) :: (at_ + 2, 1, engCode e.eng) :: (at_ + 4, 4, e.seq.toNat) ::
    (e.blk.zip (List.range 8)).map fun w => (at_ + 8 + 8 * w.2, 8, w.1.toNat)

/-- Engine state (R164). -/
def engineItems (s : State) (g : Group) : List Item :=
  let one (ix : Nat) (e : EngState) : List Item :=
    [(0x1A40 + 48 + 4 * ix, 4, e.seq.toNat),
     (0x1A40 + 64 + 8 * ix, 8, match e.first with
        | some x => x.seq.toNat * 2 ^ 32 + 2 ^ 31 + x.detail.toNat * 2 ^ 8 + x.status.toNat
        | none => 0)]
  let ops := savedOps s g.gid
  g.accMap.map (fun t => (0x1A40 + t.logical, 1, 2 ^ 7 + (if t.pool then 2 ^ 6 else 0) + t.phys % 32)) ++
    [(0x1A40 + 32, 8, g.ext.getD 0),
     (0x1A40 + 40, 8, (g.modes.zip (List.range g.modes.length)).foldl (fun a m => a + modeCode m.1 * 4 ^ m.2) 0)] ++
    one 0 g.mat ++ one 1 g.cpy ++ one 2 g.rek ++
    [(0x1A40 + 60, 4, g.mat.flags.toNat + g.cpy.flags.toNat * 2 ^ 8 + g.rek.flags.toNat * 2 ^ 16),
     (0x1A40 + 88, 8, g.path.toNat), (0x1A40 + 96, 4, ops.length)] ++
    (ops.zip (List.range 96)).flatMap fun e => opItems (tailOff g.shape + 80 * e.2) e.1

/-- Channels (R386). -/
def chanItems (g : Group) : List Item :=
  g.chans.flatMap fun c => [(0x1B00 + 16 * c.1, 8, c.2.toNat), (0x1B08 + 16 * c.1, 1, 1)]

/-- Barrier participations, 32 bytes each, for which the spec gives a place and no layout: a free value each.
DESIGN CHOICE (log entry 10), safe. -/
def barItems (s : State) (g : Group) : List Item :=
  (List.range (min 32 (partyCount s g.ctx g.gid))).map fun i => (0x1C00 + 32 * i, 8, (Config.freeWord (g.gid * 32 + i)).toNat)

/-- The quota tiles of a group, in logical order (R162). -/
def quotaTiles (g : Group) : List Nat := (List.range 32).filter fun n => g.accMap.any fun t => t.logical == n && !t.pool

/-- Scratch and FIFO banks, and quota accumulator tiles in logical order. -/
def storeItems (g : Group) : List Item :=
  let sh := g.shape
  let quota := quotaTiles g
  (g.scratch.filter fun e => decide (e.1 % 2 ^ 32 < bankCount sh * 98304)).map (fun e =>
      (banksOff sh + e.1 / 2 ^ 32 * (bankCount sh * 98304) + e.1 % 2 ^ 32, 1, e.2.toNat)) ++
    g.acc.filterMap fun e =>
      (quota.idxOf? (e.1 / 65536)).map fun ix => (accOff sh + ix * 65536 + e.1 % 65536, 1, e.2.toNat)

/-- The decision queue: slot i of the queue's 64. -/
def dqSlot (g : Group) (i : Nat) : W64 :=
  let k := (i + 64 - g.dqHead.toNat) % 64
  if k < g.dq.length then g.dq.getD k 0 else sget g.dqSpare i

/-- All items of a group's image. -/
def recordItems (s : State) (g : Group) : List Item :=
  let halted := g.gst == .halted
  g.sregs.map (fun e => (8 * e.1, 8, e.2.toNat)) ++
    (List.range 64).map (fun i => (0x1000 + 8 * i, 8, (dqSlot g i).toNat)) ++
    [(0x1200, 8, g.dqHead.toNat + g.dq.length * 2 ^ 8)] ++
    g.j.map (fun e => (0x1208 + 8 * e.1, 8, e.2.toNat)) ++ g.h.map (fun e => (0x1288 + e.1, 1, e.2.toNat)) ++
    pilotItems halted g ++ slotItems g ++ capItems g ++ convoyItems s g ++ engineItems s g ++ chanItems g ++ barItems s g ++
    (g.strands.zip (List.range g.strands.length)).flatMap (fun e => strandItems halted g.shape e.2 e.1) ++ storeItems g

/-- One byte of a list of items. -/
def itemByte (items : List Item) (off : Nat) : Byte :=
  match items.find? fun e => decide (e.1 ≤ off ∧ off < e.1 + e.2.1) with
  | some e => BitVec.ofNat 8 (e.2.2 / 2 ^ (8 * (off - e.1)))
  | none => 0

/-- n bytes of a group's live state in the layout of its record. -/
def imageLive (s : State) (g : Group) (off n : Nat) : List Byte :=
  let items := recordItems s g
  (List.range n).map fun i => itemByte items (off + i)

/-- The image of a group is its record in memory (R473). -/
def imageInMemory (g : Group) : Bool := g.gst == .descheduled || g.gst == .faulted

/-- n bytes of a group's image (R473): a HALTED one's live state, a DESCHEDULED or FAULTED one's record. -/
def imageGet (s : State) (g : Group) (off n : Nat) : List Byte :=
  if imageInMemory g then
    (List.range n).map fun i => if off + i < recordSize g.shape then sget s.mem (g.saveRec + off + i) else 0
  else imageLive s g off n

/-- Writes a group's record to its place in main memory, whole. -/
def writeRecord (s : State) (g : Group) : State :=
  let size := recordSize g.shape
  let s := { s with mem := skeep s.mem fun a => !decide (g.saveRec ≤ a ∧ a < g.saveRec + size) }
  (recordItems s g).foldl (fun s e => memPutNat s (g.saveRec + e.1) e.2.1 e.2.2) s

/-- Writes a 64-bit word of the decision queue's area: an entry, or the head and count. -/
def setDqSlot (g : Group) (i : Nat) (x : W64) : Group :=
  let k := (i + 64 - g.dqHead.toNat) % 64
  if k < g.dq.length then { g with dq := modNth g.dq k fun _ => x } else { g with dqSpare := sset g.dqSpare i x }

def setDqHead (g : Group) (x : W64) : Group :=
  let h := fld x 5 0
  let n := min (fld x 14 8) 64
  { g with
    dq := (List.range n).map fun i => dqSlot g ((h + i) % 64), dqHead := BitVec.ofNat 6 h,
    dqSpare := (List.range 64).foldl (fun m i => if (i + 64 - h) % 64 < n then sset m i 0 else sset m i (dqSlot g i)) [] }

/-- STATE values that a debugger may write (R473). -/
def writtenState (x : Nat) (old : Option (BitVec 4)) : Option (BitVec 4) :=
  if x = 1 ∨ x = 4 ∨ x = 6 then some (BitVec.ofNat 4 x) else old

/-- Word i of the pilot block. -/
def setPilotWord (g : Group) (i : Nat) (x : W64) : Group :=
  let t := g.pilot
  let v := g.vals
  match i with
  | 0 => { g with pilot := { t with pc := x } }
  | 1 => { g with pilot := { t with tpc := x } }
  | 2 => { g with pilot := { t with tcause := x } }
  | 3 => { g with pilot := { t with taddrlo := x } }
  | 4 => { g with pilot := { t with taddrhi := x.setWidth 8 } }
  | 5 => { g with pilot := { t with tinfo := x } }
  | 6 => { g with pilot := { t with flags := x.setWidth 6 } }
  | 7 => { g with pilot := { t with ovfcnt := x.setWidth 32 } }
  | 8 => { g with pilot := { t with srstate := x.setWidth 32 } }
  | 9 => { g with pilot := { t with stcres := x.setWidth 32 } }
  | 10 => { g with pilot := { t with lastwake := x.setWidth 48 } }
  | 11 => { g with haltPend := bit1 x 16,
                   pilot := { t with preds := x.setWidth 7, inh := bit1 x 12, stateWr := writtenState (fld x 11 8) t.stateWr } }
  | 12 => { g with vals := { v with chksb := bit1 x 0, logfilt := BitVec.ofNat 2 (fld x 9 8), tvreach := BitVec.ofNat 8 (fld x 23 16) } }
  | 13 => { g with vals := { v with tvec := x } }
  | 14 => { g with vals := { v with srseed := x.setWidth 32 } }
  | 15 => { g with vals := { v with caplease := x.setWidth 40 } }
  | 16 => { g with vals := { v with ptvec := x } }
  | _ => g

/-- Word i of a strand's status block. -/
def setStatusWord (t : Thread) (i : Nat) (x : W64) : Thread :=
  match i with
  | 0 => { t with pc := x }
  | 1 => { t with tpc := x }
  | 2 => { t with preds := BitVec.ofNat 7 (fld x 10 4), flags := BitVec.ofNat 6 (fld x 16 11),
                  ovfcnt := BitVec.ofNat 32 (fld x 63 32), stateWr := writtenState (fld x 3 0) t.stateWr }
  | _ => { t with srstate := BitVec.ofNat 32 (fld x 31 0), stcres := BitVec.ofNat 32 (fld x 63 32) }

/-- Writes the aligned 64-bit word of the image at an offset; writes to areas that R473 does not name are ignored. -/
def setImageWord (g : Group) (off : Nat) (x : W64) : Group :=
  let sh := g.shape
  let quota := quotaTiles g
  if off < 0x1000 then { g with sregs := sset g.sregs (off / 8) x }
  else if off < 0x1200 then setDqSlot g ((off - 0x1000) / 8) x
  else if off = 0x1200 then setDqHead g x
  else if off < 0x1288 then { g with j := sset g.j ((off - 0x1208) / 8) x }
  else if off = 0x1288 then { g with h := ssets g.h 0 (toBytes 8 x.toNat) }
  else if 0x1300 ≤ off ∧ off < 0x1400 then setPilotWord g ((off - 0x1300) / 8) x
  else if 0x2000 ≤ off ∧ off < banksOff sh then
    let k := (off - 0x2000) / strandBytes sh
    let o := (off - 0x2000) % strandBytes sh
    modThreadOf g (.strand k) fun t =>
      if o < sh.regs * 4 then
        { t with regs := sset (sset t.regs (o / 4) (BitVec.ofNat 32 (fld x 31 0))) (o / 4 + 1) (BitVec.ofNat 32 (fld x 63 32)) }
      else setStatusWord t ((o - sh.regs * 4) / 8) x
  else if banksOff sh ≤ off ∧ off < accOff sh then
    let o := off - banksOff sh
    let per := bankCount sh * 98304
    { g with scratch := ssets g.scratch (o / per * 2 ^ 32 + o % per) (toBytes 8 x.toNat) }
  else if accOff sh ≤ off ∧ off < tailOff sh then
    let o := off - accOff sh
    match quota[o / 65536]? with
    | some l => { g with acc := ssets g.acc (l * 65536 + o % 65536) (toBytes 8 x.toNat) }
    | none => g
  else g

/-- The bits of the aligned word at an image offset that a write may change, of a word that is to become `x` (R473). A STATE other than 1, 4
and 6 is ignored. -/
def imageMaskAt (sh : GroupShape) (tiles off : Nat) (x : W64) : Nat :=
  let whole := 2 ^ 64 - 1
  if off < 0x1200 then whole
  else if off = 0x1200 then 0x7F3F
  else if off < 0x1290 then whole
  else if 0x1300 ≤ off ∧ off < 0x1388 then
    match (off - 0x1300) / 8 with
    | 4 => 0xFF
    | 6 => 0x3F
    | 7 | 8 | 9 | 14 => 0xFFFFFFFF
    | 10 => 2 ^ 48 - 1
    | 11 => 0x1107F + (if (writtenState (fld x 11 8) none).isSome then 0xF00 else 0)
    | 12 => 0xFF0301
    | 15 => 2 ^ 40 - 1
    | _ => whole
  else if 0x2000 ≤ off ∧ off < banksOff sh then
    let o := (off - 0x2000) % strandBytes sh
    if o = sh.regs * 4 + 16 then 0xFFFFFFFF0001FFF0 + (if (writtenState (fld x 3 0) none).isSome then 0xF else 0) else whole
  else if banksOff sh ≤ off ∧ off < accOff sh + tiles * 65536 then whole
  else 0

/-- The tiles of a record's accumulator area that its accumulator map holds as quota tiles (R164). -/
def recordTiles (s : State) (g : Group) : Nat :=
  ((List.range 32).filter fun n => (sget s.mem (g.saveRec + 0x1A40 + n)).toNat / 64 == 2).length

/-- Writes 1 to 8 aligned bytes of the image of a stopped group: a HALTED one's state, or a DESCHEDULED or FAULTED one's record, from
which a restore takes it (R160, R472, R473).
DESIGN CHOICE (log entry 56), unsafe. -/
def imagePut (s : State) (g : Group) (off : Nat) (bs : List Byte) : State :=
  let base := off / 8 * 8
  let old := imageGet s g base 8
  let new := (List.range 8).map fun i =>
    if off ≤ base + i ∧ base + i < off + bs.length then bs.getD (base + i - off) 0 else old.getD i 0
  let x := BitVec.ofNat 64 (ofBytes new)
  if imageInMemory g then
    let m := BitVec.ofNat 64 (imageMaskAt g.shape (recordTiles s g) base x)
    memPutNat s (g.saveRec + base) 8 ((BitVec.ofNat 64 (ofBytes old) &&& ~~~m) ||| (x &&& m)).toNat
  else modGroup s g.gid fun _ => setImageWord g base x

/-- The group that a DBGSEL value selects (R474). -/
def selectedGroup (s : State) (sel : W64) : Option Group :=
  s.groups.find? fun g => g.ctx == fld sel 9 0 && kernelTag s g.kid == fld sel 31 10 && g.lin.toNat == fld sel 63 32 &&
    g.gst != .retired

/-- What the debug window finds at an offset (R472). -/
inductive Window where
  | fault (cause sub : Nat)
  | image (gid off : Nat)
  | log (off : Nat)
  | memory (pa : Nat)
deriving DecidableEq, Repr

/-- Decodes an access of the debug window (R472). -/
def windowOf (s : State) (ctx : Nat) (off : W64) (size : Nat) (wr : Bool) : Window :=
  let space := fld off 63 60
  if 6 ≤ space then .fault causePagefatal 13
  else if space = 5 then
    if fld off 59 52 ≠ 0 then .fault causePagefatal 13
    else if inMain (fld off 51 0) size then .memory (fld off 51 0) else .fault causePagefatal 6
  else if space = 4 then
    if fld off 59 35 ≠ 0 then .fault causePagefatal 13
    else if wr then .fault causePageprot 2 else .log (fld off 34 0)
  else if fld off 59 32 ≠ 0 then .fault causePagefatal 13
  else match selectedGroup s (ctxReg s ctx (0x400 + space)) with
    | some g =>
      if g.gst = .halted ∨ g.gst = .descheduled ∨ g.gst = .faulted then .image g.gid (fld off 31 0)
      else .fault causePageprot 6
    | none => .fault causePageprot 6

end Sys2Proof.Machine
end

