-- ==== Sys2Proof/Machine/Flags.lean ====
section
/-! DEFINITION. Exact values, rounding and exception flags: the integer types, the IEEE formats and the narrow formats
(R72-R92, R218). -/

namespace Sys2Proof.Machine

open Sys2Proof

/-! ### Integer types -/

/-- Width of an integer type code (R31). -/
def tyW (t : Nat) : Nat := match t with | 0 => 32 | 1 => 32 | 2 => 64 | 3 => 64 | 4 => 16 | 5 => 16 | 6 => 8 | _ => 8

/-- An S type (R31). -/
def tyS (t : Nat) : Bool := t % 2 == 0

/-- The low bits read as an integer of a type (R197). -/
def readInt (t : Nat) (x : Nat) : Int := if tyS t then sxNat (tyW t) x else ((x % 2 ^ tyW t : Nat) : Int)

def minOf (t : Nat) : Int := if tyS t then -((2 ^ (tyW t - 1) : Nat) : Int) else 0
def maxOf (t : Nat) : Int := if tyS t then ((2 ^ (tyW t - 1) : Nat) : Int) - 1 else ((2 ^ tyW t : Nat) : Int) - 1

/-- Clamps to the type's range; tells whether it clamped (R73). -/
def satInt (t : Nat) (v : Int) : Int × Bool :=
  if v < minOf t then (minOf t, true) else if maxOf t < v then (maxOf t, true) else (v, false)

/-- Register width of a type: 8- and 16-bit types use a 32-bit register (R72). -/
def tyRegW (t : Nat) : Nat := max 32 (tyW t)

/-- The register image of a result: low bits extended as R72 gives, as a number of tyRegW bits (R197). -/
def intImage (t : Nat) (v : Int) : Nat :=
  let lo := wrapInt (tyW t) v
  if tyS t then wrapInt (tyRegW t) (sxNat (tyW t) lo) else lo

/-! ### Flags -/

def flNV : BitVec 6 := 1
def flDZ : BitVec 6 := 2
def flOF : BitVec 6 := 4
def flUF : BitVec 6 := 8
def flNX : BitVec 6 := 16
def flDN : BitVec 6 := 32

def flagIf (b : Bool) (f : BitVec 6) : BitVec 6 := if b then f else 0

/-! ### IEEE formats -/

/-- Exponent and fraction bits of an IEEE format (R75). -/
structure FloatFmt where
  eb : Nat
  fb : Nat
deriving DecidableEq, Repr

def fp32 : FloatFmt := { eb := 8, fb := 23 }
def fp64 : FloatFmt := { eb := 11, fb := 52 }
def fp16 : FloatFmt := { eb := 5, fb := 10 }
def bf16 : FloatFmt := { eb := 8, fb := 7 }

/-- Format code of R31. -/
def fmtOf (c : Nat) : FloatFmt := match c with | 0 => fp32 | 1 => fp64 | 2 => fp16 | _ => bf16

def fmtW (f : FloatFmt) : Nat := 1 + f.eb + f.fb
/-- Register width of a format: 16-bit values occupy a 32-bit register (R75). -/
def fmtRegW (f : FloatFmt) : Nat := max 32 (fmtW f)
def fmtBias (f : FloatFmt) : Nat := 2 ^ (f.eb - 1) - 1
def fmtEmin (f : FloatFmt) : Int := 1 - (fmtBias f : Int)

/-- 2^e. -/
def pow2 (e : Int) : Rat := if 0 ≤ e then ((2 ^ e.toNat : Nat) : Rat) else mkRat 1 (2 ^ (-e).toNat)

/-- Largest finite magnitude (R75). -/
def fmtMaxf (f : FloatFmt) : Rat := ((2 ^ (f.fb + 1) - 1 : Nat) : Rat) * pow2 ((fmtBias f : Int) - f.fb)

/-- An exact value: NaN, infinity, or a finite magnitude with a sign (the sign matters for zero). -/
inductive Ext where
  | nan
  | inf (neg : Bool)
  | fin (neg : Bool) (mag : Rat)
deriving DecidableEq

/-- Canonical NaN of a format (R75). -/
def canonNan (f : FloatFmt) : Nat := (2 ^ (f.eb + 1) - 1) * 2 ^ (f.fb - 1)

def infBits (f : FloatFmt) (neg : Bool) : Nat := (if neg then 2 ^ (fmtW f - 1) else 0) + (2 ^ f.eb - 1) * 2 ^ f.fb

/-- Exponent and fraction fields. -/
def fexp (f : FloatFmt) (x : Nat) : Nat := x / 2 ^ f.fb % 2 ^ f.eb
def ffrac (f : FloatFmt) (x : Nat) : Nat := x % 2 ^ f.fb
def fneg (f : FloatFmt) (x : Nat) : Bool := x / 2 ^ (fmtW f - 1) % 2 == 1

def fIsNan (f : FloatFmt) (x : Nat) : Bool := fexp f x == 2 ^ f.eb - 1 && ffrac f x != 0
def fIsSnan (f : FloatFmt) (x : Nat) : Bool := fIsNan f x && ffrac f x / 2 ^ (f.fb - 1) == 0
def fIsInf (f : FloatFmt) (x : Nat) : Bool := fexp f x == 2 ^ f.eb - 1 && ffrac f x == 0
def fIsSub (f : FloatFmt) (x : Nat) : Bool := fexp f x == 0 && ffrac f x != 0

/-- The exact value of a bit pattern. -/
def decodeF (f : FloatFmt) (x : Nat) : Ext :=
  if fexp f x = 2 ^ f.eb - 1 then (if ffrac f x = 0 then .inf (fneg f x) else .nan)
  else if fexp f x = 0 then .fin (fneg f x) ((ffrac f x : Rat) * pow2 (fmtEmin f - f.fb))
  else .fin (fneg f x) (((2 ^ f.fb + ffrac f x : Nat) : Rat) * pow2 ((fexp f x : Int) - fmtBias f - f.fb))

/-- floor(log2 x) for x > 0. -/
def ilog2 (x : Rat) : Int :=
  let e : Int := (Nat.log2 x.num.natAbs : Int) - (Nat.log2 x.den : Int)
  if x < pow2 e then e - 1 else e

/-- The bit pattern of a value that the format holds exactly. -/
def encodeF (f : FloatFmt) (v : Ext) : Nat :=
  match v with
  | .nan => canonNan f
  | .inf s => infBits f s
  | .fin s m =>
    let sign := if s then 2 ^ (fmtW f - 1) else 0
    if m = 0 then sign
    else
      let e := ilog2 m
      if e < fmtEmin f then sign + (m * pow2 (f.fb - fmtEmin f)).floor.toNat
      else sign + (e + fmtBias f).toNat * 2 ^ f.fb + ((m * pow2 (f.fb - e)).floor.toNat - 2 ^ f.fb)

/-- Rounding modes (R31, R80, R84); a stochastic one carries its draw. -/
inductive Rm where
  | rne | rtz | rup | rdn
  | sr (u : Nat)
deriving DecidableEq, Repr

def rmOf (c : Nat) : Rm := match c with | 0 => .rne | 1 => .rtz | 2 => .rup | _ => .rdn

/-- The signed value of a finite one. -/
def signedVal (neg : Bool) (m : Rat) : Rat := if neg then -m else m

/-- Rounds x to a multiple of 2^q (R80, R84). -/
def roundGrid (x : Rat) (q : Int) (m : Rm) : Rat :=
  let n := (x * pow2 (-q)).floor
  let lo := (n : Rat) * pow2 q
  let hi := lo + pow2 q
  if x = lo then x
  else match m with
  | .rne => if x - lo < hi - x then lo else if hi - x < x - lo then hi else if n % 2 = 0 then lo else hi
  | .rtz => if 0 < x then lo else hi
  | .rup => hi
  | .rdn => lo
  | .sr u => if (u : Rat) * (hi - lo) < (x - lo) * pow2 32 then hi else lo

/-- What rounding gives: a value in range, or an overflow, with NX and UF. -/
structure Rounded where
  ovf : Bool
  mag : Rat
  fl : BitVec 6
deriving DecidableEq

/-- Round of a finite non-zero value (R80): P, EMIN, the grid of a format without exponent bits (R88), and MAXF. -/
def roundMag (neg : Bool) (m : Rat) (p emin : Int) (fixedQ : Option Int) (maxf : Rat) (rm : Rm) : Rounded :=
  let x := signedVal neg m
  let q := match fixedQ with | some q => q | none => max (ilog2 m) emin - p
  let y := roundGrid x q rm
  let nx := flagIf (y != x) flNX
  let ymag := if y < 0 then -y else y
  let tiny := match fixedQ with | some q => pow2 q | none => pow2 emin
  if maxf < ymag then { ovf := true, mag := ymag, fl := flOF ||| flNX }
  else { ovf := false, mag := ymag, fl := nx ||| flagIf (y != x && decide (ymag < tiny)) flUF }

/-- Overflow of an IEEE format: infinite or MAXF (R80). -/
def overflowInf (neg : Bool) (rm : Rm) : Bool :=
  match rm with | .rne => true | .rtz => false | .rup => !neg | .rdn => neg | .sr _ => false

/-- A rounded result: its value, the flags, and whether it was clamped. -/
structure RRes where
  val : Ext
  fl : BitVec 6
  clamped : Bool
deriving DecidableEq

/-- Options of RoundF. -/
structure ROpt where
  rm : Rm
  ftz : Bool
  sat : Bool
  /-- an input of the instruction was infinite (R92, R218) -/
  infIn : Bool
deriving DecidableEq

/-- RoundF (R218). -/
def roundF (f : FloatFmt) (o : ROpt) (v : Ext) : RRes :=
  let satInf (s : Bool) (fl : BitVec 6) : RRes :=
    if o.sat = true ∧ o.infIn = false then { val := .fin s (fmtMaxf f), fl := fl, clamped := true }
    else { val := .inf s, fl := fl, clamped := false }
  match v with
  | .nan => { val := .nan, fl := 0, clamped := false }
  | .inf s => satInf s 0
  | .fin s m =>
    if m = 0 then { val := v, fl := 0, clamped := false }
    else
      let r := roundMag s m f.fb (fmtEmin f) none (fmtMaxf f) o.rm
      if r.ovf then
        if overflowInf s o.rm then satInf s r.fl
        else { val := .fin s (fmtMaxf f), fl := r.fl, clamped := o.sat }
      else if o.ftz = true ∧ r.mag ≠ 0 ∧ r.mag < pow2 (fmtEmin f) then
        { val := .fin s 0, fl := r.fl ||| flUF ||| flNX, clamped := false }
      else { val := .fin s r.mag, fl := r.fl, clamped := false }

/-- A floating operand after its modifiers and FTZ (R216): bits, value, DN, and signalling. -/
structure FIn where
  bits : Nat
  val : Ext
  fl : BitVec 6
  snan : Bool
deriving DecidableEq

/-- ReadFloat (R216). -/
def readFloat (f : FloatFmt) (ftz neg abs : Bool) (x : Nat) : FIn :=
  let x := x % 2 ^ fmtW f
  let top := 2 ^ (fmtW f - 1)
  let x := if abs then x % top else x
  let x := if neg then Nat.xor x top else x
  let flush := ftz && fIsSub f x
  let x := if flush then x / top * top else x
  { bits := x, val := decodeF f x, fl := flagIf flush flDN, snan := fIsSnan f x }

/-- An exact operation's result and whether it was invalid. -/
abbrev Exact := Ext × Bool

/-- Exact product (R77, R81). -/
def mulE (a b : Ext) : Exact :=
  match a, b with
  | .nan, _ => (.nan, false)
  | _, .nan => (.nan, false)
  | .inf s, .inf t => (.inf (s != t), false)
  | .inf s, .fin t m => if m = 0 then (.nan, true) else (.inf (s != t), false)
  | .fin s m, .inf t => if m = 0 then (.nan, true) else (.inf (s != t), false)
  | .fin s m, .fin t n => (.fin (s != t) (m * n), false)

/-- Exact sum; `rdn` gives the sign of an exact zero (R81). -/
def addE (rdn : Bool) (a b : Ext) : Exact :=
  match a, b with
  | .nan, _ => (.nan, false)
  | _, .nan => (.nan, false)
  | .inf s, .inf t => if s = t then (.inf s, false) else (.nan, true)
  | .inf s, .fin _ _ => (.inf s, false)
  | .fin _ _, .inf t => (.inf t, false)
  | .fin s m, .fin t n =>
    let x := signedVal s m + signedVal t n
    if x = 0 then (.fin (if m = 0 ∧ n = 0 ∧ s = t then s else rdn) 0, false)
    else (.fin (decide (x < 0)) (if x < 0 then -x else x), false)

/-- Exact quotient, with invalid and division-by-zero flags (R223). -/
def divE (a b : Ext) : Ext × BitVec 6 :=
  match a, b with
  | .nan, _ => (.nan, 0)
  | _, .nan => (.nan, 0)
  | .inf _, .inf _ => (.nan, flNV)
  | .inf s, .fin t _ => (.inf (s != t), 0)
  | .fin s _, .inf t => (.fin (s != t) 0, 0)
  | .fin s m, .fin t n =>
    if n = 0 then (if m = 0 then (.nan, flNV) else (.inf (s != t), flDZ)) else (.fin (s != t) (m / n), 0)

def negE (a : Ext) : Ext := match a with | .nan => .nan | .inf s => .inf (!s) | .fin s m => .fin (!s) m

def isNanE (a : Ext) : Bool := match a with | .nan => true | _ => false
def isInfE (a : Ext) : Bool := match a with | .inf _ => true | _ => false

/-- Order of two values that are not NaN: less. -/
def ltE (a b : Ext) : Bool :=
  match a, b with
  | .inf true, .inf true => false
  | .inf true, _ => true
  | _, .inf true => false
  | .inf false, _ => false
  | _, .inf false => true
  | .fin s m, .fin t n => decide (signedVal s m < signedVal t n)
  | _, _ => false

def eqE (a b : Ext) : Bool :=
  match a, b with
  | .inf s, .inf t => s == t
  | .fin s m, .fin t n => decide (signedVal s m = signedVal t n)
  | _, _ => false

/-- The order of minimumNumber, in which -0 is less than +0 (R220). -/
def ltNum (a b : Ext) : Bool :=
  match a, b with
  | .fin s m, .fin t n => if m = 0 ∧ n = 0 then s && !t else ltE a b
  | _, _ => ltE a b

/-- minimumNumber and maximumNumber on bit patterns, and NV (R220). -/
def minMaxNum (f : FloatFmt) (isMax : Bool) (a b : FIn) : Nat × BitVec 6 :=
  let nv := flagIf (a.snan || b.snan) flNV
  let r := match isNanE a.val, isNanE b.val with
    | true, true => canonNan f
    | true, false => b.bits
    | false, true => a.bits
    | false, false =>
      if isMax then (if ltNum a.val b.val then b.bits else a.bits) else (if ltNum b.val a.val then b.bits else a.bits)
  (r, nv)

/-- Integer square root by bits, high to low. -/
def isqrtBits (n : Nat) (k r : Nat) : Nat :=
  match k with
  | 0 => r
  | j + 1 => let c := r + 2 ^ j; isqrtBits n j (if c * c ≤ n then c else r)

/-- A value that rounds as the square root of x > 0 does in every format: exact, or strictly between two multiples of
2^-60 of its binade (R223). -/
def sqrtNear (x : Rat) : Rat :=
  let e := ilog2 x
  let h := e / 2
  let m := x * pow2 (120 - 2 * h)
  let n := m.floor.toNat
  let s := isqrtBits n 62 0
  if ((s * s : Nat) : Rat) = m then (s : Rat) * pow2 (h - 60) else ((2 * s + 1 : Nat) : Rat) * pow2 (h - 61)

/-- Exact square root as far as rounding goes, with NV (R223). -/
def sqrtE (a : Ext) : Ext × BitVec 6 :=
  match a with
  | .nan => (.nan, 0)
  | .inf s => if s then (.nan, flNV) else (.inf false, 0)
  | .fin s m => if m = 0 then (.fin s 0, 0) else if s then (.nan, flNV) else (.fin false (sqrtNear m), 0)

/-- Conversion to an integer type: rounds, saturates, NaN gives 0 (R82). Value, flags, saturated. -/
def toIntF (t : Nat) (rm : Rm) (v : Ext) : Int × BitVec 6 × Bool :=
  match v with
  | .nan => (0, flNV, false)
  | .inf s => (if s then minOf t else maxOf t, flNV, true)
  | .fin s m =>
    let x := signedVal s m
    let y := (roundGrid x 0 rm).floor
    let (z, c) := satInt t y
    if c then (z, flNV, true) else (z, flagIf ((y : Rat) != x) flNX, false)

/-! ### Narrow formats -/

/-- A narrow format of a format-table entry (R85, R86). -/
structure NarrowFmt where
  w : Nat
  sgn : Bool
  e : Nat
  m : Nat
  bias : Int
  pol : Nat
  step : Nat
deriving DecidableEq, Repr

/-- What an entry names: nothing valid, a standard type, or a narrow format (R86). -/
inductive FmtEntry where
  | invalid
  | standard (wid : Nat)
  | narrow (n : NarrowFmt)
deriving DecidableEq, Repr

/-- Reads a format-table entry (R85, R86). -/
def fmtEntry (x : W32) : FmtEntry :=
  let wid := fld x 3 0
  if 2 ≤ wid ∧ wid ≤ 8 then
    let s := if bit1 x 4 then 1 else 0
    let e := fld x 7 5
    let pol := fld x 17 16
    if fld x 31 20 ≠ 0 ∨ wid < s + e ∨ s + e = 0 ∨ pol = 3 ∨ (pol = 0 ∧ (e < 2 ∨ wid - s - e = 0)) then .invalid
    else .narrow { w := wid, sgn := bit1 x 4, e := e, m := wid - s - e, bias := sxNat 8 (fld x 15 8), pol := pol,
                   step := fld x 19 18 + 1 }
  else if wid = 15 ∨ fld x 31 4 ≠ 0 then .invalid
  else .standard wid

/-- Magnitude of exponent and mantissa fields (R87). -/
def narrowMag (n : NarrowFmt) (ex ma : Nat) : Rat :=
  if n.e = 0 then (ma : Rat) * pow2 (-n.bias)
  else if ex = 0 then (ma : Rat) * pow2 (1 - n.bias - n.m)
  else ((2 ^ n.m + ma : Nat) : Rat) * pow2 ((ex : Int) - n.bias - n.m)

/-- Largest exponent and mantissa fields of a finite code (R87). -/
def narrowTop (n : NarrowFmt) : Nat × Nat :=
  let allE := 2 ^ n.e - 1
  let allM := 2 ^ n.m - 1
  if n.pol = 0 then (allE - 1, allM)
  else if n.pol = 1 then (if 1 ≤ n.m then (allE, allM - 1) else (allE - 1, allM))
  else (allE, allM)

def narrowMaxf (n : NarrowFmt) : Rat := let (e, m) := narrowTop n; narrowMag n e m

/-- Decodes a code (R87). -/
def decodeN (n : NarrowFmt) (code : Nat) : Ext :=
  let ma := code % 2 ^ n.m
  let ex := code / 2 ^ n.m % 2 ^ n.e
  let s := n.sgn && (code / 2 ^ (n.m + n.e) % 2 == 1)
  let allE := ex == 2 ^ n.e - 1
  let allM := ma == 2 ^ n.m - 1
  if n.pol = 0 ∧ allE = true then (if ma = 0 then .inf s else .nan)
  else if n.pol = 1 ∧ allE = true ∧ allM = true then .nan
  else .fin s (narrowMag n ex ma)

/-- Fields of a magnitude on the grid. -/
def narrowFields (n : NarrowFmt) (mag : Rat) : Nat :=
  if n.e = 0 then (mag * pow2 n.bias).floor.toNat
  else if mag < pow2 (1 - n.bias) then (mag * pow2 (n.m + n.bias - 1)).floor.toNat
  else
    let e := ilog2 mag
    (e + n.bias).toNat * 2 ^ n.m + ((mag * pow2 (n.m - e)).floor.toNat - 2 ^ n.m)

/-- An encoded element: code, flags, whether its row counts under SAT (R88). -/
structure NRes where
  code : Nat
  fl : BitVec 6
  counted : Bool
deriving DecidableEq, Repr

def narrowSign (n : NarrowFmt) (s : Bool) : Nat := if s && n.sgn then 2 ^ (n.m + n.e) else 0

def narrowMaxCode (n : NarrowFmt) (s : Bool) : Nat := let (e, m) := narrowTop n; narrowSign n s + e * 2 ^ n.m + m

/-- The NaN code of POL 0 and 1 (R88). -/
def narrowNan (n : NarrowFmt) : Nat :=
  if n.pol = 0 then (2 ^ n.e - 1) * 2 ^ n.m + 2 ^ (n.m - 1) else (2 ^ n.e - 1) * 2 ^ n.m + (2 ^ n.m - 1)

/-- Encode (R88): `snan` marks a signalling NaN. -/
def encodeN (n : NarrowFmt) (rm : Rm) (sat snan : Bool) (v : Ext) : NRes :=
  let inf (s : Bool) : NRes :=
    if n.pol = 2 ∨ sat = true then { code := narrowMaxCode n s, fl := 0, counted := true }
    else if n.pol = 0 then { code := narrowSign n s + (2 ^ n.e - 1) * 2 ^ n.m, fl := 0, counted := false }
    else { code := narrowNan n, fl := 0, counted := false }
  match v with
  | .nan =>
    if n.pol = 2 then { code := 0, fl := flNV, counted := false }
    else { code := narrowNan n, fl := flagIf snan flNV, counted := false }
  | .inf s => if s = true ∧ n.sgn = false then { code := 0, fl := flNV, counted := true } else inf s
  | .fin s m =>
    if m = 0 then { code := narrowSign n s, fl := 0, counted := false }
    else if s = true ∧ n.sgn = false then { code := 0, fl := flNV, counted := true }
    else
      let r := if n.e = 0 then roundMag s m n.m 0 (some (-n.bias)) (narrowMaxf n) rm
        else roundMag s m n.m (1 - n.bias) none (narrowMaxf n) rm
      if r.ovf then
        if n.pol = 2 ∨ sat = true then { code := narrowMaxCode n s, fl := r.fl, counted := true }
        else if n.pol = 1 then { code := narrowNan n, fl := r.fl, counted := false }
        else if overflowInf s rm then { code := narrowSign n s + (2 ^ n.e - 1) * 2 ^ n.m, fl := r.fl, counted := false }
        else { code := narrowMaxCode n s, fl := r.fl, counted := false }
      else { code := narrowSign n s + narrowFields n r.mag, fl := r.fl, counted := false }

/-- The shared scale of a scale word: NaN, or its value (R89). -/
def scaleSigma (x : W32) : Ext :=
  if fld x 31 26 ≠ 0 ∨ fld x 9 2 = 255 then .nan
  else if fld x 9 2 = 0 then .fin false 0
  else .fin false (((4 + fld x 1 0 : Nat) : Rat) * pow2 ((fld x 9 2 : Int) - 129))

/-- ScaleOf (R89, R90, R232): scale with the micro-exponent of element i. -/
def scaleOf (x : W32) (step i : Nat) : Ext :=
  match scaleSigma x with
  | .fin s m => .fin s (if bit1 x (10 + i / 2) then m * pow2 (-(step : Int)) else m)
  | v => v

/-- One step of the generator of SRSTATE (R83). -/
def srStep (x : W32) : W32 := if x.getLsbD 0 then (x >>> 1) ^^^ 0x80200003 else x >>> 1

/-- The initial generator state of an executor (R83). -/
def srInit (ix : Nat) (seed : W32) : W32 :=
  let x := BitVec.ofNat 32 ix ^^^ seed
  if x = 0 then 1 else x

end Sys2Proof.Machine
end

