-- ==== Sys2Proof/Machine/Record.lean ====
section
/-! DEFINITION. The capsule record in memory: its words, tokens, leases and owner-status (R345-R350, R362). -/

namespace Sys2Proof.Machine

open Sys2Proof

/-- Owner token of strand k of a group (R346). -/
def capToken (g : Group) (k : Nat) : W64 :=
  BitVec.ofNat 64 ((g.saveRec / 4096) * 2 ^ 24 + (k % 2 ^ 14) * 2 ^ 10 + g.ctx % 2 ^ 10)

/-- Word i of a record's header. -/
def recWord (s : State) (pa i : Nat) : W64 := BitVec.ofNat 64 (memGetNat s (pa + 8 * i) 8)

/-- Writes word i of a record at its home slice. -/
def setRecWord (s : State) (pa i : Nat) (x : W64) : State := homeWrite s none (pa + 8 * i) (toBytes 8 x.toNat) 0

/-- The end of a lease taken now (R350). -/
def leaseEnd (s : State) (g : Group) : W64 :=
  if g.vals.caplease = 0 then 0 else now s + BitVec.ofNat 64 g.vals.caplease.toNat

/-- OSTAT codes (R346). -/
def ostRunning : Nat := 0
def ostDescheduled : Nat := 1
def ostHalted : Nat := 2
def ostAbandoned : Nat := 3

/-- The strand's token is OWNER of the record. -/
def capOwned (s : State) (g : Group) (k pa : Nat) : Bool := recWord s pa 0 == capToken g k && fld (recWord s pa 1) 63 62 != 0

/-- Writes the owner-status, and the lease where asked, if the token is still OWNER (R350, R362). -/
def capStatus (s : State) (g : Group) (k pa ost : Nat) (lease : Bool) : State :=
  if capOwned s g k pa then
    let s := setRecWord s pa 1 (setFld (recWord s pa 1) 61 60 ost)
    if lease then setRecWord s pa 5 (leaseEnd s g) else s
  else s

/-- Writes the owner-status of every capsule a group holds. -/
def capGroupStatus (s : State) (g : Group) (ost : Nat) : State :=
  (List.range g.strands.length).foldl (fun s k =>
    match (g.strands[k]?).bind (·.caps) with
    | some c => capStatus s g k c.record ost false
    | none => s) s

/-- A strand comes back to a held capsule at an address: by a restore outside its handler, or by TRAPRET. With its token
still OWNER it resumes capsule mode from the committed images; otherwise it goes on in skip mode (R361, R362). -/
def resumeCapsule (s : State) (id : ThreadId) (start : W64) : State :=
  match getGroup s id.gid, id.who with
  | some g, .strand k =>
    match (g.strands[k]?).bind (·.caps) with
    | none => s
    | some c =>
      if capOwned s g k c.record then
        let s := capStatus s g k c.record ostRunning true
        let xs := (List.range 8).map fun i => recWord s c.record (8 + i)
        let pimg := BitVec.ofNat 7 (fld (recWord s c.record 1) 54 48)
        modThread s id fun t =>
          { t with preds := pimg,
                   caps := some { c with mode := .inside, x := xs, start := start, count := 0, stores := 0, intents := [], path := 0 } }
      else modThread s id fun t =>
        { t with caps := some { c with mode := .skip, start := start, count := 0, stores := 0, intents := [], path := 0 } }
  | _, _ => s

end Sys2Proof.Machine
end

