-- ==== Sys2Proof/Machine/Ops.lean ====
section
/-! DEFINITION. The shared operations of executors: parking, stalling, taking a trap and returning from one, halting,
and the faulting of a group (R148-R154, R169, R175, R178, R191-R196, R262). -/

namespace Sys2Proof.Machine

open Sys2Proof

/-- The current code reach (R175). -/
def codeReachOf (g : Group) (t : Thread) : BitVec 8 := if t.inh then g.vals.tvreach else g.codeReach

/-- Peer rank and address of an aperture address (R447). -/
def peerOf (s : State) (pa : Nat) : BitVec 12 × Nat := (s.rank ^^^ BitVec.ofNat 12 (pa / 2 ^ 40), pa % 2 ^ 40)

/-- Bytes at a physical address of main memory or of the host; none for a peer's (R447). -/
def physGet (s : State) (pa n : Nat) : Option (List Byte) :=
  if pa < apertureBase then some (memGet s pa n) else (hostBus pa).map fun a => sgets s.hostMem a n

/-- Wakes-free write at a physical address of main memory or of the host. -/
def physPut (s : State) (core : Option Nat) (pa : Nat) (bs : List Byte) (tag : BitVec 48) : State :=
  if pa < apertureBase then homeWrite s core pa bs tag
  else match hostBus pa with
    | some a => { s with hostMem := ssets s.hostMem a bs }
    | none => s

/-- What a fetch of one word answers (R24, R260). -/
inductive Fetch where
  | word (w : W32)
  | replay (kind level : Nat)
  | trap (cause info : Nat)
  | ctxFatal (cause : Nat)
  /-- the walk queue is full (R268) -/
  | queueFull
deriving DecidableEq, Repr

/-- The function of a context holds LINKOK (R448, R454). -/
def linkOk (s : State) (ctx : Nat) : Bool :=
  match getCtx s ctx with | some c => (getFunc s c.func).vfflags.getLsbD 0 | none => false

/-- OPINFO of an access (R440). -/
def opInfo (size atop scope ord sx : Nat) : W32 :=
  BitVec.ofNat 32 (size + atop * 2 ^ 6 + scope * 2 ^ 11 + ord * 2 ^ 14 + sx * 2 ^ 16)

/-- The READ packet of n bytes, a power of two (R440, R448). -/
def readPacket (s : State) (ctx : Nat) (rank : BitVec 12) (a n scope ord : Nat) (tag : BitVec 48) : Packet :=
  { pkt0 s rank .read 0 ctx tag with addr := BitVec.ofNat 64 a, opinfo := opInfo (Nat.log2 n) 0 scope ord 0 }

/-- A word fetched from a peer: a READ is sent, and what it answers is open (R447, R448).
DESIGN CHOICE (log entry 27), unsafe. -/
def fetchPeer (s : State) (g : Group) (core pa : Nat) (l : Leaf) : Fetch × State :=
  let info (sub : Nat) : Nat := pageInfo sub .fetch (pszOf l.level l.w0) l.level 0
  let (rank, a) := peerOf s pa
  if linkOk s g.ctx = false then (.trap causePageprot (info 5), s)
  else if reachable s rank = false then (.trap causePoison (info 4), s)
  else
    let (own, s) := takeTag s (unitCore core)
    let tag := if s.nextTag = postedTag then 0 else s.nextTag
    let s := sendPacket { s with nextTag := tag + 1 } { readPacket s g.ctx rank a 4 0 0 own with tag := tag }
    match Config.peerStatus s.cycle pa % 4 with
    | 0 => (.word (BitVec.ofNat 32 (ofBytes (physBytes s pa 4))), s)
    | 1 => (.trap causePageprot (info 5), s)
    | 2 => (.trap causePoison (info 2), s)
    | _ => (.trap causePoison (info 4), s)

/-- Fetches one instruction word at an offset under a code reach. A fetch under the debug window's reach has no stated effect of its own:
it fails as PAGEFATAL 13. After code bytes have changed in a running kernel, R57 lets a fetch see old or new bytes: it sees those that
memory holds now.
DEDUCED (log entry 26), unsafe. DESIGN CHOICE (log entry 94), unsafe. -/
def fetchWord (s : State) (g : Group) (core : Nat) (reach : BitVec 8) (off : W64) : Fetch × State :=
  match checkAccess s (some core) g.ctx (vaOf reach off) .fetch 4 false with
  | (.ok l pa, s) =>
    match physGet s pa 4 with
    | some bs => (.word (BitVec.ofNat 32 (ofBytes bs)), s)
    | none => fetchPeer s g core pa l
  | (.trap c i, s) => (.trap c i, s)
  | (.replay k l, s) => (.replay k l, s)
  | (.ctxFatal c, s) => (.ctxFatal c, s)
  | (.capture, s) => (.replay 2 0, s)
  | (.queueFull, s) => (.queueFull, s)
  | (.debug, s) => (.trap causePagefatal (pageInfo 13 .fetch 0 0 0), s)

/-- What a landing check answers (R178). -/
inductive Landing where
  | pass
  | mismatch (info : Nat)
  | replay (kind level : Nat)
  | trap (cause info : Nat)
  | ctxFatal (cause : Nat)
  | queueFull
deriving DecidableEq, Repr

/-- Judges word 0 of a target against a tag (R178). -/
def judgeLand (pilot : Bool) (w : W32) (tag : Nat) : Landing :=
  let isLand := fld w 14 6 = 6 ∧ w.getLsbD 31 = pilot
  if isLand ∧ fld w 22 15 = tag then .pass
  else if isLand then .mismatch (fld w 22 15 * 2 ^ 8 + tag)
  else .mismatch (2 ^ 16 + tag)

/-- LandingCheck (R178). -/
def landingCheck (s : State) (g : Group) (w : Who) (reach : BitVec 8) (target : W64) (tag : Nat) : Landing × State :=
  match fetchWord s g (coreOf g w) reach target with
  | (.word x, s) => (judgeLand (match w with | .pilot => true | .strand _ => false) x tag, s)
  | (.replay k l, s) => (.replay k l, s)
  | (.trap c i, s) => (.trap c i, s)
  | (.ctxFatal c, s) => (.ctxFatal c, s)
  | (.queueFull, s) => (.queueFull, s)

/-- A group ends, retired or FAULTED, for its kernel (R141). -/
def countEnded (s : State) (kid : Nat) (faulted : Bool) : State :=
  modKernel s kid fun k => { k with ended := k.ended + 1, faulted := k.faulted + (if faulted then 1 else 0) }

/-- Codes of CONVOY_STATE (R503). -/
def cvCode (c : CvState) : Nat := match c with | .forming => 0 | .sealed => 1 | .running => 2 | .broken => 3 | .closed => 4

/-- The convoy of a kernel. -/
def convoyOfKernel (s : State) (kid : Nat) : Option Convoy := s.convoys.find? fun c => c.kid == kid

def modConvoy (s : State) (kid : Nat) (f : Convoy → Convoy) : State :=
  { s with convoys := replaceIf (fun c => c.kid == kid) f s.convoys }

def memberOf (c : Convoy) (gid : Nat) : Option ConvoyMember := c.members.find? fun m => m.gid == gid

/-- A convoy's id, that of its kernel (R141, R505). -/
def convoyId (s : State) (kid : Nat) : Nat :=
  kernelTag s kid + (match getKernel s kid with | some k => k.ctx % 1024 * 2 ^ 22 | none => 0)

/-- A convoy that is BROKEN, or was when its last member ended (R416). -/
def convoyDead (c : Convoy) : Bool := c.cvst == .broken || c.cvst == .closed

/-- A convoy enters a state, which is logged, about its kernel's id of R141 (R414, R503, R505). -/
def setConvoy (s : State) (kid : Nat) (st : CvState) : State :=
  match convoyOfKernel s kid with
  | none => s
  | some c =>
    if c.cvst = st then s
    else
      let seg := match c.members.find? fun m => m.pos == 0 with | some m => m.seg.toNat | none => 0
      let ctx := (getKernel s kid).map (·.ctx)
      emit (modConvoy s kid fun c => { c with cvst := st }) unitHost ctx evConvoyState (convoyId s kid) (cvCode st + seg * 2 ^ 16 + c.len * 2 ^ 32)

/-- Operations of a kernel wait in reckoner queues. -/
def scansQueued (s : State) (kid : Nat) : Bool :=
  s.engineQ.any fun o => o.eng == .reckoner && (match getGroup s o.gid with | some g => g.kid == kid | none => false)

/-- Every member of a kernel's convoy has ended: it is CLOSED, and its links are unstitched (R414). It is kept until the last operation of a
FAULTED member has retired (R416). -/
def closeConvoy (s : State) (kid : Nat) : State :=
  match convoyOfKernel s kid with
  | none => s
  | some c =>
    if c.members.all (·.ended) then
      let s := setConvoy s kid .closed
      if scansQueued s kid then s else { s with convoys := s.convoys.filter fun c => c.kid != kid }
    else s

/-- A member of a convoy has ended, retired or FAULTED (R414). -/
def markEnded (s : State) (kid gid : Nat) : State :=
  closeConvoy (modConvoy s kid fun c =>
    { c with members := replaceIf (fun m => m.gid == gid) (fun m => { m with ended := true }) c.members }) kid

/-- Pilots of a kernel that wait on the carry network issue again. -/
def readyCarry (s : State) (kid : Nat) (tag : BitVec 48) (parked : Bool) : State :=
  let go (t : Thread) : Thread :=
    match t.run with
    | .stalled .carry => { t with run := .ready }
    | .parked .carryget => if parked then { t with run := .ready, lastwake := tag } else t
    | _ => t
  { s with groups := s.groups.map fun g => if g.kid = kid then { g with pilot := go g.pilot } else g }

/-- A convoy enters BROKEN: its waits end, and carries are no longer sent (R416). -/
def breakConvoy (s : State) (kid : Nat) : State :=
  match s.convoys.find? fun c => c.kid == kid with
  | some c =>
    if c.cvst = .closed ∨ c.cvst = .broken then s
    else
      let s := setConvoy s kid .broken
      let drop (c : Convoy) : Convoy := { c with members := c.members.map fun m => { m with out := [] } }
      readyCarry { s with convoys := replaceIf (fun c => c.kid == kid) drop s.convoys } kid 0 true
  | none => s

/-- A group that stands on its cores with its state in place. -/
def onCore (g : Group) : Bool := match g.gst with | .running | .halted | .draining | .saving => true | _ => false

/-- A group that holds what R144 gave it: from PLACING until it leaves, and a FAULTED one until its engine operations have
completed (R137, R144, R149). -/
def holdsPlace (s : State) (g : Group) : Bool :=
  match g.gst with
  | .placing | .running | .halted | .draining | .saving | .flushing => true
  | .faulted => s.engineQ.any fun o => o.gid == g.gid
  | _ => false

/-- A group enters FAULTED, with a reason of R502; every executor stops, and its save record holds its state (R148, R473).
DEDUCED (log entry 49), unsafe. -/
def groupFault (s : State) (gid reason : Nat) : State :=
  match getGroup s gid with
  | none => s
  | some g =>
    if g.gst = .faulted ∨ g.gst = .retired then s
    else
      let (_, s) := emitGroup s g evGroupFault (kernelTag s g.kid + reason * 2 ^ 40)
      let s := capGroupStatus s g ostAbandoned
      let stop (t : Thread) : Thread := { t with stopped := true, fixed := endFixed t.fixed }
      let s := modGroup { s with asked := s.asked.filter fun c => !g.cores.contains c } gid fun g =>
        { g with gst := .faulted, pilot := stop g.pilot, strands := g.strands.map stop }
      let s := match getGroup s gid with | some g => writeRecord s g | none => s
      countEnded (markEnded (breakConvoy (collLeave (barFailGroup (leaveSems s gid) g) g true) g.kid) g.kid gid) g.kid true

/-- Parks an executor at its instruction, which is reissued when it wakes (R158, R169).
DEDUCED (log entry 25), unsafe. -/
def parkAt (s : State) (v : View) (p : ParkOn) : State :=
  modThread (countCore s v.g (coreOf v.g v.who) selParks 1) (vid v) fun t =>
    { t with pc := v.t.pc, run := .parked p, fixed := endFixed t.fixed, since := now s }

/-- An instruction that stalls has not executed: it does not count among its step's instructions (R352). -/
def uncount (t : Thread) : Thread :=
  { t with caps := t.caps.map fun c => if c.mode = .suspended then c else { c with count := c.count - 1 } }

/-- Stalls an executor at its instruction, which is issued again when the stall ends (R169). -/
def stallAt (s : State) (v : View) (w : StallOn) : State :=
  modThread s (vid v) fun t => uncount { t with pc := v.t.pc, run := .stalled w, since := now s }

/-- Puts an executor back at its instruction, ready to issue it again. -/
def retryAt (s : State) (v : View) : State :=
  modThread s (vid v) fun t => { t with pc := v.t.pc }

/-- The lowest free trap slot of a group (R153). -/
def freeSlot (g : Group) : Option Nat := (List.range 32).find? fun n => !(g.strands.any fun t => t.slot == some n)

/-- The registers a trap writes (R113, R191). -/
def writeTrapRegs (t : Thread) (ti : TrapInfo) : Thread :=
  { t with tcause := ti.cause, taddrlo := BitVec.ofNat 64 (fld ti.addr 63 0), taddrhi := BitVec.ofNat 8 (fld ti.addr 71 64),
           tinfo := ti.info }

/-- A trap in a step discards the step and suspends the capsule (R362). -/
def suspendCapsule (t : Thread) : Thread :=
  match t.caps with
  | some c => { t with caps := some { c with mode := .suspended, intents := [], path := 0 } }
  | none => t

/-- TPC of a trap: the step's start where the strand is in capsule mode (R362). -/
def trapResume (t : Thread) (resume : W64) : W64 :=
  match t.caps with
  | some c => if c.mode = .inside then c.start else resume
  | none => resume

/-- The unit of an executor's core, of strands and helm (R459). -/
def unitOf (g : Group) (w : Who) : Nat := unitCore (coreOf g w)

/-- Emits a record of an executor, filtered by its group's LOGFILT (R467, R502). -/
def emitExec (s : State) (g : Group) (w : Who) (ev obj payload : Nat) : State :=
  (emitFilt s g.vals.logfilt.toNat (unitOf g w) (some g.ctx) ev obj payload 0).2

/-- The last part of trap entry: the landing check at the vector, under TVREACH (R191, R152). -/
def enterVector (s : State) (id : ThreadId) : State :=
  match getGroup s id.gid with
  | none => s
  | some g =>
    match getThread g id.who with
    | none => s
    | some t =>
      let vec := match id.who with | .pilot => g.vals.ptvec | .strand _ => g.vals.tvec
      let bad (s : State) : State :=
        let (_, s) := emitGroup s g evTrapvecBad 0
        groupFault s id.gid 2
      if (refusedAt t.failed (vaOf g.vals.tvreach vec) .fetch).isSome then bad s
      else match landingCheck s g id.who g.vals.tvreach vec 0xFF with
      | (.pass, s) => modThread s id fun t => { t with pc := vec, run := .ready, failed := none }
      | (.replay k l, s) =>
        let (tag, s) := openFault s g.ctx (unitOf g id.who) g.vals.logfilt.toNat k l (vaOf g.vals.tvreach vec) .fetch true 0
        modThread (countCore s g (coreOf g id.who) selRfault 1) id fun t => { t with run := .stalled (.vector tag) }
      | (.queueFull, s) => modThread s id fun t => { t with run := .stalled (.vector 0) }
      | (.mismatch _, s) => bad s
      | (.trap _ _, s) => bad s
      | (.ctxFatal c, s) => raiseCtxFatal (modThread s id fun t => { t with run := .stalled (.vector 0) }) g.ctx c

/-- Executors whose trap entry waited on the fetch of their vector try again (R191). -/
def retryVectors (s : State) (ctx : Nat) : State :=
  (whoWith s fun g t => g.ctx == ctx && t.run == .stalled (.vector 0)).foldl enterVector s

/-- A strand that holds a trap slot enters its handler (R191). -/
def enterHandler (s : State) (id : ThreadId) (slot : Option Nat) (ti : TrapInfo) : State :=
  let s := modThread s id fun t =>
    let resume := trapResume t ti.resume
    suspendCapsule { writeTrapRegs t ti with tpc := resume, inh := true, slot := slot, ptrap := none, fixed := endFixed t.fixed }
  let s := match getGroup s id.gid with
    | some g =>
      let tpc := match getThread g id.who with | some t => fld t.tpc 39 0 | none => 0
      emitExec s g id.who evTrap g.lin.toNat (ti.cause.toNat * 2 ^ 40 + tpc)
    | none => s
  enterVector s id

/-- Every executor that can still run has stopped (R154). -/
def allStopped (g : Group) : Bool :=
  (g.pilot :: g.strands).all fun t => t.stopped || t.run == .exited || t.run == .trapped

/-- A group whose executors have all stopped enters HALTED (R154), and its capsules become adoptable (R362). One that was
DRAINING is saved instead, and restored into HALTED (R161). -/
def settleHalt (s : State) (gid : Nat) : State :=
  match getGroup s gid with
  | none => s
  | some g =>
    if g.haltPend ∧ allStopped g = true then
      let drain := g.gst == .draining
      modGroup (if drain then s else capGroupStatus s g ostHalted) gid fun g =>
        { g with gst := if drain then .saving else .halted, haltPend := drain,
                 ranNs := if g.gst = .running then g.ranNs + ((now s).toNat - g.ranSince) else g.ranNs }
    else s

/-- Takes a trap at one executor (R152, R153, R191, R196): it enters its handler once a trap slot is free; a strand
inside its handler becomes TRAPPED; a pilot inside its handler faults its group.
DEDUCED (log entry 25), unsafe. -/
def takeTrap (s : State) (id : ThreadId) (ti : TrapInfo) : State :=
  match getGroup s id.gid with
  | none => s
  | some g =>
    match getThread g id.who with
    | none => s
    | some t =>
      let nested := ti.cause.toNat * 2 ^ 40 + fld ti.addr 39 0
      match id.who with
      | .pilot =>
        if t.inh then
          let s := emitExec s g .pilot evNestedTrap g.lin.toNat nested
          groupFault s id.gid 1
        else enterHandler s id none ti
      | .strand _ =>
        if t.inh then
          let s := modThread s id fun t => { writeTrapRegs t ti with run := .trapped, fixed := endFixed t.fixed }
          settleHalt (emitExec s g id.who evNestedTrap g.lin.toNat nested) id.gid
        else match freeSlot g with
          | some n => enterHandler s id (some n) ti
          | none => modThread s id fun t => { t with run := .stalled .trapSlot, ptrap := some ti, fixed := endFixed t.fixed }

/-- Signals a trap of the instruction being executed, with TPC at the instruction (R192). -/
def signalTrap (s : State) (v : View) (cause : Nat) (addr : BitVec 72) (info : Nat) : State :=
  takeTrap (retryAt s v) (vid v)
    { cause := BitVec.ofNat 64 cause, addr := addr, info := BitVec.ofNat 64 info, resume := v.t.pc }

/-- The access that a response FAIL has reached takes PAGEFATAL 12 (R264). -/
def refuseAccess (s : State) (v : View) (va : BitVec 72) (a : Acc) (level : Nat) : State :=
  signalTrap (modThread s (vid v) fun t => { t with failed := none }) v causePagefatal va (pageInfo 12 a (level / 8) (level % 8) 0)

/-- Signals a trap with TPC at the next instruction (R192, R193). -/
def signalTrapNext (s : State) (v : View) (cause info : Nat) : State :=
  takeTrap s (vid v)
    { cause := BitVec.ofNat 64 cause, addr := 0, info := BitVec.ofNat 64 info, resume := nextPc v }

/-- Some other executor of this issue has already stalled on the fault: its issue has logged it (R262). -/
def loggedFault (s : State) (kind : Nat) (va : BitVec 72) (write : Bool) (ctx : Nat) : Bool :=
  match getCtx s ctx with
  | none => false
  | some c =>
    match c.faults.find? fun f => faultMatches f kind va write with
    | none => false
    | some f =>
      let on (t : Thread) : Bool := t.run == .stalled (.fault f.tag)
      match s.cur with
      | some (.gang gid ks) =>
        (match getGroup s gid with
        | some g => ks.any fun k => (match g.strands[k]? with | some t => on t | none => false)
        | none => false)
      | _ => false

/-- An access met a replayable fault: the executor stalls on it (R262, R264). -/
def stallFault (s : State) (v : View) (kind level : Nat) (va : BitVec 72) (a : Acc) (stc : Nat) : State :=
  let logIt := !loggedFault s kind va (accWrites a) v.g.ctx
  let (tag, s) := openFault s v.g.ctx (unitOf v.g v.who) v.g.vals.logfilt.toNat kind level va a logIt stc
  stallAt (countCore s v.g (coreOf v.g v.who) selRfault 1) v (.fault tag)

/-- A thread ends: EXITED, or the pilot by PHALT. -/
def exitThread (t : Thread) : Thread := { t with run := .exited, fixed := endFixed t.fixed }

/-- The pending strand of lowest index takes a free trap slot (R153). -/
def serveSlot (s : State) (gid : Nat) : State :=
  match getGroup s gid with
  | none => s
  | some g =>
    match (List.range g.strands.length).find? fun k =>
        match g.strands[k]? with | some t => t.run == .stalled .trapSlot && t.ptrap.isSome && !t.stopped | none => false with
    | none => s
    | some k =>
      match (g.strands[k]?).bind (·.ptrap), freeSlot g with
      | some ti, some n => enterHandler s { gid := gid, who := .strand k } (some n) ti
      | _, _ => s

/-- Strands whose trap waits for a slot get the free slots in increasing index (R153): a group has 32. -/
def serveSlots (s : State) (gid : Nat) : State := (List.range 32).foldl (fun s _ => serveSlot s gid) s

/-- The parks and stalls of a stopped executor end: its instruction is reissued after the stop. A strand in JOINING
stays in its round (R158, R186, R189). -/
def unpark (t : Thread) : Thread :=
  match t.run with
  | .parked _ => { t with run := .ready }
  | .stalled .trapSlot => t
  | .stalled (.vector _) => t
  | .stalled _ => { t with run := .ready }
  | _ => t

/-- A halt request (R154): executors outside a handler stop at this boundary; those inside run on to their TRAPRET,
unless FORCE; an instruction whose request is out completes first. A group that is not on its cores, or is being saved, keeps HALTPEND and comes back HALTED; the record of a
DESCHEDULED one shows it (R162). R154 names no FLUSHING group: it ignores the request.
DESIGN CHOICE (log entry 66), unsafe. -/
def haltGroup (s : State) (gid : Nat) (force : Bool) : State :=
  match getGroup s gid with
  | none => s
  | some g =>
    match g.gst with
    | .running | .draining => haltNow s gid force
    | .halted | .faulted | .retired | .flushing => s
    | .pending | .placing | .saving => modGroup s gid fun g => { g with haltPend := true }
    | .descheduled =>
      let s := modGroup s gid fun g => { g with haltPend := true }
      memPutNat s (g.saveRec + 0x135A) 1 1
where
  /-- The request to a group on its cores. -/
  haltNow (s : State) (gid : Nat) (force : Bool) : State :=
  let sent (t : Thread) : Bool := t.remote.isSome || (match t.run with | .stalled (.remote _) => true | _ => false)
  let stop (t : Thread) : Thread :=
    if force || !(t.inh || t.ptrap.isSome) then
      if sent t then { t with stopNext := true } else { unpark t with stopped := true, fixed := endFixed t.fixed }
    else t
  let s := modGroup s gid fun g => { g with haltPend := true, pilot := stop g.pilot, strands := g.strands.map stop }
  settleHalt s gid

/-- The return from a trap: INH and the slot are freed and the executor goes on at TPC; a halt that waits takes effect
there (R153, R154, R195). A suspended capsule is resumed by the caller. The pilot, which holds no slot, keeps its trap registers.
DESIGN CHOICE (log entry 101), unsafe. -/
def returnTrap (s : State) (id : ThreadId) : State :=
  let s := modThread s id fun t =>
    match id.who with
    | .pilot => { t with inh := false, pc := t.tpc, fixed := endFixed t.fixed }
    | .strand _ => { t with inh := false, slot := none, tcause := 0, taddrlo := 0, taddrhi := 0, tinfo := 0,
                            pc := t.tpc, fixed := endFixed t.fixed }
  let s := modGroup s id.gid fun g =>
    if g.haltPend then modThreadOf g id.who fun t => { t with stopped := true } else g
  serveSlots (settleHalt s id.gid) id.gid

/-- A capsule keeps what the present step adds to the path signature (R483). -/
def capPath (y : W64) (c : Capsule) : Capsule := if c.mode = .inside then { c with path := c.path + y } else c

/-- The path signature takes a value (R486); kept for REPLAY kernels. What a capsule step adds is kept beside it: a save that goes back to the
step's start takes it away (R483). -/
def pathStep (s : State) (v : View) (x : Nat) : State :=
  let y : W64 := BitVec.ofNat 64 (x + strandIx v.who * 2 ^ 40) * 0x9E3779B97F4A7C15
  modThread (modGroup s v.g.gid fun g => { g with path := g.path + y }) (vid v) fun t => { t with caps := t.caps.map (capPath y) }

/-- Sends a request under the next tag, for an executor or for a kernel's completion signal (R448). -/
def askRemote (s : State) (ctx : Nat) (t : ThreadId ⊕ Nat) (p : Packet) : W32 × State :=
  let tag := if s.nextTag = postedTag then 0 else s.nextTag
  let r : RemoteReq := { tag := tag, ctx := ctx, t := t, since := now s }
  (tag, sendPacket { s with nextTag := tag + 1, remotes := s.remotes ++ [r] } { p with tag := tag })

/-- A request that awaits a response: the executor stalls on its tag (R448). -/
def sendRequest (s : State) (v : View) (p : Packet) : State :=
  let (tag, s) := askRemote s v.g.ctx (.inl (vid v)) p
  stallAt s v (.remote tag)

/-- The response that has come back for the instruction, taken from the executor. -/
def takeRemote (s : State) (v : View) : State := modThread s (vid v) fun t => { t with remote := none }

/-- An engine's counts at placement. -/
def engFresh : EngState := { seq := 0, retired := 0, first := none, flags := 0 }

/-- A group before its placement: its identity, with every register at its value at placement (R147, R164). -/
def groupFresh (gid kid ctx : Nat) (lin : W32) (shape : GroupShape) (vals : PlaceVals) : Group :=
  { gid := gid, kid := kid, ctx := ctx, lin := lin, priv := false, codeReach := 0, sentry := 0, shape := shape,
    gst := .pending, haltPend := false, atBkpt := false, preempt := none, victimOf := none, saved := false,
    ranSince := 0, ranNs := 0, die := none, pcore := none, cores := [], core0 := 0, part := 0, lane0 := 0, regbase := 0,
    saveRec := 0, ext := none, vals := vals, sregs := [], dq := [], dqHead := 0, dqSpare := [], j := [], h := [],
    pilot := { Thread.fresh with run := .ready },
    strands := List.replicate (shape.w * shape.d) Thread.fresh, rounds := [], scratch := [],
    modes := [], stq := [], accMap := [], acc := [], accGone := [], mat := engFresh, cpy := engFresh, rek := engFresh,
    chans := [], path := 0 }

/-- A context with nothing in it but its number. -/
def contextFresh (num func area : Nat) : Context :=
  { num := num, cst := .created, func := func, slot := none, area := area, savesize := 0, debug := false, fcause := 0,
    sys := [], trig := [], allocs := [], faults := [], ftag := 0, ringFull := false, capturing := [], barriers := [],
    sems := [], views := [], held := [], holdLogged := false, bkpt := false, decoded := [] }

/-- A launch packet with nothing in it but its grid. -/
def packetFresh : LaunchPacket :=
  { marker := false, privreq := false, fence := false, trig := false, chain := false, reach := 0, trigix := 0,
    kdesc := 0, gridx := 1, gridy := 1, gridz := 1, args := 0, deps := [], trigth := 0, deadline := 0, doneaddr := 0,
    doneval := 0 }

/-- A kernel as it enters the intake window (R123). -/
def kernelFresh (kid ctx q : Nat) (ix : W32) (pkt : LaunchPacket) : Kernel :=
  { kid := kid, ctx := ctx, q := q, ix := ix, pkt := pkt, kst := .queued, met := [], fired := false, late := false,
    sel := 0, desc := none, dealt := 0, ended := 0, faulted := 0, status := 0, detail := 0, pass := 0, cohort := false,
    holdSince := 0, waitLogged := false, spaceLogged := false, stall := none, depStall := [], refused := [],
    signal := none, seeds := [] }

end Sys2Proof.Machine
end

