-- ==== Sys2Proof/Machine/Integer.lean ====
section
/-! DEFINITION. The integer family (R197-R215). -/

namespace Sys2Proof.Machine

open Sys2Proof

/-- Type code of an integer instruction (R31). -/
def itype (f : Fields) : Nat := fld f.sub 2 0

/-- Operands as integers of a type (R197). -/
def intA (v : View) (t : Nat) : Int := readInt t (readA v (tyRegW t))
def intB (v : View) (t : Nat) : Int := readInt t (readB v (tyRegW t))
def intC (v : View) (t : Nat) : Int := readInt t (readC v (tyRegW t))

/-- WriteInt of an exact result, clamped and counted under SAT and OVC (R73, R197, R200). -/
def intEff (v : View) (t : Nat) (x : Int) : Eff :=
  let r := if satBit v.f then satInt t x else (x, false)
  { writes := writesD v (tyRegW t) (intImage t r.1), flags := 0, ovf := if r.2 && ovcBit v.f then 1 else 0 }

/-- A result of a 32- or 64-bit pattern. -/
def bitsEff (v : View) (w x : Nat) : Eff := { writes := writesD v w x, flags := 0, ovf := 0 }

/-- An integer instruction of fixed latency 3 (R46) on an exact function of its operands. -/
def intAlu (f : Fields) (s : State) (fn : Int → Int → Int → Int) : Host.Outcome State Fault Refusal :=
  issueAlu 3 f s fun v => intEff v (itype f) (fn (intA v (itype f)) (intB v (itype f)) (intC v (itype f)))

/-- The exact functions of R200, each without narrowing. -/
def imulhFn (t : Nat) (x y : Int) : Int := x * y / ((2 ^ tyW t : Nat) : Int)
def isadFn (x y z : Int) : Int := ((x - y).natAbs : Int) + z

def execIadd (f : Fields) (s : State) : Host.Outcome State Fault Refusal := intAlu f s fun x y _ => x + y
def execIsub (f : Fields) (s : State) : Host.Outcome State Fault Refusal := intAlu f s fun x y _ => x - y
def execImul (f : Fields) (s : State) : Host.Outcome State Fault Refusal := intAlu f s fun x y _ => x * y
def execImulh (f : Fields) (s : State) : Host.Outcome State Fault Refusal :=
  intAlu f s fun x y _ => imulhFn (itype f) x y
def execImad (f : Fields) (s : State) : Host.Outcome State Fault Refusal := intAlu f s fun x y z => x * y + z
def execImin (f : Fields) (s : State) : Host.Outcome State Fault Refusal := intAlu f s fun x y _ => min x y
def execImax (f : Fields) (s : State) : Host.Outcome State Fault Refusal := intAlu f s fun x y _ => max x y
def execIabs (f : Fields) (s : State) : Host.Outcome State Fault Refusal := intAlu f s fun x _ _ => (x.natAbs : Int)
def execIneg (f : Fields) (s : State) : Host.Outcome State Fault Refusal := intAlu f s fun x _ _ => -x
def execIsad (f : Fields) (s : State) : Host.Outcome State Fault Refusal := intAlu f s isadFn
def execClamp (f : Fields) (s : State) : Host.Outcome State Fault Refusal := intAlu f s fun x lo hi => min (max x lo) hi

/-- IMADW: a 64-bit sum of an exact 32-bit product (R201). -/
def execImadw (f : Fields) (s : State) : Host.Outcome State Fault Refusal :=
  issueAlu 3 f s fun v =>
    let t := itype f
    let c := readInt (t + 2) (readC v 64)
    bitsEff v 64 (wrapInt 64 (intA v t * intB v t + c))

/-- Quotient and remainder (R74). -/
def quotInt (x y : Int) : Int := if y = 0 then -1 else x.tdiv y
def remInt (x y : Int) : Int := if y = 0 then x else x.tmod y

/-- IDIV: a divisor of 0 gives all ones and is never clamped (R74, R202). -/
def execIdiv (f : Fields) (s : State) : Host.Outcome State Fault Refusal :=
  issueAlu 0 f s fun v =>
    let t := itype f
    let x := intA v t
    let y := intB v t
    if y = 0 then bitsEff v (tyRegW t) (intImage t (-1)) else intEff v t (quotInt x y)

/-- IREM (R74, R202). -/
def execIrem (f : Fields) (s : State) : Host.Outcome State Fault Refusal :=
  issueAlu 0 f s fun v => intEff v (itype f) (remInt (intA v (itype f)) (intB v (itype f)))

/-- IADC and ISBC on naturals of width n: result and carry or borrow (R204). -/
def addCarry (n : Nat) (sub : Bool) (a b ci : Nat) : Nat × Bool :=
  if sub then (wrapInt n ((a : Int) - b - ci), decide (a < b + ci)) else ((a + b + ci) % 2 ^ n, decide (2 ^ n ≤ a + b + ci))

/-- IADC and ISBC (R204). -/
def carryEff (sub : Bool) (v : View) : Eff :=
  let n := tyW (itype v.f)
  let p := fld v.f.sub 5 3
  let ci := if bit1 v.f.sub 6 && readPred v p then 1 else 0
  let r := addCarry n sub (readA v n) (readB v n) ci
  { writes := writesD v n r.1 ++ (if bit1 v.f.sub 7 then writesP p r.2 else []), flags := 0, ovf := 0 }

def execIadc (f : Fields) (s : State) : Host.Outcome State Fault Refusal := issueAlu 3 f s (carryEff false)
def execIsbc (f : Fields) (s : State) : Host.Outcome State Fault Refusal := issueAlu 3 f s (carryEff true)

/-- A bitwise instruction at the type's width. -/
def logicAlu (f : Fields) (s : State) (fn : Nat → Nat → Nat → Nat) : Host.Outcome State Fault Refusal :=
  issueAlu 3 f s fun v =>
    let n := tyW (itype f)
    bitsEff v n (fn n (readA v n) (readB v n))

def execIand (f : Fields) (s : State) : Host.Outcome State Fault Refusal := logicAlu f s fun _ a b => a &&& b
def execIor (f : Fields) (s : State) : Host.Outcome State Fault Refusal := logicAlu f s fun _ a b => a ||| b
def execIxor (f : Fields) (s : State) : Host.Outcome State Fault Refusal := logicAlu f s fun _ a b => a ^^^ b
def execInot (f : Fields) (s : State) : Host.Outcome State Fault Refusal := logicAlu f s fun n a _ => 2 ^ n - 1 - a

/-- Bits given by a rule of position, as a number. -/
def bitsNat (n : Nat) (p : Nat → Bool) : Nat :=
  match n with
  | 0 => 0
  | k + 1 => bitsNat k p + (if p k then 2 ^ k else 0)

/-- Bit i of a natural number. -/
def nbit (x i : Nat) : Bool := x / 2 ^ i % 2 == 1

/-- LOP3 (R205): minterm m of the inputs selects bit 7 - m of the function word. -/
def lop3 (w a b c : Nat) (lut : BitVec 8) : Nat :=
  bitsNat w fun i =>
    let m := (if nbit a i then 4 else 0) + (if nbit b i then 2 else 0) + (if nbit c i then 1 else 0)
    bit1 lut (7 - m)

def execLop3 (f : Fields) (s : State) : Host.Outcome State Fault Refusal :=
  issueAlu 3 f s fun v =>
    let w := if isPilot v then 64 else 32
    bitsEff v w (lop3 w (readA v w) (readB v w) (readC v w) f.sub)

/-- SHL (R206): a shift amount past the width gives 0, or under SAT the clamp of the exact value. -/
def execShl (f : Fields) (s : State) : Host.Outcome State Fault Refusal :=
  issueAlu 3 f s fun v =>
    let t := itype f
    let m := readB v 32
    intEff v t (intA v t * ((2 ^ min m 128 : Nat) : Int))

def execShr (f : Fields) (s : State) : Host.Outcome State Fault Refusal :=
  issueAlu 3 f s fun v =>
    let n := tyW (itype f)
    bitsEff v n (readA v n / 2 ^ min (readB v 32) n)

def execSar (f : Fields) (s : State) : Host.Outcome State Fault Refusal :=
  issueAlu 3 f s fun v =>
    let n := tyW (itype f)
    bitsEff v n (wrapInt n (sxNat n (readA v n) / ((2 ^ min (readB v 32) n : Nat) : Int)))

/-- Rotate left within n bits. -/
def rotl (n a m : Nat) : Nat := (a * 2 ^ (m % n)) % 2 ^ n + a / 2 ^ (n - m % n)

def execRol (f : Fields) (s : State) : Host.Outcome State Fault Refusal :=
  issueAlu 3 f s fun v =>
    let n := tyW (itype f)
    bitsEff v n (rotl n (readA v n) (readB v 32))

def execFshr (f : Fields) (s : State) : Host.Outcome State Fault Refusal :=
  issueAlu 3 f s fun v =>
    let n := tyW (itype f)
    bitsEff v n ((readB v n * 2 ^ n + readA v n) / 2 ^ (readC v 32 % n) % 2 ^ n)

/-- Set bits, leading and trailing zeros, and reversal, at width n (R207). -/
def popcount (n a : Nat) : Nat := ((List.range n).filter (nbit a)).length
def clzNat (n a : Nat) : Nat := ((List.range n).find? fun i => nbit a (n - 1 - i)).getD n
def ctzNat (n a : Nat) : Nat := ((List.range n).find? (nbit a)).getD n
def revNat (n a : Nat) : Nat := bitsNat n fun i => nbit a (n - 1 - i)

/-- A one-source bit instruction. -/
def bitAlu (f : Fields) (s : State) (fn : Nat → Nat → Nat) : Host.Outcome State Fault Refusal :=
  issueAlu 3 f s fun v => let n := tyW (itype f); bitsEff v n (fn n (readA v n))

def execPopc (f : Fields) (s : State) : Host.Outcome State Fault Refusal := bitAlu f s popcount
def execClz (f : Fields) (s : State) : Host.Outcome State Fault Refusal := bitAlu f s clzNat
def execCtz (f : Fields) (s : State) : Host.Outcome State Fault Refusal := bitAlu f s ctzNat
def execBrev (f : Fields) (s : State) : Host.Outcome State Fault Refusal := bitAlu f s revNat

/-- BFX at width n (R208). -/
def bfx (t a k : Nat) : Nat :=
  let n := tyW t
  let pos := k % 256
  let len := k / 256 % 256
  if len = 0 then 0
  else if n ≤ pos then (if tyS t && nbit a (n - 1) then 2 ^ n - 1 else 0)
  else
    let l := min len (n - pos)
    let x := a / 2 ^ pos % 2 ^ l
    if tyS t then wrapInt n (sxNat l x) else x

/-- BFI at width n (R208). -/
def bfi (n a k c : Nat) : Nat :=
  let pos := k % 256
  let len := k / 256 % 256
  if len = 0 ∨ n ≤ pos then c
  else
    let l := min len (n - pos)
    c - (c / 2 ^ pos % 2 ^ l) * 2 ^ pos + (a % 2 ^ l) * 2 ^ pos

def execBfx (f : Fields) (s : State) : Host.Outcome State Fault Refusal :=
  issueAlu 3 f s fun v => let n := tyW (itype f); bitsEff v n (bfx (itype f) (readA v n) (readB v 32))

def execBfi (f : Fields) (s : State) : Host.Outcome State Fault Refusal :=
  issueAlu 3 f s fun v => let n := tyW (itype f); bitsEff v n (bfi n (readA v n) (readB v 32) (readC v n))

/-- One byte that PRMB selects (R209). -/
def prmbByte (pool q : Nat) : Nat :=
  let b := pool / 256 ^ (q % 8) % 256
  if q < 8 then b else if 128 ≤ b then 255 else 0

def prmb (a b sel : Nat) : Nat :=
  let pool := a + b * 2 ^ 32
  prmbByte pool (sel % 16) + 256 * prmbByte pool (sel / 16 % 16) + 65536 * prmbByte pool (sel / 256 % 16) +
    16777216 * prmbByte pool (sel / 4096 % 16)

def execPrmb (f : Fields) (s : State) : Host.Outcome State Fault Refusal :=
  issueAlu 3 f s fun v => bitsEff v 32 (prmb (readA v 32) (readB v 32) (readC v 32))

/-- The conditions of ICMP and ISET (R210). -/
def intCond (cc : Nat) (x y : Int) : Bool :=
  match cc with
  | 0 => decide (x = y)
  | 1 => decide (x ≠ y)
  | 2 => decide (x < y)
  | 3 => decide (x ≤ y)
  | 4 => decide (y < x)
  | _ => decide (y ≤ x)

def execIcmp (f : Fields) (s : State) : Host.Outcome State Fault Refusal :=
  issueAlu 3 f s fun v =>
    { writes := writesP (fld f.d 2 0) (intCond (fld f.sub 5 3) (intA v (itype f)) (intB v (itype f))), flags := 0, ovf := 0 }

def execIset (f : Fields) (s : State) : Host.Outcome State Fault Refusal :=
  issueAlu 3 f s fun v =>
    let t := itype f
    bitsEff v (tyRegW t) (if intCond (fld f.sub 5 3) (intA v t) (intB v t) then intImage t (-1) else 0)

/-- SEL (R211). -/
def execSel (f : Fields) (s : State) : Host.Outcome State Fault Refusal :=
  issueAlu 3 f s fun v =>
    let n := tyW (itype f)
    bitsEff v n (if readPred v (fld f.sub 5 3) != bit1 f.sub 6 then readA v n else readB v n)

/-- MOV (R212). -/
def execMov (f : Fields) (s : State) : Host.Outcome State Fault Refusal :=
  issueAlu 3 f s fun v => let n := tyW (itype f); bitsEff v n (if bit1 f.sub 3 then readB v n else readA v n)

/-- MOVI (R212). -/
def execMovi (f : Fields) (s : State) : Host.Outcome State Fault Refusal :=
  issueAlu 3 f s fun v =>
    let t := itype f
    let x : Int := if tyS t then sxNat 32 f.w2.toNat else (f.w2.toNat : Int)
    { writes := writesDI v (tyRegW t) (intImage t x), flags := 0, ovf := 0 }

/-- MOVL writes the literal's low n bits (R212). -/
def execMovl (f : Fields) (s : State) : Host.Outcome State Fault Refusal :=
  issueAlu 3 f s fun v => bitsEff v (tyRegW (itype f)) (intImage (itype f) (intB v (itype f)))

/-- The address offset of LEA (R213). -/
def leaOf (v : View) : Nat :=
  let ix : Int := if bit1 v.f.sub 7 then (readBI v 64 : Int) else sxNat 32 (readBI v 32)
  wrapInt 64 ((readAI v 64 : Int) + ix * ((2 ^ fld v.f.sub 5 3 : Nat) : Int) + sxNat 32 v.f.w2.toNat)

/-- The debug right of a group's context (R112). -/
def hasDebug (s : State) (ctx : Nat) : Bool := match getCtx s ctx with | some c => c.debug | none => false

/-- The reach check (R253): reaches 0xF0-0xFF fail, but the debug window's for a context with the debug right. -/
def reachOk (s : State) (ctx : Nat) (reach : BitVec 8) : Bool :=
  decide (reach.toNat < 0xF0) || (reach == 0xFE && hasDebug s ctx)

/-- Reach register k of a group. -/
def reachReg (g : Group) (k : Nat) : BitVec 8 := sget g.h k

/-- LEA (R213): under CHK an address that fails the reach check traps REACH. -/
def execLea (f : Fields) (s : State) : Host.Outcome State Fault Refusal :=
  issueEach f s fun v s =>
    let r := reachReg v.g (fld f.sub 2 0)
    if bit1 f.sub 6 ∧ reachOk v.s v.g.ctx r = false then
      signalTrap s v causeReach (vaOf r (BitVec.ofNat 64 (leaOf v))) r.toNat
    else applyEff s v 3 { writes := writesDI v 64 (leaOf v), flags := 0, ovf := 0 }

/-- CVTI (R214), of latency 5. -/
def execCvti (f : Fields) (s : State) : Host.Outcome State Fault Refusal :=
  issueAlu 5 f s fun v => intEff v (itype f) (intA v (fld f.sub 5 3))

end Sys2Proof.Machine
end

