-- ==== Sys2Proof/Machine/LogMem.lean ====
section
/-! DEFINITION. The log memory as bytes, and the fix region (R461, R463, R464). -/

namespace Sys2Proof.Machine

open Sys2Proof

/-- The 32 bytes of a record (R461). -/
def recBytes (r : LogRec) : List Byte :=
  toBytes 8 r.stamp.toNat ++ toBytes 2 (r.cls.toNat * 2 ^ 14 + r.event.toNat) ++ toBytes 6 r.own.toNat ++
    toBytes 6 r.cause.toNat ++ toBytes 4 r.obj.toNat ++ toBytes 6 r.payload.toNat

/-- The 64 bytes of a partition-table entry (R464). -/
def partBytes (p : Partition) : List Byte :=
  toBytes 8 p.wridx.toNat ++ toBytes 8 p.resets.toNat ++ toBytes 8 p.drops.toNat ++ toBytes 8 p.cgen.toNat ++
    toBytes 8 p.opened.toNat ++ toBytes 24 0

/-- Record k of a partition, zero where nothing has been written. -/
def recAt (s : State) (part k : Nat) : List Byte :=
  match s.logs.find? fun e => e.1 == part && e.2.1 == k with
  | some e => recBytes e.2.2
  | none => toBytes 32 0

/-- A byte of the log memory (R463). -/
def logByte (s : State) (o : Nat) : Byte :=
  if o < 0x20000 then (partBytes (getPart s (o / 64))).getD (o % 64) 0
  else if 0x100000 ≤ o ∧ o < 0x10100000 then sget s.mgmt.fixMem (o - 0x100000)
  else if 0x10100000 ≤ o ∧ o < 0x10100000 + 32 * partCap 0 then
    (recAt s 0 ((o - 0x10100000) / 32)).getD ((o - 0x10100000) % 32) 0
  else if 0x200000000 ≤ o ∧ o < 0x200000000 + 1024 * 0x1800000 then
    let n := (o - 0x200000000) / 0x1800000
    let r := (o - 0x200000000) % 0x1800000
    (recAt s (n + 1) (r / 32)).getD (r % 32) 0
  else 0

end Sys2Proof.Machine
end

