-- ==== Sys2Proof/Machine/Access.lean ====
section
/-! DEFINITION. The access of an executor: its address, its checks, the debug window, reads and the store queue
(R278-R289, R296-R298, R305-R307, R312-R317, R448, R472). -/

namespace Sys2Proof.Machine

open Sys2Proof

/-- The virtual address of a memory operand (R278). -/
def memVa (v : View) : BitVec 72 :=
  vaOf (reachReg v.g (fld v.f.sub 2 0)) (BitVec.ofInt 64 ((readAI v 64 : Int) + sxNat 32 v.f.w2.toNat))

/-- An address n bytes further, within its reach. -/
def vaAdd (va : BitVec 72) (n : Nat) : BitVec 72 := vaOf (BitVec.ofNat 8 (fld va 71 64)) (BitVec.ofNat 64 (fld va 63 0 + n))

/-- SCOPE and ORD of the memory control field (R35). -/
def scopeOf (f : Fields) : Nat := fld f.c 2 0
def ordOf (f : Fields) : Nat := fld f.c 4 3

/-- A scope as it stands for a group: group scope has the extent of quad scope in a spread group (R21, R303). -/
def scopeIn (g : Group) (scope : Nat) : Nat := if scope = 0 ∧ 1 < g.shape.spread then 2 else scope

/-- The scope of an executor's access. -/
def scopeV (v : View) : Nat := scopeIn v.g (scopeOf v.f)

/-- What a release at a scope does: the writes that stand in a core's core store reach their home slices (R313). -/
def releaseFrom (s : State) (core scope : Nat) : State := if 2 ≤ scope then writeBack s core fun _ => true else s

/-- What an acquire at a scope does: the core's copies are dropped (R313). -/
def acquireTo (s : State) (core scope : Nat) : State := if 2 ≤ scope then dropClean s core else s

/-- Bytes of the access's size code. -/
def sizeOf_ (f : Fields) : Nat := 2 ^ fld f.sub 5 3

/-- TINFO of MISALIGN and BANKMODE: the access kind (R280, R284). -/
def alignInfo (a : Acc) (code : Nat) : Nat := accCode a * 2 ^ 8 + code

/-- What an access meets. -/
inductive Res where
  | mem (l : Leaf) (pa : Nat)
  | win (w : Window)
  | trap (cause info : Nat)
  | replay (kind level : Nat)
  | fatal (cause : Nat)
  | capture
  /-- a response FAIL has reached the access: the level of its fault (R264) -/
  | refused (level : Nat)
  /-- the walk queue is full (R268) -/
  | queueFull
deriving DecidableEq, Repr

/-- The checks of R260 for an access of an executor, and the debug window's decoding (R472). A window access of more
than 8 bytes is none that the window takes: PAGEFATAL 13.
DEDUCED (log entry 26), unsafe. -/
def resolve (s : State) (v : View) (va : BitVec 72) (a : Acc) (size : Nat) : Res × State :=
  match refusedAt v.t.failed va a with
  | some l => (.refused l, s)
  | none => match checkAccess s (some (coreOf v.g v.who)) v.g.ctx va a size (capturing s v.g) with
  | (.ok l pa, s) => (.mem l pa, if v.t.failed.isSome then modThread s (vid v) fun t => { t with failed := none } else s)
  | (.trap c i, s) => (.trap c i, s)
  | (.replay k l, s) => (.replay k l, s)
  | (.ctxFatal c, s) => (.fatal c, s)
  | (.capture, s) => (.capture, s)
  | (.queueFull, s) => (.queueFull, s)
  | (.debug, s) =>
    match (if 8 < size then Window.fault causePagefatal 13
      else windowOf s v.g.ctx (BitVec.ofNat 64 (fld va 63 0)) size (accWrites a)) with
    | .fault c sub => (.trap c (pageInfo sub a 0 0 0), s)
    | w => (.win w, s)

/-- What a failed access does to its executor; `stc` is the resume count of STC (R262, R293). -/
def failAccess (s : State) (v : View) (va : BitVec 72) (a : Acc) (r : Res) (stc : Nat) : State :=
  match r with
  | .trap c i => signalTrap s v c va i
  | .replay k l => stallFault s v k l va a stc
  | .fatal c => raiseCtxFatal (retryAt s v) v.g.ctx c
  | .capture => stallAt s v .capture
  | .refused l => refuseAccess s v va a l
  | .queueFull => stallAt s v .walkQueue
  | .mem _ _ | .win _ => s

/-- An access of one executor: alignment (R280), checks, then the continuation. -/
def access (s : State) (v : View) (va : BitVec 72) (a : Acc) (size code : Nat) (k : State → Res → State) : State :=
  if fld va 63 0 % size ≠ 0 then signalTrap s v causeMisalign va (alignInfo a code)
  else match resolve s v va a size with
  | (.mem l pa, s) => k s (.mem l pa)
  | (.win w, s) => k s (.win w)
  | (r, s) => failAccess s v va a r 0

/-! ### The debug window -/

/-- Reads n bytes of the window for a core; main memory at its home slice, after the core's own dirty bytes (R305, R472). -/
def winRead (s : State) (core : Nat) (w : Window) (n : Nat) : List Byte × State :=
  match w with
  | .image gid off => (match getGroup s gid with | some g => imageGet s g off n | none => toBytes n 0, s)
  | .log off => ((List.range n).map fun i => logByte s (off + i), s)
  | .memory pa => wideRead s core pa n
  | .fault _ _ => (toBytes n 0, s)

/-- Writes bytes of the window for a core. -/
def winWrite (s : State) (core : Nat) (w : Window) (bs : List Byte) : State :=
  match w with
  | .image gid off => match getGroup s gid with | some g => imagePut s g off bs | none => s
  | .memory pa =>
    let (tag, s) := writeTag s (unitCore core) pa bs.length
    homeWrite s (some core) pa bs tag
  | _ => s

/-! ### Reads -/

/-- Where a physical address leads (R447). -/
inductive Place where
  | main
  | host (a : Nat)
  | peer (rank : BitVec 12) (a : Nat)
deriving DecidableEq, Repr

def placeOf (s : State) (pa : Nat) : Place :=
  if pa < apertureBase then .main
  else match hostBus pa with
  | some a => .host a
  | none => .peer (peerOf s pa).1 (peerOf s pa).2

/-- Store-queue entries of an executor's core. -/
def queueOf (g : Group) (w : Who) : List StoreEntry := g.stq.filter fun e => e.spreadIx == spreadIx g w

/-- Queued stores of an executor. -/
def ownOps (s : State) (v : View) : List StoreOp :=
  match getGroup s v.g.gid with
  | some g => ((queueOf g v.who).flatMap (·.ops)).filter fun o => o.who == v.who
  | none => []

/-- An executor's earlier stores are still queued. -/
def ownQueued (s : State) (v : View) : Bool := !(ownOps s v).isEmpty

/-- Bytes of a read with the executor's own queued stores laid over them (R287, R307). -/
def forward (ops : List StoreOp) (scratch : Bool) (at_ : Nat) (bs : List Byte) : List Byte :=
  ops.foldl (fun bs o =>
    if o.scratch = scratch ∧ o.red.isNone then
      (List.range bs.length).map fun i =>
        if o.addr ≤ at_ + i ∧ at_ + i < o.addr + o.bytes.length then o.bytes.getD (at_ + i - o.addr) 0 else bs.getD i 0
    else bs) bs

/-- A queued RED of the executor overlaps a read: it leaves first (R307). -/
def redOverlaps (ops : List StoreOp) (pa n : Nat) : Bool :=
  ops.any fun o => o.red.isSome && !o.scratch && decide (o.addr < pa + n ∧ pa < o.addr + 8)

/-- A read waits until stores of its executor have left: a queued RED that overlaps it, or, at a peer, any store that does
(R287, R307). -/
def readWaits (s : State) (v : View) (pa n : Nat) : Bool :=
  redOverlaps (ownOps s v) pa n ||
    (match placeOf s pa with
    | .peer _ _ => (ownOps s v).any fun o => !o.scratch && decide (o.addr < pa + n ∧ pa < o.addr + o.bytes.length)
    | _ => false)

/-- The drop of a core's copies by a load that acquires at a scope (R312, R313). -/
def loadAcquire (s : State) (v : View) : State :=
  if 2 ≤ ordOf v.f then acquireTo s (coreOf v.g v.who) (scopeV v) else s

/-- A read of main memory at its point of performance, with the acquire of a wide scope (R305, R313). -/
def readMain (s : State) (v : View) (l : Leaf) (va : BitVec 72) (pa n scope ord : Nat) : List Byte × State :=
  let core := coreOf v.g v.who
  let (bs, s) :=
    if leafStow l.w0 then
      match stowTile s v.g.ctx l va with
      | (.ok tile, s) => ((List.range n).map fun i => tile.getD (va.toNat % 4096 + i) 0, s)
      | (.error _, s) => (toBytes n 0, s)
    else
      let (bs, s) := if leafCpol l.w0 = 0 ∧ (ord = 0 ∨ scope ≤ 1) then coreRead s core pa n else wideRead s core pa n
      (forward (ownOps s v) false pa bs, s)
  (bs, if 2 ≤ ord then acquireTo s core scope else s)

/-- TINFO of a failure of a remote access under its translation (R261, R448). -/
def remoteInfo (sub : Nat) (a : Acc) (l : Leaf) : Nat := pageInfo sub a (pszOf l.level l.w0) l.level 0

/-- Why a remote request cannot be sent: the function does not hold LINKOK, or its rank is not reachable (R448). -/
def remoteBarred (s : State) (v : View) (a : Acc) (l : Leaf) (rank : BitVec 12) : Option Res :=
  if linkOk s v.g.ctx = false then some (.trap causePageprot (remoteInfo 5 a l))
  else if reachable s rank = false then some (.trap causePoison (remoteInfo 4 a l))
  else none

/-- The failure that a response brings: 1 REFUSED, 2 POISON, 4 no response in time (R448). -/
def remoteFailed (a : Acc) (l : Leaf) (st : BitVec 8) : Option Res :=
  if st = 0 then none
  else if st = 1 then some (.trap causePageprot (remoteInfo 5 a l))
  else some (.trap causePoison (remoteInfo (if st = 4 then 4 else 2) a l))

/-- Sends a remote request of an executor under its unit's next tag, or takes the trap of one that cannot be sent (R448, R459).
DESIGN CHOICE (log entry 35), unsafe. -/
def remoteAsk (s : State) (v : View) (va : BitVec 72) (a : Acc) (l : Leaf) (rank : BitVec 12) (p : BitVec 48 → Packet) : State :=
  match remoteBarred s v a l rank with
  | some r => failAccess s v va a r 0
  | none =>
    let (tag, s) := takeTag s (unitOf v.g v.who)
    sendRequest s v (p tag)

/-- The answer of a remote request: the data, or its trap (R448). -/
def remoteTake (s : State) (v : View) (va : BitVec 72) (a : Acc) (l : Leaf) (st : BitVec 8) (bs : List Byte)
    (k : State → List Byte → State) : State :=
  match remoteFailed a l st with
  | some r => failAccess (takeRemote s v) v va a r 0
  | none => k (takeRemote s v) bs

/-- A read of the window by an executor, once its own queued stores have left, with its acquire at system scope (R307, R313, R472). -/
def winLoad (s : State) (v : View) (w : Window) (n : Nat) (k : State → List Byte → State) : State :=
  let core := coreOf v.g v.who
  if ownQueued s v then stallAt s v .storeQueue
  else
    let (bs, s) := winRead s core w n
    k (if 2 ≤ ordOf v.f then acquireTo s core 6 else s) bs

/-- A store to the window by an executor, once its own queued stores have left, with its release at system scope (R307, R313, R472). -/
def winStore (s : State) (v : View) (w : Window) (bs : List Byte) : State :=
  let core := coreOf v.g v.who
  if ownQueued s v then stallAt s v .storeQueue
  else winWrite (if ordOf v.f = 2 then releaseFrom s core 6 else s) core w bs

/-- A read of a stowed page's decoded bytes, and its acquire (R269). -/
def loadStowed (s : State) (v : View) (l : Leaf) (va : BitVec 72) (n : Nat) (k : State → List Byte → State) : State :=
  let (bs, s) := readMain s v l va 0 n (scopeV v) (ordOf v.f)
  k s bs

/-- MemLoad (R289): an aligned read that has passed its checks. -/
def loadAt (s : State) (v : View) (va : BitVec 72) (a : Acc) (n : Nat) (r : Res) (k : State → List Byte → State) : State :=
  match r with
  | .win w => winLoad s v w n k
  | .mem l pa =>
    if leafStow l.w0 then loadStowed s v l va n k
    else if readWaits s v pa n then stallAt s v .storeQueue
    else match placeOf s pa with
    | .main =>
      let (bs, s) := readMain s v l va pa n (scopeV v) (ordOf v.f)
      k s bs
    | .host a => k (loadAcquire s v) (forward (ownOps s v) false pa (sgets s.hostMem a n))
    | .peer rank addr =>
      match v.t.remote with
      | some (st, bs) => remoteTake s v va a l st bs fun s bs => k (loadAcquire s v) bs
      | none => remoteAsk s v va a l rank (readPacket s v.g.ctx rank addr n (scopeOf v.f) (ordOf v.f))
  | _ => s

/-- Extends a loaded value for its register (R279, R288): w is the register's width.
DEDUCED (log entry 23), unsafe. -/
def extendLoad (sx : Bool) (n w x : Nat) : Nat := if sx then wrapInt w (sxNat (8 * n) x) else x

/-- Width of the register group of a load of n bytes.
DEDUCED (log entry 23), unsafe. -/
def loadW (v : View) (n : Nat) : Nat := if isPilot v || inCap v.t then max 64 (8 * n) else max 32 (8 * n)

/-- Writes a load's result to D, interlocked. -/
def writeLoad (s : State) (v : View) (n : Nat) (sx : Bool) (bs : List Byte) : State :=
  let w := loadW v n
  applyPend s v { effNone with writes := writesDI v w (extendLoad sx n w (ofBytes bs)) } 0

/-! ### Scratch -/

/-- The offset of a scratch access (R285). -/
def scratchOff (v : View) : Nat :=
  wrapInt 32 ((readAI v 64 % 2 ^ 32 : Nat) + sxNat 32 v.f.w2.toNat)

/-- CheckScratch (R284): the BANKMODE subcode of the first check that fails. -/
def checkScratch (g : Group) (o n : Nat) : Option Nat :=
  if g.modes.length * 98304 ≤ o + n - 1 then some 1
  else match g.modes.getD (o / 98304) .scratch with
  | .fifo => some 2
  | .cache => some 3
  | .scratch => none

/-- Key of a scratch byte of an executor's core. -/
def scratchKey (ix o : Nat) : Nat := ix * 2 ^ 32 + o

/-- The bytes of scratch as an executor sees them. -/
def scratchRead (s : State) (v : View) (o n : Nat) : List Byte :=
  match getGroup s v.g.gid with
  | some g => forward (ownOps s v) true o (sgets g.scratch (scratchKey (spreadIx g v.who) o) n)
  | none => toBytes n 0

/-- A scratch access: alignment, CheckScratch, then the continuation (R280, R284, R289). -/
def scratchAccess (s : State) (v : View) (a : Acc) (o n code : Nat) (k : State → State) : State :=
  let va := vaOf 0 (BitVec.ofNat 64 o)
  if o % n ≠ 0 then signalTrap s v causeMisalign va (alignInfo a code)
  else match checkScratch v.g o n with
  | some c => signalTrap s v causeBankmode va (alignInfo a c)
  | none => k s

/-- An executor waits in WAITW for an arrival word that meets n bytes at an offset of a core's scratch. -/
def awaitsWord (g : Group) (ix o n : Nat) (w : Who) (t : Thread) : Bool :=
  match t.run with
  | .parked (.waitw p) => spreadIx g w == ix && decide (p < o + n ∧ o < p + 8)
  | _ => false

/-- Executors that meet a test go on, woken by an event with a tag (R460). -/
def wakeWho (g : Group) (p : Who → Thread → Bool) (tag : BitVec 48) : Group :=
  let go (w : Who) (t : Thread) : Thread := if p w t then { t with run := .ready, lastwake := tag } else t
  { g with pilot := go .pilot g.pilot,
           strands := (g.strands.zip (List.range g.strands.length)).map fun e => go (.strand e.2) e.1 }

/-- Some executor of a group meets a test. -/
def anyWho (g : Group) (p : Who → Thread → Bool) : Bool :=
  (allWho g).any fun w => match getThread g w with | some t => p w t | none => false

/-- The own tag of an event of a unit that wakes executors of a group: taken where it wakes one (R459, R460).
DESIGN CHOICE (log entry 109), unsafe. -/
def wakeTagOf (s : State) (gid unit : Nat) (p : Group → Who → Thread → Bool) : BitVec 48 × State :=
  match getGroup s gid with
  | some g => if anyWho g (p g) then takeTag s unit else (0, s)
  | none => (0, s)

/-- Bytes written to scratch by a unit; the WAITWs whose arrival words they touch go on (R301). -/
def scratchWrite (s : State) (unit gid ix o : Nat) (bs : List Byte) : State :=
  let (tag, s) := wakeTagOf s gid unit fun g => awaitsWord g ix o bs.length
  modGroup s gid fun g =>
    wakeWho { g with scratch := ssets g.scratch (scratchKey ix o) bs } (awaitsWord g ix o bs.length) tag

/-! ### Atomic functions -/

/-- A value as an integer of n bits, signed or natural. -/
def atomInt (signed : Bool) (n x : Nat) : Int := if signed then sxNat n x else ((x % 2 ^ n : Nat) : Int)

/-- The format of a floating atomic (R297). -/
def atomFmt (n : Nat) (b6 : Bool) : FloatFmt :=
  if n = 16 then (if b6 then bf16 else fp16) else if n = 32 then fp32 else fp64

/-- A rounded sum, RNE, subnormals kept, NaN canonical (R96, R297). -/
def atomFadd (fm : FloatFmt) (x y : Nat) : Nat :=
  encodeF fm (roundF fm { rm := .rne, ftz := false, sat := false, infIn := false }
    (addE false (decodeF fm (x % 2 ^ fmtW fm)) (decodeF fm (y % 2 ^ fmtW fm))).1).val

/-- One lane's step of an atomic operation on n bits (R297). -/
def atomStep (atop n : Nat) (b6 : Bool) (m v : Nat) : Nat :=
  let fm := atomFmt n b6
  match atop with
  | 1 => (m + v) % 2 ^ n
  | 2 => if atomInt b6 n v < atomInt b6 n m then v else m
  | 3 => if atomInt b6 n m < atomInt b6 n v then v else m
  | 4 => m &&& v
  | 5 => m ||| v
  | 6 => m ^^^ v
  | 7 => v
  | 8 => if v ≤ m then 0 else m + 1
  | 9 => if m = 0 ∨ v < m then v else m - 1
  | 10 => atomFadd fm m v
  | 11 => (minMaxNum fm false (readFloat fm false false false m) (readFloat fm false false false v)).1
  | 12 => (minMaxNum fm true (readFloat fm false false false m) (readFloat fm false false false v)).1
  | _ => m

/-- The lanes' steps one at a time: the final value, and each lane's old value (R298). -/
def atomSerial (step : Nat → Nat → Nat) (m : Nat) (vs : List Nat) : Nat × List Nat :=
  vs.foldl (fun acc v => (step acc.1 v, acc.2 ++ [acc.1])) (m, [])

/-- A combined request of several lanes (R96, R298). -/
def atomSet (atop n : Nat) (b6 : Bool) (vs : List Nat) (m : Nat) : Nat × List Nat :=
  if atop = 10 then
    match vs with
    | [] => (m, [])
    | x :: r =>
      let fm := atomFmt n b6
      let folds := r.foldl (fun (acc : List Nat × Nat) v => (acc.1 ++ [acc.2], atomFadd fm acc.2 v)) ([], x)
      (atomFadd fm m folds.2, m :: folds.1.map (atomFadd fm m))
  else atomSerial (atomStep atop n b6) m vs

/-- Compare and swap of several lanes: pairs of expected and new (R297, R298). -/
def casSet (vs : List (Nat × Nat)) (m : Nat) : Nat × List Nat :=
  vs.foldl (fun acc v => (if acc.1 = v.1 then v.2 else acc.1, acc.2 ++ [acc.1])) (m, [])

/-- Whether an access performs in the core store (R296, R305). -/
def narrowAt (cpol scope : Nat) : Bool := cpol == 0 && decide (scope ≤ 1)

/-- A read-modify-write at its point of performance, with its release and acquire (R296, R312, R313): the lanes' old
values. `put` says that a result equal to the old value is written too. -/
def rmwAt (s : State) (core unit cpol scope ord pa n : Nat) (put : Bool) (f : Nat → Nat × List Nat) : List Nat × State :=
  let s := if 3 ≤ ord then releaseFrom s core scope else s
  let narrow := narrowAt cpol scope
  let (bs, s) := if narrow then coreRead s core pa n else wideRead s core pa n
  let (new, olds) := f (ofBytes bs)
  let (tag, s) := writeTag s unit pa n
  let s := if put = false ∧ new = ofBytes bs then s
    else if narrow then coreWrite s core pa (toBytes n new) tag else homeWrite s (some core) pa (toBytes n new) tag
  (olds, if 2 ≤ ord then acquireTo s core scope else s)

/-! ### The store queue -/

/-- The operands of an ATOM: the first in OPND, the others in the payload (R440). -/
def atomOperands (n : Nat) (bs : List Byte) (p : Packet) : Packet :=
  { p with opnd := BitVec.ofNat 128 (ofBytes (bs.take n)), payload := bs.drop n }

/-- A posted packet goes to a peer, or is dropped and logged: by a function without LINKOK, or to a rank that is not reachable
(R446, R448). -/
def postPeer (s : State) (ctx filt unit : Nat) (rank : BitVec 12) (q : BitVec 48 → Packet) : State :=
  if linkOk s ctx = false then (emitFilt s filt unit (some ctx) evLinkDrop (ctx % 1024) 0 0).2
  else if reachable s rank = false then dropPacket s (q 0)
  else
    let (tag, s) := takeTag s unit
    sendPacket s (q tag)

/-- Performs one queued store (R287, R305, R312). -/
def performStore (s : State) (g : Group) (ix : Nat) (o : StoreOp) : State :=
  let core := g.cores.getD ix 0
  let unit := unitCore core
  if o.scratch then scratchWrite s unit g.gid ix o.addr o.bytes
  else
    let scope := scopeIn g o.scope
    let s := if o.ord = 2 then releaseFrom s core scope else s
    match placeOf s o.addr, o.red with
    | .main, some (atop, b6, vs) =>
      let n := o.bytes.length
      (rmwAt s core unit o.cpol scope 1 o.addr n true (atomSet atop.toNat (8 * n) b6 (vs.map (·.toNat)))).2
    | .main, none =>
      let (tag, s) := writeTag s unit o.addr o.bytes.length
      if o.cpol = 0 ∧ (o.ord = 0 ∨ scope ≤ 1) then coreWrite s core o.addr o.bytes tag
      else homeWrite s (some core) o.addr o.bytes tag
    | .host a, some (atop, b6, vs) =>
      let n := o.bytes.length
      let m := ofBytes (sgets s.hostMem a n)
      { s with hostMem := ssets s.hostMem a (toBytes n (atomSet atop.toNat (8 * n) b6 (vs.map (·.toNat)) m).1) }
    | .host a, none => { s with hostMem := ssets s.hostMem a o.bytes }
    | .peer rank a, red =>
      let n := o.bytes.length
      let code := Nat.log2 n
      let p (tag : BitVec 48) : Packet :=
        { pkt0 s rank .write 0 g.ctx tag with addr := BitVec.ofNat 64 a, opinfo := opInfo code 0 o.scope o.ord 0, payload := o.bytes,
                                              tag := postedTag }
      let q (tag : BitVec 48) : Packet := match red with
        | some (op, b6, vs) =>
          atomOperands n (vs.flatMap fun x => toBytes n x.toNat)
            { p tag with type := .atom, opinfo := opInfo code op.toNat o.scope o.ord (if b6 then 1 else 0) }
        | none => p tag
      postPeer s g.ctx g.vals.logfilt.toNat unit rank q

/-- Executors stalled on the store queue of a group try again; a fence that a save finds in progress waits for the save's end
(R314). -/
def readyStores (g : Group) : Group :=
  let go (t : Thread) : Thread :=
    match t.run with
    | .stalled .storeQueue | .stalled (.bankSwitch _) => { t with run := .ready }
    | .stalled (.fence _) => if g.gst = .saving then t else { t with run := .ready }
    | _ => t
  { g with pilot := go g.pilot, strands := g.strands.map go }

/-- The oldest entry of a core's queue leaves, lane by lane (R287). -/
def departOldest (s : State) (gid ix : Nat) : State :=
  match getGroup s gid with
  | none => s
  | some g =>
    match g.stq.find? fun e => e.spreadIx == ix with
    | none => s
    | some e =>
      let s := modGroup s gid fun g => { g with stq := g.stq.erase e }
      let s := e.ops.foldl (fun s o => performStore s g ix o) s
      modGroup s gid readyStores

/-- STORE_QUEUE_DEPART (R287). -/
def execStoreQueueDepart (gid spreadIx : Nat) (s : State) : Host.Outcome State Fault Refusal :=
  .next (departOldest s gid spreadIx)

/-- Empties all store queues of a group, in order; n bounds the entries. -/
def drainStores (s : State) (gid n : Nat) : State :=
  match n with
  | 0 => s
  | k + 1 =>
    match (getGroup s gid).bind (·.stq.head?) with
    | none => s
    | some e => drainStores (departOldest s gid e.spreadIx) gid k

/-- Empties the store queue of one core of a group, in order; n bounds the entries. -/
def drainCore (s : State) (gid ix n : Nat) : State :=
  match n with
  | 0 => s
  | k + 1 =>
    match (getGroup s gid).bind fun g => g.stq.find? fun e => e.spreadIx == ix with
    | none => s
    | some _ => drainCore (departOldest s gid ix) gid ix k

/-- What an executor's release at group scope does for the group's other executors: what its core has queued is performed, and
in a spread group it reaches the home slices (R287, R313, R319). -/
def groupRelease (s : State) (g : Group) (w : Who) : State :=
  releaseFrom (drainCore s g.gid (spreadIx g w) 64) (coreOf g w) (scopeIn g 0)

/-- An executor's acquire at group scope (R313, R319). -/
def groupAcquire (s : State) (g : Group) (w : Who) : State := acquireTo s (coreOf g w) (scopeIn g 0)

/-- The stores of one issue enter the queue of the group's core as one entry; a full queue stalls the issue (R287). -/
def storeGang (vs : List View) (s : State) (one : View → State → List StoreOp × State) : State :=
  match vs with
  | [] => s
  | v :: _ =>
    let ix := spreadIx v.g v.who
    if 64 ≤ (queueOf v.g v.who).length then vs.foldl (fun s v => stallAt s v .storeQueue) s
    else
      let (ops, s) := vs.foldl (fun (acc : List StoreOp × State) v =>
        let (o, s) := one v acc.2
        (acc.1 ++ o, s)) ([], s)
      if ops.isEmpty then s else modGroup s v.g.gid fun g => { g with stq := g.stq ++ [{ spreadIx := ix, ops := ops }] }

/-- A queued store of an executor. -/
def storeOp (v : View) (scratch : Bool) (addr cpol : Nat) (bs : List Byte) : StoreOp :=
  { who := v.who, scratch := scratch, addr := addr, bytes := bs, red := none, scope := scopeOf v.f, ord := ordOf v.f, cpol := cpol }

/-- An access whose continuation gives stores for the queue. -/
def storeAccess (s : State) (v : View) (va : BitVec 72) (n code : Nat) (a : Acc) (k : State → Res → List StoreOp × State) :
    List StoreOp × State :=
  if fld va 63 0 % n ≠ 0 then ([], signalTrap s v causeMisalign va (alignInfo a code))
  else match resolve s v va a n with
  | (.mem l pa, s) => k s (.mem l pa)
  | (.win w, s) => k s (.win w)
  | (r, s) => ([], failAccess s v va a r 0)

end Sys2Proof.Machine
end

