-- ==== Sys2Proof/Machine/Control.lean ====
section
/-! DEFINITION. Control transfer, rejoin masks and the bounded wait, and the other control of strands and pilots
(R166-R168, R175-R196). -/

namespace Sys2Proof.Machine

open Sys2Proof

/-! ### Rounds -/

/-- Every lane that jn names is in the arrival set or holds an EXITED strand in the slot (R184). -/
def roundDone (g : Group) (r : Round) : Bool :=
  (List.range g.shape.w).all fun l =>
    !((sget g.j r.n).getLsbD l) || r.lanes.contains l ||
      (match g.strands[r.slot * g.shape.w + l]? with | some t => t.run == .exited | none => true)

/-- Strand k waits in a round. -/
def inRound (g : Group) (r : Round) (k : Nat) (t : Thread) : Bool :=
  match t.run with
  | .joining n slot _ _ => n == r.n && slot == r.slot && r.lanes.contains (laneOf g k)
  | _ => false

/-- The release of a round, under the tag of the event: its strands write their predicates and go on after their own WAITJ; the round
closes (R184, R460). -/
def releaseRound (g : Group) (r : Round) (ok : Bool) (tag : BitVec 48) : Group :=
  let go (g : Group) (k : Nat) : Group :=
    match g.strands[k]? with
    | some t =>
      match t.run with
      | .joining _ _ pd next =>
        if inRound g r k t then
          modThreadOf (storeReg g (.strand k) (.p pd) (if ok then 1 else 0)) (.strand k) fun t =>
            { t with run := .ready, pc := next, lastwake := tag }
        else g
      | _ => g
    | none => g
  let g := (List.range g.strands.length).foldl go g
  { g with rounds := g.rounds.filter fun x => !(x.n == r.n && x.slot == r.slot) }

/-- A group's open rounds are tested while it runs; a group that is stopped as a whole is tested later (R184, R186). -/
def roundsTested (g : Group) : Bool := g.gst == .running || g.gst == .draining

/-- A round completes: what its strands did before it is performed, and they go on together (R184, R185, R319). The strands of a
round are of one slot, so of one core (R143). An expiry has no tag.
DESIGN CHOICE (log entry 109), unsafe. -/
def completeRound (s : State) (g : Group) (r : Round) : State :=
  let w : Who := .strand (r.slot * g.shape.w)
  let (tag, s) := takeTag (groupAcquire (groupRelease s g w) g w) (unitOf g w)
  modGroup s g.gid fun g => releaseRound g r true tag

/-- Every open round that is complete is released (R184). -/
def settleRounds (s : State) (gid : Nat) : State :=
  match getGroup s gid with
  | none => s
  | some g => if roundsTested g then (g.rounds.filter (roundDone g)).foldl (fun s r => completeRound s g r) s else s

/-- WAITJ_EXPIRY (R184): a round whose deadline has come and that is not complete is released with false. -/
def execWaitjExpiry (gid n slot : Nat) (s : State) : Host.Outcome State Fault Refusal :=
  .next (modGroup (settleRounds s gid) gid fun g =>
    match g.rounds.find? fun r => r.n == n && r.slot == slot with
    | some r =>
      match r.deadline with
      | some d => if roundsTested g ∧ d ≤ coreCycle s (g.cores.getD 0 0) then releaseRound g r false 0 else g
      | none => g
    | none => g)

/-! ### Transfers -/

/-- NOP (R190). -/
def execNop (f : Fields) (s : State) : Host.Outcome State Fault Refusal := issueEach f s fun _ s => s

/-- LAND in sequence has no effect (R179). -/
def execLand (f : Fields) (s : State) : Host.Outcome State Fault Refusal := issueEach f s fun _ s => s

/-- The displacement of BRA and CALL in words (R39, R176): B and C in the 64-bit form, word 2 in the 96-bit one. -/
def branchDisp (f : Fields) : Int :=
  if f.len = 1 then sxNat 20 (f.c.toNat * 2 ^ 10 + f.b.toNat) else sxNat 32 f.w2.toNat

/-- Target of BRA and CALL (R176). -/
def branchTarget (v : View) : W64 := BitVec.ofInt 64 ((nextPc v).toNat + 4 * branchDisp v.f)

/-- The executor's kernel is REPLAY, so its path signature counts (R486). -/
def replayKernel (s : State) (g : Group) : Bool :=
  match (getKernel s g.kid).bind (·.desc) with | some d => bit1 d.kflags 4 | none => false

/-- A taken transfer: the path signature of a REPLAY kernel takes the target, and the executor goes there (R176,
R486). -/
def takeTransfer (s : State) (v : View) (target : W64) : State :=
  let s := countCore s v.g (coreOf v.g v.who) selTaken 1
  let s := if replayKernel s v.g then pathStep s v target.toNat else s
  modThread s (vid v) fun t => { t with pc := target }

/-- BRA (R176). -/
def execBra (f : Fields) (s : State) : Host.Outcome State Fault Refusal :=
  issueEach f s fun v s => takeTransfer s v (branchTarget v)

/-- The link of CALL and CALLX: the next instruction's address, with latency 3 (R46, R176). -/
def linkEff (writes : List (RegId × W64)) : Eff := { effNone with writes := writes }

/-- CALL (R176). -/
def execCall (f : Fields) (s : State) : Host.Outcome State Fault Refusal :=
  issueEach f s fun v s =>
    takeTransfer (applyEff s v 3 (linkEff (writesDI v 64 (nextPc v).toNat))) v (branchTarget v)

/-- A transfer to a register target: MISALIGN, then the landing check where there is one, then `go` (R177, R178). -/
def registerTransfer (v : View) (s : State) (land : Bool) (go : State → W64 → State) : State :=
  let target := BitVec.ofNat 64 (readA v 64)
  let reach := codeReachOf v.g v.t
  let va := vaOf reach target
  if target.toNat % 4 ≠ 0 then signalTrap s v causeMisalign va 0
  else if land = false then go s target
  else match refusedAt v.t.failed va .fetch with
  | some l => refuseAccess s v va .fetch l
  | none => match landingCheck s v.g v.who reach target v.f.sub.toNat with
  | (.pass, s) => go s target
  | (.mismatch info, s) => signalTrap s v causeLandtag va info
  | (.replay k l, s) => stallFault s v k l va .fetch 0
  | (.trap c i, s) => signalTrap s v c va i
  | (.ctxFatal c, s) => raiseCtxFatal (retryAt s v) v.g.ctx c
  | (.queueFull, s) => stallAt s v .walkQueue

/-- BRX (R177). -/
def execBrx (f : Fields) (s : State) : Host.Outcome State Fault Refusal :=
  issueEach f s fun v s => registerTransfer v s true fun s x => takeTransfer s v x

/-- CALLX (R177). -/
def execCallx (f : Fields) (s : State) : Host.Outcome State Fault Refusal :=
  issueEach f s fun v s => registerTransfer v s true fun s x =>
    takeTransfer (applyEff s v 3 (linkEff (writesD v 64 (nextPc v).toNat))) v x

/-- RET (R177). -/
def execRet (f : Fields) (s : State) : Host.Outcome State Fault Refusal :=
  issueEach f s fun v s => registerTransfer v s false fun s x => takeTransfer s v x

/-! ### Rejoin masks -/

/-- Changes a mask of a group. -/
def modMask (s : State) (gid n : Nat) (h : W64 → W64) : State :=
  modGroup s gid fun g => { g with j := sset g.j n (h (sget g.j n)) }

/-- Bits of lanes at or above W are ignored where a mask is used (R180); the register keeps them. -/
def laneBit (v : View) : W64 :=
  match v.who with | .strand k => BitVec.ofNat 64 (2 ^ laneOf v.g k) | .pilot => 0

/-- Tests the rounds of the issuing group after a change. -/
def thenSettle (vs : List View) (s : State) : State :=
  match vs with | v :: _ => settleRounds s v.g.gid | [] => s

/-- JOIN (R181). -/
def execJoin (f : Fields) (s : State) : Host.Outcome State Fault Refusal :=
  issueGang f s fun vs s =>
    thenSettle vs (vs.foldl (fun s v => modMask s v.g.gid (fld f.d 3 0) fun m => m ||| laneBit v) s)

/-- WAITJ at one strand (R183): it arrives, opening the round where it is the first, and waits in JOINING, which ends the
obligations of its fixed-latency results (R50). -/
def arriveRound (v : View) (s : State) : State :=
  match v.who with
  | .pilot => s
  | .strand k =>
    let n := fld v.f.a 3 0
    let slot := slotOf v.g k
    let budget := v.f.w2.toNat
    let dl := if budget = 0 then none else some (coreCycle s (v.g.cores.getD 0 0) + budget)
    let s := modGroup s v.g.gid fun g =>
      if g.rounds.any fun r => r.n == n && r.slot == slot then
        { g with rounds := replaceIf (fun r => r.n == n && r.slot == slot)
                   (fun r => { r with lanes := r.lanes ++ [laneOf g k] }) g.rounds }
      else { g with rounds := g.rounds ++ [{ n := n, slot := slot, deadline := dl, lanes := [laneOf g k] }] }
    modThread s (vid v) fun t =>
      { t with pc := v.t.pc, run := .joining n slot (fld v.f.d 2 0) (nextPc v), fixed := endFixed t.fixed, since := now s }

/-- WAITJ (R183, R184). -/
def execWaitj (f : Fields) (s : State) : Host.Outcome State Fault Refusal :=
  issueGang f s fun vs s => thenSettle vs (vs.foldl (fun s v => arriveRound v s) s)

/-- JMASK.get (R182); interlocked (R180). -/
def execJmaskGet (f : Fields) (s : State) : Host.Outcome State Fault Refusal :=
  issueAlu 0 f s fun v => { effNone with writes := writesD v 64 (sget v.g.j (fld v.f.a 3 0)).toNat }

/-- An update of a mask by B, in lane order (R180, R182). -/
def maskUpdate (f : Fields) (s : State) (h : W64 → W64 → W64) : Host.Outcome State Fault Refusal :=
  issueGang f s fun vs s =>
    thenSettle vs (vs.foldl (fun s v =>
      modMask s v.g.gid (fld f.d 3 0) fun m => h m (BitVec.ofNat 64 (readB v 64))) s)

/-- JMASK.set (R182). -/
def execJmaskSet (f : Fields) (s : State) : Host.Outcome State Fault Refusal := maskUpdate f s fun _ b => b

/-- JMASK.or (R182). -/
def execJmaskOr (f : Fields) (s : State) : Host.Outcome State Fault Refusal := maskUpdate f s fun m b => m ||| b

/-- JMASK.andn (R182). -/
def execJmaskAndn (f : Fields) (s : State) : Host.Outcome State Fault Refusal := maskUpdate f s fun m b => m &&& ~~~b

/-! ### Ends, yields and naps -/

/-- A strand ends (R187): its loads are dropped, its trap slot freed, its capsule abandoned (R362), and its barrier
memberships left (R337). -/
def exitStrand (s : State) (g : Group) (k : Nat) : State :=
  let id : ThreadId := { gid := g.gid, who := .strand k }
  let s := match (g.strands[k]?).bind (·.caps) with
    | some c => capStatus s g k c.record ostAbandoned false
    | none => s
  let s := modThread s id fun t => { exitThread t with pend := [], slot := none, caps := none }
  barExit s g (.strand k)

/-- What an exit may release: strands that wait for their row (R42), rounds, trap slots, a pending halt. -/
def afterExit (s : State) (gid : Nat) : State :=
  let free (t : Thread) : Thread := if t.run = .stalled .row then { t with run := .ready } else t
  let s := modGroup s gid fun g => { g with strands := g.strands.map free }
  settleHalt (serveSlots (settleRounds s gid) gid) gid

/-- EXIT (R187). -/
def execExit (f : Fields) (s : State) : Host.Outcome State Fault Refusal :=
  issueGang f s fun vs s =>
    let s := vs.foldl (fun s v => match v.who with | .strand k => exitStrand s v.g k | .pilot => s) s
    match vs with | v :: _ => afterExit s v.g.gid | [] => s

/-- The gang leaves its partition, and is not chosen next while another entry is READY (R171, R188). -/
def leaveGang (s : State) : State := { s with leave := 2 }

/-- YIELD (R188). -/
def execYield (f : Fields) (s : State) : Host.Outcome State Fault Refusal := issueGang f s fun _ s => leaveGang s

/-- NAP n (R189): n to n + 64 core cycles; NAP 0 acts as YIELD.
DESIGN CHOICE (log entry 5), safe. -/
def execNap (f : Fields) (s : State) : Host.Outcome State Fault Refusal :=
  if f.w2 = 0 then issueGang f s fun _ s => leaveGang s
  else issueEach f s fun v s =>
    parkAt s v (.nap (s.cycle + f.w2.toNat + Config.napExtra s.free % 65) (nextPc v))

/-- NAP_WAKE (R189): the park ends once its time has come. -/
def execNapWake (t : ThreadId) (s : State) : Host.Outcome State Fault Refusal :=
  .next (modThread s t fun x =>
    match x.run with
    | .parked (.nap wake next) => if wake ≤ s.cycle then { x with run := .ready, pc := next } else x
    | _ => x)

/-! ### Traps -/

/-- TRAP (R193). -/
def execTrap (f : Fields) (s : State) : Host.Outcome State Fault Refusal :=
  issueEach f s fun v s => signalTrapNext s v causeTrapinstr f.w2.toNat

/-- Breakpoint interception of a context (R475). -/
def intercepts (s : State) (ctx : Nat) : Bool := match getCtx s ctx with | some c => c.bkpt | none => false

/-- An intercepted BKPT: the executors that issue it stop at it, the group is halted with FORCE, and TRAP is logged with the cause and the
code, which stands where a delivered trap's record has the low bits of its TPC (R475, R502).
DESIGN CHOICE (log entry 112), unsafe. -/
def breakGroup (code : Nat) (vs : List View) (s : State) : State :=
  match vs with
  | [] => s
  | v :: _ =>
    let s := vs.foldl (fun s v =>
      retryAt (emitExec s v.g v.who evTrap v.g.lin.toNat (causeBkpt * 2 ^ 40 + code)) v) s
    haltGroup (modGroup s v.g.gid fun g => { g with atBkpt := true }) v.g.gid true

/-- BKPT (R194, R475). -/
def execBkpt (f : Fields) (s : State) : Host.Outcome State Fault Refusal :=
  issueGang f s fun vs s =>
    match vs with
    | [] => s
    | v :: _ =>
      if intercepts s v.g.ctx then breakGroup f.d.toNat vs s
      else vs.foldl (fun s v => signalTrap s v causeBkpt 0 f.d.toNat) s

/-- TRAPRET at one executor (R152, R195, R362): a suspended capsule is resumed first, so that a halt which the return completes finds
it. -/
def trapReturn (v : View) (s : State) : State :=
  if v.t.inh = false then signalTrap s v causeIllop 0 (decodeInfoRet)
  else
    let s := match v.t.caps with
      | some c => if c.mode = .suspended then resumeCapsule s (vid v) v.t.tpc else s
      | none => s
    returnTrap s (vid v)
where
  /-- OP 0x00F and subcode 0x0B (R195). -/
  decodeInfoRet : Nat := 0x0F0B

/-- TRAPRET (R195). -/
def execTrapret (f : Fields) (s : State) : Host.Outcome State Fault Refusal := issueEach f s fun v s => trapReturn v s

/-! ### The pilot and its strands -/

/-- RELEASE and DQPUSH release the pilot's earlier memory writes at group scope, and the strands that they start or feed acquire
them (R151, R319). -/
def pilotRelease (s : State) (g : Group) : State :=
  g.cores.foldl (fun s c => acquireTo s c (scopeIn g 0)) (groupRelease s g .pilot)

/-- RELEASE starts the NEW strands of a range (R166). -/
def execRelease (f : Fields) (s : State) : Host.Outcome State Fault Refusal :=
  issueEach f s fun v s =>
    let s := pilotRelease s v.g
    let first := readA v 64 % 2 ^ 32
    let n := readB v 32
    let start (g : Group) (k : Nat) : Group :=
      if first ≤ k ∧ k < first + n then
        modThreadOf g (.strand k) fun t => if t.run = .new then { t with run := .ready, pc := g.sentry } else t
      else g
    modGroup s v.g.gid fun g => (List.range g.strands.length).foldl start g

/-- A group whose pilot has executed PHALT. -/
def pilotHalted (g : Group) : Bool := g.pilot.run == .exited

/-- Strands parked in DQPOP, in the order they parked (R167). -/
def dqWaiters (g : Group) : List Nat :=
  let ord (k : Nat) : Option (Nat × Nat) :=
    match g.strands[k]? with
    | some t => match t.run with | .parked (.dqpop o) => some (o, k) | _ => none
    | none => none
  (sortBy (fun a b => decide (a.1 < b.1 ∨ (a.1 = b.1 ∧ a.2 ≤ b.2))) ((List.range g.strands.length).filterMap ord)).map (·.2)

/-- Wakes parked DQPOPs, under the tag of the pilot's push or end; they reissue in the order they parked (R167, R460).
DESIGN CHOICE (log entry 109), unsafe. -/
def wakePops (s : State) (gid n : Nat) : State :=
  match getGroup s gid with
  | none => s
  | some g =>
    let ks := (dqWaiters g).take n
    let (tag, s) := if ks.isEmpty then (0, s) else takeTag s (unitOf g .pilot)
    let s := ks.foldl (fun s k => modThread s { gid := gid, who := .strand k } fun t => { t with run := .ready, lastwake := tag }) s
    { s with agenda := (ks.map fun k => Turn.issue (.gang gid [k])) ++ s.agenda }

/-- DQPUSH into a queue with room (R167). -/
def pushEntry (s : State) (v : View) : State :=
  wakePops (modGroup (pilotRelease s v.g) v.g.gid fun g => { g with dq := g.dq ++ [BitVec.ofNat 64 (readA v 64)] }) v.g.gid 1

/-- DQPUSH (R165, R167): a full queue stalls the pilot. -/
def execDqpush (f : Fields) (s : State) : Host.Outcome State Fault Refusal :=
  issueEach f s fun v s =>
    if v.g.dq.length < 64 then pushEntry s v else stallAt s v .decisionQueue

/-- DQPUSH.nb (R167). -/
def execDqpushNb (f : Fields) (s : State) : Host.Outcome State Fault Refusal :=
  issueEach f s fun v s =>
    let ok := decide (v.g.dq.length < 64)
    let s := applyPend s v { effNone with writes := writesP (fld f.d 2 0) ok } 0
    if ok then pushEntry s v else s

/-- A pop makes room: a pilot stalled on a full queue goes on (R167). -/
def readyPusher (g : Group) : Group :=
  if g.pilot.run = .stalled .decisionQueue then { g with pilot := { g.pilot with run := .ready } } else g

/-- DQPOP at one strand, an acquire where it returns an entry (R167, R319); nb is the predicate of the .nb form. -/
def popEntry (v : View) (nb : Option Nat) (s : State) : State :=
  let pred (b : Bool) : List (RegId × W64) := match nb with | some n => writesP n b | none => []
  match getGroup s v.g.gid with
  | none => s
  | some g =>
    match g.dq with
    | x :: r =>
      let s := modGroup (groupAcquire s g v.who) g.gid fun g => readyPusher { g with dq := r, dqHead := g.dqHead + 1 }
      applyPend s v { effNone with writes := writesD v 64 x.toNat ++ pred true } 0
    | [] =>
      if nb.isSome then applyPend s v { effNone with writes := pred false } 0
      else if pilotHalted g then applyPend s v { effNone with writes := writesD v 64 (2 ^ 64 - 1) } 0
      else parkAt s v (.dqpop s.nextPark)

/-- The strands of an issue pop in increasing strand index; those that park in it park together (R167). -/
def popGang (f : Fields) (s : State) (nb : Option Nat) : Host.Outcome State Fault Refusal :=
  issueGang f s fun vs s =>
    let s := (sortBy (fun v u => decide (strandIx v.who ≤ strandIx u.who)) vs).foldl (fun s v => popEntry v nb s) s
    { s with nextPark := s.nextPark + 1 }

/-- DQPOP (R167). -/
def execDqpop (f : Fields) (s : State) : Host.Outcome State Fault Refusal := popGang f s none

/-- DQPOP.nb (R167). -/
def execDqpopNb (f : Fields) (s : State) : Host.Outcome State Fault Refusal := popGang f s (some (fld f.a 2 0))

/-- PHALT (R168): the pilot ends, NEW strands become EXITED, parked DQPOPs complete. Its barrier memberships last until the group
retires (R149, R337). -/
def pilotHalt (v : View) (s : State) : State :=
  let news := (List.range v.g.strands.length).filter fun k =>
    match v.g.strands[k]? with | some t => t.run == .new | none => false
  let s := modThread s (vid v) fun t => { exitThread t with pend := [] }
  let s := news.foldl (fun s k => exitStrand s v.g k) s
  let s := if news.isEmpty then s else (emitGroup s v.g evUnreleased news.length).2
  afterExit (wakePops s v.g.gid v.g.strands.length) v.g.gid

/-- PHALT (R168). -/
def execPhalt (f : Fields) (s : State) : Host.Outcome State Fault Refusal := issueEach f s fun v s => pilotHalt v s

end Sys2Proof.Machine
end

