-- ==== Sys2Proof/Machine/Shapes.lean ====
section
/-! DEFINITION. The shape of every opcode: its executors, shortest form, the SUB values it assigns, what each register
field and operand specifier names, its latency, and what its modifier word may hold (R31, R44, R46, R52, R55, and the
tables of the instruction chapters). -/

namespace Sys2Proof.Machine

open Sys2Proof

/-- What a field of an instruction names. -/
inductive Role where
  /-- unused: must be zero (R28, R32) -/
  | zero
  /-- a register operand of w bits, read, written, or both (R28, R279) -/
  | reg (w : Nat) (rd wr : Bool)
  /-- a predicate number in bits 2:0 (R28) -/
  | pred (rd wr : Bool)
  /-- a number in the low n bits, of another file (R28) -/
  | low (n : Nat)
  /-- a block of n registers that starts at a multiple of al, read, written, or both (R354, R371, R408) -/
  | block (n al : Nat) (rd wr : Bool)
  /-- an operand specifier of w bits (R32) -/
  | spec (w : Nat)
  /-- judged by the entry alone -/
  | own
deriving DecidableEq, Repr

/-- The shape of an instruction. -/
structure Shape where
  iop : Bool
  pilot : Bool
  strand : Bool
  priv : Bool
  /-- shortest length code (R52) -/
  short : Nat
  /-- SUB is assigned (check 5) -/
  subOk : Bool
  d : Role
  a : Role
  b : Role
  c : Role
  /-- further reserved fields are zero (check 6) -/
  fieldsOk : Bool
  sat : Bool
  mods : Bool
  /-- the modifier word must be zero whole (R458) -/
  noMod : Bool
  /-- its register in D is a v-register in capsule mode too (R354) -/
  ownV : Bool
  /-- the control field in C is legal (check 10) -/
  ctlOk : Bool
  /-- further register limits (check 13) -/
  limitOk : Bool
  /-- latency of the results; 0: interlocked (R46) -/
  lat : Nat
  /-- registers read in capsule mode that no field names (R356, R358) -/
  capR : List RegId
  /-- predicates that SUB names, or the whole image of a capsule: read, written -/
  predR : List Nat
  predW : List Nat
deriving DecidableEq, Repr

/-- A shape with nothing in it but the executors and the shortest form. -/
def shape0 (short : Nat) : Shape :=
  { iop := false, pilot := true, strand := true, priv := false, short := short, subOk := true, d := .zero, a := .zero,
    b := .zero, c := .zero, fieldsOk := true, sat := false, mods := true, noMod := false, ownV := false, ctlOk := true, limitOk := true, lat := 0,
    capR := [], predR := [], predW := [] }

def rd (w : Nat) : Role := .reg w true false
def wr (w : Nat) : Role := .reg w false true
def rdwr (w : Nat) : Role := .reg w true true

/-- Bits hi:lo of SUB. -/
def sb (f : Fields) (hi lo : Nat) : Nat := fld f.sub hi lo

/-- B and C of BRA and CALL hold the displacement of the 64-bit form, and are zero in longer ones (R39, R176). -/
def dispRole (f : Fields) : Role := if f.len = 1 then .own else .zero

/-- Control family (R166-R168, R176-R195; LAUNCH, QSIG and TRIGARM R131, R132). -/
def shapeControl (op : Nat) (f : Fields) : Option Shape :=
  let s0 := sb f 7 0 == 0
  match op with
  | 0x000 => some { shape0 0 with subOk := s0 }
  | 0x001 => some { shape0 1 with iop := true, subOk := s0, b := dispRole f, c := dispRole f }
  | 0x002 => some { shape0 1 with subOk := f.sub != 0xFF, a := rd 64 }
  | 0x003 => some { shape0 1 with iop := true, subOk := s0, d := wr 64, lat := 3, b := dispRole f, c := dispRole f }
  | 0x004 => some { shape0 1 with subOk := f.sub != 0xFF, a := rd 64, d := wr 64, lat := 3 }
  | 0x005 => some { shape0 0 with subOk := s0, a := rd 64 }
  | 0x006 => some { shape0 0 with subOk := s0, d := .low 8 }
  | 0x007 => some { shape0 0 with pilot := false, subOk := s0, d := .low 4 }
  | 0x008 => some { shape0 0 with iop := true, pilot := false, subOk := s0, d := .pred false true, a := .low 4 }
  | 0x009 => some { shape0 1 with
      subOk := decide (sb f 7 0 ≤ 3), d := (if f.sub = 0 then wr 64 else .low 4),
      a := (if f.sub = 0 then .low 4 else .zero), b := (if f.sub = 0 then .zero else .spec 64) }
  | 0x00A => some { shape0 0 with pilot := false, subOk := s0 }
  | 0x00B => some { shape0 0 with subOk := s0 }
  | 0x00C => some { shape0 0 with iop := true, subOk := s0 }
  | 0x00D => some { shape0 0 with iop := true, subOk := s0 }
  | 0x00E => some { shape0 0 with subOk := s0, d := .low 8 }
  | 0x00F => some { shape0 0 with subOk := s0 }
  | 0x010 => some { shape0 1 with strand := false, subOk := s0, a := rd 64, b := .spec 32 }
  | 0x011 => some { shape0 0 with
      strand := false, subOk := sb f 7 1 == 0, a := rd 64,
      d := if f.sub = 1 then .pred false true else .zero }
  | 0x012 => some { shape0 0 with
      pilot := false, subOk := sb f 7 1 == 0, d := wr 64,
      a := if f.sub = 1 then .pred false true else .zero }
  | 0x013 => some { shape0 0 with strand := false, subOk := s0 }
  | 0x014 => some { shape0 1 with strand := false, subOk := sb f 7 3 == 0, d := wr 64, a := rd 64, b := .spec 32 }
  | 0x015 => some { shape0 1 with strand := false, subOk := s0, a := rd 64, b := .spec 32 }
  | 0x016 => some { shape0 1 with strand := false, subOk := s0, d := wr 64, a := rd 64, b := .spec 32 }
  | _ => none

/-- Integer family (R199). -/
def shapeInt (op : Nat) (pilot : Bool) (f : Fields) : Option Shape :=
  let t := sb f 2 0
  let w := tyRegW t
  let hi0 := sb f 7 3 == 0
  let small := decide (t ≤ 3)
  let bin : Shape := { shape0 1 with subOk := hi0, d := wr w, a := rd w, b := .spec w, lat := 3 }
  let un : Shape := { shape0 0 with subOk := hi0, d := wr w, a := rd w, lat := 3 }
  match op with
  | 0x040 => some { bin with sat := true }
  | 0x041 => some { bin with sat := true }
  | 0x042 => some { bin with sat := true }
  | 0x043 => some { bin with subOk := hi0 && small }
  | 0x044 => some { bin with sat := true, c := .spec w }
  | 0x045 => some { bin with subOk := decide (sb f 7 0 ≤ 1), d := wr 64, a := rd 32, b := .spec 32, c := .spec 64 }
  | 0x046 => some { bin with sat := true, lat := 0 }
  | 0x047 => some { bin with lat := 0 }
  | 0x048 => some bin
  | 0x049 => some bin
  | 0x04A => some { un with subOk := hi0 && tyS t, sat := true }
  | 0x04B => some { un with subOk := hi0 && tyS t, sat := true }
  | 0x04C => some { bin with c := .spec w }
  | 0x04D | 0x04E =>
    some { bin with
      subOk := small && (sb f 7 6 != 0 || sb f 5 3 == 0),
      predR := if bit1 f.sub 6 then [sb f 5 3] else [], predW := if bit1 f.sub 7 then [sb f 5 3] else [] }
  | 0x04F => some { bin with c := .spec w }
  | 0x050 | 0x051 | 0x052 => some { bin with subOk := hi0 && small }
  | 0x053 => some { un with subOk := hi0 && small }
  | 0x054 =>
    let w := if pilot then 64 else 32
    some { bin with subOk := true, d := wr w, a := rd w, b := .spec w, c := .spec w }
  | 0x055 => some { bin with subOk := hi0 && small, b := .spec 32, sat := true }
  | 0x056 | 0x057 | 0x058 => some { bin with subOk := hi0 && small, b := .spec 32 }
  | 0x059 => some { bin with subOk := hi0 && small, c := .spec 32 }
  | 0x05A | 0x05B | 0x05C | 0x05D => some { un with subOk := hi0 && small }
  | 0x05E => some { bin with subOk := hi0 && small, b := .spec 32 }
  | 0x05F => some { bin with subOk := hi0 && small, b := .spec 32, c := .spec w }
  | 0x060 => some { bin with subOk := decide (sb f 7 0 ≤ 1), c := .spec 32 }
  | 0x061 => some { bin with subOk := decide (sb f 7 3 ≤ 5), d := .pred false true }
  | 0x062 => some { bin with subOk := decide (sb f 7 3 ≤ 5) }
  | 0x063 => some { bin with subOk := small && sb f 7 7 == 0, predR := [sb f 5 3] }
  | 0x064 =>
    let srcb := bit1 f.sub 3
    some { un with subOk := small && sb f 7 4 == 0, a := if srcb then .zero else rd w, b := if srcb then .spec w else .zero }
  | 0x065 => some { un with iop := true, short := 2, a := .zero }
  | 0x066 => some { un with short := 3, a := .zero, b := .spec w }
  | 0x067 =>
    some { shape0 1 with
      iop := true, subOk := decide (sb f 5 3 ≤ 4) && (bit1 f.sub 6 || sb f 2 0 == 0), d := wr 64,
      a := rd 64, b := .spec (if bit1 f.sub 7 then 64 else 32), lat := 3 }
  | 0x068 => some { un with short := 1, subOk := sb f 7 6 == 0, a := rd (tyRegW (sb f 5 3)), sat := true, lat := 5 }
  | _ => none

/-- Floating and narrow families (R217).
DEDUCED (log entry 22), unsafe. In pilot code NUNPK's C is an s-register specifier or zero; another one takes ILLOP 4 (R236).
DESIGN CHOICE (log entry 108), unsafe. -/
def shapeFloat (op : Nat) (pilot : Bool) (f : Fields) : Option Shape :=
  let c := sb f 1 0
  let w := fmtRegW (fmtOf c)
  let rnd0 := sb f 3 2 == 0
  let ftz0 := sb f 4 4 == 0
  let hi0 := sb f 7 5 == 0
  let lat := if c = 1 then 6 else 4
  let bin : Shape := { shape0 1 with d := wr w, a := rd w, b := .spec w, lat := lat }
  let un : Shape := { shape0 0 with d := wr w, a := rd w }
  let nar : Shape := { shape0 1 with d := wr 32, a := rd 32, b := .spec 32, c := .spec 32, lat := 5 }
  match op with
  | 0x0C0 | 0x0C1 | 0x0C2 => some { bin with sat := true }
  | 0x0C3 => some { bin with subOk := sb f 7 7 == 0, c := .spec w, sat := true }
  | 0x0C4 | 0x0C5 => some { bin with subOk := rnd0 && sb f 7 7 == 0 }
  | 0x0C6 => some { bin with subOk := rnd0, d := .pred false true }
  | 0x0C7 => some { bin with subOk := rnd0 }
  | 0x0C8 => some { un with short := 1, subOk := rnd0 && ftz0 && hi0, d := wr 32, lat := lat }
  | 0x0C9 => some { un with subOk := hi0, sat := true }
  | 0x0CA => some { un with subOk := rnd0 && hi0 }
  | 0x0CB => some { un with subOk := hi0 }
  | 0x0CC => some { bin with subOk := hi0, sat := true, lat := 0 }
  | 0x0CD => some { un with subOk := rnd0 && hi0 && c != 1, sat := true }
  | 0x0CE | 0x0CF | 0x0D0 | 0x0D1 => some { un with subOk := rnd0 && hi0 && c != 1 }
  | 0x0D2 => some { un with subOk := sb f 7 6 == 0, lat := lat }
  | 0x0D3 => some { bin with subOk := hi0, b := .spec 32, sat := true }
  | 0x0D4 => some { un with short := 1, subOk := sb f 7 7 == 0, a := rd (fmtRegW (fmtOf (sb f 6 5))), sat := true, lat := 5 }
  | 0x0D5 => some { un with short := 1, d := wr (tyRegW (sb f 7 5)), sat := true, lat := 5 }
  | 0x0D6 => some { un with short := 1, subOk := ftz0, a := rd (tyRegW (sb f 7 5)), sat := true, lat := 5 }
  | 0x0D7 =>
    some { bin with
      subOk := decide (2 ≤ c) && sb f 7 7 == 0, d := wr 32, a := rd 32, b := .spec 32, c := .spec 32,
      sat := true, lat := 4 }
  | 0x0D8 => some { nar with subOk := sb f 7 6 != 3, sat := true }
  | 0x0D9 => some { nar with subOk := sb f 7 6 == 0, sat := true }
  | 0x0DA => some { nar with subOk := sb f 7 6 == 0 }
  | 0x0DB => some { nar with subOk := sb f 7 6 == 0, d := wr 64, c := .spec 64 }
  | 0x0DC =>
    let cls := fld f.c 9 8
    some { nar with
      subOk := sb f 7 6 == 0, a := rd 64, c := if pilot && f.c == 0 then .zero else .spec 64,
      fieldsOk := !pilot || f.c == 0 || cls == 1 || cls == 2 }
  | _ => none

/-- Types an operator of LRED and LSCAN accepts; an illegal operator is judged as `.add` (R55, R242, R246). -/
def redTypeOk (opr t : Nat) : Bool :=
  if opr = 6 ∨ opr = 7 then t == 1 || t == 5 || t == 7
  else if 8 ≤ opr ∧ opr ≤ 10 then t == 0
  else true

/-- Width of a value of LRED and LSCAN (R246). -/
def redW (f : Fields) : Nat :=
  let opr := fld f.c 3 0
  if 8 ≤ opr ∧ opr ≤ 10 then fmtRegW (fmtOf (fld f.c 7 6)) else tyRegW (sb f 2 0)

/-- Cross-lane family (R242). -/
def shapeLane (op : Nat) (f : Fields) : Option Shape :=
  let t := sb f 2 0
  let w := tyRegW t
  let segOk := decide (sb f 5 3 ≤ 5)
  let base : Shape := { shape0 1 with pilot := false, mods := false, subOk := segOk, d := wr w, a := rd w }
  match op with
  | 0x140 => some { base with b := .spec 32 }
  | 0x141 => some { base with subOk := segOk && t == 0 && sb f 7 7 == 0, d := wr 32, a := .pred true false }
  | 0x142 => some { base with subOk := segOk && t == 0 && sb f 7 6 != 3, d := .pred false true, a := .pred true false }
  | 0x143 => some { base with subOk := segOk && t == 0 && sb f 7 7 == 0, d := wr 32, a := .pred true false }
  | 0x144 =>
    let fval := bit1 f.sub 6
    some { base with
      subOk := segOk && sb f 7 7 == 0 && (!fval || decide (t ≤ 3)), d := wr 32,
      a := rd (if fval then fmtRegW (fmtOf t) else w) }
  | 0x145 | 0x146 =>
    let opr := fld f.c 3 0
    let idx := opr == 6 || opr == 7
    let w := redW f
    let optOk := if op = 0x145 then sb f 7 6 == 0 else sb f 7 7 == 0
    some { base with
      subOk := segOk && optOk && redTypeOk opr t, d := wr (if idx then 64 else w), a := rd w,
      b := if idx then .spec 32 else .zero, c := .own, sat := opr == 0,
      ctlOk := decide (opr ≤ 10) && fld f.c 9 8 == 0 && (fld f.c 7 6 == 0 || decide (8 ≤ opr)) &&
        (fld f.c 5 4 == 0 || opr == 8) }
  | 0x147 => some { base with subOk := segOk && sb f 7 6 == 0, b := .spec 32 }
  | 0x148 => some { base with c := .pred true false }
  | 0x149 => some { base with subOk := segOk && sb f 7 7 == 0 }
  | _ => none

/-- Legal memory control field (R35): allowed ORD codes, whether ATOP is 1-12 or 0, and the widest SCOPE. -/
def ctlLegal (c : BitVec 10) (ords : List Nat) (atop : Bool) (scope : Nat) : Bool :=
  ords.contains (fld c 4 3) && decide (fld c 2 0 ≤ scope) &&
    (if atop then decide (1 ≤ fld c 9 5 ∧ fld c 9 5 ≤ 12) else fld c 9 5 == 0)

/-- Sizes and SUB<6> of ATOM and RED (R297); an illegal ATOP is judged against the union of the rows. -/
def atomSubOk (f : Fields) : Bool :=
  let atop := fld f.c 9 5
  let size := sb f 5 3
  let bad := atop == 0 || decide (13 ≤ atop)
  let flt := bad || decide (10 ≤ atop)
  let b6 := bad || atop == 2 || atop == 3 || (flt && size == 1)
  sb f 7 7 == 0 && (size == 2 || size == 3 || (flt && size == 1)) && (b6 || sb f 6 6 == 0)

/-- Width in bits of a size code (R278). -/
def sizeW (c : Nat) : Nat := 8 * 2 ^ c

/-- Memory family and what follows it (R35, R276, R286, R288, R301, R314). -/
def shapeMem (op : Nat) (pilot : Bool) (f : Fields) : Option Shape :=
  let size := sb f 5 3
  let w := sizeW size
  let sxOk := sb f 7 7 == 0 && (sb f 6 6 == 0 || decide (size ≤ 1) || (size == 2 && pilot))
  let hi0 := sb f 7 6 == 0
  let plain := [0, 1, 2]
  let m : Shape := { shape0 0 with iop := true, a := rd 64, c := .own }
  match op with
  | 0x180 => some { m with subOk := decide (size ≤ 5) && sxOk, d := wr w, ctlOk := ctlLegal f.c plain false 6 }
  | 0x181 => some { m with subOk := decide (size ≤ 5) && hi0, d := rd w, ctlOk := ctlLegal f.c plain false 6 }
  | 0x182 => some { m with
      subOk := decide (size ≤ 5) && sxOk && sb f 2 0 == 0, a := rd 32, d := wr w,
      ctlOk := ctlLegal f.c plain false 1 }
  | 0x183 => some { m with
      subOk := decide (size ≤ 5) && hi0 && sb f 2 0 == 0, a := rd 32, d := rd w,
      ctlOk := ctlLegal f.c plain false 1 }
  | 0x184 =>
    let n := 2 ^ sb f 7 6
    some { m with strand := false, subOk := size == 3, d := wr (64 * n), ctlOk := ctlLegal f.c plain false 6 }
  | 0x185 =>
    let n := 2 ^ sb f 7 6
    some { m with strand := false, subOk := size == 3, d := rd (64 * n), ctlOk := ctlLegal f.c plain false 6 }
  | 0x186 => some { m with short := 1, subOk := decide (size ≤ 3) && hi0, d := wr w, ctlOk := ctlLegal f.c plain false 6 }
  | 0x187 => some { m with short := 1, subOk := decide (size ≤ 3) && hi0, d := rd w, ctlOk := ctlLegal f.c plain false 6 }
  | 0x188 => some { m with subOk := decide (size ≤ 5) && sb f 7 7 == 0, ctlOk := ctlLegal f.c [0] false 6 }
  | 0x189 => some { m with subOk := decide (size ≤ 5) && sb f 7 7 == 0, ctlOk := ctlLegal f.c [0] false 6 }
  | 0x18A => some { m with
      short := 1, subOk := atomSubOk f, d := wr w, b := .spec w,
      ctlOk := ctlLegal f.c [1, 2, 3] true 6 }
  | 0x18B => some { m with short := 1, subOk := atomSubOk f, b := .spec w, ctlOk := ctlLegal f.c [1, 2] true 6 }
  | 0x18C => some { m with
      short := 1, subOk := (size == 2 || size == 3) && hi0, d := rdwr w, b := .spec w,
      ctlOk := ctlLegal f.c [1, 2, 3] false 6 }
  | 0x18D => some { m with
      short := 1, subOk := size == 4 && hi0, d := rdwr w, b := .spec w,
      ctlOk := ctlLegal f.c [1, 2, 3] false 6 }
  | 0x18E => some { m with
      short := 1, subOk := size == 2 || size == 3, d := wr w, b := .spec w,
      ctlOk := ctlLegal f.c [1, 2] false 6 }
  | 0x18F => some { shape0 1 with
      mods := false, subOk := f.sub == 0, c := .own,
      ctlOk := fld f.c 9 5 == 0 && fld f.c 2 0 != 7 }
  | 0x190 => some { shape0 1 with iop := true, subOk := f.sub == 0, d := wr 32, a := rd 32, b := .spec 32 }
  | 0x191 => some { shape0 1 with iop := true, subOk := f.sub == 0, d := wr 64, a := rd 32, b := .spec 32 }
  | 0x192 => some { shape0 1 with strand := false, subOk := decide (sb f 7 0 ≤ 2), d := wr 32, b := .spec 32 }
  | 0x193 =>
    let mode := sb f 1 0
    some { shape0 1 with
      priv := true, subOk := mode != 3 && sb f 7 5 == 0 && (mode != 2 || sb f 4 2 == 0),
      a := if mode = 2 then .zero else rd 64, b := if mode = 1 then .spec 32 else .zero }
  | _ => none

/-- Barriers, semaphores and capsules (R331, R338, R354). -/
def shapeSync (op : Nat) (f : Fields) : Option Shape :=
  let lowN := sb f 7 3 == 0
  let n := sb f 2 0
  let m := sb f 5 3
  let hi0 := sb f 7 6 == 0
  let bar : Shape := { shape0 1 with mods := false, b := .spec 64 }
  let sem : Shape := { shape0 1 with b := .spec 64, c := .spec 64 }
  let cap : Shape := { shape0 1 with pilot := false, mods := false }
  match op with
  | 0x1C0 => some { bar with subOk := f.sub == 0, d := wr 32, c := .spec 64 }
  | 0x1C1 => some { bar with subOk := lowN, d := wr 32, predW := [n] }
  | 0x1C2 => some { bar with subOk := lowN, a := rd 32, predW := [n] }
  | 0x1C3 => some { bar with subOk := lowN, a := rd 32, predW := [n] }
  | 0x1C4 => some { bar with subOk := lowN, predW := [n] }
  | 0x1C5 => some { sem with subOk := sb f 7 7 == 0 && decide (2 ≤ m ∧ m ≤ 6), d := .pred false true }
  | 0x1C6 => some { sem with subOk := hi0 && decide (2 ≤ m ∧ m ≤ 6) }
  | 0x1C8 => some { cap with subOk := hi0 && decide (m ≤ 5), d := .block 16 2 true false, a := rd 64, b := .spec 64,
                             limitOk := decide (f.d.toNat ≤ 238), predW := [m, m + 1],
                             predR := (List.range 7).filter fun k => k != m && k != m + 1 }
  | 0x1C9 => some { cap with subOk := hi0 && n == 0, predW := [m],
                             capR := (List.range 8).map RegId.x ++ ((List.range 7).filter (· != m)).map RegId.p }
  | 0x1CA => some { cap with subOk := hi0 && n == 0 && decide (m ≤ 5), d := wr 64, predW := [m, m + 1], ownV := true, capR := [.x 0] }
  | 0x1CB => some { cap with subOk := hi0, a := rd 64, b := .own, c := .own, predW := m :: (List.range 7).filter (· != m) }
  | 0x1CC => some { cap with subOk := hi0, d := wr 64, a := rd 64, predW := [m] }
  | _ => none

/-- Engines, scan, carries and collectives (R371, R386, R408, R424). -/
def shapeEngine (op : Nat) (f : Fields) : Option Shape :=
  let s0 := f.sub == 0
  let nbN := sb f 7 4 == 0
  let e : Shape := { shape0 1 with strand := false, mods := false, d := wr 64 }
  match op with
  | 0x1E0 | 0x1E1 | 0x1E8 | 0x1E9 | 0x1EB => some { e with subOk := s0, a := .block 8 8 true false }
  | 0x1E2 | 0x1E5 | 0x1E6 => some { e with subOk := s0, a := .block 4 4 true false }
  | 0x1E3 => some { e with subOk := decide (sb f 7 0 ≤ 1), b := .spec 32 }
  | 0x1E4 => some { e with subOk := s0, d := .zero, b := .spec 32 }
  | 0x1E7 => some { e with subOk := decide (sb f 7 0 ≤ 2), a := (if f.sub = 0 then rd 64 else .zero), b := .spec 32 }
  | 0x1EA => some { e with subOk := s0, b := .spec 32 }
  | 0x1EC => some { e with subOk := nbN, d := .zero, a := .block 8 8 true false, predW := [sb f 3 1] }
  | 0x1ED => some { e with subOk := nbN, d := .block 8 8 false true, predW := [sb f 3 1] }
  | 0x1EE => some { e with subOk := s0 }
  | 0x1EF => some { e with subOk := nbN, a := rd 64, predW := if bit1 f.sub 0 then [sb f 3 1] else [] }
  | _ => none

/-- Address of a system register (R115). -/
def srnOf (f : Fields) : Nat := (f.c.toNat % 4) * 1024 + f.b.toNat

/-- System registers that need the privilege (R113, R116, and the tables that add to R113). -/
def sysPriv (n : Nat) : Bool :=
  n == 0x200 || decide (0x208 ≤ n ∧ n ≤ 0x224) || n == 0x308 || decide (0x400 ≤ n ∧ n ≤ 0x408) ||
    decide (0x503 ≤ n ∧ n ≤ 0x505)

/-- Special sources that only strand code may read (R34). -/
def strandOnly (n : Nat) : Bool := decide (n ≤ 2) || n == 0x0F || n == 0x17 || n == 0x18

/-- System family (R115, R458, R468, R480, R481).
DEDUCED (log entry 21), unsafe. DEDUCED (log entry 24), unsafe. -/
def shapeSystem (op : Nat) (pilot : Bool) (f : Fields) : Option Shape :=
  let w := if pilot || bit1 f.sub 0 then 64 else 32
  let sys : Shape := { shape0 1 with subOk := f.sub == 0 || (f.sub == 1 && !pilot), b := .own, c := .own,
                                     fieldsOk := fld f.c 9 2 == 0, priv := sysPriv (srnOf f) }
  match op with
  | 0x1F0 => some { sys with d := wr w }
  | 0x1F1 => some { sys with a := rd w }
  | 0x1F2 => some { shape0 1 with mods := false, subOk := sb f 1 0 != 3, a := rd 32, b := .spec 64 }
  | 0x1F3 => some { shape0 0 with mods := false, noMod := true, subOk := decide (sb f 7 0 ≤ 1), d := wr 64 }
  | 0x1F4 => some { shape0 1 with mods := false, subOk := f.sub == 0, d := wr 64, b := .spec 32 }
  | 0x1F5 => some { shape0 1 with priv := true, subOk := decide (sb f 7 0 ≤ 6), d := wr 32, b := .spec 32, c := .spec 64 }
  | _ => none

/-- The shape of an opcode; none where it is unassigned (R52, R53). -/
def shapeOf (op : Nat) (pilot : Bool) (f : Fields) : Option Shape :=
  if op < 0x017 then shapeControl op f
  else if op < 0x069 then shapeInt op pilot f
  else if op < 0x0DD then shapeFloat op pilot f
  else if op < 0x14A then shapeLane op f
  else if op < 0x194 then shapeMem op pilot f
  else if op < 0x1CD then shapeSync op f
  else if op < 0x1F0 then shapeEngine op f
  else shapeSystem op pilot f

end Sys2Proof.Machine
end

