-- ==== Sys2Proof/Machine/Checks.lean ====
section
/-! DEFINITION. The decode checks in their order, and the registers an instruction reads and writes (R30-R40, R49,
R52-R56). -/

namespace Sys2Proof.Machine

open Sys2Proof

/-- Instructions whose registers are x-registers in capsule mode (R351). -/
def capsuleX (op : Nat) : Bool := decide (0x040 ≤ op ∧ op ≤ 0x068) || op == 0x180 || op == 0x181

/-- Instructions that may execute in capsule mode (R351). -/
def capsuleOp (op : Nat) : Bool := op == 0x000 || op == 0x001 || capsuleX op || op == 0x1C9 || op == 0x1CA

/-- A D or A field under its role (R28): the reserved part is zero. -/
def fieldOk8 (r : Role) (x : BitVec 8) : Bool :=
  match r with
  | .zero => x == 0
  | .pred _ _ => fld x 7 3 == 0
  | .low n => decide (x.toNat < 2 ^ n)
  | _ => true

/-- A B or C field under its role. -/
def fieldOk10 (r : Role) (x : BitVec 10) : Bool :=
  match r with
  | .zero => x == 0
  | .pred _ _ => fld x 9 3 == 0
  | _ => true

def isSpec (r : Role) : Bool := match r with | .spec _ => true | _ => false
def isReg (r : Role) : Bool := match r with | .reg _ _ _ => true | .block _ _ _ _ => true | _ => false

/-- A specifier names an assigned special source, or none (R34). -/
def specialOk (r : Role) (x : BitVec 10) : Bool :=
  !isSpec r || x == 0x3FF || specClass x != 2 || decide (fld x 6 0 ≤ 0x19)

/-- A lane modifier is legal in itself (R40). -/
def laneModOk (m : Nat) : Bool :=
  let cls := m / 2 ^ 10
  let seg := (m / 2 ^ 7) % 8
  let dist := m % 2 ^ 7
  if cls = 0 then m == 0
  else decide (1 ≤ seg ∧ seg ≤ 5 ∧ dist < 2 ^ seg) && (cls == 3 || decide (1 ≤ dist))

/-- The modifier word of an M-opcode is legal (R38, R40). DH or AH set in pilot code where D or A is no register operand traps: R38
says only that they are legal in pilot code alone.
DESIGN CHOICE (log entry 92), unsafe. -/
def modOk (sh : Shape) (pilot : Bool) (f : Fields) : Bool :=
  let ma := modA f
  let mb := modB f
  let aSrc := match sh.a with | .reg _ r _ => r | .block _ _ r _ => r | _ => false
  (!bit1 f.w2 24 || (pilot && isReg sh.d)) && (!bit1 f.w2 25 || (pilot && isReg sh.a)) &&
  (ma == 0 || (!pilot && sh.mods && aSrc && laneModOk ma)) &&
  (mb == 0 || (!pilot && sh.mods && isSpec sh.b && specClass f.b == 0 && laneModOk mb)) &&
  (!ovcBit f || satBit f) && (!satBit f || sh.sat) && (!sh.noMod || f.w2 == 0)

/-- A specifier that pilot code may not use (R32, R34). -/
def strandSpec (r : Role) (x : BitVec 10) : Bool :=
  isSpec r && x != 0x3FF && (specClass x == 0 || (specClass x == 2 && strandOnly (fld x 6 0)))

/-- Alignment of a register number in D or A (R28, R279, R371). -/
def regAligned (pilot : Bool) (r : Role) (n : Nat) : Bool :=
  match r with
  | .reg w _ _ => n % max 1 (w / (if pilot then 64 else 32)) == 0
  | .block _ al _ _ => n % al == 0
  | _ => true

/-- Alignment of the registers a specifier names.
DEDUCED (log entry 20), unsafe. -/
def specAligned (r : Role) (x : BitVec 10) : Bool :=
  match r with
  | .spec w =>
    if x = 0x3FF then true
    else if specClass x = 0 then fld x 7 0 % max 1 (w / 32) == 0
    else if specClass x = 1 then specS x % max 1 (w / 64) == 0
    else true
  | _ => true

/-- Register numbers of D and A: an I-opcode has no DH and AH (R37, R38). -/
def numD (sh : Shape) (f : Fields) : Nat := if sh.iop then f.d.toNat else nD f
def numA (sh : Shape) (f : Fields) : Nat := if sh.iop then f.a.toNat else nA f

/-- The decode checks (R55): trap cause and subcode of the first that fails. `cap`: the strand is in capsule mode, whose
x-registers have no pairs (R351). -/
def check (op : Nat) (pilot priv cap : Bool) (f : Fields) : Option (Nat × Nat) :=
  match shapeOf op pilot f with
  | none => some (causeIllop, 1)
  | some sh =>
    let lit := (isSpec sh.b && f.b == 0x3FF) || (isSpec sh.c && f.c == 0x3FF)
    if f.x ≠ pilot then some (causePriv, 1)
    else if pilot = false ∧ sh.strand = false then some (causePriv, 2)
    else if pilot = true ∧ sh.pilot = false then some (causePriv, 3)
    else if f.len.toNat < sh.short then some (causeIllop, 2)
    else if sh.subOk = false then some (causeIllop, 3)
    else if fieldOk8 sh.d f.d = false ∨ fieldOk8 sh.a f.a = false ∨ fieldOk10 sh.b f.b = false ∨
      fieldOk10 sh.c f.c = false ∨ sh.fieldsOk = false ∨ (sh.iop = false ∧ fld f.w2 31 28 ≠ 0) then some (causeIllop, 4)
    else if lit ≠ (f.len == 3) then some (causeIllop, 5)
    else if (f.neg = true ∧ f.pnum = 7) ∨ specialOk sh.b f.b = false ∨ specialOk sh.c f.c = false then some (causeIllop, 6)
    else if sh.iop = false ∧ modOk sh pilot f = false then some (causeIllop, 7)
    else if sh.ctlOk = false then some (causeIllop, 8)
    else if pilot = true ∧ (strandSpec sh.b f.b = true ∨ strandSpec sh.c f.c = true ∨
      (op = 0x1F0 ∧ strandOnly (srnOf f) = true)) then some (causePriv, 4)
    else if sh.priv = true ∧ priv = false then some (causePriv, 5)
    else if sh.limitOk = false ∨ (¬(cap = true ∧ capsuleX op = true) ∧
      (regAligned pilot sh.d (numD sh f) = false ∨ regAligned pilot sh.a (numA sh f) = false ∨
       specAligned sh.b f.b = false ∨ specAligned sh.c f.c = false)) then some (causeIllop, 9)
    else none

/-- TINFO of a decode trap (R55). -/
def decodeInfo (op sub : Nat) : Nat := op * 256 + sub

/-- n registers from number k: v-registers of a strand, or s-registers. -/
def vRun (k n : Nat) : List RegId := ((List.range n).map fun i => RegId.v (k + i)).filter fun r =>
  match r with | .v m => decide (m < 255) | _ => true
def sRun (k n : Nat) : List RegId := (List.range n).map fun i => .s (k + i)

def regRun (pilot : Bool) (k w : Nat) : List RegId := if pilot then sRun k (ceilDiv w 64) else vRun k (ceilDiv w 32)

/-- Registers of a D or A field that are read, or written. -/
def fieldRegs (pilot : Bool) (r : Role) (x : BitVec 8) (n : Nat) (wr : Bool) : List RegId :=
  match r with
  | .reg w rd' wr' => if (if wr then wr' else rd') then regRun pilot n w else []
  | .block k _ rd' wr' => if (if wr then wr' else rd') then (if pilot then sRun n k else vRun n k) else []
  | .pred rd' wr' => if (if wr then wr' else rd') && decide (fld x 2 0 < 7) then [.p (fld x 2 0)] else []
  | _ => []

/-- Registers of a specifier, for the executor that owns them: a strand reads its own v-registers, a pilot the
s-registers (R49, R151). -/
def specRegs (pilot : Bool) (r : Role) (x : BitVec 10) : List RegId :=
  match r with
  | .spec w =>
    if x = 0x3FF then []
    else if specClass x = 0 then vRun (fld x 7 0) (ceilDiv w 32)
    else if specClass x = 1 then (if pilot then sRun (specS x) (ceilDiv w 64) else [])
    else []
  | .pred true _ => if fld x 2 0 < 7 then [.p (fld x 2 0)] else []
  | _ => []

/-- v-registers of an instruction that executes in capsule mode name x-registers, one at every type (R351); those of CAPCLOSE stay
v-registers (R354). -/
def asX (cap : Bool) (l : List RegId) : List RegId :=
  if cap then ((l.map fun r => match r with | .v n => .x (n % 8) | r => r).take 1) else l

/-- The registers an instruction reads, the guard among them (R49). -/
def sources (pilot cap : Bool) (sh : Shape) (f : Fields) : List RegId :=
  asX cap (fieldRegs pilot sh.d f.d (numD sh f) false) ++ asX cap (fieldRegs pilot sh.a f.a (numA sh f) false) ++
  asX cap (specRegs pilot sh.b f.b) ++ asX cap (specRegs pilot sh.c f.c) ++ (if cap then sh.capR else []) ++
  ((sh.predR.filter (· < 7)).map RegId.p) ++
  (if f.pnum = 7 then [] else [.p f.pnum.toNat])

/-- The registers an instruction writes. -/
def dests (pilot cap : Bool) (sh : Shape) (f : Fields) : List RegId :=
  let cap := cap && !sh.ownV
  asX cap (fieldRegs pilot sh.d f.d (numD sh f) true) ++ asX cap (fieldRegs pilot sh.a f.a (numA sh f) true) ++
  ((sh.predW.filter (· < 7)).map RegId.p)

/-- A register in the form of TINFO (R49). -/
def regInfo (pilot : Bool) (r : RegId) : Nat :=
  match r with
  | .v n => n
  | .s n => if n < 256 then 0x100 + n else 0x200 + (n - 256)
  | .p n => 0x300 + (if pilot then 0x68 else 0x60) + n
  | .x n => n

/-- The scoreboard's finding: the register and whether it is a write breach (R49). RELEASE and DQPUSH are exempt for
the s-registers they read (R47). Where several registers breach at once, the first is reported: those read, in the order D, A, B, C, the
predicates that SUB names and the guard, then those written.
DESIGN CHOICE (log entry 92), unsafe. -/
def scoreboard (op : Nat) (pilot cap : Bool) (sh : Shape) (f : Fields) (t : Thread) : Option (RegId × Bool) :=
  let exempt (r : RegId) : Bool := (op == 0x010 || op == 0x011) && (match r with | .s _ => true | _ => false)
  match (sources pilot cap sh f).find? fun r => !exempt r && (openFixed t.fixed r).isSome with
  | some r => some (r, false)
  | none =>
    match (dests pilot cap sh f).find? fun r =>
        match openFixed t.fixed r with | some e => decide (max sh.lat 1 ≤ e.left) | none => false with
    | some r => some (r, true)
    | none => none

/-- The pending interlocked results of registers that the instruction reads or writes (R46). -/
def blocking (pilot cap : Bool) (sh : Shape) (f : Fields) (t : Thread) (pilotPend : List Pend) : List Pend :=
  let busy (l : List RegId) (p : Pend) : Bool := p.dst.any fun e => l.contains e.1
  let specSregs (r : Role) (x : BitVec 10) : List RegId :=
    match r with | .spec w => if x ≠ 0x3FF ∧ specClass x = 1 then sRun (specS x) (ceilDiv w 64) else [] | _ => []
  t.pend.filter (busy (sources pilot cap sh f ++ dests pilot cap sh f)) ++
    (if pilot then [] else pilotPend.filter (busy (specSregs sh.b f.b ++ specSregs sh.c f.c)))

end Sys2Proof.Machine
end

