-- ==== Sys2Proof/Decode.lean ====
section
/-! DEFINITION. Decoding the words of an instruction, and encoding one (R23-R39, R43, R52-R56). -/

namespace Sys2Proof

open Sys2Proof.Machine

/-- Why words do not decode. -/
inductive Reject where
  /-- the words end before the instruction does -/
  | truncated
  /-- a decode check fails: trap cause and subcode (R55) -/
  | trap (cause sub : Nat)
deriving DecidableEq, Repr

/-- Word 1 of an encoding that has none (R43). -/
def absentWord1 : W32 := 0x00700000

/-- The fields of the words of an instruction (R23, R26, R29, R33, R37, R43). -/
def splitWords (w0 w1 w2 w3 w4 : W32) : BitVec 9 × Fields :=
  (w0.extractLsb' 6 9,
   { x := w0.getLsbD 31, a := w0.extractLsb' 23 8, d := w0.extractLsb' 15 8, yld := w0.getLsbD 5,
     stall := w0.extractLsb' 2 3, len := w0.extractLsb' 0 2, sub := w1.extractLsb' 24 8, neg := w1.getLsbD 23,
     pnum := w1.extractLsb' 20 3, c := w1.extractLsb' 10 10, b := w1.extractLsb' 0 10, w2 := w2, lit := w4 ++ w3 })

/-- Opcode and fields of the instruction at the head of a word sequence. -/
def splitRaw (ws : List W32) : Option (BitVec 9 × Fields) :=
  match ws with
  | [] => none
  | w0 :: r =>
    let n := lenWords (w0.extractLsb' 0 2)
    if r.length + 1 < n then none
    else some (splitWords w0 (if 2 ≤ n then r.getD 0 0 else absentWord1) (if 3 ≤ n then r.getD 1 0 else 0)
      (if n = 5 then r.getD 2 0 else 0) (if n = 5 then r.getD 3 0 else 0))

/-- The words of an instruction with every word present. -/
def packWords (op : BitVec 9) (f : Fields) : List W32 :=
  [BitVec.ofBool f.x ++ f.a ++ f.d ++ op ++ BitVec.ofBool f.yld ++ f.stall ++ f.len,
   f.sub ++ BitVec.ofBool f.neg ++ f.pnum ++ f.c ++ f.b, f.w2, f.lit.extractLsb' 0 32, f.lit.extractLsb' 32 32]

/-- The words of an instruction of its length (R23). -/
def encodeRaw (op : BitVec 9) (f : Fields) : List W32 := (packWords op f).take (lenWords f.len)

/-- Constructors of the control opcodes, by opcode and SUB (R52). -/
def opTableControl : List (Nat × (Fields → Bool) × (Fields → Instr)) :=
  [(0x000, (fun _ => true), .nop),
   (0x001, (fun _ => true), .bra),
   (0x002, (fun _ => true), .brx),
   (0x003, (fun _ => true), .call),
   (0x004, (fun _ => true), .callx),
   (0x005, (fun _ => true), .ret),
   (0x006, (fun _ => true), .land),
   (0x007, (fun _ => true), .join),
   (0x008, (fun _ => true), .waitj),
   (0x009, (fun f => f.sub == 0), .jmaskGet),
   (0x009, (fun f => f.sub == 1), .jmaskSet),
   (0x009, (fun f => f.sub == 2), .jmaskOr),
   (0x009, (fun f => f.sub == 3), .jmaskAndn),
   (0x00A, (fun _ => true), .exit),
   (0x00B, (fun _ => true), .yield),
   (0x00C, (fun _ => true), .nap),
   (0x00D, (fun _ => true), .trap),
   (0x00E, (fun _ => true), .bkpt),
   (0x00F, (fun _ => true), .trapret),
   (0x010, (fun _ => true), .release),
   (0x011, (fun f => f.sub == 0), .dqpush),
   (0x011, (fun f => f.sub == 1), .dqpushNb),
   (0x012, (fun f => f.sub == 0), .dqpop),
   (0x012, (fun f => f.sub == 1), .dqpopNb),
   (0x013, (fun _ => true), .phalt),
   (0x014, (fun _ => true), .launch),
   (0x015, (fun _ => true), .qsig),
   (0x016, (fun _ => true), .trigarm)]

/-- Constructors of the int opcodes, by opcode and SUB (R52). -/
def opTableInt : List (Nat × (Fields → Bool) × (Fields → Instr)) :=
  [(0x040, (fun _ => true), .iadd),
   (0x041, (fun _ => true), .isub),
   (0x042, (fun _ => true), .imul),
   (0x043, (fun _ => true), .imulh),
   (0x044, (fun _ => true), .imad),
   (0x045, (fun _ => true), .imadw),
   (0x046, (fun _ => true), .idiv),
   (0x047, (fun _ => true), .irem),
   (0x048, (fun _ => true), .imin),
   (0x049, (fun _ => true), .imax),
   (0x04A, (fun _ => true), .iabs),
   (0x04B, (fun _ => true), .ineg),
   (0x04C, (fun _ => true), .isad),
   (0x04D, (fun _ => true), .iadc),
   (0x04E, (fun _ => true), .isbc),
   (0x04F, (fun _ => true), .clamp),
   (0x050, (fun _ => true), .iand),
   (0x051, (fun _ => true), .ior),
   (0x052, (fun _ => true), .ixor),
   (0x053, (fun _ => true), .inot),
   (0x054, (fun _ => true), .lop3),
   (0x055, (fun _ => true), .shl),
   (0x056, (fun _ => true), .shr),
   (0x057, (fun _ => true), .sar),
   (0x058, (fun _ => true), .rol),
   (0x059, (fun _ => true), .fshr),
   (0x05A, (fun _ => true), .popc),
   (0x05B, (fun _ => true), .clz),
   (0x05C, (fun _ => true), .ctz),
   (0x05D, (fun _ => true), .brev),
   (0x05E, (fun _ => true), .bfx),
   (0x05F, (fun _ => true), .bfi),
   (0x060, (fun _ => true), .prmb),
   (0x061, (fun _ => true), .icmp),
   (0x062, (fun _ => true), .iset),
   (0x063, (fun _ => true), .sel),
   (0x064, (fun _ => true), .mov),
   (0x065, (fun _ => true), .movi),
   (0x066, (fun _ => true), .movl),
   (0x067, (fun _ => true), .lea),
   (0x068, (fun _ => true), .cvti)]

/-- Constructors of the float opcodes, by opcode and SUB (R52). -/
def opTableFloat : List (Nat × (Fields → Bool) × (Fields → Instr)) :=
  [(0x0C0, (fun _ => true), .fadd),
   (0x0C1, (fun _ => true), .fsub),
   (0x0C2, (fun _ => true), .fmul),
   (0x0C3, (fun _ => true), .ffma),
   (0x0C4, (fun _ => true), .fmin),
   (0x0C5, (fun _ => true), .fmax),
   (0x0C6, (fun _ => true), .fcmp),
   (0x0C7, (fun _ => true), .fset),
   (0x0C8, (fun _ => true), .fclass),
   (0x0C9, (fun _ => true), .frcp),
   (0x0CA, (fun _ => true), .frsq),
   (0x0CB, (fun _ => true), .fsqrt),
   (0x0CC, (fun _ => true), .fdiv),
   (0x0CD, (fun _ => true), .fexp2),
   (0x0CE, (fun _ => true), .flog2),
   (0x0CF, (fun _ => true), .fsin),
   (0x0D0, (fun _ => true), .fcos),
   (0x0D1, (fun _ => true), .ftanh),
   (0x0D2, (fun _ => true), .frnd),
   (0x0D3, (fun _ => true), .fscale),
   (0x0D4, (fun _ => true), .fcvt),
   (0x0D5, (fun _ => true), .fcvti),
   (0x0D6, (fun _ => true), .icvtf),
   (0x0D7, (fun _ => true), .fdot2),
   (0x0D8, (fun _ => true), .ncvt),
   (0x0D9, (fun _ => true), .nexp),
   (0x0DA, (fun _ => true), .bscale),
   (0x0DB, (fun _ => true), .npack),
   (0x0DC, (fun _ => true), .nunpk)]

/-- Constructors of the lane opcodes, by opcode and SUB (R52). -/
def opTableLane : List (Nat × (Fields → Bool) × (Fields → Instr)) :=
  [(0x140, (fun _ => true), .lmov),
   (0x141, (fun _ => true), .ballot),
   (0x142, (fun _ => true), .vote),
   (0x143, (fun _ => true), .lrank),
   (0x144, (fun _ => true), .laneMatch),
   (0x145, (fun _ => true), .lred),
   (0x146, (fun _ => true), .lscan),
   (0x147, (fun _ => true), .lbcast),
   (0x148, (fun _ => true), .lcomp),
   (0x149, (fun _ => true), .lfirst)]

/-- Constructors of the mem opcodes, by opcode and SUB (R52). -/
def opTableMem : List (Nat × (Fields → Bool) × (Fields → Instr)) :=
  [(0x180, (fun _ => true), .ld),
   (0x181, (fun _ => true), .st),
   (0x182, (fun _ => true), .lds),
   (0x183, (fun _ => true), .sts),
   (0x184, (fun _ => true), .ldu),
   (0x185, (fun _ => true), .stu),
   (0x186, (fun _ => true), .lde),
   (0x187, (fun _ => true), .stc),
   (0x188, (fun _ => true), .pref),
   (0x189, (fun _ => true), .cflush),
   (0x18A, (fun _ => true), .atom),
   (0x18B, (fun _ => true), .red),
   (0x18C, (fun _ => true), .cas),
   (0x18D, (fun _ => true), .cas2),
   (0x18E, (fun _ => true), .waita),
   (0x18F, (fun _ => true), .fence),
   (0x190, (fun _ => true), .armw),
   (0x191, (fun _ => true), .waitw),
   (0x192, (fun _ => true), .banksw),
   (0x193, (fun f => fld f.sub 1 0 == 0), .tlbinvPage),
   (0x193, (fun f => fld f.sub 1 0 == 1), .tlbinvRange),
   (0x193, (fun f => fld f.sub 1 0 == 2), .tlbinvCtx)]

/-- Constructors of the sync opcodes, by opcode and SUB (R52). -/
def opTableSync : List (Nat × (Fields → Bool) × (Fields → Instr)) :=
  [(0x1C0, (fun _ => true), .barinit),
   (0x1C1, (fun _ => true), .bara),
   (0x1C2, (fun _ => true), .barw),
   (0x1C3, (fun _ => true), .bart),
   (0x1C4, (fun _ => true), .bardrop),
   (0x1C5, (fun _ => true), .semp),
   (0x1C6, (fun _ => true), .semv),
   (0x1C8, (fun _ => true), .capopen),
   (0x1C9, (fun _ => true), .capstep),
   (0x1CA, (fun _ => true), .capclose),
   (0x1CB, (fun _ => true), .capadopt),
   (0x1CC, (fun _ => true), .capres)]

/-- Constructors of the engine opcodes, by opcode and SUB (R52). -/
def opTableEngine : List (Nat × (Fields → Bool) × (Fields → Instr)) :=
  [(0x1E0, (fun _ => true), .mma),
   (0x1E1, (fun _ => true), .mmas),
   (0x1E2, (fun _ => true), .mspz),
   (0x1E3, (fun _ => true), .accalloc),
   (0x1E4, (fun _ => true), .accfree),
   (0x1E5, (fun _ => true), .accst),
   (0x1E6, (fun _ => true), .accld),
   (0x1E7, (fun f => f.sub == 0), .chncfgSet),
   (0x1E7, (fun f => f.sub == 1), .chncfgReset),
   (0x1E7, (fun f => f.sub == 2), .chncfgGet),
   (0x1E8, (fun _ => true), .tcopy),
   (0x1E9, (fun _ => true), .collopen),
   (0x1EA, (fun _ => true), .collclose),
   (0x1EB, (fun _ => true), .scan),
   (0x1EC, (fun _ => true), .carryput),
   (0x1ED, (fun _ => true), .carryget),
   (0x1EE, (fun _ => true), .carrybar),
   (0x1EF, (fun _ => true), .engwait)]

/-- Constructors of the system opcodes, by opcode and SUB (R52). -/
def opTableSystem : List (Nat × (Fields → Bool) × (Fields → Instr)) :=
  [(0x1F0, (fun _ => true), .sysrd),
   (0x1F1, (fun _ => true), .syswr),
   (0x1F2, (fun _ => true), .logev),
   (0x1F3, (fun f => f.sub == 0), .chron),
   (0x1F3, (fun f => f.sub == 1), .chronQ),
   (0x1F4, (fun _ => true), .cntrd),
   (0x1F5, (fun f => f.sub == 0), .cntctlOpen),
   (0x1F5, (fun f => f.sub == 1), .cntctlClose),
   (0x1F5, (fun f => f.sub == 2), .cntctlSel),
   (0x1F5, (fun f => f.sub == 3), .cntctlRun),
   (0x1F5, (fun f => f.sub == 4), .cntctlClear),
   (0x1F5, (fun f => f.sub == 5), .cntctlOvfen),
   (0x1F5, (fun f => f.sub == 6), .cntctlPlan)]

/-- Every assigned opcode (R52, R53). -/
def opTable : List (Nat × (Fields → Bool) × (Fields → Instr)) :=
  opTableControl ++ opTableInt ++ opTableFloat ++ opTableLane ++ opTableMem ++ opTableSync ++ opTableEngine ++ opTableSystem

/-- The instruction of an opcode and its fields. -/
def ofOp (op : Nat) (f : Fields) : Option Instr :=
  (opTable.find? fun e => e.1 == op && e.2.1 f).map fun e => e.2.2 f

/-- Decodes the words at the head of a sequence for an executor: pilot code or strand code, with the context's
privilege or not, in capsule mode or not (R25, R55). -/
def decodeWords (pilot priv cap : Bool) (ws : List W32) : Except Reject Instr :=
  match splitRaw ws with
  | none => .error .truncated
  | some (op, f) =>
    match check op.toNat pilot priv cap f with
    | some (cause, sub) => .error (.trap cause sub)
    | none =>
      match ofOp op.toNat f with
      | some i => .ok i
      | none => .error (.trap causeIllop 1)

/-- Words of bytes in increasing address, each little-endian (R23). -/
def wordsOf (bs : List Byte) : List W32 :=
  match bs with
  | b0 :: b1 :: b2 :: b3 :: r => (b3 ++ b2 ++ b1 ++ b0) :: wordsOf r
  | _ => []

/-- Decodes the bytes at the head of a sequence. -/
def decode (pilot priv cap : Bool) (bs : List Byte) : Except Reject Instr := decodeWords pilot priv cap (wordsOf bs)

/-- Bytes of words, each little-endian (R23). -/
def bytesOf (ws : List W32) : List Byte :=
  ws.flatMap fun w => [w.extractLsb' 0 8, w.extractLsb' 8 8, w.extractLsb' 16 8, w.extractLsb' 24 8]

/-- The decoder on the bits of a table row: the executor is the one that X names, with the privilege.
DESIGN CHOICE (log entry 90), safe. -/
def decodeTableWord (nbits w : Nat) : Option Instr :=
  let bs := toBytes (nbits / 8) w ++ toBytes 20 0
  match decode (w / 2 ^ 31 % 2 == 1) true false bs with
  | .ok i => some i
  | .error _ => none

/-- Opcode and fields of a program instruction; none for an event, which has no encoding. -/
def Instr.enc (i : Instr) : Option (Nat × Fields) :=
  match i with
  | .nop f => some (0x000, f)
  | .bra f => some (0x001, f)
  | .brx f => some (0x002, f)
  | .call f => some (0x003, f)
  | .callx f => some (0x004, f)
  | .ret f => some (0x005, f)
  | .land f => some (0x006, f)
  | .join f => some (0x007, f)
  | .waitj f => some (0x008, f)
  | .waitjExpiry _ _ _ => none
  | .jmaskGet f => some (0x009, f)
  | .jmaskSet f => some (0x009, f)
  | .jmaskOr f => some (0x009, f)
  | .jmaskAndn f => some (0x009, f)
  | .exit f => some (0x00A, f)
  | .yield f => some (0x00B, f)
  | .nap f => some (0x00C, f)
  | .napWake _ => none
  | .trap f => some (0x00D, f)
  | .bkpt f => some (0x00E, f)
  | .trapret f => some (0x00F, f)
  | .release f => some (0x010, f)
  | .dqpush f => some (0x011, f)
  | .dqpushNb f => some (0x011, f)
  | .dqpop f => some (0x012, f)
  | .dqpopNb f => some (0x012, f)
  | .phalt f => some (0x013, f)
  | .launch f => some (0x014, f)
  | .qsig f => some (0x015, f)
  | .trigarm f => some (0x016, f)
  | .iadd f => some (0x040, f)
  | .isub f => some (0x041, f)
  | .imul f => some (0x042, f)
  | .imulh f => some (0x043, f)
  | .imad f => some (0x044, f)
  | .imadw f => some (0x045, f)
  | .idiv f => some (0x046, f)
  | .irem f => some (0x047, f)
  | .imin f => some (0x048, f)
  | .imax f => some (0x049, f)
  | .iabs f => some (0x04A, f)
  | .ineg f => some (0x04B, f)
  | .isad f => some (0x04C, f)
  | .iadc f => some (0x04D, f)
  | .isbc f => some (0x04E, f)
  | .clamp f => some (0x04F, f)
  | .iand f => some (0x050, f)
  | .ior f => some (0x051, f)
  | .ixor f => some (0x052, f)
  | .inot f => some (0x053, f)
  | .lop3 f => some (0x054, f)
  | .shl f => some (0x055, f)
  | .shr f => some (0x056, f)
  | .sar f => some (0x057, f)
  | .rol f => some (0x058, f)
  | .fshr f => some (0x059, f)
  | .popc f => some (0x05A, f)
  | .clz f => some (0x05B, f)
  | .ctz f => some (0x05C, f)
  | .brev f => some (0x05D, f)
  | .bfx f => some (0x05E, f)
  | .bfi f => some (0x05F, f)
  | .prmb f => some (0x060, f)
  | .icmp f => some (0x061, f)
  | .iset f => some (0x062, f)
  | .sel f => some (0x063, f)
  | .mov f => some (0x064, f)
  | .movi f => some (0x065, f)
  | .movl f => some (0x066, f)
  | .lea f => some (0x067, f)
  | .cvti f => some (0x068, f)
  | .fadd f => some (0x0C0, f)
  | .fsub f => some (0x0C1, f)
  | .fmul f => some (0x0C2, f)
  | .ffma f => some (0x0C3, f)
  | .fmin f => some (0x0C4, f)
  | .fmax f => some (0x0C5, f)
  | .fcmp f => some (0x0C6, f)
  | .fset f => some (0x0C7, f)
  | .fclass f => some (0x0C8, f)
  | .frcp f => some (0x0C9, f)
  | .frsq f => some (0x0CA, f)
  | .fsqrt f => some (0x0CB, f)
  | .fdiv f => some (0x0CC, f)
  | .fexp2 f => some (0x0CD, f)
  | .flog2 f => some (0x0CE, f)
  | .fsin f => some (0x0CF, f)
  | .fcos f => some (0x0D0, f)
  | .ftanh f => some (0x0D1, f)
  | .frnd f => some (0x0D2, f)
  | .fscale f => some (0x0D3, f)
  | .fcvt f => some (0x0D4, f)
  | .fcvti f => some (0x0D5, f)
  | .icvtf f => some (0x0D6, f)
  | .fdot2 f => some (0x0D7, f)
  | .ncvt f => some (0x0D8, f)
  | .nexp f => some (0x0D9, f)
  | .bscale f => some (0x0DA, f)
  | .npack f => some (0x0DB, f)
  | .nunpk f => some (0x0DC, f)
  | .lmov f => some (0x140, f)
  | .ballot f => some (0x141, f)
  | .vote f => some (0x142, f)
  | .lrank f => some (0x143, f)
  | .laneMatch f => some (0x144, f)
  | .lred f => some (0x145, f)
  | .lscan f => some (0x146, f)
  | .lbcast f => some (0x147, f)
  | .lcomp f => some (0x148, f)
  | .lfirst f => some (0x149, f)
  | .ld f => some (0x180, f)
  | .st f => some (0x181, f)
  | .lds f => some (0x182, f)
  | .sts f => some (0x183, f)
  | .ldu f => some (0x184, f)
  | .stu f => some (0x185, f)
  | .lde f => some (0x186, f)
  | .stc f => some (0x187, f)
  | .pref f => some (0x188, f)
  | .cflush f => some (0x189, f)
  | .atom f => some (0x18A, f)
  | .red f => some (0x18B, f)
  | .cas f => some (0x18C, f)
  | .cas2 f => some (0x18D, f)
  | .waita f => some (0x18E, f)
  | .waitaWake _ => none
  | .waitaReread _ => none
  | .fence f => some (0x18F, f)
  | .armw f => some (0x190, f)
  | .waitw f => some (0x191, f)
  | .banksw f => some (0x192, f)
  | .tlbinvPage f => some (0x193, f)
  | .tlbinvRange f => some (0x193, f)
  | .tlbinvCtx f => some (0x193, f)
  | .barinit f => some (0x1C0, f)
  | .bara f => some (0x1C1, f)
  | .barw f => some (0x1C2, f)
  | .bart f => some (0x1C3, f)
  | .bardrop f => some (0x1C4, f)
  | .semp f => some (0x1C5, f)
  | .semv f => some (0x1C6, f)
  | .sempWake _ => none
  | .capopen f => some (0x1C8, f)
  | .capstep f => some (0x1C9, f)
  | .capclose f => some (0x1CA, f)
  | .capadopt f => some (0x1CB, f)
  | .capres f => some (0x1CC, f)
  | .mma f => some (0x1E0, f)
  | .mmas f => some (0x1E1, f)
  | .mspz f => some (0x1E2, f)
  | .accalloc f => some (0x1E3, f)
  | .accfree f => some (0x1E4, f)
  | .accfreePerform _ => none
  | .accst f => some (0x1E5, f)
  | .accld f => some (0x1E6, f)
  | .chncfgSet f => some (0x1E7, f)
  | .chncfgReset f => some (0x1E7, f)
  | .chncfgGet f => some (0x1E7, f)
  | .tcopy f => some (0x1E8, f)
  | .collopen f => some (0x1E9, f)
  | .collclose f => some (0x1EA, f)
  | .scan f => some (0x1EB, f)
  | .carryput f => some (0x1EC, f)
  | .carryget f => some (0x1ED, f)
  | .carrybar f => some (0x1EE, f)
  | .carrybarComplete _ => none
  | .engwait f => some (0x1EF, f)
  | .sysrd f => some (0x1F0, f)
  | .syswr f => some (0x1F1, f)
  | .logev f => some (0x1F2, f)
  | .chron f => some (0x1F3, f)
  | .chronQ f => some (0x1F3, f)
  | .cntrd f => some (0x1F4, f)
  | .cntctlOpen f => some (0x1F5, f)
  | .cntctlClose f => some (0x1F5, f)
  | .cntctlSel f => some (0x1F5, f)
  | .cntctlRun f => some (0x1F5, f)
  | .cntctlClear f => some (0x1F5, f)
  | .cntctlOvfen f => some (0x1F5, f)
  | .cntctlPlan f => some (0x1F5, f)
  | .interlockedResult _ => none
  | .starvationGuard _ _ _ => none
  | .ctxCreate _ _ _ _ _ => none
  | .ctxActivate _ _ _ => none
  | .ctxTeardown _ _ _ => none
  | .teardownComplete _ => none
  | .contextFault _ _ => none
  | .sliceEnd => none
  | .switchOutComplete _ => none
  | .switchIn _ => none
  | .wridxWrite _ _ _ => none
  | .queueEnable _ _ => none
  | .queueSuspend _ _ => none
  | .queueResume _ _ => none
  | .queueDrain _ _ => none
  | .queueDisable _ _ => none
  | .queueReset _ _ => none
  | .queueDrainEnd _ _ => none
  | .queueResetEnd _ _ => none
  | .packetIntake _ _ => none
  | .dependenceWrite _ _ => none
  | .hostDependenceReread _ _ => none
  | .triggerWindowAdd _ _ _ _ => none
  | .triggerWindowSet _ _ _ _ => none
  | .placementOpportunity => none
  | .deadlineMiss _ => none
  | .recordDeal _ => none
  | .stealRequest _ => none
  | .recordStart _ _ => none
  | .placementReady _ => none
  | .cohortReservation _ => none
  | .cohortWait _ => none
  | .groupRetire _ => none
  | .kernelCompleting _ => none
  | .preemptRequest _ _ _ => none
  | .drainOverrun _ => none
  | .saveComplete _ _ => none
  | .flushComplete _ => none
  | .pageWalk _ => none
  | .faultEntryDelayed _ => none
  | .fltrespRetry _ _ => none
  | .fltrespFail _ _ => none
  | .stowDecode _ _ => none
  | .captureCopyDone _ _ => none
  | .storeQueueDepart _ _ => none
  | .cacheWriteBack _ _ => none
  | .arrivalWordStep _ _ _ => none
  | .barrierPacket _ => none
  | .barrierLate _ _ => none
  | .bearingUpdate _ => none
  | .operationFire _ _ => none
  | .engineRetire _ _ => none
  | .carryDelivery _ _ _ => none
  | .convoySealed _ => none
  | .joinReceive _ _ => none
  | .colldataReceive _ _ => none
  | .reductionStep _ => none
  | .addAckReceive _ _ => none
  | .completionNoticeReceive _ _ => none
  | .failNoticeReceive _ _ => none
  | .livenessProbe _ _ => none
  | .probeTimeout _ _ _ => none
  | .collLate _ _ => none
  | .deliveryAckReceive _ _ => none
  | .closeNoticeSend _ _ => none
  | .closeNoticeReceive _ _ => none
  | .flitError _ _ => none
  | .slotonlyReceive _ _ => none
  | .remoteRequestReceive _ _ => none
  | .remoteResponseReceive _ _ => none
  | .remoteTimeout _ => none
  | .lossOfSignal _ => none
  | .trainingAttempt _ => none
  | .trainingComplete _ _ _ => none
  | .laneFence _ _ => none
  | .linkDrainEnd _ => none
  | .replayDeliver _ => none
  | .hostCtxregWrite _ _ _ _ => none
  | .intcauseClear _ _ => none
  | .vfdiesWrite _ _ => none
  | .powcapWrite _ => none
  | .resetreqWrite _ => none
  | .registerWrite _ _ _ _ => none
  | .ptpMessage _ _ => none
  | .ppsPulse _ _ => none
  | .holdoverEntry => none
  | .dropEmit _ => none
  | .logHeadWrite _ => none
  | .chronrd => none
  | .loghdr _ => none
  | .logrd _ _ _ => none
  | .takeFix _ _ => none
  | .fixrd _ _ _ => none
  | .physrd _ _ => none
  | .fwload _ _ _ _ => none
  | .coldrst => none
  | .warmrst => none
  | .dierst _ => none
  | .portDrain _ => none
  | .portFence _ => none
  | .portUnfence _ => none
  | .portReplay _ => none
  | .portReplayclr _ => none
  | .portTrainoff _ => none
  | .portTrainon _ => none
  | .routewr _ _ => none
  | .mgmtPowcap _ => none
  | .chroncfg _ _ _ => none
  | .attest _ _ => none
  | .sessionChallenge _ => none
  | .powerReset => none
  | .coldReset _ => none
  | .warmReset => none
  | .dieReset _ => none
  | .functionReset _ => none
  | .pacingChange _ => none
  | .thermalLimit _ => none
  | .thermalRecover _ => none
  | .thermalShutdown _ => none
  | .partFence _ => none
  | .restitch _ _ => none
  | .debugHalt _ _ => none
  | .debugHaltf _ _ => none
  | .debugResume _ _ => none
  | .debugBkpton _ _ => none
  | .debugBkptoff _ _ => none
  | .replayPassEnd _ => none
  | .hostMemoryWrite _ _ => none
  | .barrierCompletionReceive _ _ => none
  | .probeReceive _ _ => none
  | .boundMissed _ => none
  | .counterWrap _ _ => none

/-- The words of an instruction; empty for an event. -/
def encode (i : Instr) : List W32 :=
  match i.enc with
  | some (op, f) => encodeRaw (BitVec.ofNat 9 op) f
  | none => []

end Sys2Proof
end

