-- ==== Sys2Proof/Machine/Float.lean ====
section
/-! DEFINITION. Floating arithmetic, compares, roots, scaling, conversions and the dot product (R216-R223, R226-R231). -/

namespace Sys2Proof.Machine

open Sys2Proof

/-- Format code and format of SUB<1:0> (R31). -/
def fcode (f : Fields) : Nat := fld f.sub 1 0
def ffmt (f : Fields) : FloatFmt := fmtOf (fcode f)

/-- FTZ and the rounding mode of SUB (R31). -/
def fFtz (f : Fields) : Bool := bit1 f.sub 4
def fRm (f : Fields) : Rm := rmOf (fld f.sub 3 2)

/-- An inline immediate in a floating role: the integer converted exactly (R32). -/
def inlF (fm : FloatFmt) (i : Int) : Nat := encodeF fm (.fin (decide (i < 0)) (i.natAbs : Rat))

/-- Bits of the floating operands A, B and C (R216). -/
def fbitsA (v : View) (fm : FloatFmt) : Nat := readA v (fmtW fm)
def fbitsB (v : View) (fm : FloatFmt) : Nat := specVal v (laneStrand v (modB v.f)) v.f.b (fmtW fm) (inlF fm)
def fbitsC (v : View) (fm : FloatFmt) : Nat := specVal v (some v.t) v.f.c (fmtW fm) (inlF fm)

/-- Sign of an exact zero sum in a rounding mode (R81). -/
def rdnZero (rm : Rm) : Bool := match rm with | .rdn => true | _ => false

/-- A floating result: RoundF, with the flags of the operation, its reads and its signalling inputs (R218). -/
def fltEff (v : View) (fm : FloatFmt) (rm : Rm) (ftz : Bool) (ins : List FIn) (r : Ext) (fl : BitVec 6) : Eff :=
  let o := roundF fm { rm := rm, ftz := ftz, sat := satBit v.f, infIn := ins.any fun x => isInfE x.val } r
  let inFl := ins.foldl (fun a x => a ||| x.fl ||| flagIf x.snan flNV) 0
  { writes := writesD v (fmtRegW fm) (encodeF fm o.val), flags := o.fl ||| fl ||| inFl,
    ovf := if o.clamped && ovcBit v.f then 1 else 0 }

/-- Latency of the fixed-latency floating instructions (R46). -/
def fltLat (f : Fields) : Nat := if fcode f = 1 then 6 else 4

/-- FADD, FSUB and FMUL (R219): NA, AA and NB modify the inputs. -/
def flt2 (f : Fields) (s : State) (op : Rm → Ext → Ext → Exact) : Host.Outcome State Fault Refusal :=
  issueAlu (fltLat f) f s fun v =>
    let fm := ffmt f
    let x := readFloat fm (fFtz f) (bit1 f.sub 5) (bit1 f.sub 6) (fbitsA v fm)
    let y := readFloat fm (fFtz f) (bit1 f.sub 7) false (fbitsB v fm)
    let r := op (fRm f) x.val y.val
    fltEff v fm (fRm f) (fFtz f) [x, y] r.1 (flagIf r.2 flNV)

def execFadd (f : Fields) (s : State) : Host.Outcome State Fault Refusal := flt2 f s fun rm x y => addE (rdnZero rm) x y
def execFsub (f : Fields) (s : State) : Host.Outcome State Fault Refusal := flt2 f s fun rm x y => addE (rdnZero rm) x (negE y)
def execFmul (f : Fields) (s : State) : Host.Outcome State Fault Refusal := flt2 f s fun _ x y => mulE x y

/-- An exact fused product and sum (R219). -/
def fmaE (rm : Rm) (x y z : Ext) : Exact :=
  let p := mulE x y
  let r := addE (rdnZero rm) p.1 z
  (r.1, p.2 || r.2)

/-- FFMA (R219). -/
def execFfma (f : Fields) (s : State) : Host.Outcome State Fault Refusal :=
  issueAlu (fltLat f) f s fun v =>
    let fm := ffmt f
    let x := readFloat fm (fFtz f) (bit1 f.sub 5) false (fbitsA v fm)
    let y := readFloat fm (fFtz f) false false (fbitsB v fm)
    let z := readFloat fm (fFtz f) (bit1 f.sub 6) false (fbitsC v fm)
    let r := fmaE (fRm f) x.val y.val z.val
    fltEff v fm (fRm f) (fFtz f) [x, y, z] r.1 (flagIf r.2 flNV)

/-- FMIN and FMAX (R220): AA and AB. -/
def fltMinMax (isMax : Bool) (f : Fields) (s : State) : Host.Outcome State Fault Refusal :=
  issueAlu (fltLat f) f s fun v =>
    let fm := ffmt f
    let x := readFloat fm (fFtz f) false (bit1 f.sub 5) (fbitsA v fm)
    let y := readFloat fm (fFtz f) false (bit1 f.sub 6) (fbitsB v fm)
    let r := minMaxNum fm isMax x y
    { writes := writesD v (fmtRegW fm) r.1, flags := r.2 ||| x.fl ||| y.fl, ovf := 0 }

def execFmin (f : Fields) (s : State) : Host.Outcome State Fault Refusal := fltMinMax false f s
def execFmax (f : Fields) (s : State) : Host.Outcome State Fault Refusal := fltMinMax true f s

/-- The conditions of FCMP and FSET (R221): result and NV. -/
def fltCond (cc : Nat) (x y : FIn) : Bool × BitVec 6 :=
  let un := isNanE x.val || isNanE y.val
  let nv := flagIf (x.snan || y.snan || (un && decide (2 ≤ cc ∧ cc ≤ 5))) flNV
  let lt := ltE x.val y.val
  let eq := eqE x.val y.val
  let r := match cc with
    | 0 => !un && eq
    | 1 => un || !eq
    | 2 => !un && lt
    | 3 => !un && (lt || eq)
    | 4 => !un && !(lt || eq)
    | 5 => !un && !lt
    | 6 => un
    | _ => !un
  (r, nv)

/-- The compared values and the outcome of FCMP and FSET. -/
def fltCompare (v : View) : Bool × BitVec 6 :=
  let fm := ffmt v.f
  let x := readFloat fm (fFtz v.f) false false (fbitsA v fm)
  let y := readFloat fm (fFtz v.f) false false (fbitsB v fm)
  let r := fltCond (fld v.f.sub 7 5) x y
  (r.1, r.2 ||| x.fl ||| y.fl)

def execFcmp (f : Fields) (s : State) : Host.Outcome State Fault Refusal :=
  issueAlu (fltLat f) f s fun v =>
    let r := fltCompare v
    { writes := writesP (fld f.d 2 0) r.1, flags := r.2, ovf := 0 }

def execFset (f : Fields) (s : State) : Host.Outcome State Fault Refusal :=
  issueAlu (fltLat f) f s fun v =>
    let r := fltCompare v
    let fm := ffmt f
    { writes := writesD v (fmtRegW fm) (if r.1 then 2 ^ fmtW fm - 1 else 0), flags := r.2, ovf := 0 }

/-- Class bit of a bit pattern (R222). -/
def fltClass (fm : FloatFmt) (x : Nat) : Nat :=
  let neg := fneg fm x
  if fIsNan fm x then (if fIsSnan fm x then 8 else 9)
  else if fIsInf fm x then (if neg then 0 else 7)
  else if fIsSub fm x then (if neg then 2 else 5)
  else if fexp fm x = 0 then (if neg then 3 else 4)
  else if neg then 1 else 6

def execFclass (f : Fields) (s : State) : Host.Outcome State Fault Refusal :=
  issueAlu (fltLat f) f s fun v => bitsEff v 32 (2 ^ fltClass (ffmt f) (fbitsA v (ffmt f)))

/-- The number one. -/
def oneE : Ext := .fin false 1

/-- FRCP (R223), interlocked. -/
def execFrcp (f : Fields) (s : State) : Host.Outcome State Fault Refusal :=
  issueAlu 0 f s fun v =>
    let fm := ffmt f
    let x := readFloat fm (fFtz f) false false (fbitsA v fm)
    let r := divE oneE x.val
    fltEff v fm (fRm f) (fFtz f) [x] r.1 r.2

def execFsqrt (f : Fields) (s : State) : Host.Outcome State Fault Refusal :=
  issueAlu 0 f s fun v =>
    let fm := ffmt f
    let x := readFloat fm (fFtz f) false false (fbitsA v fm)
    let r := sqrtE x.val
    fltEff v fm (fRm f) (fFtz f) [x] r.1 r.2

def execFdiv (f : Fields) (s : State) : Host.Outcome State Fault Refusal :=
  issueAlu 0 f s fun v =>
    let fm := ffmt f
    let x := readFloat fm (fFtz f) false false (fbitsA v fm)
    let y := readFloat fm (fFtz f) false false (fbitsB v fm)
    let r := divE x.val y.val
    fltEff v fm (fRm f) (fFtz f) [x, y] r.1 r.2

/-- FRND (R226). -/
def execFrnd (f : Fields) (s : State) : Host.Outcome State Fault Refusal :=
  issueAlu (fltLat f) f s fun v =>
    let fm := ffmt f
    let x := readFloat fm (fFtz f) false false (fbitsA v fm)
    let r : Ext × Bool := match x.val with
      | .fin neg m =>
        let y := roundGrid (signedVal neg m) 0 (fRm f)
        (.fin neg (if y < 0 then -y else y), y != signedVal neg m)
      | e => (e, false)
    { writes := writesD v (fmtRegW fm) (encodeF fm r.1),
      flags := x.fl ||| flagIf x.snan flNV ||| flagIf (r.2 && bit1 f.sub 5) flNX, ovf := 0 }

/-- FSCALE (R227). An exponent beyond 4,000 has the effect of 4,000 in every format. -/
def execFscale (f : Fields) (s : State) : Host.Outcome State Fault Refusal :=
  issueAlu (fltLat f) f s fun v =>
    let fm := ffmt f
    let x := readFloat fm (fFtz f) false false (fbitsA v fm)
    let n := max (-4000) (min 4000 (sxNat 32 (readB v 32)))
    let r : Ext := match x.val with | .fin neg m => .fin neg (m * pow2 n) | e => e
    fltEff v fm (fRm f) (fFtz f) [x] r 0

/-- FCVT (R228), of latency 5. -/
def execFcvt (f : Fields) (s : State) : Host.Outcome State Fault Refusal :=
  issueAlu 5 f s fun v =>
    let src := fmtOf (fld f.sub 6 5)
    let x := readFloat src (fFtz f) false false (fbitsA v src)
    fltEff v (ffmt f) (fRm f) (fFtz f) [x] x.val 0

/-- FCVTI (R229). -/
def execFcvti (f : Fields) (s : State) : Host.Outcome State Fault Refusal :=
  issueAlu 5 f s fun v =>
    let fm := ffmt f
    let t := fld f.sub 7 5
    let x := readFloat fm (fFtz f) false false (fbitsA v fm)
    let (y, fl, c) := toIntF t (fRm f) x.val
    { writes := writesD v (tyRegW t) (intImage t y), flags := fl ||| x.fl, ovf := if c && ovcBit f then 1 else 0 }

/-- ICVTF (R230). -/
def execIcvtf (f : Fields) (s : State) : Host.Outcome State Fault Refusal :=
  issueAlu 5 f s fun v =>
    let x := intA v (fld f.sub 7 5)
    fltEff v (ffmt f) (fRm f) false [] (.fin (decide (x < 0)) (x.natAbs : Rat)) 0

/-- Some term is +infinity and some is -infinity. -/
def infClash (l : List Ext) : Bool := l.contains (.inf false) && l.contains (.inf true)

/-- FDOT2 (R231). -/
def execFdot2 (f : Fields) (s : State) : Host.Outcome State Fault Refusal :=
  issueAlu 4 f s fun v =>
    let fm := ffmt f
    let a := readA v 32
    let b := readB v 32
    let rdX (x : Nat) : FIn := readFloat fm (fFtz f) false false x
    let x0 := rdX (a % 65536)
    let x1 := rdX (a / 65536)
    let y0 := rdX (b % 65536)
    let y1 := rdX (b / 65536)
    let z := readFloat fp32 (fFtz f) (bit1 f.sub 6) false (fbitsC v fp32)
    let ng (e : Ext) : Ext := if bit1 f.sub 5 then negE e else e
    let p0 := mulE (ng x0.val) y0.val
    let p1 := mulE (ng x1.val) y1.val
    let rm := fRm f
    let q := addE (rdnZero rm) p0.1 p1.1
    let r := addE (rdnZero rm) q.1 z.val
    fltEff v fp32 rm (fFtz f) [x0, x1, y0, y1, z] r.1 (flagIf (p0.2 || p1.2 || infClash [p0.1, p1.1, z.val]) flNV)

end Sys2Proof.Machine
end

