-- ==== Sys2Proof/Machine/CrossLane.lean ====
section
/-! DEFINITION. The cross-lane family (R238-R250). -/

namespace Sys2Proof.Machine

open Sys2Proof

/-- Segment size (R238). -/
def segOf (f : Fields) : Nat :=
  match fld f.sub 5 3 with | 1 => 2 | 2 => 4 | 3 => 8 | 4 => 16 | _ => 32

/-- Strand index, lane and slot of an executor. -/
def ixOf (v : View) : Nat := match v.who with | .pilot => 0 | .strand k => k
def laneV (v : View) : Nat := laneOf v.g (ixOf v)
def slotV (v : View) : Nat := slotOf v.g (ixOf v)

/-- First lane of the row. -/
def baseV (v : View) : Nat := laneV v - laneV v % segOf v.f

/-- The active executors of a strand's row, in lane order (R240). -/
def rowOf (vs : List View) (v : View) : List View :=
  vs.filter fun u => slotV u == slotV v && baseV u == baseV v

/-- Register A of a lane of the strand's slot; zero where the lane is absent or its strand has exited (R240). -/
def laneA (v : View) (l w : Nat) : Nat :=
  if v.g.shape.w ≤ l then 0
  else match v.g.strands[slotV v * v.g.shape.w + l]? with
    | some t => if t.run = .exited then 0 else readGroup v t (nA v.f) w
    | none => 0

/-- A cross-lane instruction: every active strand takes the effect computed from its row; results are interlocked. -/
def laneIssue (f : Fields) (s : State) (eff : List View → View → Eff) : Host.Outcome State Fault Refusal :=
  issueGang f s fun vs s => vs.foldl (fun s v => applyPend s v (eff (rowOf vs v) v) 0) s

/-- The vote of a lane: predicate number, inverted or not (R243). -/
def voteOf (n : Nat) (neg : Bool) (u : View) : Bool := readPred u n != neg

/-- The mask of the lanes of a row that vote. -/
def maskOf (row : List View) (q : View → Bool) : Nat :=
  row.foldl (fun m u => if q u then m ||| 2 ^ (laneV u % 32) else m) 0

/-- A moved value, written by WriteInt (R248). -/
def moveEff (v : View) (t x : Nat) : Eff := bitsEff v (tyRegW t) (intImage t (readInt t x))

/-- Source lane of LMOV (R248). -/
def lmovLane (v : View) (j : Nat) : Nat :=
  let m := segOf v.f
  let k := laneV v % m
  match fld v.f.sub 7 6 with
  | 0 => baseV v + j % m
  | 1 => if j ≤ k then baseV v + k - j else laneV v
  | 2 => if k + j < m then baseV v + k + j else laneV v
  | _ => baseV v + Nat.xor k (j % m)

def execLmov (f : Fields) (s : State) : Host.Outcome State Fault Refusal :=
  laneIssue f s fun _ v => moveEff v (itype f) (laneA v (lmovLane v (readB v 32)) (tyRegW (itype f)))

def execBallot (f : Fields) (s : State) : Host.Outcome State Fault Refusal :=
  laneIssue f s fun row v => bitsEff v 32 (maskOf row (voteOf (fld f.a 2 0) (bit1 f.sub 6)))

def execVote (f : Fields) (s : State) : Host.Outcome State Fault Refusal :=
  laneIssue f s fun row _ =>
    let q := voteOf (fld f.a 2 0) false
    let r := match fld f.sub 7 6 with
      | 0 => row.all q
      | 1 => row.any q
      | _ => row.all q || !row.any q
    { writes := writesP (fld f.d 2 0) r, flags := 0, ovf := 0 }

def execLrank (f : Fields) (s : State) : Host.Outcome State Fault Refusal :=
  laneIssue f s fun row v =>
    let m := maskOf row (voteOf (fld f.a 2 0) (bit1 f.sub 6))
    bitsEff v 32 (popcount 32 (m % 2 ^ (laneV v % 32)))

/-- Two keys match, as patterns or as values (R244). -/
def keysMatch (f : Fields) (x y : Nat) : Bool :=
  if bit1 f.sub 6 then
    let fm := fmtOf (itype f)
    eqE (decodeF fm (x % 2 ^ fmtW fm)) (decodeF fm (y % 2 ^ fmtW fm))
  else x % 2 ^ tyW (itype f) == y % 2 ^ tyW (itype f)

def execLaneMatch (f : Fields) (s : State) : Host.Outcome State Fault Refusal :=
  laneIssue f s fun row v =>
    let w := if bit1 f.sub 6 then fmtW (fmtOf (itype f)) else tyW (itype f)
    bitsEff v 32 (maskOf row fun u => u.who == v.who || keysMatch f (readA v w) (readA u w))

/-- A term of a reduction: integer value, index, bit pattern (R246). -/
structure RTerm where
  i : Int
  ix : Nat
  b : Nat
deriving DecidableEq, Repr

/-- The operator, type, format and rounding of a reduction (R245). -/
structure RedOp where
  opr : Nat
  t : Nat
  fm : FloatFmt
  rm : Rm
deriving DecidableEq, Repr

def redOpOf (f : Fields) : RedOp :=
  { opr := fld f.c 3 0, t := itype f, fm := fmtOf (fld f.c 7 6), rm := rmOf (fld f.c 5 4) }

def redFloat (o : RedOp) : Bool := decide (8 ≤ o.opr)
def redIndex (o : RedOp) : Bool := o.opr == 6 || o.opr == 7

/-- The term of a lane. -/
def redTerm (o : RedOp) (u : View) : RTerm :=
  if redFloat o then { i := 0, ix := 0, b := readA u (fmtW o.fm) }
  else
    let x := readA u (tyRegW o.t)
    { i := readInt o.t x, ix := if redIndex o then readB u 32 else 0, b := x % 2 ^ tyW o.t }

/-- The first term: a NaN becomes canonical, with NV if it signals (R247). -/
def redFirst (o : RedOp) (x : RTerm) : RTerm × BitVec 6 :=
  if redFloat o ∧ fIsNan o.fm x.b = true then ({ x with b := canonNan o.fm }, flagIf (fIsSnan o.fm x.b) flNV) else (x, 0)

/-- Combine (R246). -/
def redCombine (o : RedOp) (a x : RTerm) : RTerm × BitVec 6 :=
  let rd (b : Nat) : FIn := readFloat o.fm false false false b
  match o.opr with
  | 0 => ({ a with i := a.i + x.i }, 0)
  | 1 => ({ a with i := min a.i x.i }, 0)
  | 2 => ({ a with i := max a.i x.i }, 0)
  | 3 => ({ a with b := a.b &&& x.b }, 0)
  | 4 => ({ a with b := a.b ||| x.b }, 0)
  | 5 => ({ a with b := a.b ^^^ x.b }, 0)
  | 6 => (if x.b < a.b ∨ (x.b = a.b ∧ x.ix < a.ix) then x else a, 0)
  | 7 => (if a.b < x.b ∨ (x.b = a.b ∧ x.ix < a.ix) then x else a, 0)
  | 8 =>
    let r := addE (rdnZero o.rm) (rd a.b).val (rd x.b).val
    let out := roundF o.fm { rm := o.rm, ftz := false, sat := false, infIn := false } r.1
    ({ a with b := encodeF o.fm out.val }, out.fl ||| flagIf (r.2 || (rd a.b).snan || (rd x.b).snan) flNV)
  | 9 => let r := minMaxNum o.fm false (rd a.b) (rd x.b); ({ a with b := r.1 }, r.2)
  | _ => let r := minMaxNum o.fm true (rd a.b) (rd x.b); ({ a with b := r.1 }, r.2)

/-- The identity (R246). -/
def redIdentity (o : RedOp) : RTerm :=
  let allN := 2 ^ tyW o.t - 1
  match o.opr with
  | 0 => { i := 0, ix := 0, b := 0 }
  | 1 => { i := maxOf o.t, ix := 0, b := 0 }
  | 2 => { i := minOf o.t, ix := 0, b := 0 }
  | 3 => { i := 0, ix := 0, b := allN }
  | 6 => { i := 0, ix := 0xFFFFFFFF, b := allN }
  | 7 => { i := 0, ix := 0xFFFFFFFF, b := 0 }
  | 8 => { i := 0, ix := 0, b := encodeF o.fm (.fin true 0) }
  | 9 => { i := 0, ix := 0, b := infBits o.fm false }
  | 10 => { i := 0, ix := 0, b := infBits o.fm true }
  | _ => { i := 0, ix := 0, b := 0 }

/-- pre(j) and fl(j) of a list of terms (R247). -/
def redPrefix (o : RedOp) (l : List RTerm) : List (RTerm × BitVec 6) :=
  match l with
  | [] => []
  | x :: r =>
    let f := redFirst o x
    (r.foldl (fun (acc : List (RTerm × BitVec 6) × (RTerm × BitVec 6)) y =>
      let c := redCombine o acc.2.1 y
      let n := (c.1, acc.2.2 ||| c.2)
      (acc.1 ++ [n], n)) ([f], f)).1

/-- The result of a lane (R246, R247). -/
def redEff (o : RedOp) (v : View) (r : RTerm × BitVec 6) : Eff :=
  if redFloat o then { writes := writesD v (fmtRegW o.fm) r.1.b, flags := r.2, ovf := 0 }
  else if redIndex o then bitsEff v 64 (r.1.b + r.1.ix * 2 ^ 32)
  else if o.opr ≤ 2 then intEff v o.t r.1.i
  else bitsEff v (tyRegW o.t) (intImage o.t (readInt o.t r.1.b))

def execLred (f : Fields) (s : State) : Host.Outcome State Fault Refusal :=
  laneIssue f s fun row v =>
    let o := redOpOf f
    match (redPrefix o (row.map (redTerm o))).getLast? with
    | some r => redEff o v r
    | none => effNone

/-- Position of an executor in its row's active lanes. -/
def posIn (row : List View) (v : View) : Nat := (row.takeWhile fun u => u.who != v.who).length

def execLscan (f : Fields) (s : State) : Host.Outcome State Fault Refusal :=
  laneIssue f s fun row v =>
    let o := redOpOf f
    let l := redPrefix o (row.map (redTerm o))
    let j := posIn row v
    let r := if bit1 f.sub 6 then (if j = 0 then none else l[j - 1]?) else l[j]?
    redEff o v (r.getD (redIdentity o, 0))

def execLbcast (f : Fields) (s : State) : Host.Outcome State Fault Refusal :=
  laneIssue f s fun row v =>
    let j := match row with | u :: _ => readB u 32 | [] => 0
    moveEff v (itype f) (laneA v (baseV v + j % segOf f) (tyRegW (itype f)))

def execLcomp (f : Fields) (s : State) : Host.Outcome State Fault Refusal :=
  laneIssue f s fun row v =>
    let t := itype f
    let vals := (row.filter (voteOf (fld f.c 2 0) (bit1 f.sub 6))).map fun u => readA u (tyRegW t)
    match vals[laneV v % segOf f]? with
    | some x => moveEff v t x
    | none => if bit1 f.sub 7 then effNone else moveEff v t 0

def execLfirst (f : Fields) (s : State) : Host.Outcome State Fault Refusal :=
  laneIssue f s fun row v =>
    let u := if bit1 f.sub 6 then row.getLast? else row.head?
    moveEff v (itype f) (match u with | some u => readA u (tyRegW (itype f)) | none => 0)

end Sys2Proof.Machine
end

