-- ==== Sys2Proof/Machine/Issue.lean ====
section
/-! DEFINITION. What happens between the choice of executors and the meaning of their instruction: fetch, decode
checks, the checking scoreboard, capsule limits, interlocks and rows (R24, R42, R46, R49, R55, R56, R239, R291, R352);
and the choice itself (R150, R170-R173). -/

namespace Sys2Proof.Machine

open Sys2Proof

/-! ### Fetch -/

/-- The words of an instruction, or the failure of one word and its address. -/
inductive Fetched where
  | words (ws : List W32)
  | stop (e : Fetch) (va : BitVec 72)
deriving DecidableEq, Repr

/-- n words from an address (R24). -/
def fetchWords (s : State) (g : Group) (core : Nat) (reach : BitVec 8) (off : W64) (n : Nat) : Fetched × State :=
  match n with
  | 0 => (.words [], s)
  | k + 1 =>
    match fetchWord s g core reach off with
    | (.word w, s) =>
      match fetchWords s g core reach (off + 4) k with
      | (.words ws, s) => (.words (w :: ws), s)
      | r => r
    | (e, s) => (.stop e (vaOf reach off), s)

/-- The words of the instruction at an address: word 0 gives their number (R23, R24).
DEDUCED (log entry 26), unsafe. -/
def fetchInstr (s : State) (g : Group) (core : Nat) (reach : BitVec 8) (off : W64) : Fetched × State :=
  match fetchWord s g core reach off with
  | (.word w, s) =>
    match fetchWords s g core reach (off + 4) (lenWords (w.extractLsb' 0 2) - 1) with
    | (.words ws, s) => (.words (w :: ws), s)
    | r => r
  | (e, s) => (.stop e (vaOf reach off), s)

/-- What a failed fetch does to an executor (R24, R262). -/
def fetchFailed (e : Fetch) (va : BitVec 72) (s : State) (v : View) : State :=
  match e with
  | .word _ => s
  | .replay k l => stallFault s v k l va .fetch 0
  | .trap c i => signalTrap s v c va i
  | .ctxFatal c => raiseCtxFatal s v.g.ctx c
  | .queueFull => stallAt s v .walkQueue

/-- The word of an n-word instruction whose fetch a response FAIL has reached, and the level of its fault (R264). -/
def fetchRefused (v : View) (n : Nat) : Option (BitVec 72 × Nat) :=
  (List.range n).findSome? fun i =>
    let va := vaOf (codeReachOf v.g v.t) (v.t.pc + BitVec.ofNat 64 (4 * i))
    (refusedAt v.t.failed va .fetch).map fun l => (va, l)

/-- Executors whose fetch a response FAIL has reached take PAGEFATAL 12 (R264). -/
def refuseFetch (n : Nat) (s : State) (v : View) : State :=
  match fetchRefused v n with
  | some (va, l) => refuseAccess s v va .fetch l
  | none => s

/-- Executors whose fetch failed at an address: those whose fetch there a response FAIL has reached take PAGEFATAL 12. -/
def fetchStopped (e : Fetch) (va : BitVec 72) (s : State) (v : View) : State :=
  match refusedAt v.t.failed va .fetch with
  | some l => refuseAccess s v va .fetch l
  | none => fetchFailed e va s v

/-! ### Capsule limits -/

/-- A specifier that capsule mode allows (R351). -/
def capSpecOk (r : Role) (x : BitVec 10) : Bool :=
  !isSpec r || x == 0x3FF || specClass x == 3 || (specClass x == 0 && decide (fld x 7 0 ≤ 7))

/-- A register field that capsule mode allows (R351). -/
def capRegOk (r : Role) (n : Nat) : Bool := !isReg r || decide (n ≤ 7)

/-- The lowest capsule limit that an instruction breaks in capsule mode (R352), of those that need no execution. An LD or ST with an
order in C is none of those that R351 allows.
DEDUCED (log entry 31), unsafe. -/
def capLimit (op : Nat) (sh : Shape) (f : Fields) (pc : W64) (c : Capsule) (guard : Bool) : Option Nat :=
  let size := sb f 5 3
  let disp := if f.len = 1 then sxNat 20 (f.c.toNat * 2 ^ 10 + f.b.toNat) else sxNat 32 f.w2.toNat
  let target := BitVec.ofInt 64 (pc.toNat + 4 * words f + 4 * disp)
  if capsuleOp op = false ∨ (op = 0x180 ∧ 4 ≤ size) ∨ ((op = 0x180 ∨ op = 0x181) ∧ f.c ≠ 0) then some 1
  else if (capsuleX op = true ∧ (capRegOk sh.d f.d.toNat = false ∨ capRegOk sh.a f.a.toNat = false ∨
      capSpecOk sh.b f.b = false ∨ capSpecOk sh.c f.c = false)) ∨
      (sh.iop = false ∧ (modA f ≠ 0 ∨ modB f ≠ 0)) then some 2
  else if op = 0x001 ∧ target.toNat ≤ pc.toNat then some 3
  else if 16 ≤ c.count then some 4
  else if op ≠ 0x1CA ∧ 8 ≤ c.step then some 5
  else if op = 0x181 ∧ (4 ≤ size ∨ (guard = true ∧ 4 ≤ c.stores)) then some 6
  else none

/-! ### Rows -/

/-- The segment size of the row an instruction of strand code waits for; none where it waits for no row (R42, R239,
R291). -/
def rowSeg (op : Nat) (sh : Shape) (f : Fields) : Option Nat :=
  if 0x140 ≤ op ∧ op < 0x14A then some (segOf f)
  else if op = 0x186 ∨ op = 0x187 then some 32
  else if sh.iop then none
  else
    let seg (m : Nat) : Nat := if m = 0 then 0 else 2 ^ (m / 2 ^ 7 % 8)
    let n := max (seg (modA f)) (seg (modB f))
    if n = 0 then none else some n

/-- Lanes of the row of lane l. -/
def rowLanes (w seg l : Nat) : List Nat := ((List.range seg).map fun i => l - l % seg + i).filter (· < w)

/-- The PC of a thread under its code reach (R166, R175). -/
def fullPc (g : Group) (t : Thread) : BitVec 72 := vaOf (codeReachOf g t) t.pc

/-- A strand has reached a PC, passed the checks of R55, R49 and R352 there, and waits for its row, or is among those (`go`)
that pass them now. -/
def atRow (g : Group) (go : List Nat) (pc : BitVec 72) (k : Nat) (t : Thread) : Bool :=
  fullPc g t == pc && !t.stopped && (t.run == .stalled .row || (t.run == .ready && go.contains k))

/-- Every strand of strand k's row has reached the PC or exited. -/
def rowComplete (g : Group) (go : List Nat) (seg : Nat) (pc : BitVec 72) (k : Nat) : Bool :=
  (rowLanes g.shape.w seg (laneOf g k)).all fun l =>
    let j := slotOf g k * g.shape.w + l
    match g.strands[j]? with
    | some t => t.run == .exited || atRow g go pc j t
    | none => true

/-- The strands of a slot whose rows are complete and that stand at the PC. -/
def rowGang (g : Group) (go : List Nat) (seg : Nat) (pc : BitVec 72) (slot : Nat) : List Nat :=
  ((List.range g.shape.w).map fun l => slot * g.shape.w + l).filter fun k =>
    (match g.strands[k]? with | some t => atRow g go pc k t | none => false) && rowComplete g go seg pc k

/-! ### The issue -/

/-- The executors of a choice that can issue, each with its thread: READY, not stopped, at the PC of the first, under
the same code reach and alike in capsule mode (R170, R351). -/
def issueViews (s : State) (iss : Issuer) (f : Fields) : List View :=
  let ready (t : Thread) : Bool := t.run == .ready && !t.stopped
  match iss with
  | .pilot gid =>
    match getGroup s gid with
    | some g => if ready g.pilot then [{ s := s, g := g, who := .pilot, t := g.pilot, f := f }] else []
    | none => []
  | .gang gid ks =>
    match getGroup s gid with
    | some g =>
      let l : List View := ks.filterMap fun k =>
        match g.strands[k]? with
        | some t => if ready t then some { s := s, g := g, who := .strand k, t := t, f := f } else none
        | none => none
      match l with
      | [] => []
      | v :: _ => l.filter fun u => u.t.pc == v.t.pc && codeReachOf g u.t == codeReachOf g v.t && capCode u.t == capCode v.t
    | none => []

/-- A group whose executors issue (R148). -/
def groupIssues (g : Group) : Bool := g.gst == .running || g.gst == .draining

/-- What a check of an executor at issue finds. -/
inductive Verdict where
  | go
  | trap (cause : Nat) (addr : BitVec 72) (info : Nat)
  /-- interlocked results are pending: the leaf of R479, and the registers they write -/
  | wait (leaf : Nat) (on : List RegId)
  /-- an s-register write retires at a cycle (R151) -/
  | hold (cycle : Nat)
deriving DecidableEq, Repr

/-- SYSRD and SYSWR of an executor's own registers wait for every earlier result (R117). -/
def sysWaits (op : Nat) (v : View) : Bool :=
  (op == 0x1F0 || op == 0x1F1) && decide (0x100 ≤ srnOf v.f ∧ srnOf v.f < 0x200) && !v.t.pend.isEmpty

/-- The opcodes of RELEASE and DQPUSH. -/
def releases (op : Nat) : Bool := op == 0x010 || op == 0x011

/-- RELEASE and DQPUSH wait for every earlier pilot s-register write (R151): here for the interlocked ones. -/
def releaseWaits (op : Nat) (v : View) : Bool :=
  releases op && v.t.pend.any fun p => p.dst.any fun e => match e.1 with | .s _ => true | _ => false

/-- The cycle from which every fixed-latency s-register write of a pilot has retired (R151). -/
def retiredAt (v : View) : Nat :=
  v.t.fixed.foldl (fun m e => match e.reg with | .s _ => max m (e.ripe + spreadLag v.g) | _ => m) 0

/-- The leaf in which a wait for results counts: memory before all others (R479). -/
def pendLeaf (l : List Pend) : Nat :=
  ((([4, 5, 6] : List Nat).find? fun n => l.any fun p => p.leaf == n)).getD 9

/-- The checks of one executor: decode (R55), scoreboard (R49), capsule limits (R352), interlocks (R46).
DEDUCED (log entry 19), unsafe. DEDUCED (log entry 29), unsafe. -/
def judge (op : Nat) (v : View) : Verdict :=
  let pilot := isPilot v
  let cap := capCode v.t
  match check op pilot v.g.priv cap v.f, shapeOf op pilot v.f with
  | some (c, sub), _ => .trap c 0 (decodeInfo op sub)
  | none, none => .trap causeIllop 0 (decodeInfo op 1)
  | none, some sh =>
    if inSkip v.t then .go
    else match (if v.g.vals.chksb then scoreboard op pilot cap sh v.f v.t else none) with
    | some (r, wr) => .trap causeStallshort 0 (regInfo pilot r + (if wr then 2 ^ 10 else 0))
    | none =>
      let limit := match v.t.caps with
        | some c => if c.mode = CapMode.inside then (capLimit op sh v.f v.t.pc c (guardTrue v)).map fun n => (n, c.va) else none
        | none => (none : Option (Nat × BitVec 72))
      match limit with
      | some (n, va) => .trap causeCaplimit va (decodeInfo op n)
      | none =>
        let blocks := blocking pilot cap sh v.f v.t v.g.pilot.pend ++ (if sysWaits op v || releaseWaits op v then v.t.pend else [])
        if !blocks.isEmpty then .wait (pendLeaf blocks) (blocks.flatMap fun p => p.dst.map (·.1))
        else if releases op && decide (v.s.cycle < retiredAt v) then .hold (retiredAt v)
        else .go

/-- Applies a verdict to an executor. -/
def applyVerdict (op : Nat) (s : State) (v : View) : State :=
  match judge op v with
  | .go => s
  | .trap c a i => signalTrap s v c a i
  | .wait leaf on => modThread s (vid v) fun t => { t with run := .stalled (.result leaf on), since := now s }
  | .hold cycle => modThread s (vid v) fun t => { t with issueAt := cycle }

/-- An executor with a capsule counts the instruction (R352). -/
def countCap (t : Thread) : Thread :=
  { t with caps := t.caps.map fun c => if c.mode = .suspended then c else { c with count := c.count + 1 } }

/-- Strands of a choice that wait for their row, and those that issue: one slot's complete rows (R42). -/
def settleRow (s : State) (g : Group) (vs : List View) (seg : Nat) : List Nat × State :=
  let ks := vs.filterMap fun v => match v.who with | .strand k => some k | .pilot => none
  match vs with
  | [] => ([], s)
  | v :: _ =>
    let pc := fullPc g v.t
    let full := ks.filter (rowComplete g ks seg pc)
    let wait := ks.filter fun k => !rowComplete g ks seg pc k
    let s := wait.foldl (fun s k => modThread s { gid := g.gid, who := .strand k } fun t =>
      { t with run := .stalled .row, since := now s }) s
    match full with
    | [] => ([], s)
    | k :: _ =>
      let gang := rowGang g ks seg pc (slotOf g k)
      (gang, gang.foldl (fun s k => modThread s { gid := g.gid, who := .strand k } fun t => { t with run := .ready }) s)

/-- The executors that go on to the meaning.
DESIGN CHOICE (log entry 85), unsafe. -/
def selectIssuer (s : State) (iss : Issuer) (op : Nat) (f : Fields) (vs : List View) : Option Issuer × State :=
  match iss with
  | .pilot gid => (if vs.isEmpty then none else some (.pilot gid), s)
  | .gang gid _ =>
    let ks := vs.filterMap fun v => match v.who with | .strand k => some k | .pilot => none
    let seg := (shapeOf op false f).bind fun sh => rowSeg op sh f
    match seg, getGroup s gid with
    | some n, some g =>
      -- a strand in skip mode passes over the instruction (R361)
      let passing := (vs.filter skipping).filterMap fun v => match v.who with | .strand k => some k | .pilot => none
      let (ks, s) := settleRow s g (vs.filter fun v => !skipping v) n
      let ks := passing ++ ks
      (if ks.isEmpty then none else some (.gang gid ks), s)
    | _, _ => (if ks.isEmpty then none else some (.gang gid ks), s)

/-- The executors of an issue, as identifiers. -/
def issuerIds (iss : Issuer) : List ThreadId :=
  match iss with
  | .pilot gid => [{ gid := gid, who := .pilot }]
  | .gang gid ks => ks.map fun k => { gid := gid, who := .strand k }

/-- Prepares an issue: the state for the meaning, and the instruction, if any executor goes on to it.
DEDUCED (log entry 19), unsafe. -/
def prepare (iss : Issuer) (s : State) : State × Option Instr :=
  let f0 : Fields := { x := false, a := 0, d := 0, yld := false, stall := 0, len := 0, sub := 0, neg := false, pnum := 7,
                       c := 0, b := 0, w2 := 0, lit := 0 }
  match issueViews s iss f0 with
  | [] => (s, none)
  | v :: r =>
    if groupIssues v.g = false then (s, none)
    else match fetchInstr s v.g (coreOf v.g v.who) (codeReachOf v.g v.t) v.t.pc with
    | (.stop e va, s) => ((v :: r).foldl (fetchStopped e va) { s with cur := some iss }, none)
    | (.words ws, s) =>
      match splitRaw ws with
      | none => (s, none)
      | some (op, f) =>
        let s := (v :: r).foldl (refuseFetch ws.length) s
        let vs := ((v :: r).filter fun v => (fetchRefused v ws.length).isNone).map fun v => { v with s := s, f := f }
        let go := vs.filter fun v => judge op.toNat v == .go
        let s := vs.foldl (applyVerdict op.toNat) s
        match selectIssuer s iss op.toNat f go with
        | (none, s) => (s, none)
        | (some iss, s) =>
          let s := (issuerIds iss).foldl (fun s id => modThread s id countCap) s
          ({ s with cur := some iss, leave := if f.yld && !(isPilot v) then 1 else 0 }, ofOp op.toNat f)

/-! ### The choice -/

/-- The unit that issues an executor's instructions: its partition, or the helm of its core. -/
def schedUnit (g : Group) (w : Who) : Nat :=
  match w with
  | .pilot => coreOf g w * 16 + 8
  | .strand k => coreOf g w * 16 + (g.part + (g.lane0 + laneOf g k) / 32)

/-- An executor that can issue: its unit, itself, its entry, and its lane of the partition. -/
structure Cand where
  unit : Nat
  id : ThreadId
  entry : Entry
  plane : Nat
deriving DecidableEq, Repr

/-- The entry of an executor (R170). -/
def entryOf (g : Group) (t : Thread) : Entry := { kid := g.kid, pc := fullPc g t, cap := capCode t }

/-- Launch age: the kernel's selection order, then the linear index (R138). -/
def older (s : State) (a b : Group) : Bool :=
  let sel (g : Group) : Nat := match getKernel s g.kid with | some k => k.sel | none => 0
  decide (sel a < sel b ∨ (sel a = sel b ∧ a.lin.toNat < b.lin.toNat))

/-- Puts a group among groups sorted by launch age. -/
def insertAge (s : State) (g : Group) (l : List Group) : List Group :=
  match l with
  | [] => [g]
  | h :: r => if older s h g then h :: insertAge s g r else g :: h :: r

/-- The groups that issue, the oldest first (R138). -/
def byAge (s : State) : List Group := (s.groups.filter groupIssues).foldr (insertAge s) []

/-- Every executor that can issue in the present cycle (R45), the oldest first: by launch age of its group, then the pilot, then by index. -/
def cands (s : State) : List Cand :=
  (byAge s).flatMap fun g =>
    (allWho g).filterMap fun w =>
      match getThread g w with
      | some t =>
        if t.run = .ready ∧ t.stopped = false ∧ t.issueAt ≤ s.cycle then
          some { unit := schedUnit g w, id := { gid := g.gid, who := w }, entry := entryOf g t,
                 plane := match w with | .strand k => (g.lane0 + laneOf g k) % 32 | .pilot => 0 }
        else none
      | none => none

/-- The place of a unit in the order of a cycle: every partition before every helm, since strand updates of a cycle apply before
pilot updates (R180). -/
def unitPlace (u : Nat) : Nat := if u % 16 = 8 then 2048 + u else u

/-- The unit that issues next: the first that has not had its turn in this cycle, of those with something to issue.
DESIGN CHOICE (log entry 16), unsafe. -/
def nextUnit (done : Nat) (us : List Nat) : Option Nat :=
  ((us.filter fun u => decide (done ≤ unitPlace u)).map fun u => (unitPlace u, u)).foldl
    (fun (b : Option (Nat × Nat)) p => match b with | some q => if p.1 < q.1 then some p else b | none => some p) none |>.map (·.2)

/-- What a unit keeps; one that has not issued yet has no current gang. -/
def schedOf (s : State) (u : Nat) : PartSched :=
  (s.gangs.find? fun p => p.unit == u).getD
    { unit := u, gid := 0, entry := { kid := 0, pc := 0, cap := false }, inRow := 0, leave := 1, waits := [] }

/-- The first of each lane. -/
def perLane (l : List Cand) : List Cand :=
  l.foldl (fun acc c => if acc.any fun d => d.plane == c.plane then acc else acc ++ [c]) []

/-- The entries of candidates, in the order of their oldest strands. -/
def entriesOf (l : List Cand) : List Entry :=
  l.foldl (fun acc c => if acc.contains c.entry then acc else acc ++ [c.entry]) []

/-- A starving entry of a unit, the longest waiting first (R173). -/
def starvingCand (s : State) (u : Nat) (l : List Cand) : Option Cand :=
  (s.starving.filter fun e => e.1 * 16 + e.2.1 == u).findSome? fun e => l.find? fun c => c.id == e.2.2

/-- Entries of a convergence table (R14). -/
def tableSize : Nat := 64

/-- The candidates whose entries the convergence table holds: the 64 oldest entries, of which a starving one that has no slot
displaces the youngest (R14, R170, R173). -/
def convTable (s : State) (u : Nat) (l : List Cand) : List Cand :=
  let held := (entriesOf l).take tableSize
  let held := match starvingCand s u l with
    | some c => if held.contains c.entry then held else held.take (tableSize - 1) ++ [c.entry]
    | none => held
  l.filter fun c => held.contains c.entry

/-- The candidate whose entry the partition issues (R171).
DESIGN CHOICE (log entry 85), unsafe. -/
def chooseEntry (s : State) (u : Nat) (l : List Cand) : Option Cand :=
  let p := schedOf s u
  match starvingCand s u l with
  | some c => some c
  | none =>
    let cur := l.find? fun c => c.entry == p.entry
    let others := l.filter fun c => c.entry != p.entry
    if p.leave = 0 ∧ p.inRow < 64 ∧ cur.isSome then cur
    else if p.leave = 2 ∧ others ≠ [] then others.head?
    else l.head?

/-- The helm's choice: the oldest ready pilot, passing over one that has just yielded (R150, R188). -/
def choosePilot (s : State) (u : Nat) (l : List Cand) : Option Cand :=
  let p := schedOf s u
  match l.filter fun c => !(p.leave == 2 && c.id.gid == p.gid) with
  | c :: _ => some c
  | [] => l.head?

/-- Puts a candidate among candidates in lane order. -/
def insertLane (c : Cand) (l : List Cand) : List Cand :=
  match l with
  | [] => [c]
  | d :: r => if c.plane ≤ d.plane then c :: d :: r else d :: insertLane c r

/-- A group's part of a gang, in increasing lane order. -/
def gangOf (gid : Nat) (gang : List Cand) : Issuer :=
  .gang gid (((gang.filter fun c => c.id.gid == gid).foldr insertLane []).filterMap fun c =>
    match c.id.who with | .strand k => some k | .pilot => none)

/-- The groups of a gang in the order of their lanes, of which each has its own (R143, R146). -/
def gangGroups (gang : List Cand) : List Nat :=
  (gang.foldr insertLane []).foldl (fun acc c => if acc.contains c.id.gid then acc else acc ++ [c.id.gid]) []

/-- The executors that issue next, and their unit: the part of the gang on the lowest lanes, and the parts of the other groups that
share it, in lane order (R146, R170, R331, R339).
DESIGN CHOICE (log entry 16), unsafe. DESIGN CHOICE (log entry 85), unsafe. -/
def pickIssuer (s : State) : Option (Nat × Issuer × List Issuer) :=
  let l := cands s
  match nextUnit s.unitsDone (l.map (·.unit)) with
  | none => none
  | some u =>
    let l := l.filter fun c => c.unit == u
    if u % 16 = 8 then (choosePilot s u l).map fun c => (u, .pilot c.id.gid, [])
    else
      let l := convTable s u l
      match chooseEntry s u l with
      | none => none
      | some c =>
        let gang := perLane (l.filter fun d => d.entry == c.entry)
        match gangGroups gang with
        | [] => none
        | gid :: r => some (u, gangOf gid gang, r.map fun n => gangOf n gang)

/-- The further issues of a gang that stand on the agenda. -/
def jointTurns (s : State) : List Issuer := s.agenda.filterMap fun t => match t with | .joint i => some i | _ => none

/-- The executors of the gang that an issue begins, those of the further groups among them. -/
def gangIds (s : State) (iss : Issuer) : List ThreadId := issuerIds iss ++ (jointTurns s).flatMap issuerIds

/-- The slots in which each READY executor of a unit has not issued (R173). -/
def countWaits (p : PartSched) (l : List Cand) (issued : List ThreadId) : List (ThreadId × Nat) :=
  (l.filter fun c => !issued.contains c.id).map fun c =>
    (c.id, match p.waits.find? fun e => e.1 == c.id with | some e => e.2 + 1 | none => 1)

/-- The oldest executor of an issue: its pilot, or the strand of lowest index. -/
def oldestOf (iss : Issuer) : ThreadId :=
  match iss with
  | .pilot gid => { gid := gid, who := .pilot }
  | .gang gid ks => { gid := gid, who := .strand (ks.min?.getD 0) }

/-- The unit that issues for an executor. -/
def issuerUnit (s : State) (iss : Issuer) : Nat :=
  match getGroup s (oldestOf iss).gid with
  | some g => schedUnit g (oldestOf iss).who
  | none => 0

/-- The entry at which the oldest executor of an issue stands. -/
def issueEntry (s : State) (iss : Issuer) : Entry :=
  match getGroup s (oldestOf iss).gid with
  | some g =>
    match getThread g (oldestOf iss).who with
    | some t => entryOf g t
    | none => { kid := 0, pc := 0, cap := false }
  | none => { kid := 0, pc := 0, cap := false }

/-- An executor that a halt has reached in its instruction stops once that has completed, or stalls otherwise than on its response
(R154). -/
def settleStop (s : State) (id : ThreadId) : State :=
  let ends (t : Thread) : Bool := t.stopNext && (match t.run with | .stalled (.remote _) => false | _ => t.remote.isNone)
  match (getGroup s id.gid).bind fun g => getThread g id.who with
  | some t =>
    if ends t then
      settleHalt (modThread s id fun t => { unpark t with stopped := true, stopNext := false, fixed := endFixed t.fixed }) id.gid
    else s
  | none => s

/-- After an issue of a unit: its gang goes on with the part that holds its oldest strand
(R171, R172); e0 is the entry at which it issued. -/
def noteIssue (s : State) (u : Nat) (iss : Issuer) (e0 : Entry) : State :=
  let s := (issuerIds (s.cur.getD iss)).foldl settleStop s
  let p := schedOf s u
  let same := decide (p.entry = e0) && p.leave == 0
  let l := (cands s).filter fun c => c.unit == u
  let ids := gangIds s iss
  { s with
    unitsDone := unitPlace u + 1
    cur := none
    starving := s.starving.filter fun e =>
      !(e.1 * 16 + e.2.1 == u && (ids.contains e.2.2 || !(l.any fun c => c.id == e.2.2)))
    gangs := upsert (fun x => x.unit == u)
      { unit := u, gid := (oldestOf iss).gid, entry := issueEntry s iss,
        inRow := if same then (if p.inRow < 64 then p.inRow + 1 else 1) else 1,
        leave := s.leave, waits := countWaits p l ids } s.gangs
    leave := 0 }

/-- After an issue by a further group of a gang: what the unit keeps was noted with the gang's first issue; where this part holds the
gang's oldest strand, the unit goes on with it (R172). -/
def noteJoint (s : State) (u : Nat) (iss : Issuer) (e0 : Entry) : State :=
  let iss := s.cur.getD iss
  let s := (issuerIds iss).foldl settleStop s
  let elder (p : PartSched) : Bool :=
    match getGroup s (oldestOf iss).gid, getGroup s p.gid with | some g, some h => older s g h | _, _ => false
  { s with
    cur := none, leave := 0
    gangs := replaceIf (fun p => p.unit == u && p.entry.kid == e0.kid && elder p)
      (fun p => { p with gid := (oldestOf iss).gid, entry := issueEntry s iss }) s.gangs }

/-- The oldest strand of its entry in a unit (R170). -/
def isOldest (l : List Cand) (t : ThreadId) : Bool :=
  match l.find? fun c => c.id == t with
  | some c => (l.find? fun d => d.entry == c.entry) == some c
  | none => false

/-- The entry that has starved: its oldest strand has been READY for 4,096 slots without issuing (R173). -/
def dueStarving (s : State) : Option Instr :=
  (s.gangs.filter fun p => p.unit % 16 != 8).findSome? fun p => (p.waits.find? fun e =>
    decide (4096 ≤ e.2) && !(s.starving.contains (p.unit / 16, p.unit % 16, e.1)) &&
      isOldest ((cands s).filter fun c => c.unit == p.unit) e.1).map fun e =>
      .starvationGuard (p.unit / 16) (p.unit % 16) e.1

/-- STARVATION_GUARD (R173). -/
def execStarvationGuard (core part : Nat) (t : ThreadId) (s : State) : Host.Outcome State Fault Refusal :=
  let p := schedOf s (core * 16 + part)
  .next (if (p.waits.any fun e => e.1 == t && decide (4096 ≤ e.2)) && !(s.starving.contains (core, part, t))
    then { s with starving := s.starving ++ [(core, part, t)] } else s)

end Sys2Proof.Machine
end

