-- ==== Sys2Proof/Machine/Memory.lean ====
section
/-! DEFINITION. The memory family: loads, stores, expand and compress, prefetch and flush, atomics, address waits,
arrival words, bank switches, fences and TLB invalidation (R276, R277, R286-R301, R314). -/

namespace Sys2Proof.Machine

open Sys2Proof

/-- Code of the access size. -/
def sizeCode (f : Fields) : Nat := fld f.sub 5 3
def sxBit (f : Fields) : Bool := bit1 f.sub 6

/-- LD (R289). -/
def execLd (f : Fields) (s : State) : Host.Outcome State Fault Refusal :=
  issueEach f s fun v s =>
    let n := sizeOf_ f
    access s v (memVa v) .read n (sizeCode f) fun s r =>
      loadAt s v (memVa v) .read n r fun s bs => writeLoad s v n (sxBit f) bs

/-- A store of a capsule step becomes an intent (R353); one outside main memory breaks a limit (R352). -/
def capStore (s : State) (v : View) (c : Capsule) (r : Res) (n : Nat) (x : W64) : State :=
  match r with
  | .mem _ pa =>
    if inMain pa n then
      modThread s (vid v) fun t =>
        { t with caps := t.caps.map fun c =>
            { c with stores := c.stores + 1, intents := c.intents ++ [{ pa := pa, size := BitVec.ofNat 2 (sizeCode v.f), val := x }] } }
    else signalTrap s v causeCaplimit c.va (decodeInfo 0x181 6)
  | _ => signalTrap s v causeCaplimit c.va (decodeInfo 0x181 6)

/-- ST at one executor: the store for the queue (R289). -/
def storeOne (v : View) (s : State) : List StoreOp × State :=
  let n := sizeOf_ v.f
  let x := readDI v (8 * n)
  storeAccess s v (memVa v) n (sizeCode v.f) .write fun s r =>
    match v.t.caps with
    | some c => if c.mode = .inside then ([], capStore s v c r n (BitVec.ofNat 64 x)) else putStore v n x s r
    | none => putStore v n x s r
where
  /-- A store that is no intent. -/
  putStore (v : View) (n x : Nat) (s : State) (r : Res) : List StoreOp × State :=
    match r with
    | .mem l pa => ([storeOp v false pa (leafCpol l.w0) (toBytes n x)], s)
    | .win w => ([], winStore s v w (toBytes n x))
    | _ => ([], s)

/-- ST (R287, R289, R353). -/
def execSt (f : Fields) (s : State) : Host.Outcome State Fault Refusal := issueGang f s fun vs s => storeGang vs s storeOne

/-- LDS (R285, R289). -/
def execLds (f : Fields) (s : State) : Host.Outcome State Fault Refusal :=
  issueEach f s fun v s =>
    let n := sizeOf_ f
    scratchAccess s v .read (scratchOff v) n (sizeCode f) fun s =>
      writeLoad s v n (sxBit f) (scratchRead s v (scratchOff v) n)

/-- STS at one executor (R285, R289). -/
def stsOne (v : View) (s : State) : List StoreOp × State :=
  let n := sizeOf_ v.f
  let o := scratchOff v
  let va := vaOf 0 (BitVec.ofNat 64 o)
  if o % n ≠ 0 then ([], signalTrap s v causeMisalign va (alignInfo .write (sizeCode v.f)))
  else match checkScratch v.g o n with
  | some c => ([], signalTrap s v causeBankmode va (alignInfo .write c))
  | none => ([storeOp v true o 0 (toBytes n (readDI v (8 * n)))], s)

/-- STS (R285, R287, R289). -/
def execSts (f : Fields) (s : State) : Host.Outcome State Fault Refusal := issueGang f s fun vs s => storeGang vs s stsOne

/-- Bytes of the block of LDU and STU (R290). -/
def blockBytes (f : Fields) : Nat := 8 * 2 ^ fld f.sub 7 6

/-- LDU (R290): a window access takes 1 to 8 bytes, so a longer block of it faults as any longer access. -/
def execLdu (f : Fields) (s : State) : Host.Outcome State Fault Refusal :=
  issueEach f s fun v s =>
    let n := blockBytes f
    access s v (memVa v) .read n (sizeCode f) fun s r =>
      loadAt s v (memVa v) .read n r fun s bs =>
        applyPend s v { effNone with writes := writesDI v (8 * n) (ofBytes bs) } 0

/-- STU at the pilot (R290). -/
def stuOne (v : View) (s : State) : List StoreOp × State :=
  let n := blockBytes v.f
  let bs := toBytes n (readDI v (8 * n))
  storeAccess s v (memVa v) n (sizeCode v.f) .write fun s r =>
    match r with
    | .mem l pa => ([storeOp v false pa (leafCpol l.w0) bs], s)
    | .win w => ([], winStore s v w bs)
    | _ => ([], s)

/-- STU (R290). -/
def execStu (f : Fields) (s : State) : Host.Outcome State Fault Refusal := issueGang f s fun vs s => storeGang vs s stuOne

/-! ### Expand-load and compress-store -/

/-- The rows of an issue: the active lanes of each block of 32 group lanes, in lane order (R291). -/
def rowsOf (vs : List View) : List (List View) :=
  [vs.filter fun v => laneV v < 32, vs.filter fun v => 32 ≤ laneV v].filter fun l => !l.isEmpty

/-- The address of element k of a row (R291). -/
def elemVa (row : List View) (n k : Nat) : BitVec 72 :=
  match row with | v :: _ => vaAdd (memVa v) (n * k) | [] => 0

/-- A failure of an element is taken by every active lane (R291-R293). -/
def failRow (s : State) (row : List View) (va : BitVec 72) (a : Acc) (r : Res) (stc : Nat) : State :=
  row.foldl (fun s v => failAccess s v va a r stc) s

/-- The other lanes of a row whose active lanes have stalled at the instruction stay there with them (R239, R292). -/
def holdRow (row : List View) (s : State) : State :=
  match row with
  | [] => s
  | v :: _ =>
    let stuck := match (getGroup s v.g.gid).bind fun g => getThread g v.who with
      | some t => stalledAt v.t.pc t
      | none => false
    let mate (u : View) : Bool := !guardTrue u && slotV u == slotV v && laneV u / 32 == laneV v / 32
    if stuck then (((viewsOf v.s v.f).getD []).filter mate).foldl (fun s u => stallAt s u .row) s else s

/-- Checks every element of an LDE row: each lane with what its element meets, or the failure. -/
def checkRow (s : State) (row : List View) (n : Nat) : Except (BitVec 72 × Res) (List (View × BitVec 72 × Res)) × State :=
  (row.zip (List.range row.length)).foldl (fun acc e =>
    match acc with
    | (.error x, s) => (.error x, s)
    | (.ok l, s) =>
      let va := elemVa row n e.2
      match resolve s e.1 va .read n with
      | (.mem lf pa, s) => (.ok (l ++ [(e.1, va, .mem lf pa)]), s)
      | (.win w, s) => (.ok (l ++ [(e.1, va, .win w)]), s)
      | (r, s) => (.error (va, r), s)) (.ok [], s)

/-- An element of a peer whose response has not come. -/
def waitsRemote (s : State) (e : View × BitVec 72 × Res) : Bool :=
  match e.2.2 with
  | .mem l pa => (match placeOf s pa with | .peer _ _ => !leafStow l.w0 && e.1.t.remote.isNone | _ => false)
  | _ => false

/-- What a peer's element has met: a request that cannot be sent, or a response that brings a failure (R448). -/
def remoteElem (s : State) (e : View × BitVec 72 × Res) : Option (BitVec 72 × Res) :=
  match e.2.2 with
  | .mem l pa =>
    match placeOf s pa with
    | .peer rank _ =>
      if leafStow l.w0 then none
      else (match e.1.t.remote with
      | some (st, _) => remoteFailed .read l st
      | none => remoteBarred s e.1 .read l rank).map fun r => (e.2.1, r)
    | _ => none
  | _ => none

/-- An element that waits for its executor's queued stores to leave. -/
def elemWaits (s : State) (n : Nat) (e : View × BitVec 72 × Res) : Bool :=
  match e.2.2 with
  | .mem l pa => !leafStow l.w0 && readWaits s e.1 pa n
  | .win _ => ownQueued s e.1
  | _ => false

/-- LDE of one row (R291, R292): all elements are read before any destination is written, and the failure of one is every active
lane's. -/
def ldeRow (row : List View) (s : State) : State :=
  match row with
  | [] => s
  | v :: _ =>
    let n := sizeOf_ v.f
    let code := sizeCode v.f
    if fld (memVa v) 63 0 % n ≠ 0 then
      row.foldl (fun s u => signalTrap s u causeMisalign (memVa v) (alignInfo .read code)) s
    else match checkRow s row n with
    | (.error (va, r), s) => failRow s row va .read r 0
    | (.ok l, s) =>
      match l.findSome? (remoteElem s) with
      | some (va, r) => failRow (row.foldl takeRemote s) row va .read r 0
      | none =>
        if l.any (elemWaits s n) then
          l.foldl (fun s e => stallAt s e.1 (if elemWaits s n e then .storeQueue else .row)) s
        else if l.any (waitsRemote s) then
          l.foldl (fun s e => if waitsRemote s e then loadAt s e.1 e.2.1 .read n e.2.2 fun s _ => s
            else stallAt s e.1 .row) s
        else l.foldl (fun s e => loadAt s e.1 e.2.1 .read n e.2.2 fun s bs => writeLoad s e.1 n false bs) s

/-- LDE (R291, R292); in pilot code it acts as LD. -/
def execLde (f : Fields) (s : State) : Host.Outcome State Fault Refusal :=
  issueGang f s fun vs s => (rowsOf vs).foldl (fun s row => holdRow row (ldeRow row s)) s

/-- Sets STCRES of every active lane of a row. -/
def setStcres (s : State) (row : List View) (k : Nat) : State :=
  row.foldl (fun s v => modThread s (vid v) fun t => { t with stcres := BitVec.ofNat 32 k }) s

/-- STC from element k on (R293): the elements entered, and the state; m bounds the elements. -/
def stcFrom (row : List View) (n m k : Nat) (acc : List StoreOp) (s : State) : List StoreOp × State :=
  match m with
  | 0 => (acc, setStcres s row 0)
  | j + 1 =>
    match row[k]? with
    | none => (acc, setStcres s row 0)
    | some v =>
      let va := elemVa row n k
      let x := readDI v (8 * n)
      match resolve s v va .write n with
      | (.mem l pa, s) => stcFrom row n j (k + 1) (acc ++ [storeOp v false pa (leafCpol l.w0) (toBytes n x)]) s
      | (.win w, s) => stcFrom row n j (k + 1) acc (winStore s v w (toBytes n x))
      | (r, s) => (acc, failRow (setStcres s row k) row va .write r k)

/-- STC of one row. -/
def stcRow (row : List View) (s : State) : List StoreOp × State :=
  match row with
  | [] => ([], s)
  | v :: _ =>
    let n := sizeOf_ v.f
    if fld (memVa v) 63 0 % n ≠ 0 then
      ([], row.foldl (fun s u => signalTrap s u causeMisalign (memVa v) (alignInfo .write (sizeCode v.f))) s)
    else if isPilot v then storeOne v s
    else if fld (memVa v) 71 64 = 0xFE ∧ row.any (ownQueued s) = true then ([], row.foldl (fun s u => stallAt s u .storeQueue) s)
    else stcFrom row n (row.length + 1) v.t.stcres.toNat [] s

/-- STC (R291, R293); in pilot code it acts as ST. -/
def execStc (f : Fields) (s : State) : Host.Outcome State Fault Refusal :=
  issueGang f s fun vs s =>
    match vs with
    | [] => s
    | v :: _ =>
      if 64 ≤ (queueOf v.g v.who).length then
        (rowsOf vs).foldl (fun s row => holdRow row (row.foldl (fun s v => stallAt s v .storeQueue) s)) s
      else
        let (ops, s) := (rowsOf vs).foldl (fun (acc : List StoreOp × State) row =>
          let (o, s) := stcRow row acc.2
          (acc.1 ++ o, holdRow row s)) ([], s)
        if ops.isEmpty then s
        else modGroup s v.g.gid fun g => { g with stq := g.stq ++ [{ spreadIx := spreadIx v.g v.who, ops := ops }] }

/-! ### Prefetch and flush -/

/-- PREF at one executor (R294): it fetches, or queues the walk that its translation needs, for which it waits while the walk
queue is full (R268). -/
def prefOne (v : View) (s : State) : State :=
  let u : WalkUse := { core := coreOf v.g v.who, ctx := v.g.ctx, va := memVa v, size := sizeOf_ v.f, l2 := bit1 v.f.sub 6 }
  if 0xF0 ≤ fld u.va 71 64 ∨ fld u.va 63 0 % u.size ≠ 0 then s
  else match tlbFind s u.core u.ctx u.va with
  | some l => prefetch s u l
  | none => if walkSlots ≤ (walksOf s (dieOf u.core)).length then stallAt s v .walkQueue else queueWalk s u

/-- PREF (R294): no architectural effect. -/
def execPref (f : Fields) (s : State) : Host.Outcome State Fault Refusal := issueEach f s prefOne

/-- Executors of a die that a full walk queue holds try again (R268). -/
def readyWalks (s : State) (die : Nat) : State :=
  let go (g : Group) (w : Who) (t : Thread) : Thread :=
    if t.run = .stalled .walkQueue ∧ dieOf (coreOf g w) = die then { t with run := .ready } else t
  let s := { s with groups := s.groups.map fun g =>
    { g with pilot := go g .pilot g.pilot,
             strands := (g.strands.zip (List.range g.strands.length)).map fun e => go g (.strand e.2) e.1 } }
  (whoWith s fun g t => t.run == .stalled (.vector 0) && onCore g).foldl enterVector s

/-- PAGE_WALK (R254, R266, R268): the oldest request of a die is served; an entry that faults is not cached. -/
def execPageWalk (die : Nat) (s : State) : Host.Outcome State Fault Refusal :=
  match s.walkQ.find? fun q => q.die == die with
  | none => .next s
  | some q => .next (readyWalks (serveWalk s q) die)

/-- The 128-byte lines of an access. -/
def linesOf (pa n : Nat) (a : Nat) : Bool := decide (pa / 128 ≤ a / 128 ∧ a / 128 ≤ (pa + n - 1) / 128)

/-- CFLUSH (R295): it never faults, and does nothing where a check of R260 for a read fails; it waits for the executor's earlier
stores. The L2 slices write through to main memory at once, so SCOPE 5 and 6 find nothing more to write.
DESIGN CHOICE (log entry 76), unsafe. -/
def flushLines (v : View) (s : State) : State :=
  let core := coreOf v.g v.who
  let va := memVa v
  let n := sizeOf_ v.f
  if ownQueued s v then stallAt s v .storeQueue
  else if scopeOf v.f ≤ 1 ∨ 0xF0 ≤ fld va 71 64 ∨ fld va 63 0 % n ≠ 0 then s
  else match translate s (some core) v.g.ctx va with
  | (.leaf l, s) =>
    if leafPoison l.w0 = true ∨ leafRd l.w0 = false then s
    else if leafStow l.w0 then modCtx s v.g.ctx fun c => { c with decoded := c.decoded.filter fun d => d.va != tileVa va }
    else
      let pa := l.pa + va.toNat % 2 ^ l.bits
      let s := writeBack s core (linesOf pa n)
      if bit1 v.f.sub 6 then
        { s with clean := skeep s.clean fun k => !(k / 2 ^ 52 == core && linesOf pa n (k % 2 ^ 52)) }
      else s
  | (.queueFull, s) => stallAt s v .walkQueue
  | (_, s) => s

/-- CFLUSH (R295). -/
def execCflush (f : Fields) (s : State) : Host.Outcome State Fault Refusal := issueEach f s flushLines

/-- CACHE_WRITE_BACK (R305): the dirty bytes of a line of a core reach the home slice.
DESIGN CHOICE (log entry 82), unsafe. -/
def execCacheWriteBack (core : Nat) (line : Nat) (s : State) : Host.Outcome State Fault Refusal :=
  .next (writeBack s core fun a => a / 128 == line)

/-- STOW_DECODE (R273): the home slice decodes a tile of a mapped stowed page, all or nothing. -/
def execStowDecode (ctx : Nat) (va : BitVec 72) (s : State) : Host.Outcome State Fault Refusal :=
  .next (match walk s ctx va with
    | .leaf l => if leafStow l.w0 then (stowTile s ctx l va).2 else s
    | _ => s)

/-! ### Atomics -/

/-- A lane of a read-modify-write that has passed its checks. -/
structure RmwLane where
  v : View
  va : BitVec 72
  r : Res

/-- Checks of every lane: those that may go on. Earlier queued stores of the executor leave first where the instruction
performs at once (R287, R296). -/
def rmwLanes (vs : List View) (s : State) (wait : Bool) : List RmwLane × State :=
  vs.foldl (fun (acc : List RmwLane × State) v =>
    let s := acc.2
    let n := sizeOf_ v.f
    let va := memVa v
    if fld va 63 0 % n ≠ 0 then (acc.1, signalTrap s v causeMisalign va (alignInfo .rmw (sizeCode v.f)))
    else if (wait || fld va 71 64 == 0xFE) && ownQueued s v then (acc.1, stallAt s v .storeQueue)
    else match resolve s v va .rmw n with
    | (.mem l pa, s) => (acc.1 ++ [{ v := v, va := va, r := .mem l pa }], s)
    | (.win w, s) => (acc.1 ++ [{ v := v, va := va, r := .win w }], s)
    | (r, s) => (acc.1, failAccess s v va .rmw r 0)) ([], s)

/-- Lanes that name one place are one request (R298). -/
def rmwSets (l : List RmwLane) : List (List RmwLane) :=
  ((l.map (·.r)).dedup).map fun r => l.filter fun x => x.r == r

/-- Gives each lane its old value, interlocked; a REPLAY kernel's path signature takes it (R297, R486). -/
def giveOlds (s : State) (set : List RmwLane) (olds : List Nat) : State :=
  (set.zip olds).foldl (fun s e =>
    let v := e.1.v
    let s := if replayKernel s v.g then pathStep s v e.2 else s
    let w := loadW v (sizeOf_ v.f)
    applyPend s v { effNone with writes := writesDI v w e.2 } 0) s

/-- The release of a read-modify-write away from main memory (R312, R313). -/
def rmwRelease (s : State) (v : View) : State :=
  if 3 ≤ ordOf v.f then releaseFrom s (coreOf v.g v.who) (scopeV v) else s

/-- The acquire of a read-modify-write away from main memory (R312, R313). -/
def rmwAcquire (s : State) (v : View) : State := loadAcquire s v

/-- A combined request of a peer's memory (R296, R448): its response holds the lanes' old values. -/
def rmwRemote (s : State) (set : List RmwLane) (l : Leaf) (rank : BitVec 12) (a atop : Nat) (operands : List Byte) : State :=
  match set with
  | [] => s
  | x :: rest =>
    match x.v.t.remote with
    | some _ =>
      set.foldl (fun s x =>
        match x.v.t.remote with
        | some (st, bs) => remoteTake s x.v x.va .rmw l st bs fun s bs => giveOlds (rmwAcquire s x.v) [x] [ofBytes bs]
        | none => s) s
    | none =>
      let s := rmwRelease s x.v
      let p (tag : BitVec 48) : Packet :=
        atomOperands (sizeOf_ x.v.f) operands
          { pkt0 s rank .atom 0 x.v.g.ctx tag with
            addr := BitVec.ofNat 64 a,
            opinfo := opInfo (sizeCode x.v.f) atop (scopeOf x.v.f) (ordOf x.v.f) (if bit1 x.v.f.sub 6 then 1 else 0) }
      if (remoteBarred s x.v .rmw l rank).isSome then set.foldl (fun s y => remoteAsk s y.v y.va .rmw l rank p) s
      else
        let tag := if s.nextTag = postedTag then 0 else s.nextTag
        rest.foldl (fun s y => stallAt s y.v (.remote tag)) (remoteAsk s x.v x.va .rmw l rank p)

/-- One request of a read-modify-write: `fn` combines the lanes; `operands` are their bytes for a peer. -/
def rmwSet (s : State) (set : List RmwLane) (atop : Nat) (put : Bool) (fn : Nat → Nat × List Nat) (operands : List Byte) :
    State :=
  match set with
  | [] => s
  | x :: _ =>
    let v := x.v
    let n := sizeOf_ v.f
    match x.r with
    | .win w =>
      let core := coreOf v.g v.who
      let (bs, s) := winRead (if 3 ≤ ordOf v.f then releaseFrom s core 6 else s) core w n
      let (new, olds) := fn (ofBytes bs)
      let s := winWrite s core w (toBytes n new)
      giveOlds (if 2 ≤ ordOf v.f then acquireTo s core 6 else s) set olds
    | .mem l pa =>
      match placeOf s pa with
      | .main =>
        let (olds, s) := rmwAt s (coreOf v.g v.who) (unitOf v.g v.who) (leafCpol l.w0) (scopeV v) (ordOf v.f) pa n put fn
        giveOlds s set olds
      | .host a =>
        let s := rmwRelease s v
        let (new, olds) := fn (ofBytes (sgets s.hostMem a n))
        giveOlds (rmwAcquire { s with hostMem := ssets s.hostMem a (toBytes n new) } v) set olds
      | .peer rank a => rmwRemote s set l rank a atop operands
    | _ => s

/-- ATOP of the control field. -/
def atopOf (f : Fields) : Nat := fld f.c 9 5

/-- Operand B of an atomic of n bytes, a bit pattern: an inline immediate is converted for a floating operation
(R33, R297). -/
def atomOperand (v : View) : Nat :=
  let n := 8 * sizeOf_ v.f
  if 10 ≤ atopOf v.f then specVal v (some v.t) v.f.b n (inlF (atomFmt n (bit1 v.f.sub 6))) else readBI v n

/-- ATOM (R296-R298). -/
def execAtom (f : Fields) (s : State) : Host.Outcome State Fault Refusal :=
  issueGang f s fun vs s =>
    let (lanes, s) := rmwLanes vs s true
    let n := sizeOf_ f
    (rmwSets lanes).foldl (fun s set =>
      let ops := set.map fun x => atomOperand x.v
      rmwSet s set (atopOf f) true (atomSet (atopOf f) (8 * n) (bit1 f.sub 6) ops) (ops.flatMap (toBytes n))) s

/-- A combined RED for the queue, or its effect where the place is the debug window. -/
def redSet (set : List RmwLane) (s : State) : List StoreOp × State :=
  match set with
  | [] => ([], s)
  | x :: _ =>
    let f := x.v.f
    let n := sizeOf_ f
    let ops := set.map fun x => atomOperand x.v
    match x.r with
    | .mem l pa =>
      ([{ storeOp x.v false pa (leafCpol l.w0) (toBytes n 0) with
          red := some (BitVec.ofNat 5 (atopOf f), bit1 f.sub 6, ops.map (BitVec.ofNat 64)) }], s)
    | .win w =>
      let core := coreOf x.v.g x.v.who
      let (bs, s) := winRead (if ordOf f = 2 then releaseFrom s core 6 else s) core w n
      ([], winWrite s core w (toBytes n (atomSet (atopOf f) (8 * n) (bit1 f.sub 6) ops (ofBytes bs)).1))
    | _ => ([], s)

/-- RED (R287, R296-R298): it leaves through the store queue. -/
def execRed (f : Fields) (s : State) : Host.Outcome State Fault Refusal :=
  issueGang f s fun vs s =>
    match vs with
    | [] => s
    | v :: _ =>
      if 64 ≤ (queueOf v.g v.who).length then vs.foldl (fun s v => stallAt s v .storeQueue) s
      else
        let (lanes, s) := rmwLanes vs s false
        let (ops, s) := (rmwSets lanes).foldl (fun (acc : List StoreOp × State) set =>
          let (o, s) := redSet set acc.2
          (acc.1 ++ o, s)) ([], s)
        if ops.isEmpty then s
        else modGroup s v.g.gid fun g => { g with stq := g.stq ++ [{ spreadIx := spreadIx v.g v.who, ops := ops }] }

/-- CAS and CAS2: B is the expected value, D the new one (R297, R298). -/
def casIssue (f : Fields) (s : State) : Host.Outcome State Fault Refusal :=
  issueGang f s fun vs s =>
    let (lanes, s) := rmwLanes vs s true
    let n := sizeOf_ f
    (rmwSets lanes).foldl (fun s set =>
      let ops := set.map fun x => (readBI x.v (8 * n), readDI x.v (8 * n))
      rmwSet s set 0 false (casSet ops) (ops.flatMap fun e => toBytes n e.1 ++ toBytes n e.2)) s

/-- CAS (R297). -/
def execCas (f : Fields) (s : State) : Host.Outcome State Fault Refusal := casIssue f s

/-- CAS2 (R297). -/
def execCas2 (f : Fields) (s : State) : Host.Outcome State Fault Refusal := casIssue f s

/-! ### Address waits -/

/-- The condition of WAITA (R299). -/
def waitCond (code n m b : Nat) : Bool :=
  match code with
  | 0 => m == b
  | 1 => m != b
  | 2 => decide (b ≤ m)
  | _ => decide (sxNat n b ≤ sxNat n m)

/-- The words that the monitor of a slice watches, as numbers of 8 bytes (R299, R339). -/
def monitored (s : State) (slice : Nat) : List Nat :=
  (s.groups.flatMap fun g => (g.pilot :: g.strands).filterMap fun t =>
    match t.run with
    | .parked (.waita _ p .slice) => if homeSlice s p == slice then some (p / 8) else none
    | .parked (.semp p) => if decide (p < apertureBase) && homeSlice s p == slice then some (p / 8) else none
    | _ => none).dedup

/-- What watches a WAITA's word (R299): the core store, or the monitor of its home slice where it has room or watches the word
already; else it is reread. -/
def watchOf (s : State) (v : View) (l : Leaf) (pa : Nat) : Watch :=
  match placeOf s pa with
  | .main =>
    let m := monitored s (homeSlice s pa)
    if narrowAt (leafCpol l.w0) (scopeV v) then .core
    else if m.contains (pa / 8) || decide (m.length < 1024) then .slice else .reread
  | _ => .reread

/-- WAITA at one executor (R299): a waiter of a full monitor, or of a word outside main memory, rereads in time. -/
def waitOne (f : Fields) (v : View) (s : State) : State :=
  let n := sizeOf_ f
  let va := memVa v
  if ownQueued s v then stallAt s v .storeQueue
  else access s v va .read n (sizeCode f) fun s r =>
    loadAt s v va .read n r fun s bs =>
      if waitCond (fld f.sub 7 6) (8 * n) (ofBytes bs) (readBI v (8 * n)) then writeLoad s v n false bs
      else match r with
      | .mem l pa => parkAt s v (.waita va pa (watchOf s v l pa))
      | _ => parkAt s v (.waita va 0 .reread)

/-- WAITA (R299). -/
def execWaita (f : Fields) (s : State) : Host.Outcome State Fault Refusal := issueEach f s (waitOne f)

/-- A parked WAITA goes on to read its word again. -/
def rereadWait (s : State) (t : ThreadId) : State :=
  modThread s t fun x => match x.run with | .parked (.waita _ _ _) => { x with run := .ready } | _ => x

/-- WAITA_WAKE (R299): a write to the watched word was seen. -/
def execWaitaWake (t : ThreadId) (s : State) : Host.Outcome State Fault Refusal := .next (rereadWait s t)

/-- WAITA_REREAD (R299): a waiter without a monitor entry reads its word again. -/
def execWaitaReread (t : ThreadId) (s : State) : Host.Outcome State Fault Refusal := .next (rereadWait s t)

/-- A WAITA without a monitor entry whose 2 µs have passed. -/
def dueReread (s : State) : Option Instr :=
  ((whoWith s fun g t => groupIssues g && (match t.run with | .parked (.waita _ _ .reread) => true | _ => false) &&
    decide (2000 ≤ (now s).toNat - t.since.toNat)).head?).map .waitaReread

/-! ### Arrival words -/

/-- ARMW (R300, R301). -/
def execArmw (f : Fields) (s : State) : Host.Outcome State Fault Refusal :=
  issueEach f s fun v s =>
    let o := scratchOff v
    if ownQueued s v then stallAt s v .storeQueue
    else scratchAccess s v .rmw o 8 3 fun s =>
      let w := BitVec.ofNat 64 (ofBytes (scratchRead s v o 8))
      let new := fld w 63 48 * 2 ^ 48 + readBI v 32 % 2 ^ 24
      let s := scratchWrite s (unitOf v.g v.who) v.g.gid (spreadIx v.g v.who) o (toBytes 8 new)
      applyPend s v { effNone with writes := writesDI v (if isPilot v then 64 else 32) (fld w 63 48) } 0

/-- WAITW (R301): where it completes it is an acquire of what the engines have written (R319). -/
def execWaitw (f : Fields) (s : State) : Host.Outcome State Fault Refusal :=
  issueEach f s fun v s =>
    let o := scratchOff v
    if ownQueued s v then stallAt s v .storeQueue
    else scratchAccess s v .read o 8 3 fun s =>
      let w := BitVec.ofNat 64 (ofBytes (scratchRead s v o 8))
      if fld w 63 48 = readBI v 32 % 2 ^ 16 then parkAt s v (.waitw o)
      else applyPend (dropClean s (coreOf v.g v.who)) v { effNone with writes := writesDI v 64 w.toNat } 0

/-- Generations and count after an arrival (R300); m bounds the generations. -/
def arriveCount (m c target gen : Nat) : Nat × Nat :=
  match m with
  | 0 => (c, gen)
  | k + 1 => if target ≤ c then arriveCount k (c - target) target ((gen + 1) % 2 ^ 16) else (c, gen)

/-- A word after an arrival of n bytes (R300). -/
def arrivalStep (w : W64) (n : Nat) : W64 :=
  let target := fld w 23 0
  let c := fld w 47 24 + n
  if target = 0 then setFld w 47 24 (min c 0xFFFFFF)
  else
    let (c, g) := arriveCount (c + 1) c target (fld w 63 48)
    BitVec.ofNat 64 (g * 2 ^ 48 + c * 2 ^ 24 + target)

/-- Applies an arrival of a unit at an arrival word of a group's first core. -/
def arriveAt (s : State) (unit gid off n : Nat) : State :=
  match getGroup s gid with
  | none => s
  | some g =>
    let w := BitVec.ofNat 64 (ofBytes (sgets g.scratch (scratchKey 0 off) 8))
    scratchWrite s unit gid 0 off (toBytes 8 (arrivalStep w n).toNat)

/-- ARRIVAL_WORD_STEP (R300): it takes effect at a word in a SCRATCH bank. -/
def execArrivalWordStep (gid off bytes : Nat) (s : State) : Host.Outcome State Fault Refusal :=
  .next (match getGroup s gid with
    | some g => if checkScratch g off 8 = none ∧ off % 8 = 0 then arriveAt s (unitEngine (g.cores.getD 0 0) .copy) gid off bytes else s
    | none => s)

/-! ### Bank switches -/

/-- Clears a range of a bank on every core of a group. -/
def clearBank (g : Group) (i lo hi : Nat) : Group :=
  { g with scratch := skeep g.scratch fun k =>
      let o := k % 2 ^ 32
      !(o / 98304 == i && decide (lo ≤ o % 98304 ∧ o % 98304 < hi)) }

/-- An executor waits in WAITW for a word of a bank. -/
def awaitsBank (i : Nat) (t : Thread) : Bool := match t.run with | .parked (.waitw p) => p / 98304 == i | _ => false

/-- The banks of a list that leave SCRATCH when they go to a mode, and whose WAITWs then go on (R286). -/
def leavesScratch (g : Group) (m : BankMode) (i : Nat) : Bool := g.modes.getD i .scratch == .scratch && m != .scratch

/-- One bank goes to a mode, under the tag of the switch (R286). -/
def switchBank (g : Group) (i : Nat) (m : BankMode) (tag : BitVec 48) : Group :=
  let old := g.modes.getD i .scratch
  if old = m then g
  else
    let g := { g with modes := modNth g.modes i fun _ => m }
    let g := if old = .scratch then wakeWho g (fun _ t => awaitsBank i t) tag else g
    match old, m with
    | .scratch, .fifo => clearBank g i 0 64
    | .fifo, .scratch => g
    | _, _ => clearBank g i 0 98304

/-- Banks of a mask. -/
def bankList (g : Group) (mask : Nat) : List Nat := (List.range g.modes.length).filter fun i => nbit mask i

/-- First bank and banks of a channel's configuration (R386). -/
def chanFirst (cfg : W64) : Nat := fld cfg 4 0
def chanSlots (cfg : W64) : Nat := fld cfg 47 32
def chanSbytes (cfg : W64) : Nat := fld cfg 31 8
def chanBanks (cfg : W64) : Nat := ceilDiv (64 + chanSbytes cfg * chanSlots cfg) 98304

/-- A bank is bound to a configured channel (R386). -/
def chanBank (g : Group) (i : Nat) : Bool :=
  g.chans.any fun c => decide (chanFirst c.2 ≤ i ∧ i < chanFirst c.2 + chanBanks c.2)

/-! ### Fences and invalidation -/

/-- FENCE at one executor (R314, R315): one order of steps makes every fence sequentially consistent. -/
def fenceOne (f : Fields) (v : View) (s : State) : State :=
  let kind := ordOf f
  let core := coreOf v.g v.who
  if kind ≠ 0 ∧ ownQueued s v = true then stallAt s v (.fence (nextPc v))
  else
    let s := if kind ≠ 0 then releaseFrom s core (scopeV v) else s
    if kind ≠ 1 then acquireTo s core (scopeV v) else s

/-- FENCE (R314). -/
def execFence (f : Fields) (s : State) : Host.Outcome State Fault Refusal := issueEach f s (fenceOne f)

/-- Drops what meets a test of entries and of tiles, and the queued walks of a context (R277). -/
def dropCovered (s : State) (ctx : Nat) (hit : BitVec 72 → Nat → Bool) : State :=
  let used (u : WalkUse) : Bool := u.ctx == ctx && hit (granuleOf u.va) 16
  let s := { s with
    tlb := s.tlb.filter fun e => !(e.ctx == ctx && hit (pageBase e) (pageBits e))
    walkQ := (s.walkQ.map fun q => { q with uses := q.uses.filter fun u => !used u }).filter fun q => !q.uses.isEmpty }
  modCtx s ctx fun c => { c with decoded := c.decoded.filter fun d =>
    !(if d.span then hit (BitVec.ofNat 72 (d.va.toNat / 2 ^ 21 * 2 ^ 21)) 21 else hit (granuleOf d.va) 16) }

/-- The groups of a context perform their queued stores, whose translations have been used (R277). -/
def drainCtx (s : State) (ctx : Nat) : State :=
  ((s.groups.filter fun g => g.ctx == ctx).map (·.gid)).foldl (fun s gid => drainStores s gid (64 * 4)) s

/-- What meets a test of a page's base and size is dropped, and the accesses that used it are performed (R277). -/
def invalidate (s : State) (v : View) (hit : BitVec 72 → Nat → Bool) : State :=
  drainCtx (dropCovered (writeBack s (coreOf v.g v.who) fun _ => true) v.g.ctx hit) v.g.ctx

/-- Base address of TLBINV (R276). -/
def tlbinvVa (v : View) : BitVec 72 := vaOf (reachReg v.g (fld v.f.sub 4 2)) (BitVec.ofNat 64 (readA v 64))

/-- The reach check of PAGE and RANGE (R253, R276). -/
def tlbinvReach (s : State) (v : View) : Bool := reachOk s v.g.ctx (BitVec.ofNat 8 (fld (tlbinvVa v) 71 64))

/-- The end of TLBINV at executors of one group: the context's outstanding faults are retried, once the requests that are out have been
answered; until then they all wait (R277). -/
def tlbinvEnd (vs : List View) (s : State) : State :=
  match vs with
  | [] => s
  | v :: _ =>
    match (s.remotes.filter fun r => r.ctx == v.g.ctx).map (·.tag) with
    | [] => retryAll s v.g.ctx
    | tags => vs.foldl (fun s v => stallAt s v (.tlbinv tags (nextPc v))) s

/-- TLBINV (R277) at the executors of an issue, each with the test of what it covers, or none where it has no effect: those that the reach
check refuses trap; the others act once the earlier stores of all of them have left, and complete together. -/
def tlbinvIssue (f : Fields) (s : State) (ok : State → View → Bool) (hit : View → Option (BitVec 72 → Nat → Bool)) :
    Host.Outcome State Fault Refusal :=
  issueGang f s fun vs s =>
    let go := vs.filter (ok s)
    let acts := go.filter fun v => (hit v).isSome
    let s := (vs.filter fun v => !ok s v).foldl (fun s v => signalTrap s v causeReach (tlbinvVa v) (fld (tlbinvVa v) 71 64)) s
    if acts.isEmpty then s
    else if acts.any (ownQueued s) then go.foldl (fun s v => stallAt s v .storeQueue) s
    else tlbinvEnd go (acts.foldl (fun s v => match hit v with | some h => invalidate s v h | none => s) s)

/-- A page covers the address of TLBINV.page. -/
def pageHits (va base : BitVec 72) (bits : Nat) : Bool := base.toNat / 2 ^ bits == va.toNat / 2 ^ bits

/-- TLBINV.page (R277). -/
def execTlbinvPage (f : Fields) (s : State) : Host.Outcome State Fault Refusal :=
  tlbinvIssue f s tlbinvReach fun v => some (pageHits (tlbinvVa v))

/-- A range of granules, offsets modulo 2^64, overlaps 2^bits bytes at a base (R277). -/
def rangeHits (va : BitVec 72) (n : Nat) (base : BitVec 72) (bits : Nat) : Bool :=
  let g0 := fld va 63 16
  let b0 := fld base 63 16
  let len := 2 ^ (bits - 16)
  fld va 71 64 == fld base 71 64 && decide (0 < n) &&
    (decide ((b0 + 2 ^ 48 - g0) % 2 ^ 48 < n) || decide ((g0 + 2 ^ 48 - b0) % 2 ^ 48 < len))

/-- TLBINV.range (R277): a count of zero has no effect. -/
def execTlbinvRange (f : Fields) (s : State) : Host.Outcome State Fault Refusal :=
  tlbinvIssue f s tlbinvReach fun v => if readB v 32 = 0 then none else some (rangeHits (tlbinvVa v) (readB v 32))

/-- TLBINV.ctx (R277). -/
def execTlbinvCtx (f : Fields) (s : State) : Host.Outcome State Fault Refusal :=
  tlbinvIssue f s (fun _ _ => true) fun _ => some fun _ _ => true

/-! ### Results, captures and faults -/

/-- An executor whose wait for results a result of executor w ends: one of the group whose remaining results its registers are none
of, a strand waiting for the pilot's s-registers among them (R46). -/
def resultEnds (g : Group) (w : Who) (p : Pend) (id : Who) (t : Thread) : Bool :=
  match t.run with
  | .stalled (.result _ on) =>
    let hits (q : Pend) : Bool := q.dst.any fun e => on.contains e.1
    (id == w || w == .pilot) && (on.isEmpty || hits p) && !(t.pend.any hits) && !(id != .pilot && g.pilot.pend.any hits)
  | _ => false

/-- INTERLOCKED_RESULT (R46): the oldest result on its way is written; what waited for it alone goes on, and takes its cause
tag (R460). -/
def execInterlockedResult (t : ThreadId) (s : State) : Host.Outcome State Fault Refusal :=
  .next (modGroup s t.gid fun g =>
    match (getThread g t.who).bind fun x => x.pend.head? with
    | none => g
    | some p =>
      let g := p.dst.foldl (fun g e => storeReg g t.who e.1 e.2) g
      let g := modThreadOf g t.who fun x => addOvf (orFlags { x with pend := x.pend.drop 1 } p.flags) p.ovf
      let go (h : Group) (w : Who) : Group :=
        modThreadOf h w fun x => if resultEnds g t.who p w x then { x with run := .ready, lastwake := p.cause } else x
      (allWho g).foldl go g)

/-- FAULT_ENTRY_DELAYED (R264): the oldest held fault's ring entry is written once the ring has room. -/
def execFaultEntryDelayed (ctx : Nat) (s : State) : Host.Outcome State Fault Refusal :=
  .next (match (getCtx s ctx).bind fun c => c.faults.find? fun f => !f.inRing with
    | some f => if ringRoom s ctx then writeRing s ctx f else s
    | none => s)

/-- A held ring entry for which there is room. -/
def dueRing (s : State) : Option Instr :=
  s.contexts.findSome? fun c =>
    if (c.faults.any fun f => !f.inRing) && ringRoom s c.num then some (.faultEntryDelayed c.num) else none

/-- A store queue with something to leave. -/
def dueStore (s : State) : Option Instr :=
  s.groups.findSome? fun g => (g.stq.head?).map fun e => .storeQueueDepart g.gid e.spreadIx

/-- A queued walk. -/
def dueWalk (s : State) : Option Instr := (s.walkQ.head?).map fun q => .pageWalk q.die

/-- HOST_MEMORY_WRITE (R303): the host writes device main memory. -/
def execHostMemoryWrite (pa : Nat) (bytes : List Byte) (s : State) : Host.Outcome State Fault Refusal :=
  if inMain pa bytes.length then
    let (tag, s) := writeTag s unitHost pa bytes.length
    .next (homeWrite s none pa bytes tag)
  else .next s

end Sys2Proof.Machine
end

