-- ==== Sys2Proof/Machine/Barrier.lean ====
section
/-! DEFINITION. Barriers and semaphores: their instructions, packets, watchdog and bearing records (R323-R344). -/

namespace Sys2Proof.Machine

open Sys2Proof

/-! ### Barriers -/

/-- The group's kernel has GRIDSYNC (R133). -/
def gridSync (v : View) : Bool := match (kernelOf v).bind (·.desc) with | some d => bit1 d.kflags 0 | none => false

/-- CheckHandle (R325, R330): trap cause and TINFO of the first failing check. -/
def checkHandle (op : Nat) (v : View) (h : W64) (initDrop : Bool) : Option (Nat × Nat) :=
  if handleOk h = false then some (causeIllop, decodeInfo op 0x0C)
  else if hGrid h = false then none
  else if gridSync v = false then some (causeGridbar, 1)
  else if isPilot v = false then some (causeGridbar, 2)
  else if initDrop then some (causeGridbar, 3)
  else if hLevel h ≠ 4 ∨ hNum h ≠ 0 then some (causeGridbar, 4)
  else none

/-- Order scope of an object (R323, R336). -/
def barScope (k : BarKey) : Nat := k.level

/-- The executor as a member. -/
def selfMember (s : State) (v : View) : Member :=
  { rank := s.rank, gid := v.g.gid, lin := v.g.lin, who := v.who, arrived := false, waiter := false, exited := false }

/-- A request to the home of a pod object and its answer, or none where the home gives none (R323).
DESIGN CHOICE (log entry 33), safe. -/
def barRemote (s : State) (v : View) (key : BarKey) (ask : BarAsk) (k : State → Option Nat → State) : State :=
  match v.t.remote with
  | some (st, bs) => k (takeRemote s v) (if st = 0 then some (ofBytes bs) else none)
  | none =>
    if reachable s (keyHome s key) then
      let (tag, s) := takeTag s (unitOf v.g v.who)
      sendRequest s v (barMsg s v.g.ctx key v.g.gid v.g.lin (v.g.cores.getD 0 0) v.who ask tag)
    else k s none

/-- What this device keeps of a pod object homed elsewhere takes a member, with the phase that the home told.
DESIGN CHOICE (log entry 33), safe. -/
def mirrorAdd (s : State) (v : View) (key : BarKey) (cfg : W64) (phase : BitVec 16) : State :=
  let b := (findBar s v.g.ctx key).getD { freshBar s key cfg with remoteHome := true, phase := phase }
  if b.members.any (isMember s v.g.gid v.who) then s
  else putBar s v.g.ctx (registerMember s b (selfMember s v) (v.g.cores.getD 0 0) 0)

/-- Writes a result to D and a predicate, interlocked. -/
def giveStatus (s : State) (v : View) (x : Nat) (pd : Option (Nat × Bool)) : State :=
  applyPend s v { effNone with
    writes := writesD v (if isPilot v then 64 else 32) x ++ (match pd with | some (n, b) => writesP n b | none => []) } 0

/-- Writes a predicate alone, interlocked. -/
def givePred (s : State) (v : View) (n : Nat) (b : Bool) : State := applyPend s v { effNone with writes := writesP n b } 0

/-- BARINIT's status at one executor: 5 is the trap of the 33rd party (R332). -/
def giveInit (s : State) (v : View) (x : Nat) : State :=
  if x = 5 then signalTrap s v causeIllop 0 (decodeInfo 0x1C0 0x0D) else giveStatus s v x none

/-- What this device keeps of a pod object homed elsewhere is FAILED (R329). -/
def mirrorFailed (s : State) (ctx : Nat) (key : BarKey) : Bool :=
  match findBar s ctx key with | some b => b.bst == .failed | none => false

/-- BARINIT at one executor (R332). A pod object elsewhere that has entered FAILED here is FAILED (R329). -/
def barinitOne (v : View) (s : State) : State :=
  let h := BitVec.ofNat 64 (readB v 64)
  let cfg := BitVec.ofNat 64 (readC v 64)
  let key := keyOf v.g v.who h
  let full := decide (32 ≤ partyCount s v.g.ctx v.g.gid)
  match checkHandle 0x1C0 v h true with
  | some (c, i) => signalTrap s v c 0 i
  | none =>
    if keyRemote s key then
      if barCfgOk 5 cfg = false then giveInit s v 2
      else if v.t.remote.isNone && mirrorFailed s v.g.ctx key then
        giveInit s v 4
      else barRemote s v key (.register cfg full) fun s r =>
        match r with
        | some x => giveInit (if x % 256 ≤ 1 then mirrorAdd s v key cfg (BitVec.ofNat 16 (x / 256)) else s) v (x % 256)
        | none => giveInit s v 4
    else
      let (tag, t) := takeTag s (unitOf v.g v.who)
      match barInit t v.g.ctx key cfg (selfMember s v) (v.g.cores.getD 0 0) full tag with
      | (5, _) => giveInit s v 5
      | (x, t) => giveInit t v x

/-- BARINIT (R332). -/
def execBarinit (f : Fields) (s : State) : Host.Outcome State Fault Refusal := issueEach f s barinitOne

/-- The release of an accepted arrival, and of SEMV (R319, R336): earlier writes at the point of the scope. -/
def releaseAt (s : State) (v : View) (scope : Nat) : State := releaseFrom s (coreOf v.g v.who) (scopeIn v.g scope)

/-- The acquire of a wait that writes true, and of SEMP (R319, R336). -/
def acquireAt (s : State) (v : View) (scope : Nat) : State := acquireTo s (coreOf v.g v.who) (scopeIn v.g scope)

/-- BARA at one executor (R333).
DEDUCED (log entry 32), unsafe. -/
def baraOne (f : Fields) (v : View) (s : State) : State :=
  let h := BitVec.ofNat 64 (readB v 64)
  let key := keyOf v.g v.who h
  let n := fld f.sub 2 0
  match checkHandle 0x1C1 v h false with
  | some (c, i) => signalTrap s v c 0 i
  | none =>
    if ownQueued s v then stallAt s v .storeQueue
    else if keyRemote s key && v.t.remote.isNone && mirrorFailed s v.g.ctx key then giveStatus s v 0xFFFFFFFF (some (n, false))
    else if keyRemote s key then
      barRemote (releaseAt s v 5) v key .arrive fun s r =>
        match r with
        | some x => if x < 2 ^ 16 then giveStatus (accepted s) v x (some (n, true)) else giveStatus s v 0xFFFFFFFF (some (n, false))
        | none => giveStatus s v 0xFFFFFFFF (some (n, false))
    else
      let (tag, s) := takeTag s (unitOf v.g v.who)
      match barArrive s v.g.ctx key (isMember s v.g.gid v.who) tag with
      | (some p, s) => giveStatus (accepted (releaseAt s v (barScope key))) v p.toNat (some (n, true))
      | (none, s) => giveStatus s v 0xFFFFFFFF (some (n, false))
where
  accepted (s : State) : State := countCore s v.g (coreOf v.g v.who) selBaracc 1

/-- BARA (R333). -/
def execBara (f : Fields) (s : State) : Host.Outcome State Fault Refusal := issueEach f s (baraOne f)

/-- A wait or test on a pod object homed elsewhere (R323, R334): the home answers 0 false, 1 true, 2 that the member is a registered
waiter there, which parks unless the completion has come here meanwhile. Without an answer, and for one that is no member or whose
object is FAILED, what is kept here decides.
DESIGN CHOICE (log entry 33), safe. -/
def barwRemote (key : BarKey) (tok : BitVec 16) (n : Nat) (test : Bool) (v : View) (s : State) : State :=
  let me := isMember s v.g.gid v.who
  let here (s : State) : State :=
    match barTest s v.g.ctx key me tok true with
    | (.yes, s) => givePred (acquireAt s v (barScope key)) v n true
    | (_, s) => givePred s v n false
  let asks := match findBar s v.g.ctx key with | some b => b.members.any me && b.bst != .failed | none => false
  let stays (s : State) : Bool :=
    match findBar s v.g.ctx key with | some b => b.bst != .failed && b.phase != tok + 1 | none => false
  if v.t.remote.isNone && !asks then here s
  else barRemote s v key (if test then .test tok else .wait tok) fun s r =>
    match r with
    | some 0 => givePred s v n false
    | some 1 => givePred (acquireAt s v (barScope key)) v n true
    | some _ => if stays s then parkAt s v (.barw key) else here s
    | none => here s

/-- BARW and BART at one executor (R334). -/
def barwOne (f : Fields) (op : Nat) (test : Bool) (v : View) (s : State) : State :=
  let h := BitVec.ofNat 64 (readB v 64)
  let key := keyOf v.g v.who h
  let n := fld f.sub 2 0
  let tok := BitVec.ofNat 16 (readA v 32)
  match checkHandle op v h false with
  | some (c, i) => signalTrap s v c 0 i
  | none =>
    if keyRemote s key then barwRemote key tok n test v s
    else match barTest s v.g.ctx key (isMember s v.g.gid v.who) tok test with
    | (.yes, s) => givePred (acquireAt s v (barScope key)) v n true
    | (.no, s) => givePred s v n false
    | (.wait, s) => parkAt s v (.barw key)

/-- BARW (R334). -/
def execBarw (f : Fields) (s : State) : Host.Outcome State Fault Refusal := issueEach f s (barwOne f 0x1C2 false)

/-- BART (R334). -/
def execBart (f : Fields) (s : State) : Host.Outcome State Fault Refusal := issueEach f s (barwOne f 0x1C3 true)

/-- BARDROP at one executor (R335). -/
def bardropOne (f : Fields) (v : View) (s : State) : State :=
  let h := BitVec.ofNat 64 (readB v 64)
  let key := keyOf v.g v.who h
  let n := fld f.sub 2 0
  let me := isMember s v.g.gid v.who
  let isIn := match findBar s v.g.ctx key with | some b => b.members.any me | none => false
  match checkHandle 0x1C4 v h true with
  | some (c, i) => signalTrap s v c 0 i
  | none =>
    if isIn = false ∧ (keyRemote s key = false ∨ v.t.remote.isNone = true) then givePred s v n false
    else if keyRemote s key then
      barRemote s v key .drop fun s r => givePred (dropMembers s v.g.ctx key me 0) v n (r != some 0)
    else
      let (tag, s) := takeTag s (unitOf v.g v.who)
      givePred (dropMembers s v.g.ctx key me tag) v n true

/-- BARDROP (R335). -/
def execBardrop (f : Fields) (s : State) : Host.Outcome State Fault Refusal := issueEach f s (bardropOne f)

/-- The answer of the home to a device, with the request's tag (R323, R440).
DESIGN CHOICE (log entry 33), safe. -/
def barAnswer (s : State) (p : BarrierPacket) (stat x : Nat) : State :=
  if p.rank = s.rank ∨ p.tag = postedTag then s
  else
    let (tag, s) := takeTag s (barUnit s p.key)
    sendPacket s { pkt0 s p.rank .barCtl 3 p.ctx tag with
    stat := BitVec.ofNat 8 stat, tag := p.tag, aux := keyAux p.key, opinfo := barKindInfo 1, payload := toBytes 8 x }

/-- The home's context takes barrier packets: as of remote accesses (R448).
DESIGN CHOICE (log entry 33), safe. -/
def takesPackets (s : State) (ctx : Nat) : Bool :=
  match getCtx s ctx with
  | some c => c.cst == .created || c.cst == .active || c.cst == .switchedOut
  | none => false

/-- BARRIER_PACKET (R323, R332-R335, R337): what an executor or group of another device asks or has met reaches the object here. -/
def execBarrierPacket (p : BarrierPacket) (s : State) : Host.Outcome State Fault Refusal :=
  let m : Member := { rank := p.rank, gid := p.gid, lin := p.group, who := p.who, arrived := false, waiter := false, exited := false }
  let ours (x : Member) : Bool := x.rank == p.rank && x.gid == p.gid
  let me (x : Member) : Bool := ours x && x.who == p.who
  let party (q : Party) : Bool := q.rank == p.rank && q.gid == p.gid
  let bar := findBar s p.ctx p.key
  let waits (r : BarWait × State) : State :=
    barAnswer r.2 p 0 (match r.1 with | .no => 0 | .yes => 1 | .wait => 2)
  .next (
    if takesPackets s p.ctx = false then barAnswer s p 1 0
    else match p.ask with
    | .register cfg full =>
      let (x, s) := barInit s p.ctx p.key cfg m p.core.toNat full p.wake
      barAnswer s p 0 (x + (match findBar s p.ctx p.key with | some b => b.phase.toNat * 256 | none => 0))
    | .arrive =>
      match barArrive s p.ctx p.key me p.wake with
      | (some ph, s) => barAnswer s p 0 ph.toNat
      | (none, s) => barAnswer s p 0 0xFFFFFFFF
    | .drop =>
      let isIn := match bar with | some b => b.members.any me | none => false
      barAnswer (dropMembers s p.ctx p.key me p.wake) p 0 (if isIn then 1 else 0)
    | .wait tok => waits (barTest s p.ctx p.key me tok false)
    | .test tok => waits (barTest s p.ctx p.key me tok true)
    | .exit => match bar with | some b => barExit.exitMember s p.ctx b me p.wake | none => s
    | .flush => dropMembers s p.ctx p.key ours p.wake
    | .fault => match bar with | some b => if b.parties.any party then failBar s p.ctx b else s | none => s
    | .saved => match bar with | some b => putBar s p.ctx (markParties b party true p.core p.wake) | none => s
    | .placed => match bar with | some b => putBar s p.ctx (markParties b party false p.core p.wake) | none => s)

/-- BARRIER_COMPLETION_RECEIVE (R323, R329): the home tells the phase and state of a pod object; waiters wake. -/
def execBarrierCompletionReceive (port : Nat) (p : Packet) (s : State) : Host.Outcome State Fault Refusal :=
  let key : BarKey := { level := 5, num := hNum p.aux, inst := hHome p.aux, grid := false }
  let (mine, s) := receive s port p
  .next (match if mine then findBar s p.ctx key else none with
    | some b =>
      if b.remoteHome then
        match fld p.opnd 17 16 with
        | 0 => wakeBar (delBar s p.ctx key) p.ctx key p.wake
        | 3 => failBar s p.ctx b
        | _ => wakeBar (putBar s p.ctx { b with phase := BitVec.ofNat 16 p.opnd.toNat, opened := now s }) p.ctx key p.wake
      else s
    | none => s)

/-! ### The watchdog and bearing records -/

/-- State of a party's entry (R343). -/
def partyState (b : Barrier) (p : Party) : Nat :=
  let ms := b.members.filter fun m => sameParty m p
  if partyArrived b p then 0 else if p.desched then 3 else if ms.any (·.exited) then 2 else 1

/-- BUDGET of an object (R332). -/
def barBudget (b : Barrier) : Nat := fld b.cfg 63 24

/-- Expected times of the unarrived parties, with STATE, RANK, GROUP and WAKE (R344). -/
def expectedParties (b : Barrier) : List (Nat × Nat × Nat × Nat × BitVec 48) :=
  (b.parties.filter fun p => !partyArrived b p).map (fun p =>
    (max b.opened.toNat p.stamp.toNat + barBudget b, partyState b p, p.rank.toNat, p.lin.toNat, p.wake)) ++
  (if b.parties.length < partiesOf b then [(b.opened.toNat + barBudget b, 1, 0xFFF, 0xFFFFFFFF, 0)] else [])

/-- The earliest expected party: ties by RANK, then GROUP (R344). -/
def earliestParty (b : Barrier) : Option (Nat × Nat × Nat × Nat × BitVec 48) :=
  (expectedParties b).foldl (fun m e =>
    match m with
    | none => some e
    | some x =>
      if e.1 < x.1 ∨ (e.1 = x.1 ∧ (e.2.2.1 < x.2.2.1 ∨ (e.2.2.1 = x.2.2.1 ∧ e.2.2.2.1 < x.2.2.2.1))) then some e else m) none

/-- The watchdog of an object has come (R344). -/
def barIsLate (s : State) (b : Barrier) : Option (Nat × Nat × Nat × Nat × BitVec 48) :=
  if b.bst = .failed ∨ barBudget b = 0 ∨ b.lateLogged = true ∨ b.remoteHome = true then none
  else match earliestParty b with
  | some e => if e.1 ≤ (now s).toNat then some e else none
  | none => none

/-- An object whose watchdog has come. -/
def dueBarLate (s : State) : Option Instr :=
  s.contexts.findSome? fun c => c.barriers.findSome? fun b => (barIsLate s b).map fun _ => .barrierLate c.num b.key

/-- Members of a party as an entry's words (R343). -/
def partyEntry (b : Barrier) (p : Party) : List Nat :=
  let ms := b.members.filter fun m => sameParty m p
  let ks := ms.filterMap fun m => match m.who with | .strand k => some k | .pilot => none
  let pilot := ms.any fun m => m.who == .pilot
  [p.rank.toNat * 2 ^ 52 + p.core.toNat * 2 ^ 45 + partyState b p * 2 ^ 42 + (if pilot then 2 ^ 40 else 0) + p.lin.toNat,
   (ks.min?.getD 0) % 2 ^ 16 * 2 ^ 48 + (ks.max?.getD 0) % 2 ^ 16 * 2 ^ 32 +
     (ms.filter (·.arrived)).length % 2 ^ 16 * 2 ^ 16 + min ms.length 0xFFFF,
   p.wake.toNat * 2 ^ 16 + p.lphase.toNat, max b.opened.toNat p.stamp.toNat]

/-- A barrier's record without NEXT (R341-R343): header, registered parties, the missing ones, and unused slots. -/
def barRecord (s : State) (b : Barrier) : List (List Nat) :=
  let n := partiesOf b
  let missing := n - b.parties.length
  let es := b.parties.map (partyEntry b) ++
    (if 0 < missing then [[0xFFF * 2 ^ 52 + 1 * 2 ^ 42 + 0xFFFFFFFF, min missing 0xFFFF, 0, b.opened.toNat]] else [])
  [b.key.level * 2 ^ 59 + (if b.key.grid then 2 ^ 58 else 0) + b.key.num % 1024 * 2 ^ 48 + (keyHome s b.key).toNat * 2 ^ 36 +
     bstCode b.bst * 2 ^ 32 + b.phase.toNat * 2 ^ 16,
   b.cfg.toNat, b.wpend % 2 ^ 16 * 2 ^ 40 + n * 2 ^ 24, b.opened.toNat] ::
    (es ++ List.replicate (n - es.length) [0, 0, 0, 0])

/-- An entry of a semaphore record (R343). -/
def semEntry (rank : BitVec 12) (core : BitVec 7) (lin : W32) (who : Option Who) (role units : Nat) (tag : BitVec 48)
    (stamp : Nat) : List Nat :=
  let pilot := who == some .pilot
  let k := match who with | some (.strand k) => k | _ => 0
  [rank.toNat * 2 ^ 52 + core.toNat * 2 ^ 45 + 1 * 2 ^ 42 + role * 2 ^ 41 + (if pilot then 2 ^ 40 else 0) + lin.toNat,
   k % 2 ^ 16 * 2 ^ 48 + k % 2 ^ 16 * 2 ^ 32 + min units 0xFFFF, tag.toNat * 2 ^ 16, stamp]

/-- All entries of a semaphore: waiters in queue order, then holders whose units exceed what they gave back. -/
def semEntries (m : Sem) : List (List Nat) :=
  m.waiters.map (fun w => semEntry w.rank w.core w.lin (some w.t.who) 1 w.units.toNat w.tag (max m.opened.toNat w.stamp.toNat)) ++
    (holdersOf m).map fun h => semEntry h.rank h.core h.lin none 0 h.taken.toNat h.tag (max m.opened.toNat h.stamp.toNat)

/-- A semaphore's record without NEXT: 31 entries (R341-R343). -/
def semRecord (s : State) (m : Sem) : List (List Nat) :=
  let es := (semEntries m).take 31
  [2 ^ 62 + s.rank.toNat * 2 ^ 36 + m.drops.toNat, fld m.va 63 0, fld m.va 71 64 * 2 ^ 56 + 31 * 2 ^ 24, m.opened.toNat] ::
    (es ++ List.replicate (31 - es.length) [0, 0, 0, 0])

/-- The records of a context in creation order: made, barrier key or semaphore address, slots. -/
def bearRecords (s : State) (c : Context) : List (Nat × (Option BarKey × Nat) × List (List Nat)) :=
  let l := (c.barriers.filter fun b => !b.remoteHome).map (fun b => (b.made, (some b.key, 0), barRecord s b)) ++
    (c.sems.filter fun m => (semPeer s m.pa).isNone).map fun m => (m.made, (none, m.pa), semRecord s m)
  sortBy (fun a b => decide (a.1 ≤ b.1)) l

/-- Places records one after another from slot 1; a record without room is left out and named.
DESIGN CHOICE (log entry 81), unsafe. -/
def placeRecords (size : Nat) (l : List (Nat × (Option BarKey × Nat) × List (List Nat))) :
    List (Nat × List (List Nat)) × List (Option BarKey × Nat) :=
  (l.foldl (fun (acc : Nat × List (Nat × List (List Nat)) × List (Option BarKey × Nat)) e =>
    if acc.1 + e.2.2.length ≤ size then (acc.1 + e.2.2.length, acc.2.1 ++ [(acc.1, e.2.2)], acc.2.2)
    else (acc.1, acc.2.1, acc.2.2 ++ [e.2.1])) (1, [], [])).2

/-- The image of the bearing records: slots with their words, NEXT filled in (R341, R342). -/
def bearImage (recs : List (Nat × List (List Nat))) : List (Nat × List Nat) :=
  let firsts := recs.map (·.1)
  let nexts := (firsts.drop 1) ++ [0]
  let root : Nat × List Nat := (0, [0, 0, firsts.headD 0, 0])
  let one (e : (Nat × List (List Nat)) × Nat) : List (Nat × List Nat) :=
    match e.1.2 with
    | [] => []
    | h :: es => (e.1.1, modNth h 2 (· + e.2)) :: (es.zip (List.range es.length)).map fun x => (e.1.1 + 1 + x.2, x.1)
  root :: ((recs.filter fun e => !e.2.isEmpty).zip nexts).flatMap one

/-- Bytes of the image at their addresses. -/
def bearBytes (s : State) (c : Context) : List (Nat × List Byte) :=
  let base := (ctxReg s c.num 0x21F).toNat
  let size := fld (ctxReg s c.num 0x220) 23 0
  (bearImage (placeRecords size (bearRecords s c)).1).map fun e =>
    (base + 32 * e.1, e.2.flatMap fun w => toBytes 8 w)

/-- Records that have lost their room and are not logged yet. -/
def bearLost (s : State) (c : Context) : List (Option BarKey × Nat) :=
  let size := fld (ctxReg s c.num 0x220) 23 0
  (placeRecords size (bearRecords s c)).2.filter fun e =>
    match e.1 with
    | some k => match findBar s c.num k with | some b => !b.lost | none => false
    | none => match c.sems.find? fun m => m.pa == e.2 with | some m => !m.lost | none => false

/-- Logs one BEARING_LOST (R341, R505). -/
def logLost (s : State) (ctx : Nat) (e : Option BarKey × Nat) : State :=
  match e.1 with
  | some k =>
    match findBar s ctx k with
    | some b => emit (putBar s ctx { b with lost := true }) (barUnit s k) (some ctx) evBearingLost ctx 0
    | none => s
  | none =>
    emit (modCtx s ctx fun c => { c with sems := replaceIf (fun m => m.pa == e.2) (fun m => { m with lost := true }) c.sems })
      (unitSlice (homeSlice s e.2)) (some ctx) evBearingLost ctx 0

/-- BEARING_UPDATE (R341): the image in memory follows the objects. -/
def execBearingUpdate (ctx : Nat) (s : State) : Host.Outcome State Fault Refusal :=
  match getCtx s ctx with
  | none => .next s
  | some c =>
    if fld (ctxReg s ctx 0x220) 23 0 = 0 then .next s
    else
      let img := bearBytes s c
      let s := (bearLost s c).foldl (fun s e => logLost s ctx e) s
      .next (img.foldl (fun s e => memPut s e.1 e.2) s)

/-- A context whose image does not show its objects. -/
def dueBearing (s : State) : Option Instr :=
  s.contexts.findSome? fun c =>
    if fld (ctxReg s c.num 0x220) 23 0 ≠ 0 ∧ c.cst ≠ .free ∧
      ((bearBytes s c).any (fun e => memGet s e.1 e.2.length != e.2) || !(bearLost s c).isEmpty)
    then some (.bearingUpdate c.num) else none

/-! ### Semaphores -/

/-- Address of a semaphore word (R338). -/
def semVa (v : View) : BitVec 72 := vaOf (reachReg v.g (fld v.f.sub 2 0)) (BitVec.ofNat 64 (readB v 64))

/-- A semaphore word that this device performs: in main memory, on the host, or in the debug window. -/
inductive SemWord where
  | main (pa : Nat)
  | host (pa a : Nat)
  | window (w : Window)
deriving DecidableEq, Repr

/-- The place by which a word's queue is known. -/
def SemWord.place (w : SemWord) : Nat :=
  match w with
  | .main pa => pa
  | .host pa _ => pa
  | .window (.image gid off) => 2 ^ 60 + gid * 2 ^ 32 + off
  | .window (.log off) => 2 ^ 61 + off
  | .window _ => 2 ^ 62

/-- What a word holds. -/
def SemWord.get (w : SemWord) (s : State) (core : Nat) : Nat × State :=
  match w with
  | .main pa => let (bs, s) := wideRead s core pa 8; (ofBytes bs, s)
  | .host _ a => (ofBytes (sgets s.hostMem a 8), s)
  | .window x => let (bs, s) := winRead s core x 8; (ofBytes bs, s)

/-- Writes a word. -/
def SemWord.put (w : SemWord) (s : State) (core x : Nat) (tag : BitVec 48) : State :=
  match w with
  | .main pa => homeWrite s (some core) pa (toBytes 8 x) tag
  | .host _ a => { s with hostMem := ssets s.hostMem a (toBytes 8 x) }
  | .window y => winWrite s core y (toBytes 8 x)

/-- Where a semaphore access leads: a word, or a peer's word with its translation, aperture address, rank and address there. -/
def semPlace (s : State) (r : Res) : Option (SemWord ⊕ (Leaf × Nat × BitVec 12 × Nat)) :=
  match r with
  | .mem l pa =>
    (match placeOf s pa with
    | .main => some (.inl (.main pa))
    | .host a => some (.inl (.host pa a))
    | .peer rank a => some (.inr (l, pa, rank, a)))
  | .win (.memory pa) => some (.inl (.main pa))
  | .win w => some (.inl (.window w))
  | _ => none

/-- SEMP's step at a word of this device (R339). -/
def sempStep (f : Fields) (v : View) (s : State) (va : BitVec 72) (w : SemWord) : State :=
  let core := coreOf v.g v.who
  let pd := fld f.d 2 0
  let n := readC v 64
  let (tag, s) := takeTag s (unitOf v.g v.who)
  let (m, s) := w.get s core
  match semAsk s v.g.ctx w.place va (semWho s v.g v.who (BitVec.ofNat 64 n) tag) m (bit1 f.sub 6) with
  | (.taken, s) => givePred (acquireAt (w.put s core (m - n) tag) v (fld f.sub 5 3)) v pd true
  | (.refused, s) => givePred s v pd false
  | (.queued, s) => parkAt s v (.semp w.place)

/-- Keeps that an executor of this device stands in the queue of a peer's word.
DESIGN CHOICE (log entry 34), unsafe. -/
def semNote (s : State) (ctx pa : Nat) (va : BitVec 72) (w : SemWaiter) : State :=
  let m := (semOf s ctx pa).getD
    { pa := pa, va := va, waiters := [], holders := [], drops := 0, opened := now s, made := s.nextMade, lost := false }
  putSem s ctx { m with waiters := (m.waiters.filter fun y => !sameWaiter w y) ++ [w] }

/-- SEMP at a peer's word (R339, R448): its home slice answers 0 refused, 1 taken, 2 queued. A queued executor parks, and asks again
in time.
DESIGN CHOICE (log entry 34), unsafe. -/
def sempPeer (f : Fields) (v : View) (s : State) (va : BitVec 72) (l : Leaf) (pa : Nat) (rank : BitVec 12) (a : Nat) : State :=
  let pd := fld f.d 2 0
  let units := BitVec.ofNat 64 (readC v 64)
  match v.t.remote with
  | some (st, bs) =>
    let w := semWho s v.g v.who units 0
    remoteTake (semLeave s v.g.ctx pa (sameWaiter w)) v va .rmw l st bs fun s bs =>
      match ofBytes bs with
      | 0 => givePred s v pd false
      | 1 => givePred (acquireAt s v (fld f.sub 5 3)) v pd true
      | _ => parkAt (semNote s v.g.ctx pa va w) v (.semp pa)
  | none =>
    remoteAsk s v va .rmw l rank fun tag =>
      semPacket s v.g.ctx rank a 1 (fld f.sub 5 3) (semWho s v.g v.who units tag) (bit1 f.sub 6) va

/-- SEMP at one executor (R338, R339). -/
def sempOne (f : Fields) (v : View) (s : State) : State :=
  let va := semVa v
  if ownQueued s v then stallAt s v .storeQueue
  else access s v va .rmw 8 3 fun s r =>
    match semPlace s r with
    | some (.inl w) => sempStep f v s va w
    | some (.inr (l, pa, rank, a)) => sempPeer f v s va l pa rank a
    | none => s

/-- SEMP (R338, R339). -/
def execSemp (f : Fields) (s : State) : Host.Outcome State Fault Refusal := issueEach f s (sempOne f)

/-- The sum of SEMV (R339). -/
def semSum (m n : Nat) : Nat := min (m + n) (2 ^ 64 - 1)

/-- SEMV at one executor (R338, R339). -/
def semvOne (f : Fields) (v : View) (s : State) : State :=
  let va := semVa v
  let n := readC v 64
  if ownQueued s v then stallAt s v .storeQueue
  else access (releaseAt s v (fld f.sub 5 3)) v va .rmw 8 3 fun s r =>
    match semPlace s r with
    | some (.inl w) =>
      let core := coreOf v.g v.who
      let (tag, s) := takeTag s (unitOf v.g v.who)
      let (m, s) := w.get s core
      let s := semGive s v.g.ctx w.place (semWho s v.g v.who (BitVec.ofNat 64 n) tag)
      w.put s core (semSum m n) tag
    | some (.inr (l, _, rank, a)) =>
      (match v.t.remote with
      | some (st, bs) => remoteTake s v va .rmw l st bs fun s _ => s
      | none =>
        remoteAsk s v va .rmw l rank fun tag =>
          semPacket s v.g.ctx rank a 2 (fld f.sub 5 3) (semWho s v.g v.who (BitVec.ofNat 64 n) tag) false va)
    | none => s

/-- SEMV (R338, R339). -/
def execSemv (f : Fields) (s : State) : Host.Outcome State Fault Refusal := issueEach f s (semvOne f)

/-- SEMP_WAKE (R339): a write to the word, or its time to reread, lets a queued waiter try again. -/
def execSempWake (t : ThreadId) (s : State) : Host.Outcome State Fault Refusal :=
  .next (modThread s t fun x => match x.run with | .parked (.semp _) => { x with run := .ready } | _ => x)

/-- A SEMP waiter rereads its word in time: the monitor of its slice is full, or does not watch the word (R339).
DESIGN CHOICE (log entry 34), unsafe. -/
def sempRereads (s : State) (t : Thread) : Bool :=
  match t.run with
  | .parked (.semp pa) =>
    decide (2000 ≤ (now s).toNat - t.since.toNat) &&
      (decide (apertureBase ≤ pa) || decide (1024 < (monitored s (homeSlice s pa)).length))
  | _ => false

/-- A SEMP waiter whose 2 µs have passed. -/
def dueSemp (s : State) : Option Instr := ((whoWith s fun g t => groupIssues g && sempRereads s t).head?).map .sempWake

end Sys2Proof.Machine
end

