-- ==== Sys2Proof/Machine/CapsuleOps.lean ====
section
/-! DEFINITION. The capsule instructions (R345-R362). -/

namespace Sys2Proof.Machine

open Sys2Proof

/-- CAPSTATE's check of a record (R348). -/
def recordBad (s : State) (pa : Nat) : Bool :=
  let w1 := recWord s pa 1
  let w4 := recWord s pa 4
  let w6 := recWord s pa 6
  let st := fld w1 63 62
  let intents := (List.range 4).any fun i =>
    fld (recWord s pa (16 + 2 * i)) 62 54 != 0
  st == 3 || decide (8 < fld w1 59 56) || bit1 w1 55 || fld w4 55 52 != 0 || fld w4 3 0 != 0 || fld w6 44 32 != 0 ||
    intents || ((List.range 8).any fun i => recWord s pa (24 + i) != 0) || (st != 0 && recWord s pa 0 == 0)

/-- A record is adoptable (R350). -/
def recordAdoptable (s : State) (pa : Nat) : Bool :=
  fld (recWord s pa 1) 61 60 != 0 || (recWord s pa 5 != 0 && decide ((recWord s pa 5).toNat < (now s).toNat))

/-- Capsule references of a group in use (R351). -/
def capRefs (g : Group) : Nat := (g.strands.filter fun t => t.caps.isSome).length

/-- RANK, CORE and GROUP of the holder (R346). -/
def holderWord (s : State) (g : Group) (k : Nat) : W64 :=
  BitVec.ofNat 64 (s.rank.toNat * 2 ^ 52 + coreOf g (.strand k) % 128 * 2 ^ 45 + g.lin.toNat)

/-- Writes a record's words, in order of their numbers. -/
def setRecWords (s : State) (pa : Nat) (ws : List (Nat × W64)) : State := ws.foldl (fun s e => setRecWord s pa e.1 e.2) s

/-- A read-modify-write of a record or a mailbox (R354): its alignment with its own size code, and R260. A record or
mailbox outside main memory, for which the spec names no trap, takes PAGEFATAL 6, as the window's space 5 does.
DEDUCED (log entry 26), unsafe. DEDUCED (log entry 28), unsafe. -/
def capAccess (s : State) (v : View) (va : BitVec 72) (align code : Nat) (k : State → Nat → State) : State :=
  if fld va 63 0 % align ≠ 0 then signalTrap s v causeMisalign va (alignInfo .rmw code)
  else match resolve s v va .rmw align with
  | (.mem _ pa, s) =>
    if inMain pa align then k s pa
    else signalTrap s v causePagefatal va (pageInfo 6 .rmw 0 0 0)
  | (.win _, s) => signalTrap s v causePagefatal va (pageInfo 13 .rmw 0 0 0)
  | (r, s) => failAccess s v va .rmw r 0

/-- Address h[K] with a 64-bit offset. -/
def capVa (v : View) (x : Nat) : BitVec 72 := vaOf (reachReg v.g (fld v.f.sub 2 0)) (BitVec.ofNat 64 x)

/-- Two predicates, interlocked. -/
def givePreds (s : State) (v : View) (n : Nat) (a b : Bool) : State :=
  applyPend s v { effNone with writes := writesP n a ++ writesP (n + 1) b } 0

/-- Writes p0-p6 of an image with two of them replaced. -/
def imagePreds (p : BitVec 7) (n : Nat) (a : Bool) (m : Option Nat) : Nat :=
  let x := if n < 7 then (if a then p ||| BitVec.ofNat 7 (2 ^ n) else p &&& ~~~(BitVec.ofNat 7 (2 ^ n))) else p
  (match m with | some k => if k < 7 then x &&& ~~~(BitVec.ofNat 7 (2 ^ k)) else x | none => x).toNat

/-- The strand enters capsule mode (R351). A capsule that it holds suspended, in its handler, is given up: a strand holds one capsule, and
the first record stays as it is.
DEDUCED (log entry 31), unsafe. DESIGN CHOICE (log entry 99), unsafe. -/
def enterCapsule (s : State) (v : View) (rec_ : BitVec 72) (pa : Nat) (xs : List W64) (step : Nat) (start : W64) : State :=
  modThread s (vid v) fun t =>
    { t with caps := some { record := pa, va := rec_, mode := .inside, x := xs, step := step, start := start, count := 0, stores := 0,
                            intents := [], path := 0 } }

/-- The sixteen registers of CAPOPEN as eight pairs (R355). -/
def capImage (v : View) : List W64 := (List.range 8).map fun i => BitVec.ofNat 64 (vGroup v.s v.g v.t (v.f.d.toNat + 2 * i) 2)

/-- The predicates p0-p6 as an instruction reads them (R47, R48).
DESIGN CHOICE (log entry 4), safe. -/
def predsRead (v : View) : BitVec 7 := BitVec.ofNat 7 (((List.range 7).map fun i => if readPred v i then 2 ^ i else 0).sum)

/-- An x-register as an instruction reads it (R47, R48).
DESIGN CHOICE (log entry 4), safe. -/
def xRead (v : View) (i : Nat) : W64 := readReg v.s v.g v.t (.x i)

/-- A capsule instruction at its record's home slice: the executor's earlier writes to the record and its mailbox have reached their
home slices (R307, R345). -/
def atRecord (s : State) (v : View) (pa n : Nat) (k : State → State) : State :=
  if ownQueued s v then stallAt s v .storeQueue else k (evictUnits s (coreOf v.g v.who) pa n)

/-- CAPOPEN at one strand, with record and mailbox translated (R355): an acquire of the record's last commit, whatever it answers
(R319). -/
def openRecord (v : View) (k : Nat) (rec : BitVec 72) (pa pmb : Nat) (s : State) : State :=
  let n := fld v.f.sub 5 3
  let g := (getGroup s v.g.gid).getD v.g
  if 64 ≤ capRefs g then signalTrap s v causeCaplimit rec (decodeInfo 0x1C8 8)
  else if recordBad s pa then signalTrap s v causeCapstate rec 1
  else if fld (recWord s pa 1) 63 62 = 0 then
    let img := capImage v
    let gen := (fld (recWord s pa 1) 47 32 + 1) % 2 ^ 16
    let w1 := 1 * 2 ^ 62 + imagePreds (predsRead v) n true (some (n + 1)) * 2 ^ 48 + gen * 2 ^ 32 +
      fld (recWord s pa 1) 31 16 * 2 ^ 16 + gen
    let s := setRecWords s pa
      ([(0, capToken g k), (1, BitVec.ofNat 64 w1), (2, nextPc v), (3, nextPc v),
        (4, BitVec.ofNat 64 ((codeReachOf v.g v.t).toNat * 2 ^ 56 + pmb / 16 * 16)), (5, leaseEnd s g), (6, holderWord s g k),
        (7, now s)] ++ ((List.range 8).zip img).map (fun e => (8 + e.1, e.2)) ++ (List.range 8).map fun i => (16 + i, 0))
    let s := homeWrite s none pmb (toBytes 8 0 ++ toBytes 8 gen) 0
    givePreds (acquireAt (enterCapsule s v rec pa img 0 (nextPc v)) v 4) v n true false
  else givePreds (acquireAt s v 4) v n false (recordAdoptable s pa)

/-- CAPOPEN (R355). -/
def execCapopen (f : Fields) (s : State) : Host.Outcome State Fault Refusal :=
  issueEach f s fun v s =>
    match v.who with
    | .pilot => s
    | .strand k =>
      let rec_ := capVa v (readA v 64)
      let mb := capVa v (readB v 64)
      capAccess s v rec_ 256 7 fun s pa => capAccess s v mb 16 4 fun s pmb =>
        atRecord s v pa 256 fun s => atRecord s v pmb 16 fun s => openRecord v k rec_ pa pmb s

/-- The size in bytes of an intent. -/
def intentBytes (i : Intent) : Nat := 2 ^ i.size.toNat

/-- Applies the intents of a step in order, at the home slices (R353, R356). -/
def applyIntents (s : State) (unit : Nat) (l : List Intent) : State :=
  l.foldl (fun s i =>
    let (tag, s) := writeTag s unit i.pa (intentBytes i)
    homeWrite s none i.pa (toBytes (intentBytes i) i.val.toNat) tag) s

/-- The two words of an intent in the record (R347). -/
def intentWords (l : List Intent) : List (Nat × W64) :=
  (List.range 4).flatMap fun j =>
    match l[j]? with
    | some i => [(16 + 2 * j, BitVec.ofNat 64 (2 ^ 63 + i.size.toNat * 2 ^ 52 + i.pa % 2 ^ 52)), (17 + 2 * j, i.val)]
    | none => [(16 + 2 * j, 0), (17 + 2 * j, 0)]

/-- The strand leaves capsule mode, and its reference is freed. -/
def leaveCapsule (s : State) (v : View) : State := modThread s (vid v) fun t => { t with caps := none }

/-- A record of the capsule unit of a record's home slice (R489).
DEDUCED (log entry 30), unsafe. -/
def emitCap (s : State) (g : Group) (ev pa payload : Nat) : State :=
  emit s (unitSlice (homeSlice s pa)) (some g.ctx) ev (pa / 256 % 2 ^ 32) payload

/-- A displaced strand leaves capsule mode and logs it (R356, R361, R489).
DEDUCED (log entry 30), unsafe. -/
def displace (s : State) (v : View) (c : Capsule) : State :=
  emitExec (leaveCapsule s v) v.g v.who evCapDisplaced (c.record / 256 % 2 ^ 32) c.step

/-- CAPSTEP in capsule mode (R356), which reads x0-x7 and p0-p6 as R47 and R48 have it: a release of the strand's earlier writes, and an acquire of its own commit (R319, R364).
DESIGN CHOICE (log entry 4), safe. -/
def commitStep (v : View) (k : Nat) (c : Capsule) (s : State) : State :=
  let n := fld v.f.sub 5 3
  let g := v.g
  let pa := c.record
  if 8 ≤ c.step then signalTrap s v causeCaplimit c.va (decodeInfo 0x1C9 5)
  else if ownQueued s v then stallAt s v .storeQueue
  else if capOwned s g k pa ∧ fld (recWord s pa 1) 59 56 = c.step then
    let c := ((getGroup s g.gid).bind fun g => (g.strands[k]?).bind (·.caps)).getD c
    let w1 := setFld (setFld (recWord s pa 1) 59 56 (c.step + 1)) 54 48 (imagePreds (predsRead v) n true none)
    let s := setRecWords s pa ([(1, w1), (3, v.t.pc + 8), (5, leaseEnd s g), (7, now s)] ++
      ((List.range 8).map fun i => (8 + i, xRead v i)) ++ intentWords c.intents)
    let s := acquireAt (applyIntents (releaseAt s v 4) (unitOf g v.who) c.intents) v 4
    let s := modThread s (vid v) fun t =>
      { t with caps := some { c with step := c.step + 1, start := nextPc v, count := 0, stores := 0, intents := [], path := 0 } }
    givePred s v n true
  else givePred (displace s v c) v n false

/-- CAPSTEP at one strand (R356, R361). -/
def capstepOne (v : View) (s : State) : State :=
  let n := fld v.f.sub 5 3
  match v.who, v.t.caps with
  | .strand k, some c =>
    match c.mode with
    | .inside => commitStep v k c s
    | .skip => givePred (displace s v c) v n false
    | .suspended => givePred s v n false
  | _, _ => givePred s v n false

/-- CAPSTEP (R356); a strand in skip mode takes part (R361). -/
def execCapstep (f : Fields) (s : State) : Host.Outcome State Fault Refusal :=
  issueWith f s true fun vs s => vs.foldl (fun s v => capstepOne v s) s

/-- CAPCLOSE in capsule mode (R358): a release of the strand's earlier writes (R319, R364). -/
def closeCapsule (v : View) (k : Nat) (c : Capsule) (s : State) : State :=
  let n := fld v.f.sub 5 3
  let g := v.g
  let pa := c.record
  -- the count holds this instruction too
  if 1 < c.count ∨ c.step = 0 then signalTrap s v causeCaplimit c.va (decodeInfo 0x1CA 7)
  else if ownQueued s v then stallAt s v .storeQueue
  else if capOwned s g k pa then
    let w1 := recWord s pa 1
    let adopted := decide (fld w1 63 62 = 2)
    let mgen := fld w1 15 0
    let x0 := xRead v 0
    let mbox := fld (recWord s pa 4) 51 4 * 16
    let s := releaseAt s v 4
    let s := if adopted then
        if poisoned s mbox 16 then
          emitCap s g evCapMailboxLost pa mgen
        else
          emitCap (homeWrite s none mbox (toBytes 8 x0.toNat ++ toBytes 8 (2 ^ 63 + mgen)) 0) g evCapDeliver pa mgen
      else s
    let w1 := setFld (setFld w1 63 62 0) 61 60 ostRunning
    let s := setRecWords s pa [(0, 0), (1, w1), (5, 0), (7, now s)]
    applyPend (leaveCapsule s v) v { effNone with writes := destWrites false v.f.d.toNat 64 x0.toNat ++ writesP n true ++ writesP (n + 1) adopted } 0
  else givePreds (leaveCapsule s v) v n false false

/-- CAPCLOSE at one strand (R358, R361). -/
def capcloseOne (v : View) (s : State) : State :=
  let n := fld v.f.sub 5 3
  match v.who, v.t.caps with
  | .strand k, some c =>
    match c.mode with
    | .inside => closeCapsule v k c s
    | .skip => givePreds (displace s v c) v n false false
    | .suspended => givePreds s v n false false
  | _, _ => givePreds s v n false false

/-- CAPCLOSE (R358); a strand in skip mode takes part (R361). -/
def execCapclose (f : Fields) (s : State) : Host.Outcome State Fault Refusal :=
  issueWith f s true fun vs s => vs.foldl (fun s v => capcloseOne v s) s

/-- The target of CAPADOPT (R357). -/
def adoptTarget (v : View) : W64 := BitVec.ofInt 64 (v.t.pc.toNat + 8 + 4 * sxNat 20 (v.f.c.toNat * 2 ^ 10 + v.f.b.toNat))

/-- CAPADOPT at the record (R357): an acquire of its last commit, whatever it answers (R319). -/
def adoptRecord (v : View) (k : Nat) (rec_ : BitVec 72) (pa : Nat) (s : State) : State :=
  let n := fld v.f.sub 5 3
  let g := (getGroup s v.g.gid).getD v.g
  let w1 := recWord s pa 1
  if 64 ≤ capRefs g then signalTrap s v causeCaplimit rec_ (decodeInfo 0x1CB 8)
  else if recordBad s pa then signalTrap s v causeCapstate rec_ 1
  else if fld w1 63 62 = 0 ∨ recordAdoptable s pa = false then givePred (acquireAt s v 4) v n false
  else if recWord s pa 2 ≠ adoptTarget v ∨ fld (recWord s pa 4) 63 56 ≠ (codeReachOf v.g v.t).toNat then
    signalTrap s v causeCapstate rec_ 2
  else
    let gen := (fld w1 47 32 + 1) % 2 ^ 16
    let w1' := setFld (setFld (setFld (setFld w1 63 62 2) 61 60 ostRunning) 47 32 gen) 31 16 (min (fld w1 31 16 + 1) 0xFFFF)
    let s := setRecWords s pa [(0, capToken g k), (1, w1'), (5, leaseEnd s g), (6, holderWord s g k), (7, now s)]
    let step := fld w1 59 56
    let xs := (List.range 8).map fun i => recWord s pa (8 + i)
    let nspc := recWord s pa 3
    let s := enterCapsule (acquireAt s v 4) v rec_ pa xs step nspc
    let s := modThread s (vid v) fun t => { t with preds := BitVec.ofNat 7 (fld w1 54 48), pc := nspc }
    emitCap s g evCapAdopt pa (step * 2 ^ 16 + gen)

/-- CAPADOPT (R357). -/
def execCapadopt (f : Fields) (s : State) : Host.Outcome State Fault Refusal :=
  issueEach f s fun v s =>
    match v.who with
    | .pilot => s
    | .strand k =>
      let rec_ := capVa v (readA v 64)
      capAccess s v rec_ 256 7 fun s pa => atRecord s v pa 256 (adoptRecord v k rec_ pa)

/-- CAPRES (R359): an acquire of the record's last commit, whatever it answers (R319). -/
def execCapres (f : Fields) (s : State) : Host.Outcome State Fault Refusal :=
  issueEach f s fun v s =>
    let n := fld f.sub 5 3
    capAccess s v (capVa v (readA v 64)) 16 4 fun s pa =>
      let (bs, s) := wideRead s (coreOf v.g v.who) pa 16
      let w0 := ofBytes (bs.take 8)
      let w1 := ofBytes (bs.drop 8)
      if nbit w1 63 then
        let s := homeWrite s none (pa + 8) (toBytes 8 (w1 % 2 ^ 63)) 0
        applyPend (acquireAt s v 4) v { effNone with writes := writesD v 64 w0 ++ writesP n true } 0
      else givePred (acquireAt s v 4) v n false

end Sys2Proof.Machine
end

