-- ==== Sys2Proof/Machine/Link.lean ====
section
/-! DEFINITION. The events of the links: remote requests and responses, flit errors, training, link states and the
delivery of recorded packets (R439-R450). -/

namespace Sys2Proof.Machine

open Sys2Proof

/-! ### Slots, requests and responses -/

/-- SLOTONLY_RECEIVE (R441). -/
def execSlotonlyReceive (port : Nat) (p : Packet) (s : State) : Host.Outcome State Fault Refusal := .next (receive s port p).2

/-- The target accepts an access of n bytes (R448). -/
def acceptsRemote (s : State) (p : Packet) (n : Nat) : Bool :=
  let base := fld (ctxReg s p.ctx 0x223) 51 16 * 65536
  let size := (ctxReg s p.ctx 0x224).toNat / 65536 * 65536
  (match getCtx s p.ctx with
    | some c => c.cst == .created || c.cst == .active || c.cst == .switchedOut
    | none => false) &&
  decide (base ≤ p.addr.toNat ∧ p.addr.toNat + n ≤ base + size) && inMain p.addr.toNat n

/-- The response to a request (R448): STAT 0 OK, 1 REFUSED, 2 POISON. A store is posted and has none; a refused one is logged. -/
def answer (s : State) (port : Nat) (p : Packet) (stat : Nat) (data : List Byte) : State :=
  if p.type = .write ∨ p.tag = postedTag then
    (if stat = 0 then s else emit s (unitPort port) (packetCtx p) evLinkDrop (linkObj p) 0 p.wake)
  else
    let (tag, s) := takeTag s (unitSlice (homeSlice s p.addr.toNat))
    sendPacket s { pkt0 s p.srank (if p.type = .read then .rdata else .adata) 1 p.ctx tag with
      stat := BitVec.ofNat 8 stat, tag := p.tag, payload := data }

/-- Words of n bytes. -/
def wordsOf (n : Nat) (bs : List Byte) : List Nat :=
  (List.range (bs.length / max n 1)).map fun i => ofBytes ((bs.drop (n * i)).take n)

/-- Pairs of consecutive words. -/
def pairUp (l : List Nat) : List (Nat × Nat) :=
  match l with
  | a :: b :: r => (a, b) :: pairUp r
  | _ => []

/-- The new value and the old values of an ATOM (R296-R298): compare and swap where ATOP is 0. -/
def atomOf (p : Packet) (n m : Nat) : Nat × List Nat :=
  let ops := wordsOf n (toBytes n p.opnd.toNat ++ p.payload)
  if fld p.opinfo 10 6 = 0 then casSet (pairUp ops) m
  else atomSet (fld p.opinfo 10 6) (8 * n) (bit1 p.opinfo 16) ops m

/-- What an ATOM asks, in OPINFO bits 23:20: 0 an atomic operation, 1 SEMP, 2 SEMV, 3 an executor leaves a semaphore's queue, 4 a
completion signal.
DESIGN CHOICE (log entry 34), unsafe. -/
def atomKind (p : Packet) : Nat := fld p.opinfo 23 20

/-- The executor, TRY and address of a semaphore request.
DESIGN CHOICE (log entry 34), unsafe. -/
def semRequestOf (s : State) (p : Packet) : SemWaiter × Bool × BitVec 72 :=
  let n (o k : Nat) : Nat := ofBytes ((p.payload.drop o).take k)
  let ix := n 16 4
  ({ rank := p.srank, t := { gid := n 8 4, who := if ix = 65536 then .pilot else .strand ix }, lin := BitVec.ofNat 32 (n 12 4),
     core := BitVec.ofNat 7 (n 20 1), units := BitVec.ofNat 64 (n 0 8), stamp := now s, tag := p.wake },
   n 21 1 == 1, BitVec.ofNat 72 (n 22 9))

/-- A semaphore request or a completion signal of another device at its word, and its answer (R125, R339). -/
def syncRequest (s : State) (p : Packet) (pa : Nat) : Nat × State :=
  let m := memGetNat s pa 8
  let (w, try_, va) := semRequestOf s p
  let put (s : State) (x : Nat) : State := homeWrite s none pa (toBytes 8 x) p.wake
  match atomKind p with
  | 1 =>
    (match semAsk s p.ctx pa va w m try_ with
    | (.taken, s) => (1, put s (m - w.units.toNat))
    | (.refused, s) => (0, s)
    | (.queued, s) => (2, s))
  | 2 => (m, put (semGive s p.ctx pa w) (semSum m w.units.toNat))
  | 3 => (0, semLeave s p.ctx pa (sameWaiter w))
  | _ => (m, put s (signalWord w.units.toNat (try_ || decide (2 ^ 63 ≤ m)) m))

/-- REMOTE_REQUEST_RECEIVE (R448): a WRITE, READ or ATOM is performed at its home slice, or refused. -/
def execRemoteRequestReceive (port : Nat) (p : Packet) (s : State) : Host.Outcome State Fault Refusal :=
  match receive s port p with
  | (false, s) => .next s
  | (true, s) =>
    let pa := p.addr.toNat
    match p.type with
    | .write =>
      .next (if acceptsRemote s p p.payload.length then homeWrite s none pa p.payload p.wake else answer s port p 1 [])
    | .read =>
      let n := 2 ^ fld p.opinfo 5 0
      .next (if acceptsRemote s p n = false ∨ 4096 < n then answer s port p 1 []
        else if poisoned s pa n then answer s port p 2 [] else answer s port p 0 (memGet s pa n))
    | .atom =>
      let n := 2 ^ fld p.opinfo 5 0
      .next (if acceptsRemote s p n = false ∨ 16 < n then answer s port p 1 []
        else if poisoned s pa n then answer s port p 2 []
        else if atomKind p ≠ 0 then
          let (x, s) := syncRequest s p pa
          answer s port p 0 (toBytes 8 x)
        else
          let (new, olds) := atomOf p n (memGetNat s pa n)
          answer (homeWrite s none pa (toBytes n new) p.wake) port p 0 (olds.flatMap (toBytes n)))
    | _ => .next s

/-- The lane of an executor. -/
def laneAt (s : State) (t : ThreadId) : Nat :=
  match t.who, getGroup s t.gid with
  | .strand k, some g => laneOf g k
  | _, _ => 0

/-- Puts an executor among executors in lane order. -/
def insertByLane (s : State) (t : ThreadId) (l : List ThreadId) : List ThreadId :=
  match l with
  | [] => [t]
  | u :: r => if laneAt s t ≤ laneAt s u then t :: u :: r else u :: insertByLane s t r

/-- The executors that wait for a tag, in lane order. -/
def waitersOf (s : State) (tag : W32) : List ThreadId :=
  (whoWith s fun _ t => t.run == .stalled (.remote tag)).foldr (insertByLane s) []

/-- A request has ended: a TLBINV that has waited for it and for no other ends too, and its context's faults are retried
(R277). -/
def endTlbinv (s : State) (tag : W32) (t : ThreadId) : State :=
  match getGroup s t.gid with
  | none => s
  | some g =>
    match getThread g t.who with
    | none => s
    | some x =>
      match x.run with
      | .stalled (.tlbinv tags next) =>
        let left := tags.filter (· != tag)
        if left.isEmpty then retryAll (modThread s t fun t => { t with run := .ready, pc := next }) g.ctx
        else modThread s t fun t => { t with run := .stalled (.tlbinv left next) }
      | _ => s

/-- A response, or none in time, reaches its executors: lane i of a combined request has the i-th share of the data.
DESIGN CHOICE (log entry 35), unsafe. -/
def giveRemote (s : State) (tag : W32) (st : BitVec 8) (data : List Byte) (wake : BitVec 48) : State :=
  let ws := waitersOf s tag
  let n := data.length / max ws.length 1
  let s := { s with
    remotes := s.remotes.filter fun r => r.tag != tag
    kernels := replaceIf (fun k => s.remotes.any fun r => r.tag == tag && r.t == .inr k.kid)
      (fun k => { k with signal := some (some st) }) s.kernels }
  let s := (whoWith s fun _ t => match t.run with | .stalled (.tlbinv l _) => l.contains tag | _ => false).foldl
    (fun s id => endTlbinv s tag id) s
  (ws.zip (List.range ws.length)).foldl (fun s w =>
    modThread s w.1 fun t =>
      { t with run := .ready, remote := some (st, (data.drop (n * w.2)).take n), lastwake := wake }) s

/-- REMOTE_RESPONSE_RECEIVE (R448). -/
def execRemoteResponseReceive (port : Nat) (p : Packet) (s : State) : Host.Outcome State Fault Refusal :=
  match receive s port p with
  | (false, s) => .next s
  | (true, s) => .next (if s.remotes.any fun r => r.tag == p.tag then giveRemote s p.tag p.stat p.payload p.wake else s)

/-- A request has had no response for 4 ms (R448).
DESIGN CHOICE (log entry 35), unsafe. -/
def timedOut (s : State) (r : RemoteReq) : Bool := decide (4000000 ≤ (now s).toNat - r.since.toNat)

/-- REMOTE_TIMEOUT (R448): the executors take it as status 4. -/
def execRemoteTimeout (tag : W32) (s : State) : Host.Outcome State Fault Refusal :=
  .next (match s.remotes.find? fun r => r.tag == tag with
    | some r => if timedOut s r then giveRemote s tag 4 [] 0 else s
    | none => s)

/-- A request whose time has passed. -/
def dueTimeout (s : State) : Option Instr := (s.remotes.find? (timedOut s)).map fun r => .remoteTimeout r.tag

/-! ### Link states -/

/-- SERVICE_REQUESTED is set, and raises cause 3 of the physical function (R445, R501). -/
def requestService (s : State) : State := raiseInt { s with mgmt := { s.mgmt with service := true } } 0 3

/-- What moves a port to another state (R444, R445). -/
inductive LinkCause where
  | signal
  | attempt
  | trained
  | miswire
  | lanes
  | drain
  | drained
  | command
deriving DecidableEq, Repr

def linkCauseCode (c : LinkCause) : Nat :=
  match c with
  | .signal => 0 | .attempt => 1 | .trained => 2 | .miswire => 3 | .lanes => 4 | .drain => 5 | .drained => 6 | .command => 7

def linkStateCode (l : LinkState) : Nat :=
  match l with | .down => 0 | .training => 1 | .up => 2 | .degraded => 3 | .draining => 4 | .fenced => 5 | .replay => 6

/-- A port enters a state, which is logged with the cause (R444). The spec gives the record no layout, so its payload is an open
function of the port, the state and the cause.
DESIGN CHOICE (log entry 7), safe. -/
def setLink (s : State) (port : Nat) (st : LinkState) (cause : LinkCause) : State :=
  let s := modPort s port fun q => { q with lst := st, downAt := if st = .down then (now s).toNat else q.downAt }
  let word := Config.recordWord evLinkState [port, linkStateCode st, linkCauseCode cause]
  failUnreachable (turnDir (emit s (unitPort port) none evLinkState 0 word.toNat) port)

/-- A port goes DOWN or FENCED: what it has not delivered goes out on another bundle, or is dropped (R446). -/
def portDown (s : State) (port : Nat) (st : LinkState) (cause : LinkCause) : State :=
  match getPort s port with
  | none => s
  | some q =>
    let s := setLink s port st cause
    let s := modPort s port fun q =>
      { q with retry := [], waiting := [], credits := [0, 0, 0, 0], returns := [0, 0, 0, 0], withheld := 0, lanes := 0 }
    releaseDirs ((q.retry ++ q.waiting).foldl sendNow s)

/-- Takes a port to DRAINING: new packets take another bundle, and what it has goes out (R444). -/
def drainPort (s : State) (port : Nat) : State := setLink s port .draining .drain

/-- LOSS_OF_SIGNAL (R444). -/
def execLossOfSignal (port : Nat) (s : State) : Host.Outcome State Fault Refusal :=
  .next (match getPort s port with
    | some q => if portWorks q && q.lst != .replay || q.lst == .training || q.lst == .draining then portDown s port .down .signal else s
    | none => s)

/-- TRAINING_ATTEMPT (R444). -/
def execTrainingAttempt (port : Nat) (s : State) : Host.Outcome State Fault Refusal :=
  .next (match getPort s port with
    | some q => if q.lst == .down && !q.trainOff then setLink s port .training .attempt else s
    | none => s)

/-- A training attempt is due: 100 ms have passed since the port went DOWN (R444). -/
def dueTraining (s : State) : Option Instr :=
  (s.ports.find? fun q => q.lst == .down && !q.trainOff && decide (q.downAt + 100000000 ≤ (now s).toNat)).map fun q => .trainingAttempt q.num

/-- A peer whose rank the port's direction and the route table both expect at the other end (R442, R445).
DEDUCED (log entry 111), unsafe. -/
def expectedPeer (s : State) (port : Nat) (peer : BitVec 12) : Bool :=
  peer == neighbour s.rank (port % 6) && routeDir s peer == some (port % 6)

/-- Credits of a link that enters UP or DEGRADED: every slot but those of packets still unacknowledged (R441). -/
def freshCredits (q : Port) : List Nat :=
  (List.range 4).map fun v => vcSlots v - ((q.retry.filter fun p => p.vc.toNat == v).map fun p => 1 + plenOf p).sum

/-- TRAINING_COMPLETE (R445): a miswired port, or one with fewer than 4 lanes, is fenced. -/
def execTrainingComplete (port lanes : Nat) (peer : BitVec 12) (s : State) : Host.Outcome State Fault Refusal :=
  .next (match getPort s port with
    | some q =>
      if q.lst ≠ .training then s
      else
        let n := min lanes (8 - q.fencedLanes.length)
        if expectedPeer s port peer = false then requestService (portDown s port .fenced .miswire)
        else if n < 4 then requestService (portDown s port .fenced .lanes)
        else
          let s := setLink s port (if n = 8 then .up else .degraded) .trained
          let s := modPort s port fun q => { q with lanes := n, credits := freshCredits q }
          flushWaiting s port q.waiting.length
    | none => s)

/-- The retries of a port within the last millisecond (R445). -/
def recentRetries (s : State) (q : Port) : List (Nat × Nat) := q.laneRetries.filter fun e => decide ((now s).toNat < e.2 + 1000000)

/-- Retries of a lane within the last millisecond. -/
def retriesOf (s : State) (q : Port) (lane : Nat) : Nat := ((recentRetries s q).filter fun e => e.1 == lane).length

/-- A lane is fenced, and a working link retrains on the others (R444, R445, R501). -/
def fenceLane (s : State) (port lane : Nat) : State :=
  match getPort s port with
  | none => s
  | some q =>
    if q.fencedLanes.contains lane then s
    else
      let s := modPort s port fun q =>
        { q with fencedLanes := q.fencedLanes ++ [lane], lanes := if q.lanes = 0 then 0 else 8 - (q.fencedLanes.length + 1),
                 laneRetries := q.laneRetries.filter fun e => e.1 != lane }
      let s := requestService { s with mgmt := { s.mgmt with fences := s.mgmt.fences ++ [.lane port lane] } }
      if q.lst = .up ∨ q.lst = .degraded then setLink s port .training .lanes else s

/-- FLIT_ERROR (R439, R445): the flit is resent; the retry is counted and logged at most once a millisecond; the 16th of a lane within 1 ms
fences the lane. -/
def execFlitError (port : Nat) (lane : Nat) (s : State) : Host.Outcome State Fault Refusal :=
  .next (match getPort s port with
    | some q =>
      if !(portWorks q || q.lst == .draining) || 8 ≤ lane then s
      else
        let logIt := match q.retryLogged with | some m => decide (m + 1000000 ≤ (now s).toNat) | none => true
        let n := retriesOf s q lane + 1
        let s := modPort s port fun q =>
          { q with laneRetries := recentRetries s q ++ [(lane, (now s).toNat)],
                   retryLogged := if logIt then some (now s).toNat else q.retryLogged }
        let s := countEvent s 3 port 0 0 selRetry 1
        let s := if logIt then emit s (unitPort port) none evLinkRetry 0 0 else s
        if 16 ≤ n then fenceLane s port lane else s
    | none => s)

/-- LANE_FENCE (R445): a lane with 16 retries in a millisecond is fenced and the link retrains on the others. -/
def execLaneFence (port lane : Nat) (s : State) : Host.Outcome State Fault Refusal :=
  .next (match getPort s port with
    | some q => if 16 ≤ retriesOf s q lane then fenceLane s port lane else s
    | none => s)

/-- A DRAINING port that has sent every packet, each acknowledged (R444). -/
def drainedPort (q : Port) : Bool := q.lst == .draining && q.retry.isEmpty && q.waiting.isEmpty

/-- LINK_DRAIN_END (R444). -/
def execLinkDrainEnd (port : Nat) (s : State) : Host.Outcome State Fault Refusal :=
  .next (match getPort s port with
    | some q => if drainedPort q then portDown s port .down .drained else s
    | none => s)

def dueDrained (s : State) : Option Instr := (s.ports.find? drainedPort).map fun q => .linkDrainEnd q.num

/-! ### Replay -/

/-- The request to a barrier object that a BARCTL packet carries (R323).
DESIGN CHOICE (log entry 33), safe. -/
def barRequestOf (p : Packet) : BarrierPacket :=
  let n (hi lo : Nat) : Nat := fld p.opnd hi lo
  { ctx := p.ctx, key := { level := 5, num := hNum p.aux, inst := hHome p.aux, grid := false }, rank := p.srank,
    core := BitVec.ofNat 7 (fld p.addr 6 0), gid := fld p.addr 63 7, group := BitVec.ofNat 32 (n 63 32),
    who := if n 31 8 = 65536 then .pilot else .strand (n 31 8), ask := askOf (n 6 0) (n 127 64) (bit1 p.opnd 7), tag := p.tag,
    wake := p.wake }

/-- The events by which a packet is handled, by its type (R440). -/
def packetEvents (s : State) (port : Nat) (p : Packet) : List Instr :=
  match p.type with
  | .slotOnly | .mgmt => [.slotonlyReceive port p]
  | .write | .read | .atom => [.remoteRequestReceive port p]
  | .rdata | .adata => [.remoteResponseReceive port p]
  | .collData => [.colldataReceive port p]
  | .barCtl =>
    match fld p.opinfo 17 16 with
    | 0 => .slotonlyReceive port p :: if p.drank = s.rank then [.barrierPacket (barRequestOf p)] else []
    | 1 => [.remoteResponseReceive port p]
    | _ => [.barrierCompletionReceive port p]
  | .collCtl =>
    match p.msg with
    | .join => [.joinReceive port p]
    | .ack => [.addAckReceive port p]
    | .notice => [.completionNoticeReceive port p]
    | .fail => [.failNoticeReceive port p]
    | .probe | .probeAnswer => [.probeReceive port p]
    | .confirm => [.deliveryAckReceive port p]
    | .close => [.closeNoticeReceive port p]

/-- The next recorded arrival of a port in REPLAY, once the port has sent as many packets as the record says (R450). -/
def nextArrival (s : State) (q : Port) : Option LogRec :=
  if q.lst = .replay then
    match (portRecords s q.num evArrival)[(sget s.replayPos (2 * q.num + 1)).toNat]? with
    | some r => if (q.sent.toNat + 2 ^ 16 - fld r.payload 47 32) % 2 ^ 16 < 2 ^ 15 then some r else none
    | none => none
  else none

/-- REPLAY_DELIVER (R450): the packet is taken from the region and handled next. -/
def execReplayDeliver (port : Nat) (s : State) : Host.Outcome State Fault Refusal :=
  .next (match getPort s port with
    | none => s
    | some q =>
      match nextArrival s q with
      | none => s
      | some r =>
        let at_ := fld s.recbase 51 12 * 4096 + 64 * fld r.payload 31 0
        let p := parsePacket (memGet s at_ 64) (memGet s (at_ + 64) (64 * fld r.obj 6 0))
        let k := 2 * port + 1
        { s with replayPos := sset s.replayPos k (sget s.replayPos k + 1),
                 agenda := (packetEvents s port p).map Turn.event ++ s.agenda })

/-- A port in REPLAY that has something to deliver. -/
def dueReplay (s : State) : Option Instr :=
  (s.ports.find? fun q => (nextArrival s q).isSome).map fun q => .replayDeliver q.num

end Sys2Proof.Machine
end

