-- ==== Sys2Proof/Machine/Narrow.lean ====
section
/-! DEFINITION. The narrow family (R232-R236). -/

namespace Sys2Proof.Machine

open Sys2Proof

/-- Format-table entry k of a context, read from its area at use (R86, R105). -/
def formatOf (s : State) (ctx k : Nat) : FmtEntry :=
  match getCtx s ctx with
  | some c => fmtEntry (BitVec.ofNat 32 (memGetNat s (c.area + 0x1000 + 4 * (k % 64)) 4))
  | none => .invalid

/-- The entry's word as it stands in memory. -/
def formatWord (s : State) (ctx k : Nat) : W32 :=
  match getCtx s ctx with | some c => BitVec.ofNat 32 (memGetNat s (c.area + 0x1000 + 4 * (k % 64)) 4) | none => 0

/-- The read of a format-table entry meets poison, which is fatal to the context, with FCAUSE 2 (R103, R106). -/
def formatPoisoned (s : State) (ctx k : Nat) : Bool :=
  match getCtx s ctx with
  | some c => poisoned s (c.area + 0x1000 + 4 * (k % 64)) 4
  | none => false

/-- FCAUSE of a poisoned format table (R106). -/
def fcFormat : Nat := 2

/-- Element index of operand C (R232). -/
def elemIx (v : View) : Nat := readC v 32 % 32

/-- A narrow instruction: an invalid entry or a standard type traps ILLOP with 0x0A or 0x0B (R86, R232); a poisoned one is fatal to the
context (R103). -/
def narrowIssue (op : Nat) (f : Fields) (s : State) (body : NarrowFmt → View → State → State) :
    Host.Outcome State Fault Refusal :=
  issueEach f s fun v s =>
    if formatPoisoned v.s v.g.ctx (fld f.sub 5 0) then raiseCtxFatal (retryAt s v) v.g.ctx fcFormat
    else match formatOf v.s v.g.ctx (fld f.sub 5 0) with
    | .invalid => signalTrap s v causeIllop 0 (op * 256 + 0x0A)
    | .standard _ => signalTrap s v causeIllop 0 (op * 256 + 0x0B)
    | .narrow n => body n v s

/-- The scale of operand B for element i. -/
def scaleB (v : View) (n : NarrowFmt) : Ext := scaleOf (BitVec.ofNat 32 (readB v 32)) n.step (elemIx v)

/-- NCVT (R233): the generator of SRSTATE steps once under `.sr`. -/
def execNcvt (f : Fields) (s : State) : Host.Outcome State Fault Refusal :=
  narrowIssue 0x0D8 f s fun n v s =>
    let x := readFloat fp32 false false false (fbitsA v fp32)
    let sr := fld f.sub 7 6 = 2
    let u := srStep v.t.srstate
    let rm : Rm := if sr then .sr u.toNat else if fld f.sub 7 6 = 1 then .rtz else .rne
    let y := divE x.val (scaleB v n)
    let r := encodeN n rm (satBit f) x.snan y.1
    let e : Eff := { writes := writesD v 32 r.code, flags := r.fl ||| y.2, ovf := if r.counted && ovcBit f then 1 else 0 }
    let s := if sr then modThread s (vid v) fun t => { t with srstate := u } else s
    applyFixed s v 5 e

/-- NEXP (R234). -/
def execNexp (f : Fields) (s : State) : Host.Outcome State Fault Refusal :=
  narrowIssue 0x0D9 f s fun n v s =>
    let d := decodeN n (readA v 32 % 2 ^ n.w)
    let r := mulE (scaleB v n) d
    let o := roundF fp32 { rm := .rne, ftz := false, sat := satBit f, infIn := isInfE d } r.1
    applyFixed s v 5 { writes := writesD v 32 (encodeF fp32 o.val), flags := o.fl ||| flagIf r.2 flNV,
                       ovf := if o.clamped && ovcBit f then 1 else 0 }

/-- Scale of exponent SE and mantissa SM (R89). -/
def sigmaOf (se sm : Nat) : Rat := ((4 + sm : Nat) : Rat) * pow2 ((se : Int) - 129)

/-- The least scale word of SE 1-254 that is at least x (R235). -/
def leastScale (x : Rat) : Option Nat := (List.range 1016).find? fun k => decide (x ≤ sigmaOf (k / 4 + 1) (k % 4))

/-- The scale word of BSCALE and its flags (R235). -/
def blockScale (n : NarrowFmt) (t q : Ext) (i : Nat) : W32 × BitVec 6 :=
  match t, q with
  | .fin _ tm, q =>
    if isNanE q then (0x3FC, flNV)
    else
      let (k, fl) : Nat × BitVec 6 := if tm = 0 then (4 * 126, 0)
        else if narrowMaxf n = 0 then (1015, flOF)
        else match leastScale (tm / narrowMaxf n) with | some k => (k, 0) | none => (1015, flOF)
      let sigma := sigmaOf (k / 4 + 1) (k % 4)
      let mx := match q with | .fin _ qm => decide (qm * pow2 n.step ≤ narrowMaxf n * sigma) | _ => false
      (BitVec.ofNat 32 ((k / 4 + 1) * 4 + k % 4 + (if mx then 2 ^ (10 + i / 2) else 0)), fl)
  | _, _ => (0x3FC, flNV)

def execBscale (f : Fields) (s : State) : Host.Outcome State Fault Refusal :=
  narrowIssue 0x0DA f s fun n v s =>
    let t := readFloat fp32 false false true (fbitsA v fp32)
    let q := readFloat fp32 false false true (fbitsB v fp32)
    let r := blockScale n t.val q.val (elemIx v)
    applyFixed s v 5 { writes := writesD v 32 r.1.toNat, flags := r.2, ovf := 0 }

/-- NPACK's container (R236): bits of a code of w bits at position p. -/
def packBits (w : Nat) (code c : Nat) (p : Int) : Nat :=
  bitsNat 64 fun k =>
    let j := (k : Int) - p
    if 0 ≤ j ∧ j < w then nbit code j.toNat else nbit c k

def execNpack (f : Fields) (s : State) : Host.Outcome State Fault Refusal :=
  narrowIssue 0x0DB f s fun n v s =>
    applyFixed s v 5 (bitsEff v 64 (packBits n.w (readA v 32) (readC v 64) (sxNat 32 (readB v 32))))

/-- NUNPK (R236): in pilot code a zero C field gives zero high bits.
DEDUCED (log entry 22), unsafe. -/
def execNunpk (f : Fields) (s : State) : Host.Outcome State Fault Refusal :=
  narrowIssue 0x0DC f s fun n v s =>
    let hi := if isPilot v && f.c == 0 then 0 else readC v 64
    applyFixed s v 5 (bitsEff v 32 ((readA v 64 + hi * 2 ^ 64) / 2 ^ min (readB v 32) 128 % 2 ^ n.w))

end Sys2Proof.Machine
end

