-- ==== Sys2Proof/Machine/EngineBase.lean ====
section
/-! DEFINITION. What the three engines share: parameter-block checks, the engines' reads and writes, tokens, tiles,
retirement and ENGWAIT (R371-R376, R379, R383-R389). -/

namespace Sys2Proof.Machine

open Sys2Proof

/-! ### The save region -/

/-- First-fit allocation in a context's save region, at 4 KiB granularity (R105, R108). -/
def regionFree (c : Context) (at_ n : Nat) : Bool :=
  decide (at_ + n ≤ c.area + 0x10000 + c.savesize) && c.allocs.all fun a => decide (a.1 + a.2 ≤ at_ ∨ at_ + n ≤ a.1)

/-- Starts that an allocation may have: the region's, and each allocation's end, rounded up to 4 KiB. -/
def regionStarts (c : Context) : List Nat :=
  (c.area + 0x10000) :: c.allocs.map fun a => 4096 * ceilDiv (a.1 + a.2) 4096

/-- Reserves n bytes of the save region (R108, R388, R413). -/
def allocSave (s : State) (ctx n : Nat) : Option (Nat × State) :=
  match getCtx s ctx with
  | none => none
  | some c =>
    match ((regionStarts c).filter fun a => regionFree c a n).min? with
    | none => none
    | some a => some (a, modCtx s ctx fun c => { c with allocs := c.allocs ++ [(a, n)] })

/-- Frees the allocation at an address. -/
def freeSave (s : State) (ctx at_ : Nat) : State :=
  modCtx s ctx fun c => { c with allocs := c.allocs.filter fun a => a.1 != at_ }

/-! ### Engines of a group -/

def getEng (g : Group) (e : Engine) : EngState := match e with | .matrix => g.mat | .copy => g.cpy | .reckoner => g.rek

def setEng (g : Group) (e : Engine) (x : EngState) : Group :=
  match e with
  | .matrix => { g with mat := x }
  | .copy => { g with cpy := x }
  | .reckoner => { g with rek := x }

/-- Engine of a token's bits 33:32 (R373). -/
def engOf (n : Nat) : Option Engine := match n with | 1 => some .matrix | 2 => some .copy | 3 => some .reckoner | _ => none

/-- The core whose engines a group uses: that of its pilot. -/
def engCore (g : Group) : Nat := g.cores.getD 0 0

/-- A group whose operations run: it holds its place and is not being saved. Those of a FAULTED group run to their end
(R141, R168).
DEDUCED (log entry 49), unsafe. -/
def opsRun (s : State) (g : Group) : Bool :=
  match g.gst with | .running | .draining | .halted => true | .faulted => holdsPlace s g | _ => false

/-- The groups placed on the pilot core of a group. -/
def engGroups (s : State) (core : Nat) : List Group := s.groups.filter fun g => holdsPlace s g && engCore g == core

/-- Operations in an engine's queue of a core (R372). -/
def engQueue (s : State) (core : Nat) (e : Engine) : List EngineOp :=
  s.engineQ.filter fun o => o.eng == e && (engGroups s core).any fun g => g.gid == o.gid

/-! ### Checks at issue -/

/-- One check of a block: whether it fails, whether it is a relation, the index it reports, the status (R374). -/
abbrev BlkCheck := Bool × Bool × Nat × Nat

/-- A check of a single field, and of a relation. -/
def single (ix st : Nat) (bad : Bool) : BlkCheck := (bad, false, ix, st)
def relation (ix st : Nat) (bad : Bool) : BlkCheck := (bad, true, ix, st)

/-- Status codes (R375). -/
def stBadparam : Nat := 1
def stBadshape : Nat := 2
def stBadfmt : Nat := 3
def stBadalign : Nat := 4
def stBadsparse : Nat := 5
def stPage : Nat := 6
def stStowbad : Nat := 7
def stPoison : Nat := 8
def stBankmode : Nat := 9
def stAborted : Nat := 10

/-- The failure that decides: single fields by register, then relations by index, each in the listed order (R374):
status and detail. -/
def firstReject (l : List BlkCheck) : Option (Nat × Nat) :=
  (([false, true].flatMap fun r => (List.range 8).map fun i => (r, i)).findSome? fun ri =>
    l.find? fun c => c.1 && c.2.1 == ri.1 && c.2.2.1 == ri.2).map fun c =>
      (c.2.2.2, (if c.2.1 then 0x80 else 0) + c.2.2.1)

/-- A rejected token (R373). -/
def rejToken (e : Engine) (st det : Nat) : Nat := 2 ^ 63 + engCode e * 2 ^ 32 + det * 2 ^ 8 + st

/-- Bytes of a group's banks. -/
def bankBytes (g : Group) : Nat := g.modes.length * 98304

/-- Checks of a completion word, which stands in register ix (R379). -/
def compChecks (g : Group) (ix : Nat) (w : W64) : List BlkCheck :=
  let aw := fld w 63 32
  [single ix stBadparam (fld w 31 5 != 0), single ix stBadparam (fld w 4 2 == 7), single ix stBadparam (bit1 w 1),
   relation ix stBadparam (aw != 0 && !bit1 w 0), relation ix stBadalign (bit1 w 0 && aw % 8 != 0),
   relation ix stBadparam (bit1 w 0 && decide (bankBytes g < aw + 8))]

/-- Arrival word of a completion word. -/
def compArrive (w : W64) : Option Nat := if bit1 w 0 then some (fld w 63 32) else none

/-- The unused bits of an address coded by a kind (0 L2, 1 scratch, 2 channel) of another register are zero (R377, R393,
R396). -/
def addrBits (ix kind : Nat) (x : W64) : BlkCheck :=
  relation ix stBadparam ((kind == 1 && fld x 63 32 != 0) || (decide (2 ≤ kind) && fld x 63 4 != 0))

/-- The alignment of an address so coded (R380, R393, R396). -/
def addrAlign (ix kind al : Nat) (x : W64) : BlkCheck := relation ix stBadalign (decide (kind < 2) && x.toNat % al != 0)

/-- Both, the unused bits first. -/
def addrChecks (ix kind al : Nat) (x : W64) : List BlkCheck := [addrBits ix kind x, addrAlign ix kind al x]

/-- A scratch range beyond the group's banks (R375): a relation. -/
def rangeCheck (g : Group) (ix : Nat) (on : Bool) (lo hi : Int) : BlkCheck :=
  relation ix stBadparam (on && decide (lo < 0 ∨ (bankBytes g : Int) < hi))

/-! ### Spaces -/

/-- Where an operand of an operation stands: virtual memory under a reach, named by a register of the block; a bank
of a mode, from a group offset. -/
inductive ESpace where
  | l2 (reach : BitVec 8) (reg : Nat)
  | bank (mode : BankMode) (base : Nat)
deriving DecidableEq, Repr

/-- Why an operation does not go on: it fails with a status, detail and address; it stalls on a replayable fault; a
context fatal event; a capture copy, or room in the walk queue (R268), for which it waits. -/
inductive EStop where
  | fail (st det addr : Nat)
  | stall (kind level : Nat) (va : BitVec 72) (a : Acc)
  | fatal (cause : Nat)
  | capture
  | queueFull
deriving DecidableEq, Repr

/-- A part of an operation: what it gives or why it stops, and the state. -/
abbrev ERes (α : Type) := Except EStop α × State

def eThen {α β : Type} (r : ERes α) (k : α → State → ERes β) : ERes β :=
  match r with
  | (.ok a, s) => k a s
  | (.error e, s) => (.error e, s)

/-- Slot k of a channel's buffer: group offset (R385). -/
def slotBase (cfg : W64) (k : Nat) : Nat := chanFirst cfg * 98304 + 64 + k % max 1 (chanSlots cfg) * chanSbytes cfg

def chanCfg (g : Group) (c : Nat) : Option W64 := (g.chans.find? fun e => e.1 == c).map (·.2)

/-- PROD and CONS of a channel (R385). -/
def chanIndex (g : Group) (c : Nat) (prod : Bool) : Nat :=
  match chanCfg g c with
  | some cfg => ofBytes (sgets g.scratch (scratchKey 0 (chanFirst cfg * 98304 + if prod then 0 else 8)) 4)
  | none => 0

/-- Writes an index of a channel, by a unit. -/
def setChanIndex (s : State) (unit gid c : Nat) (prod : Bool) (x : Nat) : State :=
  match (getGroup s gid).bind fun g => chanCfg g c with
  | some cfg => scratchWrite s unit gid 0 (chanFirst cfg * 98304 + if prod then 0 else 8) (toBytes 4 x)
  | none => s

/-- Full slots of a channel, and a free one (R385). -/
def chanFull (g : Group) (c : Nat) : Bool := decide (1 ≤ (chanIndex g c true + 2 ^ 32 - chanIndex g c false) % 2 ^ 32)
def chanFree (g : Group) (c : Nat) : Bool :=
  match chanCfg g c with
  | some cfg => decide ((chanIndex g c true + 2 ^ 32 - chanIndex g c false) % 2 ^ 32 < chanSlots cfg)
  | none => false

/-- The space of an operand coded by a kind: `out` marks one that is written. -/
def spaceOf (g : Group) (kind : Nat) (reach : BitVec 8) (reg : Nat) (x : W64) (out : Bool) : ESpace × Nat :=
  match kind with
  | 0 => (.l2 reach reg, x.toNat)
  | 1 => (.bank .scratch 0, fld x 31 0)
  | _ =>
    let c := fld x 3 0
    (.bank .fifo (match chanCfg g c with | some cfg => slotBase cfg (chanIndex g c out) | none => 0), 0)

/-- Banks that a range touches are in a mode; else BANKMODE with the first offset that is not (R384). -/
def bankCheck (g : Group) (m : BankMode) (o n : Nat) : Except EStop Unit :=
  let first := o / 98304
  match (List.range ((o + n - 1) / 98304 + 1 - first)).find? fun i => g.modes[first + i]? != some m with
  | some i => .error (.fail stBankmode 0 (max o ((first + i) * 98304)))
  | none => .ok ()

/-- FAIL has reached the fault of this access of an operation of the group (R264). -/
def engRefused (s : State) (gid : Nat) (va : BitVec 72) (a : Acc) : Bool :=
  s.engineQ.any fun o => o.gid == gid && o.stall.isNone && (refusedAt o.failed va a).isSome

/-- The checks of an access of an engine (R260, R264, R375).
DEDUCED (log entry 37), unsafe. -/
def engAccess (s : State) (g : Group) (reg : Nat) (va : BitVec 72) (a : Acc) (n : Nat) : ERes (Leaf × Nat) :=
  if engRefused s g.gid va a then (.error (.fail stPage 12 (fld va 63 0)), s)
  else match checkAccess s (some (engCore g)) g.ctx va a n (capturing s g) with
  | (.ok l pa, s) => if apertureBase ≤ pa then (.error (.fail stBadparam reg (fld va 63 0)), s) else (.ok (l, pa), s)
  | (.trap c i, s) =>
    let st := if c = causeStowbad then stStowbad else if c = causePoison then stPoison else stPage
    (.error (.fail st (i % 256) (fld va 63 0)), s)
  | (.replay k l, s) => (.error (.stall k l va a), s)
  | (.ctxFatal c, s) => (.error (.fatal c), s)
  | (.capture, s) => (.error .capture, s)
  | (.queueFull, s) => (.error .queueFull, s)
  | (.debug, s) => (.error (.fail stPage 13 (fld va 63 0)), s)

/-- Bytes of one 4 KiB piece as an engine reads them: from the home slices, or from decoded lines (R383), with the
page's format descriptor (R257). -/
def engPiece (s : State) (g : Group) (reg : Nat) (va : BitVec 72) (n : Nat) : ERes (List Byte × Nat) :=
  eThen (engAccess s g reg va .eread n) fun lp s =>
    let d := fld lp.1.w1 7 0
    if leafStow lp.1.w0 then
      match stowTile s g.ctx lp.1 va with
      | (.ok tile, s) => (.ok ((List.range n).map fun i => tile.getD (va.toNat % 4096 + i) 0, d), s)
      | (.error _, s) => (.ok (toBytes n 0, d), s)
    else (.ok (memGet s lp.2 n, d), s)

/-- Reads n bytes at an offset of a space; `want` is the descriptor that every page must carry (R378).
DEDUCED (log entry 40), unsafe. -/
def engRead (s : State) (g : Group) (sp : ESpace) (off n : Nat) (want : Option Nat := none) : ERes (List Byte) :=
  match sp with
  | .bank m base =>
    match bankCheck g m (base + off) n with
    | .error e => (.error e, s)
    | .ok _ => (.ok (match getGroup s g.gid with | some h => sgets h.scratch (scratchKey 0 (base + off)) n | none => []), s)
  | .l2 reach reg =>
    (piecesOf off n).foldl (fun r p => eThen r fun bs s =>
      let va := vaOf reach (BitVec.ofNat 64 p.1)
      eThen (engPiece s g reg va p.2) fun x s =>
        if (match want with | some d => d != x.2 | none => false) then (.error (.fail stBadfmt 0 (fld va 63 0)), s)
        else (.ok (bs ++ x.1), s)) (.ok [], s)

/-- A write of an operation that has passed its checks: main memory, or a bank offset. -/
inductive EWrite where
  | main (pa : Nat) (bs : List Byte)
  | bank (o : Nat) (bs : List Byte)
deriving DecidableEq, Repr

/-- Checks a write of bytes at an offset of a space. -/
def engWrite (s : State) (g : Group) (sp : ESpace) (off : Nat) (bs : List Byte) : ERes (List EWrite) :=
  match sp with
  | .bank m base =>
    match bankCheck g m (base + off) bs.length with
    | .error e => (.error e, s)
    | .ok _ => (.ok [.bank (base + off) bs], s)
  | .l2 reach reg =>
    (piecesOf off bs.length).foldl (fun r p => eThen r fun ws s =>
      eThen (engAccess s g reg (vaOf reach (BitVec.ofNat 64 p.1)) .ewrite p.2) fun lp s =>
        (.ok (ws ++ [.main lp.2 ((bs.drop (p.1 - off)).take p.2)]), s)) (.ok [], s)

/-- Performs a write at its home slice, or in its bank (R394, R397). -/
def engPut (gid unit : Nat) (s : State) (w : EWrite) : State :=
  match w with
  | .main pa bs =>
    let (tag, s) := writeTag s unit pa bs.length
    homeWrite s none pa bs tag
  | .bank o bs => scratchWrite s unit gid 0 o bs

/-! ### Issue -/

/-- The block's registers as read at issue. -/
def blockOf (v : View) (n : Nat) : List W64 := (List.range n).map fun i => readReg v.s v.g v.t (.s (nA v.f + i))

/-- Register i of a block. -/
def br (b : List W64) (i : Nat) : W64 := b.getD i 0

/-- Tiles allocated in program order (R389). -/
def poTile (g : Group) (t : Nat) : Bool := g.accMap.any (fun a => a.logical == t) && !g.accGone.contains t

/-- Writes D of a system or engine instruction, interlocked. -/
def giveD (s : State) (v : View) (x : Nat) : State := applyPend s v { effNone with writes := writesD v 64 x } 0

/-- The pilot's earlier writes are performed before the operation reads (R319, R383): its queued stores have left, and
its core's dirty bytes go to their slices. -/
def engRelease (s : State) (g : Group) : State := writeBack s (engCore g) fun _ => true

/-- The issue of an operation (R372-R374): tiles, channels and fields are checked; then the operation enters its queue
and sD receives its token. -/
def engIssue (v : View) (s : State) (e : Engine) (op : Nat) (blk : List W64) (tiles chans : List Nat)
    (checks : List BlkCheck) : State :=
  match tiles.find? fun t => !poTile v.g t with
  | some t => signalTrap s v causeAccrange 0 (1 + t * 2 ^ 16)
  | none =>
    match chans.find? fun c => (chanCfg v.g c).isNone with
    | some c => signalTrap s v causeChnstate 0 (1 + c * 2 ^ 16)
    | none =>
      match firstReject checks with
      | some (st, det) => giveD s v (rejToken e st det)
      | none =>
        if ownQueued s v then stallAt s v .storeQueue
        else if 32 ≤ (engQueue s (engCore v.g) e).length then stallAt s v .engineQueue
        else
          let x := getEng ((getGroup s v.g.gid).getD v.g) e
          let seq := x.seq + 1
          let s := modGroup s v.g.gid fun g => setEng g e { x with seq := seq }
          let s := engRelease s v.g
          let s := { s with engineQ := s.engineQ ++ [{ gid := v.g.gid, eng := e, op := BitVec.ofNat 9 op, seq := seq, blk := blk,
                                                        started := false, stall := none, failed := none, carry := none, sent := false, since := now s }] }
          giveD s v (engCode e * 2 ^ 32 + seq.toNat)

/-! ### Retirement -/

/-- Pilots that wait for room in a queue, or for operations to end, a CARRYBAR among them, try again (R372, R410). -/
def readyEngine (s : State) (core : Nat) : State :=
  let go (t : Thread) : Thread :=
    match t.run with | .stalled .engineQueue | .stalled .engineDrain | .stalled .carry | .stalled (.bankSwitch _) => { t with run := .ready } | _ => t
  { s with groups := s.groups.map fun g => if engCore g = core then { g with pilot := go g.pilot } else g }

/-- Removes the first operation of a group on an engine. -/
def popOp (s : State) (gid : Nat) (e : Engine) : State :=
  { s with engineQ := s.engineQ.eraseP fun o => o.gid == gid && o.eng == e }

/-- A token's operation has retired (R376). -/
def tokenDone (x : EngState) (seq : W32) : Bool := decide ((x.retired - seq).toNat < 2 ^ 31)

/-- Wakes a pilot parked in ENGWAIT whose operation has retired. -/
def wakeEngwait (s : State) (gid : Nat) (e : Engine) (tag : BitVec 48) : State :=
  modGroup s gid fun g =>
    match g.pilot.run with
    | .parked (.engwait e' seq) =>
      if e' = e ∧ tokenDone (getEng g e) seq = true then { g with pilot := { g.pilot with run := .ready, lastwake := tag } } else g
    | _ => g

/-- What a retirement applies besides the operation's own writes. -/
structure Completion where
  arrive : Option Nat
  bytes : Nat
  ins : List Nat
  outs : List Nat
deriving DecidableEq, Repr

/-- Element-steps of a SCAN's block: steps by channels (R401, R478). -/
def opElementSteps (blk : List W64) : Nat := let q := blk.getD 4 0; fld q 23 0 * (fld q 28 24 + 1)

/-- The events of a retirement: matrix retirements, and the bytes of a copy and the element-steps of a SCAN that ended
well (R478). -/
def countRetired (s : State) (g : Group) (o : EngineOp) (c : Completion) (st : Nat) : State :=
  match o.eng with
  | .matrix => countCore s g (engCore g) selMmaret 1
  | .copy => if st = 0 ∧ o.op = 0x1E8 then countCore s g (engCore g) selCpybytes c.bytes else s
  | .reckoner => if st = 0 ∧ o.op = 0x1EB then countCore s g (engCore g) selScanstep (opElementSteps o.blk) else s

/-- Retirement of a group's first operation on an engine, with a status, detail, address and IEEE flags (R376, R379,
R385). An operation that ends ABORTED performs nothing further (R399). -/
def retireOp (s : State) (g : Group) (o : EngineOp) (c : Completion) (st det addr : Nat) (fl : BitVec 6) : State :=
  let scratchAt (a : Nat) : Bool := g.modes[a / 98304]? == some .scratch
  let (st, det, addr) := match c.arrive with
    | some a => if st = 0 ∧ scratchAt a = false then (stBankmode, 1, a) else (st, det, addr)
    | none => (st, det, addr)
  let unit := unitEngine (engCore g) o.eng
  let (tag, s) := if st = 0 then takeTag s unit
    else emitFilt s g.vals.logfilt.toNat unit (some g.ctx) evEngineFault o.seq.toNat
      (engCode o.eng * 2 ^ 46 + st * 2 ^ 38 + addr % 2 ^ 38) 0
  let s := modGroup s g.gid fun g =>
    let x := getEng g o.eng
    let first := match x.first with
      | some f => some f
      | none => if st = 0 then none else some { status := BitVec.ofNat 8 st, detail := BitVec.ofNat 8 det, seq := o.seq }
    setEng g o.eng { x with retired := o.seq, first := first, flags := x.flags ||| fl }
  let s := countRetired (popOp s g.gid o.eng) g o c st
  let s := if st = stAborted then s
    else
      let bump (out : Bool) (s : State) (n : Nat) : State :=
        match getGroup s g.gid with | some h => setChanIndex s unit g.gid n out ((chanIndex h n out + 1) % 2 ^ 32) | none => s
      let s := c.ins.foldl (bump false) s
      let s := c.outs.foldl (bump true) s
      match c.arrive with
      | some a => if scratchAt a then arriveAt s unit g.gid a c.bytes else s
      | none => s
  wakeEngwait (readyEngine (closeConvoy s g.kid) (engCore g)) g.gid o.eng tag

/-- ENGWAIT (R376): a completed wait is an acquire of the retirements. -/
def engwaitOne (f : Fields) (v : View) (s : State) : State :=
  let t := BitVec.ofNat 64 (readA v 64)
  let nb := bit1 f.sub 0
  let pd (b : Bool) : List (RegId × W64) := if nb then writesP (fld f.sub 3 1) b else []
  let give (s : State) (x : Nat) : State := applyPend s v { effNone with writes := writesD v 64 x ++ pd true } 0
  if bit1 t 63 then give s (fld t 15 0)
  else match engOf (fld t 33 32) with
  | none => signalTrap s v causeIllop 0 (decodeInfo 0x1EF 3)
  | some e =>
    let seq := BitVec.ofNat 32 (fld t 31 0)
    let x := getEng v.g e
    if tokenDone x seq = false then
      if nb then applyPend s v { effNone with writes := pd false } 0 else parkAt s v (.engwait e seq)
    else
      let hit := match x.first with | some q => if (seq - q.seq).toNat < 2 ^ 31 then some q else none | none => none
      let r := match hit with | some q => q.seq.toNat * 2 ^ 32 + q.detail.toNat * 2 ^ 8 + q.status.toNat | none => 0
      let s := modGroup s v.g.gid fun g => setEng g e { x with first := if hit.isSome then none else x.first, flags := 0 }
      give (dropClean s (engCore v.g)) (r + x.flags.toNat * 2 ^ 16)

/-- ENGWAIT (R376). -/
def execEngwait (f : Fields) (s : State) : Host.Outcome State Fault Refusal := issueEach f s (engwaitOne f)

/-! ### Channels -/

/-- Channels that an operation names: inputs and outputs (R377, R393, R396). -/
def opChans (o : EngineOp) : List Nat × List Nat :=
  let p (i : Nat) : W64 := br o.blk i
  let one (on : Bool) (x : W64) : List Nat := if on then [fld x 3 0] else []
  match o.op.toNat with
  | 0x1E0 | 0x1E1 => (one (fld (p 4) 36 35 == 2) (p 0) ++ one (fld (p 4) 38 37 == 2) (p 1), [])
  | 0x1E5 => ([], one (fld (p 1) 20 19 == 2) (p 0))
  | 0x1E6 => (one (fld (p 1) 20 19 == 2) (p 0), [])
  | 0x1E8 => (one (fld (p 7) 11 9 == 2) (p 0), one (fld (p 7) 14 12 == 2) (p 1))
  | 0x1EB => (one (fld (p 5) 9 8 == 2) (p 0) ++ one (fld (p 5) 11 10 == 2) (p 1), one (fld (p 5) 13 12 == 2) (p 2))
  | _ => ([], [])

/-- Operations of a group that name a channel. -/
def chanBusy (s : State) (gid c : Nat) : Bool :=
  s.engineQ.any fun o => o.gid == gid && ((opChans o).1.contains c || (opChans o).2.contains c)

/-- CHNSTATE of a channel (R386). -/
def chnTrap (s : State) (v : View) (c sub : Nat) : State := signalTrap s v causeChnstate 0 (sub + c * 2 ^ 16)

/-- The channel number of CHNCFG. -/
def chnNum (v : View) : Nat := readB v 32 % 16

/-- CHNCFG.set (R386). -/
def execChncfgSet (f : Fields) (s : State) : Host.Outcome State Fault Refusal :=
  issueEach f s fun v s =>
    let c := chnNum v
    let cfg := BitVec.ofNat 64 (readA v 64)
    let banks := (List.range (chanBanks cfg)).map fun i => chanFirst cfg + i
    if (chanCfg v.g c).isSome then chnTrap s v c 3
    else if fld cfg 63 48 ≠ 0 ∨ fld cfg 7 5 ≠ 0 ∨ chanSbytes cfg = 0 ∨ chanSbytes cfg % 64 ≠ 0 ∨ chanSlots cfg = 0 ∨
        v.g.modes.length < chanFirst cfg + chanBanks cfg ∨ (banks.any fun i => v.g.modes[i]? != some .fifo) = true then
      chnTrap s v c 2
    else if banks.any fun i => chanBank v.g i then chnTrap s v c 4
    else
      let s := scratchWrite s (unitOf v.g v.who) v.g.gid 0 (chanFirst cfg * 98304)
        (toBytes 16 0 ++ toBytes 4 (chanSbytes cfg) ++ toBytes 4 (chanSlots cfg) ++ toBytes 40 0)
      giveD (modGroup s v.g.gid fun g => { g with chans := g.chans ++ [(c, cfg)] }) v 0

/-- CHNCFG.reset (R386). -/
def execChncfgReset (f : Fields) (s : State) : Host.Outcome State Fault Refusal :=
  issueEach f s fun v s =>
    let c := chnNum v
    if chanBusy s v.g.gid c then stallAt s v .engineDrain
    else giveD (modGroup s v.g.gid fun g => { g with chans := g.chans.filter fun e => e.1 != c }) v 0

/-- CHNCFG.get (R386). -/
def execChncfgGet (f : Fields) (s : State) : Host.Outcome State Fault Refusal :=
  issueEach f s fun v s =>
    let c := chnNum v
    if (chanCfg v.g c).isNone then chnTrap s v c 1
    else giveD s v (chanIndex v.g c true * 2 ^ 32 + chanIndex v.g c false)

/-! ### Accumulator tiles -/

/-- Tiles of a core that lie in no quota and are bound to no group (R388). -/
def freePool (s : State) (core : Nat) : Nat :=
  32 - ((engGroups s core).map fun g => g.shape.acc + (g.accMap.filter (·.pool)).length).sum

/-- The lowest physical tile of a core that no group holds. -/
def freePhys (s : State) (core : Nat) (taken : List Nat) : Nat :=
  ((List.range 32).find? fun n =>
    !(taken.contains n) && !((engGroups s core).any fun g => g.accMap.any fun a => a.phys == n)).getD 0

/-- A set of tiles as a list. -/
def tileList (m : W32) : List Nat := (List.range 32).filter fun i => m.getLsbD i

/-- Binds tiles: quota tiles first, then pool tiles; each reads as +0 (R387, R388). -/
def bindTiles (s : State) (g : Group) (want : List Nat) (quota : Nat) : State :=
  let add := (want.foldl (fun (acc : List AccTile) t =>
    acc ++ [{ logical := t, phys := freePhys s (engCore g) (acc.map (·.phys)), pool := decide (quota ≤ acc.length) }]) [])
  modGroup s g.gid fun g => { g with accMap := g.accMap ++ add, acc := skeep g.acc fun k => !want.contains (k / 65536) }

/-- What ACCALLOC answers now: a status, or none while it waits (R388, R389). -/
def accTry (s : State) (g : Group) (mask : W32) (nb : Bool) : Option Nat × State :=
  let want := (tileList mask).filter fun t => !(g.accMap.any fun a => a.logical == t)
  let quota := g.shape.acc - (g.accMap.filter fun a => !a.pool).length
  let need := want.length - quota
  let olderWaits := (engGroups s (engCore g)).any fun h =>
    older s h g && (match h.pilot.run with | .parked (.accalloc _ _ _) => true | _ => false)
  let ext := if 0 < need ∧ g.ext.isNone then allocSave s g.ctx ((32 - g.shape.acc) * 65536) else none
  if 0 < need ∧ g.ext.isNone ∧ ext.isNone then
    (some 3, (emitFilt s g.vals.logfilt.toNat (unitCore (engCore g)) (some g.ctx) evSaveSpace
      (g.ctx % 1024 * 2 ^ 22 + kernelTag s g.kid) 0 0).2)
  else if need = 0 ∨ (need ≤ freePool s (engCore g) ∧ olderWaits = false) then
    let s := match ext with
      | some (at_, s) => modGroup s g.gid fun g => { g with ext := some at_ }
      | none => s
    (some 0, bindTiles s g want quota)
  else if nb then (some 1, s)
  else if g.accMap ≠ [] ∧ olderWaits = true then (some 2, s)
  else (none, s)

/-- Serves the parked ACCALLOCs of a core, oldest first, each under a tag of the matrix engine (R389, R460).
DESIGN CHOICE (log entry 109), unsafe. -/
def accWake (s : State) (core : Nat) (n : Nat) : State :=
  match n with
  | 0 => s
  | k + 1 =>
    let waiting := (engGroups s core).filter fun g => match g.pilot.run with | .parked (.accalloc _ _ _) => true | _ => false
    let sorted := sortBy (older s) waiting
    match sorted.findSome? fun g =>
        match g.pilot.run with
        | .parked (.accalloc m d nx) => match accTry s g m false with | (some st, s) => some (g, d, nx, st, s) | (none, _) => none
        | _ => none with
    | none => s
    | some (g, d, nx, st, s) =>
      let (tag, s) := takeTag s (unitEngine core .matrix)
      let s := modThread s { gid := g.gid, who := .pilot } fun t =>
        { t with run := .ready, pc := nx, lastwake := tag,
                 pend := t.pend ++ [{ dst := destWrites true d 64 st, flags := 0, ovf := 0, cause := tag, leaf := 5 }] }
      accWake s core k

/-- Serves the parked ACCALLOCs of a core until none can complete. -/
def serveAcc (s : State) (core : Nat) : State := accWake s core 32

/-- ACCALLOC (R388, R389). -/
def execAccalloc (f : Fields) (s : State) : Host.Outcome State Fault Refusal :=
  issueEach f s fun v s =>
    let mask := BitVec.ofNat 32 (readB v 32)
    if v.g.accGone ≠ [] ∨ (s.engineQ.any fun o => o.gid == v.g.gid && o.op == 0x1E4) = true then stallAt s v .engineDrain
    else match accTry s v.g mask (bit1 f.sub 0) with
    | (some st, s) => giveD s v st
    | (none, s) => serveAcc (parkAt s v (.accalloc mask (nD f) (nextPc v))) (engCore v.g)

/-- ACCFREE (R374, R389): it enters the matrix queue; in program order its tiles are free from now on. Every tile that
it names may be one the group does not hold.
DEDUCED (log entry 38), unsafe. -/
def execAccfree (f : Fields) (s : State) : Host.Outcome State Fault Refusal :=
  issueEach f s fun v s =>
    let mask := BitVec.ofNat 32 (readB v 32)
    if ownQueued s v then stallAt s v .storeQueue
    else if 32 ≤ (engQueue s (engCore v.g) .matrix).length then stallAt s v .engineQueue
    else
      let s := modGroup s v.g.gid fun g =>
        { g with accGone := (g.accGone ++ (tileList mask).filter fun t => g.accMap.any fun a => a.logical == t).dedup }
      { s with engineQ := s.engineQ ++ [{ gid := v.g.gid, eng := .matrix, op := 0x1E4, seq := 0, blk := [mask.zeroExtend 64],
                                          started := false, stall := none, failed := none, carry := none, sent := false, since := now s }] }

/-- The first operation of a group on an engine. -/
def headOp (s : State) (gid : Nat) (e : Engine) : Option EngineOp := s.engineQ.find? fun o => o.gid == gid && o.eng == e

/-- ACCFREE_PERFORM (R389): the group's ACCFREE at the head frees its tiles; waiting ACCALLOCs are served. -/
def execAccfreePerform (gid : Nat) (s : State) : Host.Outcome State Fault Refusal :=
  .next (match getGroup s gid, headOp s gid .matrix with
    | some g, some o =>
      if o.op = 0x1E4 ∧ opsRun s g = true then
        let free := tileList ((br o.blk 0).setWidth 32)
        let s := modGroup (popOp s gid .matrix) gid fun g =>
          { g with accMap := g.accMap.filter fun a => !free.contains a.logical,
                   acc := skeep g.acc fun k => !free.contains (k / 65536),
                   accGone := g.accGone.filter fun t => !free.contains t }
        serveAcc (readyEngine s (engCore g)) (engCore g)
      else s
    | _, _ => s)

/-- An ACCFREE at the head of its group's order. -/
def dueAccfree (s : State) : Option Instr :=
  s.groups.findSome? fun g =>
    match headOp s g.gid .matrix with
    | some o => if o.op = 0x1E4 ∧ opsRun s g = true then some (.accfreePerform g.gid) else none
    | none => none

end Sys2Proof.Machine
end

