-- ==== Sys2Proof/Machine/Matrix.lean ====
section
/-! DEFINITION. The matrix engine and the local forms of the copy engine: their checks at issue and what their
operations do (R377-R384, R390-R398, R94). -/

namespace Sys2Proof.Machine

open Sys2Proof

/-! ### Elements -/

/-- Width of an element of a valid entry (R85, R380). -/
def entW (e : FmtEntry) : Nat :=
  match e with
  | .invalid => 8
  | .narrow n => n.w
  | .standard w => if w = 0 then 32 else if w = 1 ∨ w = 9 then 16 else if w = 10 then 64 else if w ≤ 12 then 8 else 4

/-- The IEEE format of a standard entry that names one. -/
def entFmt (e : FmtEntry) : Option FloatFmt :=
  match e with
  | .standard 0 => some fp32
  | .standard 1 => some fp16
  | .standard 9 => some bf16
  | .standard 10 => some fp64
  | _ => none

/-- S8 and S4 are signed. -/
def entSigned (e : FmtEntry) : Bool := match e with | .standard 11 | .standard 13 => true | _ => false

def intExt (x : Int) : Ext := .fin (decide (x < 0)) ((x.natAbs : Nat) : Rat)

/-- Decode (R85, R87): the exact value of a code, and whether it is a signalling NaN. -/
def decodeEnt (e : FmtEntry) (code : Nat) : Ext × Bool :=
  match e, entFmt e with
  | _, some f => (decodeF f code, fIsSnan f code)
  | .narrow n, _ => (decodeN n code, false)
  | _, _ => (intExt (if entSigned e then sxNat (entW e) code else ((code % 2 ^ entW e : Nat) : Int)), false)

/-- An encoded element: code, flags, clamped (R88, R92-R94). -/
structure Coded where
  code : Nat
  fl : BitVec 6
  clamped : Bool
deriving DecidableEq, Repr

/-- Encode under SAT, to nearest even (R82, R88, R92, R394). -/
def encodeEnt (e : FmtEntry) (snan : Bool) (v : Ext) : Coded :=
  match e, entFmt e with
  | _, some f =>
    let r := roundF f { rm := .rne, ftz := false, sat := true, infIn := isInfE v } v
    { code := encodeF f r.val, fl := r.fl ||| flagIf snan flNV, clamped := r.clamped }
  | .narrow n, _ =>
    let r := encodeN n .rne true snan v
    { code := r.code, fl := r.fl, clamped := r.counted || (isNanE v && n.pol == 2) }
  | _, _ =>
    let w := entW e
    let lo : Int := if entSigned e then -((2 ^ (w - 1) : Nat) : Int) else 0
    let hi : Int := if entSigned e then ((2 ^ (w - 1) : Nat) : Int) - 1 else ((2 ^ w : Nat) : Int) - 1
    match v with
    | .nan => { code := 0, fl := flNV, clamped := false }
    | .inf s => { code := wrapInt w (if s then lo else hi), fl := flNV, clamped := true }
    | .fin s m =>
      let x := signedVal s m
      let y := (roundGrid x 0 .rne).floor
      if y < lo ∨ hi < y then { code := wrapInt w (if y < lo then lo else hi), fl := flNV, clamped := true }
      else { code := wrapInt w y, fl := flagIf ((y : Rat) != x) flNX, clamped := false }

/-- Bytes of n packed elements (R380). -/
def rowBytes (e : FmtEntry) (n : Nat) : Nat := ceilDiv (n * entW e) 8

/-- Element i of a packed row. -/
def elemCode (e : FmtEntry) (row : Nat) (i : Nat) : Nat := row / 2 ^ (i * entW e) % 2 ^ entW e

def entStep (e : FmtEntry) : Nat := match e with | .narrow n => n.step | _ => 1

/-! ### Classes -/

/-- The class of an operation (R381). -/
inductive MClass where
  | f64 | f32 | h | n8 | n4
deriving DecidableEq, Repr

/-- 64, 32 and 16 for IEEE formats of that width, else the width of a narrow element. -/
def pairKey (e : FmtEntry) : Nat := match entFmt e with | some f => 100 + fmtW f | none => entW e

/-- An S4 or N4 entry: it pairs with entries of width 2-4 alone (R381). -/
def entFour (e : FmtEntry) : Bool := match e with | .standard 13 | .standard 14 => true | _ => false

def classOf (a b : FmtEntry) : Option MClass :=
  if pairKey a = 164 ∧ pairKey b = 164 then some .f64
  else if pairKey a = 132 ∧ pairKey b = 132 then some .f32
  else if pairKey a = 116 ∧ pairKey b = 116 then some .h
  else if 100 ≤ pairKey a ∨ 100 ≤ pairKey b then none
  else if 5 ≤ pairKey a ∨ 5 ≤ pairKey b then (if entFour a ∨ entFour b then none else some .n8) else some .n4

/-- Elements of a group sum; none where each product is fused by itself (R94). -/
def classG (c : MClass) : Option Nat := match c with | .f64 | .f32 => none | .h => some 1 | .n8 => some 2 | .n4 => some 4
def classStep (c : MClass) : Nat := match c with | .f64 | .f32 => 8 | .h => 16 | _ => 32
def classN (c : MClass) : Nat := match c with | .f64 => 64 | _ => 128

/-! ### MMA and MMAS -/

/-- The fields of an MMA block (R377-R380). -/
structure MmaBlk where
  p : List W64
  m : Nat
  n : Nat
  k : Nat
  acc : Nat
  sparse : Nat
  akind : Nat
  bkind : Nat
  afmt : Nat
  bfmt : Nat
  ageo : Nat
  bgeo : Nat
  zero : Bool
  lda : Nat
  ldb : Nat
deriving DecidableEq, Repr

def mmaBlk (p : List W64) : MmaBlk :=
  let q := br p 4
  { p := p, m := fld q 6 0 + 1, n := fld q 13 7 + 1, k := fld q 29 14, acc := fld q 34 30, sparse := fld q 41 40,
    akind := fld q 36 35, bkind := fld q 38 37, afmt := fld q 53 48, ageo := fld q 55 54, bfmt := fld q 61 56,
    bgeo := fld q 63 62, zero := bit1 q 39, lda := fld (br p 7) 19 0, ldb := fld (br p 7) 39 20 }

/-- Elements of A that a row holds. -/
def aElems (b : MmaBlk) : Nat := if b.sparse = 0 then b.k else b.k / 2

/-- Bytes of metadata of a row (R392). -/
def metaBytes (sparse k : Nat) : Nat := if sparse = 1 then k / 8 else 3 * k / 16

/-- Bytes of the scale words of an operand of n rows (R382). -/
def scaleBytes (geo n k : Nat) : Nat := if geo = 1 then 4 * (n * (k / 32)) else if geo = 2 then 4 * n else 0

/-- The relations that the operand formats decide (R381): in the order of the rule. -/
def classChecks (a b : FmtEntry) (ageo bgeo sparse k n : Nat) : List BlkCheck :=
  match classOf a b with
  | none => [relation 4 stBadfmt true]
  | some c =>
    [relation 4 stBadshape (decide (classN c < n)),
     relation 4 stBadshape (k % classStep c != 0 || ((ageo == 1 || bgeo == 1) && k % 32 != 0)),
     relation 4 stBadfmt ((classG c).isNone && (ageo != 0 || bgeo != 0 || sparse != 0))]

/-- A row or column stride below its row's bytes (R380). -/
def strideChecks (a b : FmtEntry) (x : MmaBlk) : List BlkCheck :=
  [relation 7 stBadshape (decide (x.lda < rowBytes a (aElems x))), relation 7 stBadshape (decide (x.ldb < rowBytes b x.k))]

/-- Channel that an operand coded by a kind names. -/
def kindChan (kind : Nat) (x : W64) : List Nat := if kind = 2 then [fld x 3 0] else []

/-- A channel slot too small for an operand (R384). -/
def slotCheck (g : Group) (ix kind : Nat) (x : W64) (bytes : Nat) : BlkCheck :=
  relation ix stBadshape (kind == 2 && (match chanCfg g (fld x 3 0) with | some c => decide (chanSbytes c < bytes) | none => false))

/-- A scratch range of an operation: the register of its block that the relation is reported at, and its bounds. -/
abbrev BankRange := Nat × Int × Int

/-- A range from an offset, where an operation has it. -/
def rangeIf (on : Bool) (ix off n : Nat) : List BankRange := if on then [(ix, (off : Int), ((off + n : Nat) : Int))] else []

/-- The relations that ranges beyond the group's banks break (R375). -/
def rangeChecks (g : Group) (l : List BankRange) : List BlkCheck := l.map fun r => rangeCheck g r.1 true r.2.1 r.2.2

/-- The scratch ranges of MMA and MMAS (R377-R382, R392). -/
def mmaRanges (fe : Nat → FmtEntry) (mmas : Bool) (x : MmaBlk) : List BankRange :=
  let off (i : Nat) : Nat := fld (br x.p i) 31 0
  rangeIf (x.akind == 1) 7 (off 0) ((x.m - 1) * x.lda + rowBytes (fe x.afmt) (aElems x)) ++
  rangeIf (x.bkind == 1) 7 (off 1) ((x.n - 1) * x.ldb + rowBytes (fe x.bfmt) x.k) ++
  rangeIf (x.akind != 0 && x.ageo != 0) 4 (off 2) (scaleBytes x.ageo x.m x.k) ++
  rangeIf (x.bkind != 0 && x.bgeo != 0) 4 (off 3) (scaleBytes x.bgeo x.n x.k) ++
  rangeIf (mmas && x.akind != 0) 5 (off 5) (x.m * metaBytes x.sparse x.k)

/-- The checks of MMA and MMAS (R377-R384, R392). `fe` reads the format table. -/
def mmaChecks (g : Group) (fe : Nat → FmtEntry) (mmas : Bool) (x : MmaBlk) : List BlkCheck :=
  let p (i : Nat) : W64 := br x.p i
  let ea := fe x.afmt
  let eb := fe x.bfmt
  let al := x.akind = 0
  let bl := x.bkind = 0
  let sk (k : Nat) : Nat := if k = 2 then 1 else k
  let okA := !(decide al) && ea != .invalid
  let okB := !(decide bl) && eb != .invalid
  [single 2 stBadalign ((p 2).toNat % 4 != 0), single 3 stBadalign ((p 3).toNat % 4 != 0), single 4 stBadfmt (x.bgeo == 3), single 4 stBadfmt (x.ageo == 3), single 4 stBadparam (fld (p 4) 47 42 != 0),
   single 4 stBadparam (if mmas then x.sparse != 1 && x.sparse != 2 else x.sparse != 0),
   single 4 stBadparam (x.bkind == 3), single 4 stBadparam (x.akind == 3), single 4 stBadparam (x.k == 0),
   single 5 stBadparam (!mmas && p 5 != 0), single 5 stBadalign (mmas && (p 5).toNat % 4 != 0)] ++ compChecks g 6 (p 6) ++
  [single 7 stBadparam (fld (p 7) 63 56 != 0), single 7 stBadalign (x.ldb % 16 != 0), single 7 stBadalign (x.lda % 16 != 0),
   relation 4 stBadparam (x.akind == 2 && x.bkind == 2 && fld (p 0) 3 0 == fld (p 1) 3 0),
   addrBits 4 x.akind (p 0), addrBits 4 x.bkind (p 1), addrBits 4 (sk x.akind) (p 2),
   relation 4 stBadparam (!(decide al) && x.ageo == 0 && p 2 != 0), addrBits 4 (sk x.bkind) (p 3),
   relation 4 stBadparam (!(decide bl) && x.bgeo == 0 && p 3 != 0), addrBits 5 (sk x.akind) (p 5),
   relation 4 stBadparam (decide bl && (x.bgeo != 0 || x.bfmt != 0)), relation 4 stBadparam (decide al && (x.ageo != 0 || x.afmt != 0)),
   relation 4 stBadfmt (!(decide bl) && eb == .invalid), relation 4 stBadfmt (!(decide al) && ea == .invalid),
   addrAlign 4 x.akind 16 (p 0), addrAlign 4 x.bkind 16 (p 1),
   relation 7 stBadparam (!(decide bl) && fld (p 7) 55 48 != 0), relation 7 stBadparam (!(decide al) && fld (p 7) 47 40 != 0)] ++
  (if okA && okB then classChecks ea eb x.ageo x.bgeo x.sparse x.k x.n else []) ++
  [relation 7 stBadshape (okA && decide (x.lda < rowBytes ea (aElems x))),
   relation 7 stBadshape (okB && decide (x.ldb < rowBytes eb x.k)),
   slotCheck g 7 x.akind (p 0) ((x.m - 1) * x.lda + rowBytes ea (aElems x)),
   slotCheck g 7 x.bkind (p 1) ((x.n - 1) * x.ldb + rowBytes eb x.k)] ++ rangeChecks g (mmaRanges fe mmas x)

/-- Format table of a context. -/
def tableOf (s : State) (g : Group) : Nat → FmtEntry := formatOf s g.ctx

/-- An issue that reads entries of the format table: poison there is fatal to the context (R103). -/
def withFormats (v : View) (s : State) (fmts : List Nat) (go : State) : State :=
  if fmts.any (formatPoisoned s v.g.ctx) then raiseCtxFatal (retryAt s v) v.g.ctx fcFormat else go

/-- An operation in execution that reads an entry of the format table. -/
def engFormat (s : State) (g : Group) (k : Nat) : ERes FmtEntry :=
  if formatPoisoned s g.ctx k then (.error (.fatal fcFormat), s) else (.ok (tableOf s g k), s)

/-- The format that a block names for an operand, where its kind has it in the block (R377). -/
def kindFmt (kind fmt : Nat) : List Nat := if kind = 0 then [] else [fmt]

/-- The issue of MMA and MMAS. -/
def mmaIssue (op : Nat) (mmas : Bool) (f : Fields) (s : State) : Host.Outcome State Fault Refusal :=
  issueEach f s fun v s =>
    let blk := blockOf v 8
    let x := mmaBlk blk
    withFormats v s (kindFmt x.akind x.afmt ++ kindFmt x.bkind x.bfmt)
      (engIssue v s .matrix op blk [x.acc] (kindChan x.akind (br blk 0) ++ kindChan x.bkind (br blk 1))
        (mmaChecks v.g (tableOf v.s v.g) mmas x))

/-- MMA (R371-R384, R390). -/
def execMma (f : Fields) (s : State) : Host.Outcome State Fault Refusal := mmaIssue 0x1E0 false f s

/-- MMAS (R371-R384, R390, R392). -/
def execMmas (f : Fields) (s : State) : Host.Outcome State Fault Refusal := mmaIssue 0x1E1 true f s

/-- An element of a row: exact value with its micro-exponent, signalling, and the index of its dense position. -/
structure MElem where
  v : Ext
  snan : Bool
deriving DecidableEq

/-- One row of A or column of B: the element of each dense position (none where pruned), and the scale of each block of
32, or of the row. -/
structure MRow where
  elems : List (Option MElem)
  scales : List Ext
deriving DecidableEq

/-- Scale words to scales: under geometry 2 a non-zero MX makes the scale NaN (R89, R91). -/
def rowScale (geo : Nat) (w : W32) : Ext := if geo = 2 ∧ fld w 25 10 ≠ 0 then .nan else scaleSigma w

/-- Dense positions of the kept elements of one row, or none where they are not strictly increasing (R392). -/
def keptOf (sparse k : Nat) (bits : Nat) : Option (List Nat) :=
  let per := if sparse = 1 then 2 else 4
  let w := if sparse = 1 then 2 else 3
  let grp := 2 * per
  (List.range (k / grp)).foldl (fun acc gi => acc.bind fun l =>
    let ixs := (List.range per).map fun j => bits / 2 ^ ((gi * per + j) * w) % 2 ^ w
    if ixs.Pairwise (· < ·) then some (l ++ ixs.map fun i => gi * grp + i) else none) (some [])

/-- A row of codes with its scale words as exact values: `kept` lists the dense positions of its elements (R90). -/
def mmaRow (e : FmtEntry) (geo k : Nat) (kept : List Nat) (row : Nat) (sw : List W32) : MRow :=
  let at_ (i d : Nat) : MElem :=
    let (v, sn) := decodeEnt e (elemCode e row i)
    let micro := geo == 1 && bit1 (sw.getD (d / 32) 0) (10 + d % 32 / 2)
    { v := if micro then (mulE (.fin false (pow2 (-(entStep e : Int)))) v).1 else v, snan := sn }
  { elems := (List.range k).map fun d => (kept.idxOf? d).map fun i => at_ i d
    scales := if geo = 0 then [] else sw.map (rowScale geo) }

/-- The scale of dense position d. -/
def scaleAt (r : MRow) (geo d : Nat) : Ext :=
  if geo = 0 then .fin false 1 else r.scales.getD (if geo = 1 then d / 32 else 0) (.fin false 1)

/-- An operand of an MMA. -/
structure MSide where
  sp : ESpace
  off : Nat
  ent : FmtEntry
  geo : Nat
  want : Option Nat
  scaleSp : ESpace
  scaleOff : Nat
deriving DecidableEq, Repr

/-- The space of scale words and of metadata: as the operand's, with the channel kind taken as scratch (R377). -/
def auxSpace (kind : Nat) (reach : BitVec 8) (reg : Nat) (x : W64) : ESpace × Nat :=
  if kind = 0 then (.l2 reach reg, x.toNat) else (.bank .scratch 0, fld x 31 0)

/-- An operand's format and geometry: of P4, or of the page that holds its first element (R257, R378). An entry of the format
table that has become invalid since the issue fails as at issue (R86); so does a scale address under a page's geometry 0 (R377).
DEDUCED (log entry 40), unsafe. -/
def sideOf (s : State) (g : Group) (kind fmt geo : Nat) (reach : BitVec 8) (reg : Nat) (x sc : W64) (sreg : Nat) : ERes MSide :=
  let sp := spaceOf g kind reach reg x false
  let ax := auxSpace kind reach sreg sc
  if kind = 0 then
    eThen (engAccess s g reg (vaOf reach x) .eread 1) fun lp s =>
      let d := fld lp.1.w1 7 0
      eThen (engFormat s g (d % 64)) fun ent s =>
      if ent = .invalid ∨ d / 64 = 3 then (.error (.fail stPage 11 x.toNat), s)
      else if d / 64 = 0 ∧ sc ≠ 0 then (.error (.fail stBadparam (0x80 + 4) 0), s)
      else (.ok { sp := sp.1, off := sp.2, ent := ent, geo := d / 64, want := some d, scaleSp := ax.1, scaleOff := ax.2 }, s)
  else eThen (engFormat s g fmt) fun ent s =>
    if ent = .invalid then (.error (.fail stBadfmt (0x80 + 4) 0), s)
    else (.ok { sp := sp.1, off := sp.2, ent := ent, geo := geo, want := none, scaleSp := ax.1, scaleOff := ax.2 }, s)

/-- 32-bit words of bytes. -/
def words32 (bs : List Byte) : List W32 := (List.range (bs.length / 4)).map fun i => BitVec.ofNat 32 (ofBytes ((bs.drop (4 * i)).take 4))

/-- Rows of an operand, each with its scale words (R380, R382): kept elements of a row by `kept`. -/
def readRows (s : State) (g : Group) (sd : MSide) (n k ld elems : Nat) (kept : Nat → State → ERes (List Nat)) : ERes (List MRow) :=
  (List.range n).foldl (fun r i => eThen r fun rows s =>
    eThen (engRead s g sd.sp (sd.off + i * ld) (rowBytes sd.ent elems) sd.want) fun bs s =>
      let so := if sd.geo = 1 then 4 * (i * (k / 32)) else 4 * i
      let sn := if sd.geo = 1 then 4 * (k / 32) else if sd.geo = 2 then 4 else 0
      eThen (if sn = 0 then (.ok [], s) else engRead s g sd.scaleSp (sd.scaleOff + so) sn) fun sbs s =>
        eThen (kept i s) fun ks s => (.ok (rows ++ [mmaRow sd.ent sd.geo k ks (ofBytes bs) (words32 sbs)]), s)) (.ok [], s)

/-- The kept positions of a row of A under MMAS, from its metadata (R392). -/
def keptRow (g : Group) (x : MmaBlk) (ax : ESpace × Nat) (i : Nat) (s : State) : ERes (List Nat) :=
  if x.sparse = 0 then (.ok (List.range x.k), s)
  else
    let n := metaBytes x.sparse x.k
    eThen (engRead s g ax.1 (ax.2 + i * n) n) fun bs s =>
      match keptOf x.sparse x.k (ofBytes bs) with
      | some l => (.ok l, s)
      | none => (.error (.fail stBadsparse 0 (ax.2 + i * n)), s)

/-- A value rounded to an accumulator format, with its flags. -/
def accRound (f : FloatFmt) (v : Ext × BitVec 6) : Ext × BitVec 6 :=
  let r := roundF f { rm := .rne, ftz := false, sat := false, infIn := true } v.1
  (r.val, v.2 ||| r.fl)

def nvIf (e : Exact) : Ext × BitVec 6 := (e.1, flagIf e.2 flNV)

def addX (a b : Ext × BitVec 6) : Ext × BitVec 6 := let r := nvIf (addE false a.1 b.1); (r.1, r.2 ||| a.2 ||| b.2)
def mulX (a b : Ext × BitVec 6) : Ext × BitVec 6 := let r := nvIf (mulE a.1 b.1); (r.1, r.2 ||| a.2 ||| b.2)

/-- The product at a dense position; none where A is pruned. -/
def termAt (a b : MRow) (d : Nat) : Option (Ext × BitVec 6) :=
  match a.elems.getD d none, b.elems.getD d none with
  | some x, some y => some (mulX (x.v, flagIf x.snan flNV) (y.v, flagIf y.snan flNV))
  | _, _ => none

/-- Exact sum of a list of terms; none of no terms. -/
def sumTerms (l : List (Ext × BitVec 6)) : Option (Ext × BitVec 6) :=
  match l with
  | [] => none
  | x :: r => some (r.foldl addX x)

/-- One element of the result (R94, R390): the groups in increasing k, each rounded once; a group with no kept position
adds nothing. A signalling NaN in the tile is an input of the first addition (R77). -/
def mmaElem (c : MClass) (ageo bgeo k : Nat) (a b : MRow) (acc : Ext) (snan : Bool) : Ext × BitVec 6 :=
  let fm := if c = .f64 then fp64 else fp32
  let gsz := (classG c).getD 1
  (List.range (k / gsz)).foldl (fun (x : Ext × BitVec 6) gi =>
    let ds := (List.range gsz).map fun j => gi * gsz + j
    match sumTerms (ds.filterMap (termAt a b)) with
    | none => x
    | some t =>
      let d := gi * gsz
      let t := mulX (mulX t (scaleAt a ageo d, 0)) (scaleAt b bgeo d, 0)
      let r := accRound fm (addX (x.1, 0) t)
      (r.1, x.2 ||| r.2)) (acc, flagIf snan flNV)

/-- Byte of an element in its tile, and its bytes (R387). -/
def tileAt (v64 : Bool) (i j : Nat) : Nat × Nat := if v64 then (8 * (64 * i + j), 8) else (4 * (128 * i + j), 4)

def tileFmt (v64 : Bool) : FloatFmt := if v64 then fp64 else fp32

/-- Element bits of a tile. -/
def tileGet (g : Group) (t : Nat) (v64 : Bool) (i j : Nat) : Nat :=
  let (o, n) := tileAt v64 i j
  ofBytes (sgets g.acc (t * 65536 + o) n)

/-- Writes elements of a tile. -/
def tilePut (s : State) (gid t : Nat) (v64 : Bool) (l : List ((Nat × Nat) × Nat)) : State :=
  modGroup s gid fun g => { g with acc := l.foldl (fun m e =>
    let (o, n) := tileAt v64 e.1.1 e.1.2
    ssets m (t * 65536 + o) (toBytes n e.2)) g.acc }

/-- All positions of an M by N region. -/
def region (m n : Nat) : List (Nat × Nat) := (List.range m).flatMap fun i => (List.range n).map fun j => (i, j)

/-- MMA and MMAS as a whole (R378, R383, R384, R390-R392): a failure leaves the region as it was.
DESIGN CHOICE (log entry 39), unsafe. DEDUCED (log entry 40), unsafe. -/
def runMma (s : State) (g : Group) (blk : List W64) : ERes (BitVec 6) :=
  let x := mmaBlk blk
  let p (i : Nat) : W64 := br blk i
  let ra := BitVec.ofNat 8 (fld (p 7) 47 40)
  let rb := BitVec.ofNat 8 (fld (p 7) 55 48)
  eThen (sideOf s g x.akind x.afmt x.ageo ra 0 (p 0) (p 2) 2) fun sa s =>
    eThen (sideOf s g x.bkind x.bfmt x.bgeo rb 1 (p 1) (p 3) 3) fun sb s =>
      match firstReject (classChecks sa.ent sb.ent sa.geo sb.geo x.sparse x.k x.n ++ strideChecks sa.ent sb.ent x),
          classOf sa.ent sb.ent with
      | some (st, det), _ => (.error (.fail st det 0), s)
      | none, none => (.error (.fail stBadfmt 0x84 0), s)
      | none, some c =>
        eThen (readRows s g sa x.m x.k x.lda (aElems x) (keptRow g x (auxSpace x.akind ra 5 (p 5)))) fun as s =>
          eThen (readRows s g sb x.n x.k x.ldb x.k fun _ s => (.ok (List.range x.k), s)) fun bs s =>
            let v64 := c == .f64
            let fm := tileFmt v64
            let h := (getGroup s g.gid).getD g
            let res := (region x.m x.n).map fun ij =>
              let bits := if x.zero then 0 else tileGet h x.acc v64 ij.1 ij.2
              let old := decodeF fm bits
              match as[ij.1]?, bs[ij.2]? with
              | some a, some b => let r := mmaElem c sa.geo sb.geo x.k a b old (fIsSnan fm bits); ((ij, encodeF fm r.1), r.2)
              | _, _ => ((ij, encodeF fm old), 0)
            (.ok (res.foldl (fun a e => a ||| e.2) 0), tilePut s g.gid x.acc v64 (res.map (·.1)))

/-! ### ACCST and ACCLD -/

/-- The fields of an ACCST or ACCLD block (R393). -/
structure AccBlk where
  q : List W64
  m : Nat
  n : Nat
  acc : Nat
  kind : Nat
  v64 : Bool
  clr : Bool
  fmt : Nat
  ld : Nat
  reach : BitVec 8
deriving DecidableEq, Repr

def accBlk (q : List W64) : AccBlk :=
  let w := br q 1
  { q := q, m := fld w 6 0 + 1, n := fld w 13 7 + 1, acc := fld w 18 14, kind := fld w 20 19, v64 := bit1 w 21,
    clr := bit1 w 22, fmt := fld w 29 24, ld := fld w 51 32, reach := BitVec.ofNat 8 (fld w 59 52) }

/-- The scratch range of ACCST (store) or ACCLD (R393, R394). -/
def accRanges (fe : Nat → FmtEntry) (store : Bool) (x : AccBlk) : List BankRange :=
  rangeIf (fe x.fmt != .invalid && x.kind == 1) 1 (fld (br x.q 0) 31 0)
    (if store then x.m * x.ld + 4 else (x.m - 1) * x.ld + rowBytes (fe x.fmt) x.n)

/-- The checks of ACCST (store) and ACCLD (R393). -/
def accChecks (g : Group) (fe : Nat → FmtEntry) (store : Bool) (x : AccBlk) : List BlkCheck :=
  let q (i : Nat) : W64 := br x.q i
  let e := fe x.fmt
  let ok := e != .invalid
  [single 1 stBadparam (fld (q 1) 63 60 != 0), single 1 stBadalign (x.ld % 4 != 0), single 1 stBadparam (fld (q 1) 31 30 != 0),
   single 1 stBadfmt (e == .invalid), single 1 stBadparam (bit1 (q 1) 23), single 1 stBadparam (!store && x.clr),
   single 1 stBadparam (x.kind == 3)] ++ compChecks g 2 (q 2) ++
  [single 3 stBadparam (if store then fld (q 3) 63 32 != 0 else q 3 != 0), addrBits 1 x.kind (q 0),
   relation 1 stBadparam (x.kind != 0 && x.reach != 0), relation 1 stBadshape (ok && decide (x.ld < rowBytes e x.n)),
   relation 1 stBadshape (x.v64 && decide (64 < x.n)), addrAlign 1 x.kind 4 (q 0),
   slotCheck g 1 x.kind (q 0) (x.m * x.ld + if store then 4 else 0)] ++ rangeChecks g (accRanges fe store x)

def accIssue (op : Nat) (store : Bool) (f : Fields) (s : State) : Host.Outcome State Fault Refusal :=
  issueEach f s fun v s =>
    let blk := blockOf v 4
    let x := accBlk blk
    withFormats v s [x.fmt]
      (engIssue v s .matrix op blk [x.acc] (kindChan x.kind (br blk 0)) (accChecks v.g (tableOf v.s v.g) store x))

/-- ACCST (R393, R394). -/
def execAccst (f : Fields) (s : State) : Host.Outcome State Fault Refusal := accIssue 0x1E5 true f s

/-- ACCLD (R393, R395). -/
def execAccld (f : Fields) (s : State) : Host.Outcome State Fault Refusal := accIssue 0x1E6 false f s

/-- Checks a list of writes at offsets of a space. -/
def engWrites (s : State) (g : Group) (sp : ESpace) (l : List (Nat × List Byte)) : ERes (List EWrite) :=
  l.foldl (fun r e => eThen r fun ws s => eThen (engWrite s g sp e.1 e.2) fun w s => (.ok (ws ++ w), s)) (.ok [], s)

/-- Performs checked writes. -/
def engPuts (s : State) (g : Group) (e : Engine) (ws : List EWrite) : State :=
  ws.foldl (engPut g.gid (unitEngine (engCore g) e)) s

/-- ACCST as a whole (R394): the rows, then the overflow word.
DESIGN CHOICE (log entry 39), unsafe. -/
def runAccst (s : State) (g : Group) (blk : List W64) : ERes (BitVec 6) :=
  let x := accBlk blk
  let e := tableOf s g x.fmt
  let fm := tileFmt x.v64
  let abits := fld (br blk 3) 31 0
  let alpha := (decodeF fp32 abits, flagIf (fIsSnan fp32 abits) flNV)
  let h := (getGroup s g.gid).getD g
  let cell (i j : Nat) : Coded × BitVec 6 :=
    let bits := tileGet h x.acc x.v64 i j
    let y := mulX alpha (decodeF fm bits, flagIf (fIsSnan fm bits) flNV)
    (encodeEnt e false y.1, y.2)
  let rows := (List.range x.m).map fun i => (i, (List.range x.n).map fun j => cell i j)
  let all := rows.flatMap (·.2)
  let rowB (l : List (Coded × BitVec 6)) : List Byte :=
    toBytes (rowBytes e x.n) ((l.zip (List.range l.length)).foldl (fun a c => a + c.1.1.code * 2 ^ (c.2 * entW e)) 0)
  let sp := spaceOf h x.kind x.reach 0 (br blk 0) true
  let ws := rows.map (fun r => (sp.2 + r.1 * x.ld, rowB r.2)) ++
    [(sp.2 + x.m * x.ld, toBytes 4 (all.filter (·.1.clamped)).length)]
  eThen (engFormat s g x.fmt) fun _ s =>
  if e = .invalid then (.error (.fail stBadfmt 1 0), s)
  else eThen (engWrites s g sp.1 ws) fun puts s =>
    let s := engPuts s g .matrix puts
    let s := if x.clr then tilePut s g.gid x.acc x.v64 ((region x.m x.n).map fun ij => (ij, 0)) else s
    (.ok (all.foldl (fun a c => a ||| c.1.fl ||| c.2) 0), s)

/-- ACCLD as a whole (R395).
DESIGN CHOICE (log entry 39), unsafe. -/
def runAccld (s : State) (g : Group) (blk : List W64) : ERes (BitVec 6) :=
  let x := accBlk blk
  let e := tableOf s g x.fmt
  let fm := tileFmt x.v64
  let h := (getGroup s g.gid).getD g
  let sp := spaceOf h x.kind x.reach 0 (br blk 0) false
  let rows (s : State) := (List.range x.m).foldl (fun r i => eThen r fun acc s =>
    eThen (engRead s g sp.1 (sp.2 + i * x.ld) (rowBytes e x.n)) fun bs s => (.ok (acc ++ [(i, ofBytes bs)]), s))
    ((.ok [], s) : ERes (List (Nat × Nat)))
  eThen (engFormat s g x.fmt) fun _ s =>
  if e = .invalid then (.error (.fail stBadfmt 1 0), s)
  else eThen (rows s) fun rows s =>
    let cells := rows.flatMap fun r => (List.range x.n).map fun j =>
      let (v, sn) := decodeEnt e (elemCode e r.2 j)
      let y := accRound fm (v, flagIf sn flNV)
      (((r.1, j), encodeF fm y.1), y.2)
    (.ok (cells.foldl (fun a c => a ||| c.2) 0), tilePut s g.gid x.acc x.v64 (cells.map (·.1)))

/-! ### TCOPY without COLL -/

/-- The fields of a shape record (R396). -/
structure CopyBlk where
  t : List W64
  e : List Nat
  ss : List Int
  ds : List Int
  skind : Nat
  dkind : Nat
  esize : Nat
  gather : Bool
  coll : Bool
deriving DecidableEq, Repr

def copyBlk (t : List W64) : CopyBlk :=
  let w := br t 7
  let lo (i : Nat) : Int := sxNat 32 (fld (br t i) 31 0)
  let hi (i : Nat) : Int := sxNat 32 (fld (br t i) 63 32)
  { t := t, e := (List.range 4).map fun k => fld (br t 2) (16 * k + 15) (16 * k), ss := [lo 3, hi 3, lo 5],
    ds := [lo 4, hi 4, hi 5], skind := fld w 11 9, dkind := fld w 14 12, esize := 2 ^ fld w 8 7, gather := bit1 w 15,
    coll := bit1 w 20 }

/-- Bytes that a copy moves. -/
def copyBytes (x : CopyBlk) : Nat := x.e.foldl (· * ·) x.esize

/-- The lowest and the highest offset that steps of given strides reach. -/
def spanOf (e : List Nat) (st : List Int) : Int × Int :=
  ((e.drop 1).zip st).foldl (fun a p =>
    let d := (((p.1 - 1 : Nat) : Int)) * p.2
    (a.1 + min 0 d, a.2 + max 0 d)) (0, 0)

/-- The scratch ranges of TCOPY (R396, R397). -/
def copyRanges (x : CopyBlk) : List BankRange :=
  let unit := x.e.getD 0 0 * x.esize
  let span (on : Bool) (i : Nat) (sp : Int × Int) : List BankRange :=
    let off : Int := fld (br x.t i) 31 0
    if on then [(7, off + sp.1, off + sp.2 + unit)] else []
  span (x.skind == 1 && !x.gather) 0 (spanOf x.e x.ss) ++
  rangeIf x.gather 7 (fld (br x.t 5) 31 0) (4 * x.e.getD 1 0) ++
  span (x.dkind == 1) 1 (spanOf x.e (if x.gather then [(unit : Int), 0, 0] else x.ds))

/-- The checks of TCOPY (R379, R396, R397). -/
def copyChecks (g : Group) (x : CopyBlk) : List BlkCheck :=
  let t (i : Nat) : W64 := br x.t i
  let w := t 7
  let aw := fld (t 6) 63 32
  let two (ix : Nat) (lo : Nat) : List BlkCheck :=
    [relation 7 stBadalign (fld (t ix) 63 32 % x.esize != 0), relation 7 stBadalign (fld (t ix) 31 0 % lo != 0)]
  [single 2 stBadparam (x.e.any (· == 0)), single 6 stBadparam (fld (t 6) 31 26 != 0), single 7 stBadparam (fld w 31 21 != 0),
   single 7 stBadparam (fld w 19 17 == 7), single 7 stBadparam (decide (2 < x.dkind)), single 7 stBadparam (decide (2 < x.skind)),
   single 7 stBadparam (fld w 6 0 != 0),
   relation 7 stBadparam (x.skind == 2 && x.dkind == 2 && fld (t 0) 3 0 == fld (t 1) 3 0),
   relation 7 stBadparam (aw != 0 && !bit1 w 16), relation 7 stBadalign (bit1 w 16 && aw % 8 != 0),
   relation 7 stBadparam (bit1 w 16 && decide (bankBytes g < aw + 8)), addrBits 7 x.skind (t 0), addrBits 7 x.dkind (t 1),
   relation 7 stBadparam (!x.coll && fld (t 6) 25 16 != 0), relation 7 stBadparam (x.dkind != 0 && fld (t 6) 15 8 != 0),
   relation 7 stBadparam (x.skind != 0 && fld (t 6) 7 0 != 0), relation 7 stBadparam (!x.coll && fld w 63 32 != 0),
   addrAlign 7 x.skind x.esize (t 0), addrAlign 7 x.dkind x.esize (t 1)] ++
  two 3 x.esize ++ two 4 x.esize ++ two 5 (if x.gather then 4 else x.esize) ++
  [slotCheck g 7 x.skind (t 0) (copyBytes x), slotCheck g 7 x.dkind (t 1) (copyBytes x),
   relation 7 stBadparam (x.gather && (x.e.getD 2 0 != 1 || x.e.getD 3 0 != 1 || x.dkind != 1 || t 4 != 0 || fld (t 5) 63 32 != 0))] ++ rangeChecks g (copyRanges x)

/-- Steps of a copy in increasing i1, then i2, then i3. -/
def copySteps (x : CopyBlk) : List (Nat × Nat × Nat) :=
  (List.range (x.e.getD 3 0)).flatMap fun i3 => (List.range (x.e.getD 2 0)).flatMap fun i2 =>
    (List.range (x.e.getD 1 0)).map fun i1 => (i1, i2, i3)

/-- An offset moved by a signed number of bytes, within 64 bits. -/
def offPlus (o : Nat) (d : Int) : Nat := wrapInt 64 ((o : Int) + d)

def stepOff (st : List Int) (i : Nat × Nat × Nat) : Int :=
  (i.1 : Int) * st.getD 0 0 + (i.2.1 : Int) * st.getD 1 0 + (i.2.2 : Int) * st.getD 2 0

/-- Source bytes of a step: a channel's slot is packed in dimension order (R396); a gathered row by its index (R397).
DEDUCED (log entry 37), unsafe. -/
def copySource (s : State) (g : Group) (x : CopyBlk) (sp : ESpace × Nat) (ix : Nat) (i : Nat × Nat × Nat) : ERes (List Byte) :=
  let n := x.e.getD 0 0 * x.esize
  if x.gather then
    eThen (engRead s g (.bank .scratch 0) (fld (br x.t 5) 31 0 + 4 * i.1) 4) fun bs s =>
      engRead s g sp.1 (offPlus sp.2 ((ofBytes bs : Nat) * x.ss.getD 0 0)) n
  else if x.skind = 2 then engRead s g sp.1 (ix * n) n
  else engRead s g sp.1 (offPlus sp.2 (stepOff x.ss i)) n

/-- Destination offset of a step. -/
def copyDest (x : CopyBlk) (off ix : Nat) (i : Nat × Nat × Nat) : Nat :=
  let n := x.e.getD 0 0 * x.esize
  if x.gather then off + i.1 * n else if x.dkind = 2 then ix * n else offPlus off (stepOff x.ds i)

/-- TCOPY without COLL as a whole (R397): everything is read before anything is written.
DESIGN CHOICE (log entry 39), unsafe. -/
def runCopy (s : State) (g : Group) (blk : List W64) : ERes (BitVec 6) :=
  let x := copyBlk blk
  let h := (getGroup s g.gid).getD g
  let src := spaceOf h x.skind (BitVec.ofNat 8 (fld (br blk 6) 7 0)) 0 (br blk 0) false
  let dst := spaceOf h x.dkind (BitVec.ofNat 8 (fld (br blk 6) 15 8)) 1 (br blk 1) true
  let steps := copySteps x
  let ws := (steps.zip (List.range steps.length)).foldl (fun r e => eThen r fun acc s =>
    eThen (copySource s g x src e.2 e.1) fun bs s =>
      eThen (engWrite s g dst.1 (copyDest x dst.2 e.2 e.1) bs) fun w s => (.ok (acc ++ w), s)) ((.ok [], s) : ERes (List EWrite))
  eThen ws fun ws s => (.ok 0, engPuts s g .copy ws)

/-! ### MSPZ -/

/-- The fields of an MSPZ block (R398). -/
structure SpzBlk where
  z : List W64
  doff : Nat
  soff : Nat
  moff : Nat
  fmt : Nat
  k : Nat
  pat : Nat
  m : Nat
deriving DecidableEq, Repr

def spzBlk (z : List W64) : SpzBlk :=
  let w := br z 2
  { z := z, doff := fld (br z 0) 63 32, soff := fld (br z 0) 31 0, moff := fld (br z 1) 31 0, fmt := fld w 29 24,
    k := fld w 23 8, pat := if bit1 w 7 then 2 else 1, m := fld w 6 0 + 1 }

/-- A 16-bit or narrow entry (R398). -/
def spzFmt (e : FmtEntry) : Bool := match e with | .narrow _ => true | .standard w => w == 1 || w == 9 | .invalid => false

/-- Bytes that MSPZ writes: rows and metadata. -/
def spzBytes (e : FmtEntry) (x : SpzBlk) : Nat := x.m * (rowBytes e x.k / 2) + x.m * metaBytes x.pat x.k

/-- The scratch ranges of MSPZ (R398). -/
def spzRanges (e : FmtEntry) (x : SpzBlk) : List BankRange :=
  rangeIf (spzFmt e) 2 x.soff (x.m * rowBytes e x.k) ++ rangeIf (spzFmt e) 2 x.doff (x.m * (rowBytes e x.k / 2)) ++
  rangeIf true 2 x.moff (x.m * metaBytes x.pat x.k)

/-- The checks of MSPZ (R398). -/
def spzChecks (g : Group) (fe : Nat → FmtEntry) (x : SpzBlk) : List BlkCheck :=
  let z (i : Nat) : W64 := br x.z i
  let e := fe x.fmt
  let ok := spzFmt e
  [single 0 stBadalign (x.doff % 16 != 0), single 0 stBadalign (x.soff % 16 != 0), single 1 stBadparam (fld (z 1) 63 32 != 0),
   single 1 stBadalign (x.moff % 4 != 0), single 2 stBadparam (fld (z 2) 63 30 != 0), single 2 stBadfmt (!ok),
   single 2 stBadshape (x.k % 32 != 0)] ++ compChecks g 3 (z 3) ++ rangeChecks g (spzRanges e x)

/-- MSPZ (R371-R374, R398). -/
def execMspz (f : Fields) (s : State) : Host.Outcome State Fault Refusal :=
  issueEach f s fun v s =>
    let blk := blockOf v 4
    withFormats v s [(spzBlk blk).fmt] (engIssue v s .copy 0x1E2 blk [] [] (spzChecks v.g (tableOf v.s v.g) (spzBlk blk)))

/-- The order of magnitudes of R398: NaN above infinity, +0 equal to -0. -/
def magLt (a b : Ext) : Bool :=
  match a, b with
  | .nan, _ => false
  | _, .nan => true
  | .inf _, _ => false
  | _, .inf _ => true
  | .fin _ m, .fin _ n => decide (m < n)

/-- Positions kept in a group: each with fewer than n others that go before it (R398). -/
def keepOf (n : Nat) (l : List Ext) : List Nat :=
  let v (i : Nat) : Ext := l.getD i (.fin false 0)
  (List.range l.length).filter fun i =>
    decide (((List.range l.length).filter fun j => magLt (v i) (v j) || (j < i && !magLt (v j) (v i))).length < n)

/-- One row compressed: kept codes and metadata, as numbers. -/
def spzRow (e : FmtEntry) (pat k row : Nat) : Nat × Nat :=
  let per := if pat = 1 then 2 else 4
  let w := if pat = 1 then 2 else 3
  let kept := (List.range (k / (2 * per))).flatMap fun gi =>
    (keepOf per ((List.range (2 * per)).map fun j => (decodeEnt e (elemCode e row (gi * 2 * per + j))).1)).map fun i => (gi, i)
  ((kept.zip (List.range kept.length)).foldl (fun a p => a + elemCode e row (p.1.1 * 2 * per + p.1.2) * 2 ^ (p.2 * entW e)) 0,
   (kept.zip (List.range kept.length)).foldl (fun a p => a + p.1.2 * 2 ^ (p.2 * w)) 0)

/-- MSPZ as a whole (R398).
DESIGN CHOICE (log entry 39), unsafe. -/
def runMspz (s : State) (g : Group) (blk : List W64) : ERes (BitVec 6) :=
  let x := spzBlk blk
  let e := tableOf s g x.fmt
  let rb := rowBytes e x.k
  let mb := metaBytes x.pat x.k
  let sp : ESpace := .bank .scratch 0
  let rows (s : State) := (List.range x.m).foldl (fun r i => eThen r fun acc s =>
    eThen (engRead s g sp (x.soff + i * rb) rb) fun bs s => (.ok (acc ++ [(i, spzRow e x.pat x.k (ofBytes bs))]), s))
    ((.ok [], s) : ERes (List (Nat × Nat × Nat)))
  eThen (engFormat s g x.fmt) fun _ s =>
  if spzFmt e = false then (.error (.fail stBadfmt 2 0), s)
  else eThen (rows s) fun rows s =>
    eThen (engWrites s g sp (rows.flatMap fun r =>
      [(x.doff + r.1 * (rb / 2), toBytes (rb / 2) r.2.1), (x.moff + r.1 * mb, toBytes mb r.2.2)])) fun ws s =>
      (.ok 0, engPuts s g .copy ws)

end Sys2Proof.Machine
end

