-- ==== Sys2Proof/Machine/Scan.lean ====
section
/-! DEFINITION. The reckoner, the carry network and the convoy (R400-R418). -/

namespace Sys2Proof.Machine

open Sys2Proof

/-! ### Arithmetic -/

/-- A component of a scan: an exact floating value, or an integer. -/
inductive SVal where
  | f (v : Ext)
  | i (x : Int)
deriving DecidableEq

/-- What a scan computes with: operator, floating, width of an integer, SAT, FORM (R400-R403). -/
structure SAlg where
  opr : Nat
  flt : Bool
  w : Nat
  sat : Bool
  form : Nat
deriving DecidableEq, Repr

/-- Greater of two exact values by R220: -0 below +0, one NaN gives the other. -/
def extMax (a b : Ext) : Ext :=
  match a, b with
  | .nan, y => y
  | x, .nan => x
  | x, y => if ltNum x y then y else x

def extMin (a b : Ext) : Ext :=
  match a, b with
  | .nan, y => y
  | x, .nan => x
  | x, y => if ltNum y x then y else x

/-- Bits of an integer of w bits, combined. -/
def intBits (w : Nat) (f : Nat → Nat → Nat) (x y : Int) : Int := sxNat w (f (wrapInt w x) (wrapInt w y))

/-- The exact sum of the semiring; the flag says that it was invalid (R401). -/
def sPlus (g : SAlg) (x y : SVal × Bool) : SVal × Bool :=
  match x.1, y.1 with
  | .f a, .f b =>
    let r := match g.opr with | 1 => (extMax a b, false) | 2 => (extMin a b, false) | _ => addE false a b
    (.f r.1, r.2 || x.2 || y.2)
  | .i a, .i b =>
    (.i (match g.opr with | 0 => a + b | 1 => max a b | 2 => min a b | _ => intBits g.w (· ||| ·) a b), false)
  | a, _ => (a, x.2 || y.2)

/-- The exact product of the semiring. -/
def sTimes (g : SAlg) (x y : SVal × Bool) : SVal × Bool :=
  match x.1, y.1 with
  | .f a, .f b =>
    let r := if g.opr = 0 then mulE a b else addE false a b
    (.f r.1, r.2 || x.2 || y.2)
  | .i a, .i b => (.i (match g.opr with | 0 => a * b | 1 | 2 => a + b | _ => intBits g.w (· &&& ·) a b), false)
  | a, _ => (a, x.2 || y.2)

/-- Narrows a component once: value and flags (R403). -/
def sNarrow (g : SAlg) (x : SVal × Bool) : SVal × BitVec 6 :=
  match x.1 with
  | .f v => let r := roundF fp32 { rm := .rne, ftz := false, sat := false, infIn := true } v
            (.f r.val, r.fl ||| flagIf x.2 flNV)
  | .i v =>
    let lo : Int := -((2 ^ (g.w - 1) : Nat) : Int)
    let hi : Int := ((2 ^ (g.w - 1) : Nat) : Int) - 1
    if g.sat then (.i (max lo (min hi v)), flagIf (decide (v < lo ∨ hi < v)) flOF) else (.i (sxNat g.w (wrapInt g.w v)), 0)

/-- The identity of the sum (R401). -/
def sZero (g : SAlg) : SVal :=
  if g.flt then .f (match g.opr with | 1 => .inf true | 2 => .inf false | _ => .fin true 0)
  else .i (match g.opr with | 1 => -((2 ^ (g.w - 1) : Nat) : Int) | 2 => ((2 ^ (g.w - 1) : Nat) : Int) - 1 | _ => 0)

/-- An element: its a part (empty under FORM 0) and its b part (R402). -/
structure SElem where
  a : List SVal
  b : List SVal
deriving DecidableEq

/-- Values with the flags of their making. -/
abbrev SFlag (α : Type) := α × BitVec 6

def sAt (l : List SVal) (i : Nat) : SVal × Bool := (l.getD i (.i 0), false)

/-- Narrows a list of exact components. -/
def sNarrows (g : SAlg) (l : List (SVal × Bool)) : SFlag (List SVal) :=
  let r := l.map (sNarrow g)
  (r.map (·.1), r.foldl (fun a e => a ||| e.2) 0)

/-- a ⊗ x ⊕ b of the form, for a vector x (R403). -/
def sAffine (g : SAlg) (a x b : List SVal) : SFlag (List SVal) :=
  let m (i j : Nat) : SVal × Bool := sTimes g (sAt a i) (sAt x j)
  match g.form with
  | 0 => sNarrows g [sPlus g (sAt x 0) (sAt b 0)]
  | 1 => sNarrows g [sPlus g (m 0 0) (sAt b 0)]
  | _ => sNarrows g [sPlus g (sPlus g (m 0 0) (m 1 1)) (sAt b 0), sPlus g (sPlus g (m 2 0) (m 3 1)) (sAt b 1)]

/-- X ∘ Y (R403). -/
def sComb (g : SAlg) (x y : SElem) : SFlag SElem :=
  let b := sAffine g x.a y.b x.b
  let m (i j : Nat) : SVal × Bool := sTimes g (sAt x.a i) (sAt y.a j)
  let a := match g.form with
    | 0 => ([], 0)
    | 1 => sNarrows g [m 0 0]
    | _ => sNarrows g [sPlus g (m 0 0) (m 1 2), sPlus g (m 0 1) (m 1 3), sPlus g (m 2 0) (m 3 2), sPlus g (m 2 1) (m 3 3)]
  ({ a := a.1, b := b.1 }, a.2 ||| b.2)

/-- The serial run of up to 8 steps: s(p) of each (R404). -/
def scanRun (g : SAlg) (l : List SElem) : SFlag (List SElem) :=
  l.foldl (fun acc e =>
    match acc.1.getLast? with
    | none => ([e], acc.2)
    | some y => let r := sComb g e y; (acc.1 ++ [r.1], acc.2 ||| r.2)) ([], 0)

/-- One Kogge-Stone step at a distance. -/
def sKogge (g : SAlg) (acc : SFlag (List SElem)) (d : Nat) : SFlag (List SElem) :=
  (List.range acc.1.length).foldl (fun out r =>
    match acc.1[r]?, acc.1[r - d]? with
    | some x, some y => if d ≤ r then let c := sComb g x y; (out.1 ++ [c.1], out.2 ||| c.2) else (out.1 ++ [x], out.2)
    | _, _ => out) ([], acc.2)

/-- Runs of 8. -/
def runsOf (n : Nat) (l : List SElem) : List (List SElem) :=
  match n with
  | 0 => []
  | k + 1 => if l.isEmpty then [] else l.take 8 :: runsOf k (l.drop 8)

/-- One tile of up to 256 steps from a state: the outputs, in order, and flags (R404). -/
def sTile (g : SAlg) (e : List SElem) (h : List SVal) : SFlag (List (List SVal)) :=
  let runs := (runsOf 32 e).map (scanRun g)
  let fl0 := runs.foldl (fun a r => a ||| r.2) (0 : BitVec 6)
  let agg := [1, 2, 4, 8, 16].foldl (sKogge g) (runs.filterMap (·.1.getLast?), fl0)
  (runs.zip (List.range runs.length)).foldl (fun out rr =>
    let n := rr.1.1.length
    (rr.1.1.zip (List.range n)).foldl (fun out sj =>
      let q : SFlag SElem :=
        if sj.2 + 1 = n then (agg.1.getD rr.2 sj.1, 0)
        else if rr.2 = 0 then (sj.1, 0)
        else match agg.1[rr.2 - 1]? with | some y => sComb g sj.1 y | none => (sj.1, 0)
      let a := sAffine g q.1.a h q.1.b
      (out.1 ++ [a.1], out.2 ||| q.2 ||| a.2)) out) ([], agg.2)

/-- All tiles of a channel, a left fold of states (R404): outputs and flags. -/
def sChannel (g : SAlg) (n : Nat) (e : List SElem) (h : List SVal) : SFlag (List (List SVal)) :=
  match n with
  | 0 => ([], 0)
  | k + 1 =>
    if e.isEmpty then ([], 0)
    else
      let t := sTile g (e.take 256) h
      let r := sChannel g k (e.drop 256) (t.1.getLastD h)
      (t.1 ++ r.1, t.2 ||| r.2)

/-! ### The block -/

/-- The fields of a SCAN block (R400). -/
structure ScanBlk where
  p : List W64
  steps : Nat
  chans : Nat
  astr : Nat
  bstr : Nat
  hstr : Nat
  sat : Bool
  cout : Nat
  cin : Nat
  hfinal : Bool
  ikind : Nat
  hkind : Nat
  bkind : Nat
  akind : Nat
  type : Nat
  form : Nat
  opr : Nat
deriving DecidableEq, Repr

def scanBlk (p : List W64) : ScanBlk :=
  let q := br p 4
  let r := br p 5
  { p := p, steps := fld q 23 0, chans := fld q 28 24 + 1, astr := fld q 47 32, bstr := fld q 63 48, hstr := fld r 47 32,
    sat := bit1 r 21, cout := fld r 20 19, cin := fld r 18 17, hfinal := bit1 r 16, ikind := fld r 15 14,
    hkind := fld r 13 12, bkind := fld r 11 10, akind := fld r 9 8, type := fld r 5 4, form := fld r 3 2, opr := fld r 1 0 }

/-- Bytes of an element, and of a component of a carry. -/
def scanEs (x : ScanBlk) : Nat := match x.type with | 0 => 4 | 1 => 2 | 2 => 4 | _ => 8
def carryEs (x : ScanBlk) : Nat := if x.type = 3 then 8 else 4

/-- Scalars of a, and of b and the state, per channel and step (R402). -/
def scanNa (x : ScanBlk) : Nat := if x.form = 2 then 4 else 1
def scanNb (x : ScanBlk) : Nat := if x.form = 2 then 2 else 1
def aRow (x : ScanBlk) : Nat := x.chans * scanNa x * scanEs x
def bRow (x : ScanBlk) : Nat := x.chans * scanNb x * scanEs x
def carryBytes (x : ScanBlk) : Nat := x.chans * scanNb x * carryEs x

def scanAlg (x : ScanBlk) : SAlg :=
  { opr := x.opr, flt := decide (x.type < 2), w := if x.type = 3 then 64 else 32, sat := x.sat, form := x.form }

/-- Output rows of a SCAN. -/
def outRows (x : ScanBlk) : Nat := if x.hfinal then 1 else x.steps

/-- The kernel of a group has CONVOY (R133). -/
def isConvoy (s : State) (kid : Nat) : Bool :=
  match (getKernel s kid).bind (·.desc) with | some d => bit1 d.kflags 1 | none => false

/-- Bytes from the first to the last of the rows of a, of b and of the output. -/
def aSpan (x : ScanBlk) : Nat := (x.steps - 1) * x.astr + aRow x
def bSpan (x : ScanBlk) : Nat := (x.steps - 1) * x.bstr + bRow x
def hSpan (x : ScanBlk) : Nat := if x.hfinal then bRow x else (x.steps - 1) * x.hstr + bRow x

/-- The scratch ranges of SCAN (R400). -/
def scanRanges (x : ScanBlk) : List BankRange :=
  let one (on : Bool) (kind i n : Nat) : List BankRange := rangeIf (on && kind == 1) 5 (fld (br x.p i) 31 0) n
  one (x.form != 0) x.akind 0 (aSpan x) ++ one true x.bkind 1 (bSpan x) ++ one true x.hkind 2 (hSpan x) ++
    one (x.cin == 0 && x.ikind != 2) x.ikind 3 (bRow x)

/-- The checks of SCAN (R374, R400, R406). -/
def scanChecks (g : Group) (conv : Bool) (x : ScanBlk) : List BlkCheck :=
  let p (i : Nat) : W64 := br x.p i
  let es := scanEs x
  let sub (on : Bool) (st row : Nat) : BlkCheck := relation 5 stBadshape (on && (decide (st < row) || st % es != 0))
  let a := x.form != 0
  let init := x.cin == 0 && x.ikind != 2
  let slot (on : Bool) (kind i n : Nat) : List BlkCheck := if on then [slotCheck g 5 kind (p i) n] else []
  let addr (on : Bool) (kind i : Nat) : List BlkCheck := if on then addrChecks 5 kind es (p i) else []
  [single 4 stBadparam (fld (p 4) 31 29 != 0), single 4 stBadparam (x.steps == 0),
   single 5 stBadparam (fld (p 5) 31 22 != 0), single 5 stBadparam (x.cout == 3 || (x.cout != 0 && !conv)),
   single 5 stBadparam (decide (1 < x.cin) || (x.cin != 0 && !conv)), single 5 stBadparam (x.ikind == 3),
   single 5 stBadparam (x.hkind == 3), single 5 stBadparam (x.bkind == 3), single 5 stBadparam (x.akind == 3),
   single 5 stBadparam (fld (p 5) 7 6 != 0), single 5 stBadparam (x.form == 3)] ++ compChecks g 6 (p 6) ++
  [single 7 stBadparam (fld (p 7) 63 16 != 0),
   relation 5 stBadparam (!a && p 0 != 0), relation 5 stBadparam (x.ikind == 2 && p 3 != 0),
   relation 5 stBadparam (!a && x.astr != 0), relation 5 stBadparam (x.bkind != 0 && fld (p 5) 63 56 != 0),
   relation 5 stBadparam (x.akind != 0 && fld (p 5) 55 48 != 0), relation 5 stBadparam (x.hfinal && x.hstr != 0),
   relation 5 stBadparam (!a && x.akind != 0), relation 5 stBadparam (x.sat && decide (x.type < 2)),
   relation 5 stBadparam (x.cin == 1 && (x.ikind != 0 || p 3 != 0)),
   relation 5 stBadfmt (x.opr == 3 && decide (x.type < 2)), sub a x.astr (aRow x), sub true x.bstr (bRow x),
   sub (!x.hfinal) x.hstr (bRow x)] ++
  slot a x.akind 0 (aSpan x) ++ slot true x.bkind 1 (bSpan x) ++ slot true x.hkind 2 (hSpan x) ++
  addr a x.akind 0 ++ addr true x.bkind 1 ++ addr true x.hkind 2 ++ addr init x.ikind 3 ++
  [relation 5 stBadparam ((a && x.akind == 2 && x.bkind == 2 && fld (p 0) 3 0 == fld (p 1) 3 0) ||
      (x.hkind == 2 && ((a && x.akind == 2 && fld (p 0) 3 0 == fld (p 2) 3 0) || (x.bkind == 2 && fld (p 1) 3 0 == fld (p 2) 3 0)))),
   relation 7 stBadparam (x.ikind != 0 && fld (p 7) 15 8 != 0), relation 7 stBadparam (x.hkind != 0 && fld (p 7) 7 0 != 0)] ++
  rangeChecks g (scanRanges x)

def modMember (s : State) (kid pos : Nat) (f : ConvoyMember → ConvoyMember) : State :=
  modConvoy s kid fun c => { c with members := replaceIf (fun m => m.pos == pos) f c.members }

/-- The first use of the carry network takes a SEALED convoy to RUNNING (R414). -/
def useConvoy (s : State) (kid : Nat) : State :=
  match convoyOfKernel s kid with
  | some c => if c.cvst = .sealed then setConvoy s kid .running else s
  | none => s

/-- SCAN (R408, R409). -/
def execScan (f : Fields) (s : State) : Host.Outcome State Fault Refusal :=
  issueEach f s fun v s =>
    let blk := blockOf v 8
    let x := scanBlk blk
    let chans := (if x.form = 0 then [] else kindChan x.akind (br blk 0)) ++ kindChan x.bkind (br blk 1) ++ kindChan x.hkind (br blk 2)
    let checks := scanChecks v.g (isConvoy s v.g.kid) x
    let s := if (firstReject checks).isNone ∧ (x.cin ≠ 0 ∨ x.cout ≠ 0) ∧ (chans.all fun c => (chanCfg v.g c).isSome) = true
      then useConvoy s v.g.kid else s
    engIssue v s .reckoner 0x1EB blk [] chans checks

/-! ### Carries -/

/-- Packets of a carry of n bytes (R406). -/
def carryPackets (n : Nat) : Nat := ceilDiv n 64

/-- Successor of a position and the tag of its carry; none where nothing is sent (R406). -/
def carryTo (c : Convoy) (m : ConvoyMember) (cout : Nat) : Option (Nat × BitVec 16) :=
  if cout = 0 then none
  else if m.pos + 1 < c.len then some (m.pos + 1, m.seg)
  else if cout = 2 then some (0, m.seg + 1) else none

/-- Packets on their way to a position, of a path. -/
def inFlight (c : Convoy) (pos : Nat) (soft : Bool) : Nat :=
  ((c.members.filter fun m => (m.pos + 1) % max 1 c.len == pos).map fun m => (m.out.filter fun o => o.1 == soft).length).sum

/-- Packets buffered at a position, of a path. -/
def buffered (c : Convoy) (pos : Nat) (soft : Bool) : Nat :=
  match c.members.find? fun m => m.pos == pos with | some m => (if soft then m.softBuf else m.scanBuf).length | none => 0

/-- A receiving buffer has room for n packets beside those on their way (R412). -/
def carryRoom (c : Convoy) (pos : Nat) (soft : Bool) (n : Nat) : Bool :=
  decide (buffered c pos soft + inFlight c pos soft + n ≤ if soft then 4 else 8)

/-- The packets of hfinal, or the failed carry (R406, R407). -/
def carryData (seg : BitVec 16) (failed : Bool) (size : Nat) (bs : List Byte) : List CarryPkt :=
  (List.range (if failed then 1 else carryPackets size)).map fun i =>
    { seg := seg, failed := failed, size := size,
      data := (List.range 8).map fun j => BitVec.ofNat 64 (ofBytes ((bs.drop (64 * i + 8 * j)).take 8)) }

/-- Sends a SCAN's carry, unless its convoy is BROKEN (R416).
DESIGN CHOICE (log entry 42), safe. -/
def sendCarry (s : State) (g : Group) (x : ScanBlk) (failed : Bool) (bs : List Byte) : State :=
  match convoyOfKernel s g.kid with
  | none => s
  | some c =>
    match memberOf c g.gid with
    | none => s
    | some m =>
      match carryTo c m x.cout with
      | none => s
      | some (_, seg) =>
        if convoyDead c = true then s
        else modMember s g.kid m.pos fun m =>
          { m with out := m.out ++ (carryData seg failed (carryBytes x) bs).map fun p => (false, p) }

/-- The carry that waits for a member's current segment: its packets, once all are there (R406, R412). -/
def carryReady (m : ConvoyMember) : Option (List CarryPkt) :=
  match m.scanBuf.filter fun p => p.seg == m.seg with
  | [] => none
  | p :: r =>
    let n := if p.failed then 1 else carryPackets p.size
    if n ≤ (p :: r).length then some ((p :: r).take n) else none

/-- CARRY_DELIVERY (R412): the oldest packet of a path of a member reaches its successor's buffer.
DESIGN CHOICE (log entry 42), safe. -/
def execCarryDelivery (kid pos : Nat) (soft : Bool) (s : State) : Host.Outcome State Fault Refusal :=
  .next (match convoyOfKernel s kid with
    | none => s
    | some c =>
      match (c.members.find? fun m => m.pos == pos).bind fun m => (m.out.find? fun o => o.1 == soft).map fun o => (m, o.2) with
      | none => s
      | some (m, p) =>
        let dst := (pos + 1) % max 1 c.len
        if (if soft then 4 else 8) ≤ buffered c dst soft then s
        else
          let unit := match getGroup s m.gid with
            | some g => if soft then unitCore (firstCore g) else unitEngine (firstCore g) .reckoner
            | none => unitHost
          let (tag, s) := takeTag s unit
          let s := modMember s kid pos fun m => { m with out := m.out.eraseP fun o => o.1 == soft }
          let s := modMember s kid dst fun m =>
            if soft then { m with softBuf := m.softBuf ++ [p] } else { m with scanBuf := m.scanBuf ++ [p] }
          match (convoyOfKernel s kid).bind fun c => c.members.find? fun m => m.pos == dst with
          | some d => modGroup s d.gid fun g =>
              match g.pilot.run with
              | .parked .carryget => if soft ∧ p.seg = d.seg then { g with pilot := { g.pilot with run := .ready, lastwake := tag } } else g
              | _ => g
          | none => s)

/-- A packet on its way whose receiving buffer has room. -/
def dueCarry (s : State) : Option Instr :=
  s.convoys.findSome? fun c => c.members.findSome? fun m =>
    if (match getGroup s m.gid with | some g => onCore g | none => false) = false then none
    else [false, true].findSome? fun soft =>
      if (m.out.any fun o => o.1 == soft) && decide (buffered c ((m.pos + 1) % max 1 c.len) soft < if soft then 4 else 8)
      then some (.carryDelivery c.kid m.pos soft) else none

/-- Removes packets from a member's scan buffer. -/
def takeCarry (s : State) (kid pos : Nat) (ps : List CarryPkt) : State :=
  modMember s kid pos fun m => { m with scanBuf := ps.foldl (fun l p => l.erase p) m.scanBuf }

/-- Starts a SCAN at the head of its group's order (R406, R409): it takes its carry, or starts without one where the
convoy is BROKEN. The carry kept is its failed mark and its words; no words mark a size that does not agree. -/
def startScan (s : State) (g : Group) (o : EngineOp) : Option (Option (Bool × List W64) × State) :=
  let x := scanBlk o.blk
  if x.cin = 0 then some (none, s)
  else match (convoyOfKernel s g.kid).bind fun c => (memberOf c g.gid).map fun m => (c, m) with
  | none => none
  | some (c, m) =>
    if convoyDead c = true then some (none, s)
    else match carryReady m with
    | none => none
    | some ps =>
      let failed := ps.any (·.failed)
      let fit := ps.all fun p => p.size == carryBytes x
      some (some (failed, if failed ∨ fit = false then [] else ps.flatMap (·.data)), takeCarry s g.kid m.pos ps)

/-! ### Running a SCAN -/

/-- A scalar of a row, widened to the computation type (R402); signalling NaNs raise NV. -/
def scanScalar (type : Nat) (bs : List Byte) (es i : Nat) : SVal × BitVec 6 :=
  let x := ofBytes ((bs.drop (i * es)).take es)
  match type with
  | 0 => (.f (decodeF fp32 x), flagIf (fIsSnan fp32 x) flNV)
  | 1 => (.f (decodeF bf16 x), flagIf (fIsSnan bf16 x) flNV)
  | _ => (.i (sxNat (8 * es) x), 0)

/-- n scalars of a row from scalar i. -/
def scanScalars (type : Nat) (bs : List Byte) (es i n : Nat) : SFlag (List SVal) :=
  let l := (List.range n).map fun k => scanScalar type bs es (i + k)
  (l.map (·.1), l.foldl (fun a e => a ||| e.2) 0)

/-- Bits of a component in its computation type. -/
def carryBits (v : SVal) (w : Nat) : Nat := match v with | .f e => encodeF fp32 e | .i x => wrapInt w x

/-- Bits and flags of a component as written (R405). -/
def outBits (type : Nat) (v : SVal) : Nat × BitVec 6 :=
  match type, v with
  | 1, .f e =>
    let r := roundF bf16 { rm := .rne, ftz := false, sat := false, infIn := true } e
    (encodeF bf16 r.val, r.fl)
  | 0, .f e => (encodeF fp32 e, 0)
  | 2, .i x => (wrapInt 32 x, 0)
  | _, v => (carryBits v 64, 0)

/-- Rows of a source. -/
def scanRows (s : State) (g : Group) (sp : ESpace × Nat) (n st bytes : Nat) : ERes (List (List Byte)) :=
  (List.range n).foldl (fun r t => eThen r fun l s =>
    eThen (engRead s g sp.1 (sp.2 + t * st) bytes) fun bs s => (.ok (l ++ [bs]), s)) (.ok [], s)

/-- The incoming state of every channel, in order (R406). -/
def scanInit (s : State) (g : Group) (x : ScanBlk) (carry : Option (Bool × List W64)) : ERes (SFlag (List (List SVal))) :=
  let nb := scanNb x
  let split (l : List SVal) : List (List SVal) := (List.range x.chans).map fun c => (l.drop (c * nb)).take nb
  if x.cin = 1 then
    match carry with
    | none => (.error (.fail 11 0 0), s)
    | some (true, _) => (.error (.fail 12 2 0), s)
    | some (false, []) => (.error (.fail 12 1 0), s)
    | some (false, ws) =>
      let bs := ws.flatMap fun w => toBytes 8 w.toNat
      let l := scanScalars (if x.type = 1 then 0 else x.type) bs (carryEs x) 0 (x.chans * nb)
      (.ok (split l.1, 0), s)
  else if x.ikind = 2 then (.ok (split (List.replicate (x.chans * nb) (sZero (scanAlg x))), 0), s)
  else
    let sp := spaceOf g x.ikind (BitVec.ofNat 8 (fld (br x.p 7) 15 8)) 3 (br x.p 3) false
    eThen (engRead s g sp.1 sp.2 (bRow x)) fun bs s =>
      let l := scanScalars x.type bs (scanEs x) 0 (x.chans * nb)
      (.ok (split l.1, l.2), s)

/-- What a SCAN computes: hout of every step and channel, hfinal of every channel, and flags (R402-R405). -/
def scanCompute (x : ScanBlk) (as bs : List (List Byte)) (init : SFlag (List (List SVal))) :
    List (List (List SVal)) × List (List SVal) × BitVec 6 :=
  let g := scanAlg x
  let es := scanEs x
  let chan (c : Nat) : SFlag (List (List SVal)) :=
    let es' := (List.range x.steps).map fun t =>
      let a := if x.form = 0 then ([], 0) else scanScalars x.type (as.getD t []) es (c * scanNa x) (scanNa x)
      let b := scanScalars x.type (bs.getD t []) es (c * scanNb x) (scanNb x)
      (({ a := a.1, b := b.1 } : SElem), a.2 ||| b.2)
    let r := sChannel g (x.steps / 256 + 1) (es'.map (·.1)) (init.1.getD c [])
    (r.1, r.2 ||| es'.foldl (fun a e => a ||| e.2) 0)
  let chs := (List.range x.chans).map chan
  (chs.map (·.1), chs.map (fun c => c.1.getLastD []), chs.foldl (fun a c => a ||| c.2) init.2)

/-- What a SCAN that reached its outputs gives: the carry's bytes, the writes, flags. -/
structure ScanRes where
  carry : List Byte
  writes : List EWrite
  fl : BitVec 6
deriving DecidableEq, Repr

/-- A SCAN as a whole up to its effects (R404-R407, R409). An output that cannot be written stops it
after its carry. -/
def runScan (s : State) (g : Group) (o : EngineOp) : ERes (ScanRes × Option EStop) :=
  let x := scanBlk o.blk
  let p (i : Nat) : W64 := br o.blk i
  let h := (getGroup s g.gid).getD g
  eThen (scanInit s h x o.carry) fun init s =>
    let spA := spaceOf h x.akind (BitVec.ofNat 8 (fld (p 5) 55 48)) 0 (p 0) false
    let spB := spaceOf h x.bkind (BitVec.ofNat 8 (fld (p 5) 63 56)) 1 (p 1) false
    let spH := spaceOf h x.hkind (BitVec.ofNat 8 (fld (p 7) 7 0)) 2 (p 2) true
    eThen (if x.form = 0 then (.ok [], s) else scanRows s g spA x.steps x.astr (aRow x)) fun as s =>
      eThen (scanRows s g spB x.steps x.bstr (bRow x)) fun bs s =>
        let (hout, hfin, fl) := scanCompute x as bs init
        let es := scanEs x
        let rowAt (t : Nat) : List SVal := hout.flatMap fun c => c.getD t []
        let enc (l : List SVal) : List Byte × BitVec 6 :=
          let r := l.map (outBits x.type)
          (r.flatMap (fun e => toBytes es e.1), r.foldl (fun a e => a ||| e.2) 0)
        let rows := if x.hfinal then [(0, enc (hfin.flatMap id))] else (List.range x.steps).map fun t => (t, enc (rowAt t))
        let carry := (hfin.flatMap id).flatMap fun v => toBytes (carryEs x) (carryBits v (8 * carryEs x))
        let fl := rows.foldl (fun a r => a ||| r.2.2) fl
        match engWrites s g spH.1 (rows.map fun r => (spH.2 + r.1 * x.hstr, r.2.1)) with
        | (.ok ws, s) => (.ok ({ carry := carry, writes := ws, fl := fl }, none), s)
        | (.error e, s) => (.ok ({ carry := carry, writes := [], fl := fl }, some e), s)

/-- A started SCAN has room for its carry, or needs none; at a save its carry waits with its member (R409, R415). -/
def scanSendable (s : State) (g : Group) (o : EngineOp) : Bool :=
  let x := scanBlk o.blk
  match convoyOfKernel s g.kid with
  | none => true
  | some c =>
    match (memberOf c g.gid).bind fun m => carryTo c m x.cout with
    | none => true
    | some (dst, _) => o.sent || convoyDead c || g.gst == .saving || carryRoom c dst false (carryPackets (carryBytes x))

/-! ### CARRYPUT, CARRYGET and CARRYBAR -/

/-- An earlier CARRYBAR of the group has not retired. -/
def barPending (s : State) (gid : Nat) : Bool := s.engineQ.any fun o => o.gid == gid && o.op == 0x1EE

/-- CARRYPUT at a pilot (R410). -/
def carryputOne (f : Fields) (v : View) (s : State) : State :=
  let n := fld f.sub 3 1
  let nb := bit1 f.sub 0
  if barPending s v.g.gid then stallAt s v .carry
  else
    let s := useConvoy s v.g.kid
    match (convoyOfKernel s v.g.kid).bind fun c => (memberOf c v.g.gid).map fun m => (c, m) with
    | none => givePred s v n false
    | some (c, m) =>
      if convoyDead c = true then givePred s v n false
      else if carryRoom c ((m.pos + 1) % max 1 c.len) true 1 = false then
        if nb then givePred s v n false else stallAt s v .carry
      else if ownQueued s v then stallAt s v .storeQueue
      else
        let s := releaseAt s v 4
        let p : CarryPkt := { seg := m.seg, failed := false, size := 64, data := blockOf v 8 }
        givePred (modMember s v.g.kid m.pos fun m => { m with out := m.out ++ [(true, p)] }) v n true

/-- CARRYPUT (R410). -/
def execCarryput (f : Fields) (s : State) : Host.Outcome State Fault Refusal := issueEach f s (carryputOne f)

/-- CARRYGET at a pilot (R410). -/
def carrygetOne (f : Fields) (v : View) (s : State) : State :=
  let n := fld f.sub 3 1
  let nb := bit1 f.sub 0
  if barPending s v.g.gid then stallAt s v .carry
  else
    let s := useConvoy s v.g.kid
    match (convoyOfKernel s v.g.kid).bind fun c => (memberOf c v.g.gid).map fun m => (c, m) with
    | none => givePred s v n false
    | some (c, m) =>
      if convoyDead c = true then givePred s v n false
      else match m.softBuf.find? fun p => p.seg == m.seg with
      | none => if nb then givePred s v n false else parkAt s v .carryget
      | some p =>
        let s := modMember s v.g.kid m.pos fun m => { m with softBuf := m.softBuf.erase p }
        let s := readyCarry (acquireAt s v 4) v.g.kid 0 false
        applyPend s v { effNone with
          writes := (List.range 8).map (fun i => (.s (nD f + i), p.data.getD i 0)) ++ writesP n true } 0

/-- CARRYGET (R410). -/
def execCarryget (f : Fields) (s : State) : Host.Outcome State Fault Refusal := issueEach f s (carrygetOne f)

/-- CARRYBAR (R409, R411): it takes a token and enters the reckoner queue. -/
def execCarrybar (f : Fields) (s : State) : Host.Outcome State Fault Refusal :=
  issueEach f s fun v s => engIssue v (useConvoy s v.g.kid) .reckoner 0x1EE [] [] [] []

/-- A CARRYBAR at the head may arrive: every earlier packet of its group has been delivered (R411). -/
def startBar (s : State) (g : Group) : Option State :=
  match (convoyOfKernel s g.kid).bind fun c => (memberOf c g.gid).map fun m => (c, m) with
  | none => some s
  | some (c, m) =>
    if convoyDead c = true then some s
    else if m.out.isEmpty then some (modMember s g.kid m.pos fun m => { m with barArr := true }) else none

/-- The barrier's completion for one member (R411). -/
def passBar (s : State) (kid : Nat) (m : ConvoyMember) : State :=
  let old (p : CarryPkt) : Bool := p.seg == m.seg
  let n := ((m.scanBuf ++ m.softBuf).filter old).length
  let s := if n = 0 then s else
    let unit := match getGroup s m.gid with | some g => unitEngine (firstCore g) .reckoner | none => unitHost
    emit s unit ((getKernel s kid).map (·.ctx)) evCarryDiscard (convoyId s kid) n
  let s := modMember s kid m.pos fun m =>
    { m with scanBuf := m.scanBuf.filter fun p => !old p, softBuf := m.softBuf.filter fun p => !old p, seg := m.seg + 1,
             barArr := false }
  match getGroup s m.gid, headOp s m.gid .reckoner with
  | some g, some o => retireOp (dropClean s (engCore g)) g o { arrive := none, bytes := 0, ins := [], outs := [] } 0 0 0 0
  | _, _ => s

/-- Every member of a convoy has arrived. -/
def barReady (c : Convoy) : Bool := !convoyDead c && c.members.length == c.len && c.members.all (·.barArr)

/-- CARRYBAR_COMPLETE (R411). -/
def execCarrybarComplete (kid : Nat) (s : State) : Host.Outcome State Fault Refusal :=
  .next (match convoyOfKernel s kid with
    | some c => if barReady c then readyCarry (c.members.foldl (fun s m => passBar s kid m) s) kid 0 false else s
    | none => s)

/-- A convoy whose members have all arrived while they hold their places. -/
def dueCarrybar (s : State) : Option Instr :=
  (s.convoys.find? fun c => barReady c && c.members.all fun m =>
    match getGroup s m.gid with | some g => onCore g | none => false).map fun c => .carrybarComplete c.kid

/-- Every member of a convoy that has not ended is placed. -/
def convoyStands (s : State) (c : Convoy) : Bool :=
  c.members.length == c.len && c.members.all fun m => m.ended || (match getGroup s m.gid with | some g => onCore g | none => false)

/-- CONVOY_SEALED (R414): every member is placed, and the links are stitched: a new convoy is SEALED, a restored one goes
back to the state in which it was saved.
DEDUCED (log entry 87), unsafe. -/
def execConvoySealed (kid : Nat) (s : State) : Host.Outcome State Fault Refusal :=
  .next (match convoyOfKernel s kid with
    | some c =>
      if c.cvst = .forming ∧ convoyStands s c = true then setConvoy s kid c.back else s
    | none => s)

end Sys2Proof.Machine
end

