-- ==== Sys2Proof/Machine/Collective.lean ====
section
/-! DEFINITION. Collectives: COLLOPEN, COLLCLOSE, contributions, the stack reducers, the packets between member devices,
liveness and the end of a use (R419-R437, R504). -/

namespace Sys2Proof.Machine

open Sys2Proof

/-! ### Opening and closing -/

/-- Entry of a contribution's format (R419). -/
def collEnt (s : State) (ctx : Nat) (d : List W64) : FmtEntry := formatOf s ctx (cFmt d)

/-- The entry that a collective's contributions are read with is poisoned (R103). -/
def collPoisoned (s : State) (ctx : Nat) (d : List W64) : Bool := cRedop d != 0 && cRtype d == 0 && formatPoisoned s ctx (cFmt d)

/-- Contribution bytes of one member for one chunk, of a format (R420). -/
def contribSize (d : List W64) (e : FmtEntry) : Nat :=
  if cRedop d = 0 then cBytes d
  else if cRtype d ≠ 0 then cElems d * cRs d
  else
    let n := rowBytes e (cElems d)
    if cGeo d = 1 then 4 * ceilDiv n 4 + cElems d / 32 * 4 else n

/-- Contribution bytes under the format table as it is now. -/
def contribBytes (s : State) (ctx : Nat) (d : List W64) : Nat := contribSize d (collEnt s ctx d)

/-- A contribution format is FP32 or converts to it (R421). -/
def collFmtOk (e : FmtEntry) : Bool :=
  match e with
  | .invalid => false
  | .narrow _ => true
  | .standard w => w == 0 || w == 1 || w == 9

/-- A malformed descriptor (R421). -/
def malformed (s : State) (ctx : Nat) (d : List W64) : Bool :=
  let c (i : Nat) : W64 := dw d i
  let flips (i : Nat) : Bool := decide (fld (c 3) (8 * i + 7) (8 * i + 4) < fld (c 3) (8 * i + 3) (8 * i))
  fld (c 2) 31 0 != 0 || fld (c 3) 63 35 != 0 || fld (c 3) 31 27 != 0 || fld (c 4) 63 28 != 0 || fld (c 4) 11 10 != 0 ||
    fld (c 5) 23 0 != 0 || fld (c 6) 63 16 != 0 || c 7 != 0 || cChunks d == 0 || cElems d == 0 || cElems d % 4 != 0 ||
    decide (cGpr d ≤ cMidx d) || flips 0 || flips 1 || flips 2 || cRtype d == 3 || decide (1 < cGeo d) || decide (5 < cRedop d) ||
    (cGeo d == 1 && cElems d % 32 != 0) || (cRtype d == 0 && decide (4 ≤ cRedop d)) ||
    (cRtype d != 0 && (cGeo d != 0 || cFmt d != 0)) || (cDlv d && cRedop d == 0) ||
    (cRtype d == 0 && !collFmtOk (collEnt s ctx d)) || (c 0).toNat % 128 != 0 || (c 1).toNat % 16 != 0 ||
    !((cRanks d).contains s.rank)

/-- A descriptor without MIDX, by which descriptors are compared (R425). -/
def descKey (d : List W64) : List W64 := modNth d 3 fun x => setFld x 34 32 0

/-- A view before its first use (R422). -/
def viewFresh (id : Nat) : CollView :=
  { id := id, vst := .closed, gen := 0, desc := [], members := [], chunks := [], unconf := [], closeSent := false,
    closedBy := [], dead := [], heard := [], probed := 0, opened := 0, lateLogged := false, sentBy := [], dirty := [],
    stall := none, refused := none }

def chunkFresh : Chunk :=
  { contrib := 0, status := 0, flags := 0, sent := 0, acked := 0, wake := 0, begun := [], error := false, awaiting := [],
    ending := [], added := [], touched := [] }

/-- The view of a new use: every record idle, every member unjoined (R425, R430, R432). -/
def viewOpened (s : State) (v : CollView) (d : List W64) : CollView :=
  let n := (cRanks d).length * cGpr d
  { viewFresh v.id with
    gen := v.gen + 1, desc := descKey d, chunks := List.replicate (cChunks d) chunkFresh,
    members := (List.range n).map fun o =>
      { ordinal := o, rank := (cRanks d).getD (o / cGpr d) 0, midx := o % cGpr d, mst := 0, gid := none,
        group := 0xFFFFFFFF, cdone := 0, jstamp := 0, wake := 0 },
    heard := (cRanks d).map fun r => (r, now s), probed := now s, opened := now s,
    dirty := List.range (cChunks d + n) }

/-- The record area, from REC to the end of the member table, translated as a pilot store: true where it is writable;
else the state in which the pilot stalls or traps (R425). -/
def recordArea (s : State) (v : View) (d : List W64) : Bool × State :=
  let n := 16 * (cChunks d + (cRanks d).length * cGpr d)
  (piecesOf (dw d 1).toNat n).foldl (fun acc p =>
    if acc.1 then
      let va := vaOf (cRreach d) (BitVec.ofNat 64 p.1)
      match resolve acc.2 v va .write p.2 with
      | (.mem _ _, s) => (true, s)
      | (r, s) => (false, failAccess s v va .write r 0)
    else acc) (true, s)

/-- A group enters the member table, and its JOIN goes to every home (R425). -/
def joinUse (s : State) (g : Group) (id midx : Nat) (d : List W64) (tag : BitVec 48) : State :=
  let o := cOrdinal d s.rank midx
  let s := modView s g.ctx id fun v =>
    modMember_ v o fun m => { m with mst := 1, gid := some g.gid, group := g.lin, jstamp := now s, wake := tag }
  match getView s g.ctx id with
  | none => s
  | some v =>
    let p (r : BitVec 12) : Packet := { collPkt s g.ctx v r .join 0 tag with
      opnd := BitVec.ofNat 128 (midx + g.lin.toNat * 2 ^ 32), payload := v.desc.flatMap fun w => toBytes 8 w.toNat }
    ((cHomes d).filter fun r => r != s.rank).foldl (fun s r => sendColl s g.ctx id (p r)) s

/-- What COLLOPEN answers before it changes anything: its status (R425). -/
def openStatus (s : State) (g : Group) (d : List W64) : Nat :=
  if malformed s g.ctx d then 3
  else match getView s g.ctx (cId d) with
  | none => 0
  | some v =>
    match v.vst with
    | .draining => 2
    | .failed => 5
    | .closed => 0
    | _ =>
      if v.desc ≠ descKey d then 4
      else if (v.members.any fun m => m.rank == s.rank && m.midx == cMidx d && m.mst != 0) = true then 4 else 1

/-! ### Contributions at a home -/

/-- An ordinal of the contributing group of a packet: its rank's, and MIDX in OPINFO bits 18:16. -/
def packetOrdinal (v : CollView) (p : Packet) : Nat := cOrdinal v.desc p.srank (fld p.opinfo 18 16)

/-- The last packet of a contribution, and a failed contribution's marker (R427). -/
def pktLast (p : Packet) : Bool := bit1 p.opinfo 19
def pktFailed (p : Packet) : Bool := bit1 p.opinfo 20

/-- The word of the format entry with which a contribution was issued, which its packets carry: so a contribution is read wholly with one
entry (R86).
DESIGN CHOICE (log entry 46), safe. -/
def pktFmt (p : Packet) : W32 := BitVec.ofNat 32 (fld p.opnd 63 32)

/-- A packet's step with nothing in it but its place. -/
def stepOf (s : State) (v : CollView) (p : Packet) (o : Nat) : RedStep :=
  { stack := stackOfVa s p.ctx (chunkVa v.desc (pktChunk p) o), ctx := p.ctx, id := v.id, gen := v.gen, chunk := pktChunk p,
    ordinal := packetOrdinal v p, parts := [], fmt := pktFmt p, first := false, last := false, failed := false,
    sender := p.srank, wake := p.wake, stall := none, refused := none }

/-- Codes of a packet: the first element, and each element's code and scale word (R427). ADDR is the offset of the stream,
or the first element under CGEO 1; the byte before the packet is in OPND, for an element that straddles.
DESIGN CHOICE (log entry 46), safe. -/
def packetCodes (v : CollView) (p : Packet) : Nat × List W64 × List W32 :=
  let d := v.desc
  let at_ := p.addr.toNat
  let len := p.payload.length
  if cRtype d ≠ 0 then (at_ / cRs d, (wordsOf (cRs d) p.payload).map (BitVec.ofNat 64), [])
  else
    let w := entW (fmtEntry (pktFmt p))
    if cGeo d = 1 then
      let nblk := len / (4 * w + 4)
      let row := ofBytes (p.payload.take (nblk * 4 * w))
      let sc := words32 (p.payload.drop (nblk * 4 * w))
      (at_, (List.range (32 * nblk)).map (fun i => BitVec.ofNat 64 (row / 2 ^ (i * w) % 2 ^ w)),
       (List.range (32 * nblk)).map fun i => sc.getD (i / 32) 0)
    else
      let row := p.opnd.toNat % 256 + 256 * ofBytes p.payload
      let e0 := 8 * at_ / w
      let e1 := min (8 * (at_ + len) / w) (cElems d)
      (e0, (List.range (e1 - e0)).map (fun i => BitVec.ofNat 64 (row / 2 ^ ((e0 + i) * w + 8 - 8 * at_) % 2 ^ w)), [])

/-- Elements in pieces, one for each 4 KiB page of the buffer; k bounds them. -/
def codeParts (v : CollView) (p : Packet) (k e : Nat) (codes : List W64) (scales : List W32) : List RedPart :=
  match k with
  | 0 => []
  | k + 1 =>
    if codes.isEmpty then []
    else
      let rs := cRs v.desc
      let a := fld (chunkVa v.desc (pktChunk p) (e * rs)) 63 0
      let n := min codes.length ((4096 - a % 4096) / rs)
      { elem := e, codes := codes.take n, scales := scales.take n, bytes := [] } :: codeParts v p k (e + n) (codes.drop n) (scales.drop n)

/-- Byte offset of a part within its chunk, and its bytes. -/
def partRange (d : List W64) (q : RedPart) : Nat × Nat :=
  if cRedop d = 0 then (q.elem, q.bytes.length) else (cRs d * q.elem, cRs d * q.codes.length)

/-- The pieces of a packet's data. -/
def packetParts (v : CollView) (p : Packet) : List RedPart :=
  let d := v.desc
  if cRedop d = 0 then
    let base := fld (chunkVa d (pktChunk p) 0) 63 0
    (piecesOf (base + p.addr.toNat) p.payload.length).map fun q =>
      { elem := q.1 - base, codes := [], scales := [], bytes := (p.payload.drop (q.1 - base - p.addr.toNat)).take q.2 }
  else
    let (e, codes, scales) := packetCodes v p
    codeParts v p (codes.length + 1) e codes scales

/-- The last step of a packet carries the mark of its contribution's end. -/
def markLast (last : Bool) (l : List RedStep) : List RedStep :=
  match l with
  | [] => []
  | [r] => [{ r with last := last }]
  | r :: t => r :: markLast last t

/-- The first step of a packet that opens its contribution carries that mark. -/
def markFirst (first : Bool) (l : List RedStep) : List RedStep :=
  match l with
  | [] => []
  | r :: t => { r with first := first } :: t

/-- The steps of a packet, one for each stack that it meets (R428, R431).
DEDUCED (log entry 44), unsafe. -/
def packetSteps (s : State) (v : CollView) (p : Packet) : List RedStep :=
  let parts := (packetParts v p).map fun q => ({ stepOf s v p (partRange v.desc q).1 with parts := [q] } : RedStep)
  let joined := (parts.map (·.stack)).dedup.filterMap fun k =>
    match parts.filter fun r => r.stack == k with
    | [] => none
    | r :: t => some { r with parts := (r :: t).flatMap (·.parts) }
  markFirst (p.addr == 0) (markLast (pktLast p || pktFailed p)
    (if pktFailed p then [{ stepOf s v p 0 with failed := true }] else joined))

/-- Every stack's queue of 256 steps has room (R428). -/
def stepsFit (s : State) (l : List RedStep) : Bool :=
  l.all fun r => decide ((s.redQ.filter fun q => q.stack == r.stack).length + (l.filter fun q => q.stack == r.stack).length ≤ 256)

/-- COLL_DUP of a contribution's first packet or step (R429, R503, R505). -/
def logDup (s : State) (ctx : Nat) (v : CollView) (chunk ordinal : Nat) (wake : BitVec 48) : State :=
  emit s (unitStack (stackOfVa s ctx (chunkVa v.desc chunk 0))) (some ctx) evCollDup
    (v.id * 2 ^ 16 + chunk) (v.gen.toNat * 2 ^ 32 + ordinal % 2 ^ 16) wake

/-- Another contribution of an ordinal than one with this tag has its bit in a chunk's bitmap (R429). -/
def begunOther (c : Chunk) (ordinal : Nat) (wake : BitVec 48) : Bool := c.begun.any fun e => e.1 == ordinal && e.2 != wake

/-- A contribution's packet that can belong to the use: a member's, to a chunk; to its home where it reduces. -/
def dataFits (s : State) (v : CollView) (p : Packet) : Bool :=
  (cRanks v.desc).contains p.srank && decide (fld p.opinfo 18 16 < cGpr v.desc ∧ pktChunk p < v.chunks.length) &&
    (cRedop v.desc == 0 || cHome v.desc (pktChunk p) == s.rank)

/-- Enters a contribution's packet in the reducers' queues; false: a queue is full (R423, R428, R429). A second contribution
of a member, and a broadcast to a terminal chunk, are discarded whole.
DEDUCED (log entry 44), unsafe. -/
def takeData (s : State) (p : Packet) : Bool × State :=
  match getView s p.ctx (pktId p) with
  | none => (true, s)
  | some v =>
    if viewLive v = false ∨ dataFits s v p = false then (true, s)
    else
      let u := if v.vst = .opened then (setView s p.ctx v.id .active p.wake).2 else s
      match v.chunks[pktChunk p]? with
      | none => (true, u)
      | some c =>
        if terminal c ∨ begunOther c (packetOrdinal v p) p.wake = true then
          (true, if p.addr = 0 then logDup u p.ctx v (pktChunk p) (packetOrdinal v p) p.wake else u)
        else
          let steps := packetSteps u v p
          if stepsFit u steps then (true, { u with redQ := u.redQ ++ steps }) else (false, s)

/-! ### Acknowledgements and completion -/

/-- A local contribution, named by its tag, has been acknowledged by one of its targets; it counts in ACKED once every target has (R430, R431).
DEDUCED (log entry 44), unsafe. -/
def ackChunk (c : Chunk) (of_ wake : BitVec 48) : Chunk :=
  match c.awaiting.find? fun e => e.1 == of_ with
  | none => { c with wake := wake }
  | some e =>
    let acked := if e.2 ≤ 1 then c.acked + 1 else c.acked
    let left := if e.2 ≤ 1 then c.awaiting.erase e else replaceIf (fun x => x.1 == of_) (fun x => (x.1, x.2 - 1)) c.awaiting
    { c with awaiting := left, acked := acked, wake := wake,
             status := if acked = c.sent ∧ c.status.toNat = 1 then 2 else c.status }

def ackLocal (s : State) (ctx id chunk : Nat) (of_ wake : BitVec 48) : State :=
  match getView s ctx id with
  | none => s
  | some v => if viewLive v then flushView (modView s ctx id fun v => modChunk v chunk fun c => ackChunk c of_ wake) ctx id else s

/-- The add acknowledgement to the contributing device (R429), with the contribution's tag in OPND.
DESIGN CHOICE (log entry 46), safe. -/
def sendAck (s : State) (r : RedStep) (tag : BitVec 48) : State :=
  if r.sender = s.rank then ackLocal s r.ctx r.id r.chunk r.wake tag
  else match getView s r.ctx r.id with
    | some v => sendColl s r.ctx r.id { collPkt s r.ctx v r.sender .ack r.chunk tag with opnd := r.wake.setWidth 128 }
    | none => s

/-- Bytes of a chunk at their places; each page has been checked. -/
def chunkBytes (s : State) (ctx : Nat) (d : List W64) (c : Nat) : List Byte :=
  let base := fld (chunkVa d c 0) 63 0
  (piecesOf base (cBytes d)).flatMap fun q =>
    match walk s ctx (vaOf (cBreach d) (BitVec.ofNat 64 q.1)) with
    | .leaf l => memGet s (l.pa + q.1 % 2 ^ l.bits) q.2
    | _ => toBytes q.2 0

/-- Notices of a chunk to one device: with data they go in packets of up to 4 KiB, the last one marked (R431). OPND holds
CONTRIB, FLAGS and the status; ADDR the offset of the data. -/
def noticePkts (s : State) (ctx : Nat) (v : CollView) (c : Nat) (ch : Chunk) (dst : BitVec 12) (tag : BitVec 48) : List Packet :=
  let p := { collPkt s ctx v dst .notice c tag with
    opnd := BitVec.ofNat 128 (ch.contrib.toNat + ch.flags.toNat * 2 ^ 16 + ch.status.toNat * 2 ^ 24) }
  if cDlv v.desc then
    let bs := chunkBytes s ctx v.desc c
    let n := ceilDiv bs.length 4096
    (List.range n).map fun i =>
      { p with addr := BitVec.ofNat 64 (4096 * i), payload := (bs.drop (4096 * i)).take 4096,
               opinfo := if i + 1 = n then BitVec.ofNat 32 (2 ^ 19) else 0 }
  else [{ p with opinfo := BitVec.ofNat 32 (2 ^ 19) }]

/-- CONTRIB has reached EXPECT at the home: the record is terminal, and the other devices are told (R431). -/
def completeChunk (s : State) (ctx id c : Nat) (tag : BitVec 48) : State :=
  match getView s ctx id with
  | none => s
  | some v =>
    match v.chunks[c]? with
    | none => s
    | some ch =>
      if ch.contrib.toNat < cExpect v.desc then s
      else
        let ch := { ch with status := if ch.error then 11 else 8 }
        let s := modView s ctx id fun v => modChunk v c fun _ => ch
        if cRedop v.desc = 0 then s
        else (othersOf s v).foldl (fun s r => (noticePkts s ctx v c ch r tag).foldl (fun s p => sendColl s ctx id p) s) s

/-- A contribution counts: its last step has been applied, and no other of it is queued (R429, R431); in CDONE at the chunk's home (R432). -/
def countContribution (s : State) (r : RedStep) (tag : BitVec 48) : State :=
  let f (c : Chunk) : Chunk :=
    { c with contrib := c.contrib + 1, added := c.added ++ [r.ordinal], ending := c.ending.erase r.ordinal, wake := r.wake,
             status := 3 }
  let s := modView s r.ctx r.id fun v =>
    let w := modChunk v r.chunk f
    if cHome v.desc r.chunk = s.rank then modMember_ w r.ordinal fun m => { m with cdone := m.cdone + 1 } else w
  let s := completeChunk s r.ctx r.id r.chunk tag
  sendAck (flushView s r.ctx r.id) r tag

/-! ### The stack reducers -/

/-- Identity of an operator in a result's bits (R429). -/
def collIdentity (op rtype : Nat) : Nat :=
  let w := if rtype = 2 then 64 else 32
  if rtype = 0 then (match op with | 1 => 2 ^ 31 | 2 => infBits fp32 true | _ => infBits fp32 false)
  else match op with
    | 2 => 2 ^ (w - 1)
    | 3 => 2 ^ (w - 1) - 1
    | 5 => 2 ^ w - 1
    | _ => 0

/-- maximumNumber and minimumNumber of exact values (R220). -/
def pickE (isMax : Bool) (a b : Ext) : Ext :=
  match isNanE a, isNanE b with
  | true, true => .nan
  | true, false => b
  | false, true => a
  | false, false => if isMax then (if ltNum a b then b else a) else (if ltNum b a then b else a)

/-- The exact value of a contribution's code with its scale word, and NV of a signalling NaN or of a NaN scale (R87, R90,
R429).
DEDUCED (log entry 45), unsafe. -/
def contribVal (e : FmtEntry) (code : Nat) (scale : Option (W32 × Nat)) : Ext × BitVec 6 :=
  let (x, snan) := decodeEnt e code
  match scale with
  | none => (x, flagIf snan flNV)
  | some (w, i) =>
    let sc := scaleOf w (entStep e) i
    let y := mulE sc x
    (y.1, flagIf (snan || y.2 || isNanE sc) flNV)

/-- One element of a combine: the new bits, and flags (R98, R429). -/
def combineElem (d : List W64) (e : FmtEntry) (acc code : Nat) (scale : Option (W32 × Nat)) : Nat × BitVec 6 :=
  let op := cRedop d
  if cRtype d = 0 then
    let (x, fl) := contribVal e code scale
    let a := decodeF fp32 acc
    let (y, fl2) := if op = 1 then (let r := addE false a x; (r.1, flagIf r.2 flNV)) else (pickE (op == 2) a x, 0)
    let r := roundF fp32 { rm := .rne, ftz := false, sat := false, infIn := isInfE y } y
    (encodeF fp32 r.val, fl ||| fl2 ||| r.fl ||| flagIf (fIsSnan fp32 acc) flNV)
  else
    let w := 8 * cRs d
    let a := sxNat w acc
    let x := sxNat w code
    (match op with
      | 1 => (acc + code) % 2 ^ w
      | 2 => wrapInt w (max a x)
      | 3 => wrapInt w (min a x)
      | 4 => acc ||| (code % 2 ^ w)
      | _ => acc &&& (code % 2 ^ w), 0)

/-- The elements of a part combined with the buffer: the new bytes, and flags. -/
def combinePart (s : State) (fmt : FmtEntry) (q : RedPart) (d : List W64) (c : Chunk) (pa : Nat) : List Byte × BitVec 6 :=
  let rs := cRs d
  let olds := wordsOf rs (memGet s pa (rs * q.codes.length))
  (q.codes.zip (List.range q.codes.length)).foldl (fun acc x =>
    let i := x.2
    let old := if c.touched.contains (q.elem + i) then olds.getD i 0 else collIdentity (cRedop d) (cRtype d)
    let scale := (q.scales[i]?).map fun w => (w, (q.elem + i) % 32)
    let (new, fl) := combineElem d fmt old x.1.toNat scale
    (acc.1 ++ toBytes rs new, acc.2 ||| fl)) ([], 0)

/-- A step belongs to the contribution of another. -/
def sameContribution (r q : RedStep) : Bool :=
  q.ctx == r.ctx && q.id == r.id && q.chunk == r.chunk && q.ordinal == r.ordinal && q.wake == r.wake

/-- This step ends its contribution's count once it is applied. -/
def endsContribution (s : State) (c : Chunk) (r : RedStep) : Bool :=
  (r.last || c.ending.contains r.ordinal) && ((s.redQ.filter (sameContribution r)).length == 1)

/-- The checks of every page of a range of the buffer (R430). -/
def checkRange (s : State) (ctx unit : Nat) (refused : Option Refused) (capt : Bool) (reach : BitVec 8) (off n : Nat) : DevRes × State :=
  (piecesOf off n).foldl (fun acc q =>
    match acc with
    | (.ok pa, s) =>
      (match devCheck s ctx unit refused (vaOf reach (BitVec.ofNat 64 q.1)) q.2 capt with
      | (.ok x, s) => (.ok (if q.1 = off then x else pa), s)
      | r => r)
    | _ => acc) (.ok 0, s)

/-- Removes the step at the head of a stack's queue. -/
def popStep (s : State) (stack : Nat) : State := { s with redQ := s.redQ.eraseP fun q => q.stack == stack }

/-- After a step has been applied: its contribution may count now, or waits for its other steps. -/
def settleStep (s : State) (r : RedStep) (ends : Bool) (tag : BitVec 48) : State :=
  if ends then countContribution s r tag
  else if r.last then
    modView s r.ctx r.id fun v => { v with chunks := modNth v.chunks r.chunk fun c => { c with ending := c.ending ++ [r.ordinal] } }
  else s

/-- The places of a step's parts, each page checked (R430). -/
def checkParts (s : State) (ctx unit : Nat) (refused : Option Refused) (capt : Bool) (v : CollView) (chunk : Nat) (l : List RedPart) :
    List Nat × DevRes × State :=
  let base := fld (chunkVa v.desc chunk 0) 63 0
  l.foldl (fun acc q =>
    match acc.2.1 with
    | .ok _ =>
      let (o, n) := partRange v.desc q
      (match checkRange acc.2.2 ctx unit refused capt (cBreach v.desc) (base + o) n with
      | (.ok pa, s) => (acc.1 ++ [pa], .ok pa, s)
      | r => (acc.1, r))
    | _ => acc) ([], .ok 0, s)

/-- A part's new bytes are stored, and its flags gathered (R429). -/
def storePart (r : RedStep) (v : CollView) (c : Chunk) (tag : BitVec 48) (acc : BitVec 6 × State) (q : RedPart × Nat) : BitVec 6 × State :=
  let (bs, fl) := if cRedop v.desc = 0 then (q.1.bytes, 0) else combinePart acc.2 (fmtEntry r.fmt) q.1 v.desc c q.2
  (acc.1 ||| fl, homeWrite acc.2 none q.2 bs tag)

/-- What a step leaves in its chunk besides the buffer: the bitmap bit of a first packet, FLAGS, the ERROR mark (R429). -/
def stepChunk (r : RedStep) (fl : BitVec 6) (c : Chunk) : Chunk :=
  let elems := r.parts.flatMap fun q => (List.range q.codes.length).map (q.elem + ·)
  { c with
    begun := if r.first && !(c.begun.any fun e => e.1 == r.ordinal) then c.begun ++ [(r.ordinal, r.wake)] else c.begun
    flags := c.flags ||| fl, error := c.error || r.failed
    touched := c.touched ++ elems.filter fun e => !c.touched.contains e }

/-- Applies a step to the buffer (R428-R431). A poisoned read of the buffer is a context fatal event; the spec gives no
FCAUSE for it, which is a free value.
DESIGN CHOICE (log entry 12), safe. -/
def applyStep (s : State) (r : RedStep) (v : CollView) (c : Chunk) : State :=
  let unit := unitStack r.stack
  let ends := endsContribution s c r
  let finishes := ends && cDlv v.desc && decide (cExpect v.desc ≤ c.contrib.toNat + 1)
  let base := fld (chunkVa v.desc r.chunk 0) 63 0
  let hold (s : State) (tag : W32) : State := { s with redQ := replaceIf (fun q => q == r) (fun q => { q with stall := some tag }) s.redQ }
  let check := if finishes then checkRange s r.ctx unit r.refused (viewCapt s v) (cBreach v.desc) base (cBytes v.desc)
    else (.ok 0, s)
  match check with
  | (.hold tag, s) => hold s tag
  | (.bad, s) => collFail (popStep s r.stack) r.ctx r.id cfWrite s.rank 0
  | (.ok _, s) =>
    match checkParts s r.ctx unit r.refused (viewCapt s v) v r.chunk r.parts with
    | (_, .hold tag, s) => hold s tag
    | (_, .bad, s) => collFail (popStep s r.stack) r.ctx r.id cfWrite s.rank 0
    | (pas, .ok _, s) =>
      let at_ := r.parts.zip pas
      if cRedop v.desc ≠ 0 ∧ (at_.any fun q => poisoned s q.2 (partRange v.desc q.1).2) = true then
        raiseCtxFatal (popStep (tickFree s) r.stack) r.ctx (fld (Config.freeWord s.free) 7 0)
      else
        let (tag, s) := takeTag (popStep s r.stack) unit
        let (fl, s) := at_.foldl (storePart r v c tag) (0, s)
        let s := modView s r.ctx r.id fun v =>
          let w := { v with chunks := modNth v.chunks r.chunk (stepChunk r fl) }
          if c.flags ||| fl = c.flags then w else mark w [r.chunk]
        settleStep (flushView s r.ctx r.id) r ends tag

/-- The tag of the contribution that has, or will have, an ordinal's bit in a chunk's bitmap (R429). -/
def acceptedTag (s : State) (c : Chunk) (r : RedStep) : BitVec 48 :=
  match c.begun.find? fun e => e.1 == r.ordinal with
  | some e => e.2
  | none =>
    match s.redQ.find? fun q => q.ctx == r.ctx && q.id == r.id && q.chunk == r.chunk && q.ordinal == r.ordinal with
    | some q => q.wake
    | none => r.wake

/-- The oldest step of a stack's queue is applied; one of a use that has ended is dropped, and so is one of a second contribution, which its
first step logs (R429). A record write of its view that a fault holds holds it (R430). -/
def reduceHead (s : State) (stack : Nat) : State :=
  match s.redQ.find? fun q => q.stack == stack with
  | none => s
  | some r =>
    if r.stall.isSome then s
    else match getView s r.ctx r.id with
    | none => popStep s stack
    | some v =>
      if v.stall.isSome then s
      else match v.chunks[r.chunk]? with
      | none => popStep s stack
      | some c =>
        if (viewLive v && v.gen == r.gen) = false then popStep s stack
        else if terminal c ∨ acceptedTag s c r ≠ r.wake then
          (if r.first then logDup (popStep s stack) r.ctx v r.chunk r.ordinal r.wake else popStep s stack)
        else applyStep s r v c

/-- The oldest step of a stack's queue waits on no fault. -/
def stepReady (s : State) (stack : Nat) : Bool :=
  match s.redQ.find? fun q => q.stack == stack with
  | some r => r.stall.isNone && (match getView s r.ctx r.id with | some v => v.stall.isNone | none => true)
  | none => false

/-! ### Packets -/

/-- A packet's GEN against its view's (R423): current, older, or newer. -/
def genCase (s : State) (p : Packet) : Option Bool :=
  let d := (pktGen p - ownGen s p.ctx (pktId p)).toNat
  if d = 0 then none else some (d < 2 ^ 15)

/-- A JOIN at a home (R425, R432). -/
def takeJoin (s : State) (p : Packet) (v : CollView) : State :=
  let desc := (wordsOf 8 p.payload).map (BitVec.ofNat 64)
  let midx := p.opnd.toNat % 8
  if desc ≠ v.desc ∨ (cRanks v.desc).contains p.srank = false ∨ cGpr v.desc ≤ midx then
    collFail s p.ctx v.id cfMismatch p.srank p.wake
  else
    flushView (modView s p.ctx v.id fun v => modMember_ v (cOrdinal v.desc p.srank midx) fun m =>
      { m with mst := 1, group := BitVec.ofNat 32 (p.opnd.toNat / 2 ^ 32), jstamp := now s, wake := p.wake }) p.ctx v.id

/-- Data of a completion notice lands (R431); a replayable fault that holds it stalls the view (R430). -/
def landData (s : State) (p : Packet) (v : CollView) : State :=
  if p.payload.isEmpty then s
  else
    let off := fld (chunkVa v.desc (pktChunk p) p.addr.toNat) 63 0
    match checkRange s p.ctx (viewUnit s p.ctx v) v.refused (viewCapt s v) (cBreach v.desc) off p.payload.length with
    | (.hold tag, s) => modView s p.ctx v.id fun v => { v with stall := some tag }
    | (.bad, s) => collFail (modView s p.ctx v.id fun v => { v with refused := none }) p.ctx v.id cfWrite s.rank 0
    | (.ok _, s) =>
      (piecesOf off p.payload.length).foldl (fun s q =>
        match walk s p.ctx (vaOf (cBreach v.desc) (BitVec.ofNat 64 q.1)) with
        | .leaf l => homeWrite s none (l.pa + q.1 % 2 ^ l.bits) ((p.payload.drop (q.1 - off)).take q.2) p.wake
        | _ => s) (modView s p.ctx v.id fun v => { v with refused := none })

/-- A completion notice (R431, R436): the first that arrives makes the record terminal. Its data lands first. -/
def takeNotice (s : State) (p : Packet) (v : CollView) : Bool × State :=
  match v.chunks[pktChunk p]? with
  | none => (true, s)
  | some c =>
    if terminal c then (true, s)
    else
      let s := landData s p v
      match getView s p.ctx v.id with
      | none => (true, s)
      | some w =>
        if w.stall.isSome then (false, s)
        else if viewLive w = false ∨ pktLast p = false then (true, s)
        else
          let x := p.opnd.toNat
          (true, flushView (modView s p.ctx v.id fun v => modChunk v (pktChunk p) fun c =>
            { c with contrib := BitVec.ofNat 16 x, flags := BitVec.ofNat 6 (x / 2 ^ 16), status := BitVec.ofNat 4 (x / 2 ^ 24),
                     wake := p.wake }) p.ctx v.id)

/-- Handles a packet of the current use; false: it must wait (R423, R428, R430). -/
def handlePkt (s : State) (p : Packet) : Bool × State :=
  match getView s p.ctx (pktId p) with
  | none => (true, s)
  | some v =>
    if p.type = .collCtl ∧ p.msg = .close then
      (true, settleDrain (modView s p.ctx v.id fun v => { v with closedBy := v.closedBy ++ [p.srank] }) p.ctx v.id p.wake)
    else if viewLive v = false then (true, s)
    else if v.stall.isSome ∧ laneOfPkt p ≠ .free then (false, s)
    else if p.type = .collData then takeData s p
    else match p.msg with
      | .join => (true, takeJoin s p v)
      | .ack => (true, ackLocal s p.ctx v.id (pktChunk p) (BitVec.ofNat 48 p.opnd.toNat) p.wake)
      | .notice => takeNotice s p v
      | .fail => (true, collFail s p.ctx v.id cfNotice p.srank p.wake)
      | _ => (true, s)

/-- Keeps a packet that must wait; one of the current use, and one of a newer use beyond the 256 that a context holds, keep their slots
(R423, R428). -/
def holdPkt (s : State) (port : Nat) (p : Packet) (newer : Bool) : State :=
  match getCtx s p.ctx with
  | none => s
  | some c =>
    let full := newer && decide (256 ≤ (c.held.filter fun h => !h.2.1).length)
    let kept := full || !newer
    let s := if kept then s else freeKept s port p
    let s := if full ∧ c.holdLogged = false then
        emit s (unitPort port) (some p.ctx) evCollHold (pktId p * 2 ^ 16 + (pktGen p).toNat) p.srank.toNat p.wake else s
    modCtx s p.ctx fun c => { c with held := c.held ++ [(port, kept, p)], holdLogged := c.holdLogged || full }

/-- What orders a packet among those of its use: nothing, or those of its kind (R423, R441). -/
def pktKey (p : Packet) : Nat × BitVec 16 × PktLane := (pktId p, pktGen p, laneOfPkt p)

/-- A packet that is to be handled before is already held. -/
def queuedBefore (s : State) (p : Packet) : Bool :=
  laneOfPkt p != .free && (match getCtx s p.ctx with
    | some c => c.held.any fun h => pktKey h.2.2 == pktKey p
    | none => false)

/-- The context takes packets of collectives. -/
def ctxTakes (s : State) (ctx : Nat) : Bool :=
  match getCtx s ctx with
  | some c => c.cst == .created || c.cst == .active || c.cst == .switchedOut
  | none => false

/-- A packet of the current use is handled, or waits behind what is held (R423). -/
def takePkt (s : State) (port : Nat) (p : Packet) : State :=
  if queuedBefore s p then holdPkt s port p false
  else
    let (done, s) := handlePkt s p
    if done then freeKept s port p else holdPkt s port p false

/-- COLL_STALE (R423, R503). -/
def logStale (s : State) (port : Nat) (p : Packet) : State :=
  emit s (unitPort port) (some p.ctx) evCollStale (pktId p * 2 ^ 16 + (pktGen p).toNat) (p.srank.toNat + 2 ^ 16) p.wake

/-- A collective packet by its GEN: handled, held, or discarded and logged (R423). -/
def gatePkt (s : State) (port : Nat) (p : Packet) : State :=
  if ctxTakes s p.ctx = false then freeKept s port p
  else match genCase s p with
  | some true => holdPkt s port p true
  | some false => logStale (freeKept s port p) port p
  | none => takePkt s port p

/-- One held packet is tried again; what stays blocked is kept beside the state. -/
def tryHeld (ctx : Nat) (acc : List (Nat × BitVec 16 × PktLane) × State) (h : Nat × Bool × Packet) :
    List (Nat × BitVec 16 × PktLane) × State :=
  let (blocked, s) := acc
  let p := h.2.2
  let still := match getCtx s ctx with | some c => c.held.any fun e => e.2.2 == p && e.1 == h.1 | none => false
  let now_ := ((getCtx s ctx).bind fun c => c.held.find? fun e => e.2.2 == p && e.1 == h.1).getD h
  if still = false ∨ blocked.contains (pktKey p) = true then acc
  else match genCase s p with
  | some true => acc
  | some false => (blocked, logStale (letGo s ctx now_) h.1 p)
  | none =>
    let (done, s) := handlePkt s p
    let now_ := ((getCtx s ctx).bind fun c => c.held.find? fun e => e.2.2 == p && e.1 == h.1)
    if done then (blocked, match now_ with | some e => letGo s ctx e | none => s) else (blocked ++ [pktKey p], s)

/-- Held packets that can be handled now are handled, in arrival order (R423). -/
def releaseHeld (s : State) (ctx : Nat) : State :=
  match getCtx s ctx with
  | none => s
  | some c =>
    let s := (c.held.foldl (tryHeld ctx) ([], s)).2
    modCtx s ctx fun c => if c.held.length ≤ 256 then { c with holdLogged := false } else c

/-- Held packets of every context are tried again: a queue has room (R428). -/
def releaseAll (s : State) : State := s.contexts.foldl (fun s c => releaseHeld s c.num) s

/-- The delivery acknowledgement of a packet: it carries this device's GEN, and the packet's in OPND (R422, R504).
DESIGN CHOICE (log entry 46), safe. -/
def confirmPkt (s : State) (port : Nat) (p : Packet) : State :=
  let (tag, s) := takeTag s (unitPort port)
  sendPacket s { pkt0 s p.srank .collCtl 3 p.ctx tag with
    aux := setFld p.aux 31 16 (ownGen s p.ctx (pktId p)).toNat, msg := .confirm, opnd := (pktGen p).setWidth 128 }

/-- A collective packet arrives (R423, R504): it is confirmed, whatever becomes of it, and then handled by its GEN. -/
def arriveColl (s : State) (port : Nat) (p : Packet) : State :=
  match receive s port p with
  | (false, s) => s
  | (true, s) => confirmPkt (gatePkt s port p) port p

/-- COLLDATA_RECEIVE (R423, R428). -/
def execColldataReceive (port : Nat) (p : Packet) (s : State) : Host.Outcome State Fault Refusal :=
  .next (arriveColl s port { p with type := .collData })

/-- JOIN_RECEIVE (R425). -/
def execJoinReceive (port : Nat) (p : Packet) (s : State) : Host.Outcome State Fault Refusal :=
  .next (arriveColl s port { p with type := .collCtl, msg := .join })

/-- ADD_ACK_RECEIVE (R430, R431). -/
def execAddAckReceive (port : Nat) (p : Packet) (s : State) : Host.Outcome State Fault Refusal :=
  .next (arriveColl s port { p with type := .collCtl, msg := .ack })

/-- COMPLETION_NOTICE_RECEIVE (R431). -/
def execCompletionNoticeReceive (port : Nat) (p : Packet) (s : State) : Host.Outcome State Fault Refusal :=
  .next (arriveColl s port { p with type := .collCtl, msg := .notice })

/-- FAIL_NOTICE_RECEIVE (R434). -/
def execFailNoticeReceive (port : Nat) (p : Packet) (s : State) : Host.Outcome State Fault Refusal :=
  .next (arriveColl s port { p with type := .collCtl, msg := .fail })

/-- CLOSE_NOTICE_RECEIVE (R504). -/
def execCloseNoticeReceive (port : Nat) (p : Packet) (s : State) : Host.Outcome State Fault Refusal :=
  .next (arriveColl s port { p with type := .collCtl, msg := .close })

/-- DELIVERY_ACK_RECEIVE (R504): one packet sent to that device in the use is confirmed. -/
def execDeliveryAckReceive (port : Nat) (p : Packet) (s : State) : Host.Outcome State Fault Refusal :=
  match receive s port p with
  | (false, s) => .next s
  | (true, s) =>
    .next (match getView s p.ctx (pktId p) with
      | some v =>
        if v.gen = BitVec.ofNat 16 p.opnd.toNat then
          settleDrain (modView s p.ctx v.id fun v => { v with unconf := v.unconf.erase p.srank }) p.ctx v.id p.wake
        else s
      | none => s)

/-- CLOSE_NOTICE_SEND (R504): every packet that this device sent in the use is confirmed, or its device is dead. -/
def closeReady (v : CollView) : Bool :=
  v.vst == .draining && !v.closeSent && v.unconf.all fun r => v.dead.contains r

def execCloseNoticeSend (ctx id : Nat) (s : State) : Host.Outcome State Fault Refusal :=
  .next (match getView s ctx id with
    | some v => if closeReady v then settleDrain (sendCloses s ctx id) ctx id 0 else s
    | none => s)

def dueClose (s : State) : Option Instr :=
  s.contexts.findSome? fun c => (c.views.find? closeReady).map fun v => .closeNoticeSend c.num v.id

/-- REDUCTION_STEP (R428, R429): room in a queue may let held packets in. -/
def execReductionStep (stack : Nat) (s : State) : Host.Outcome State Fault Refusal :=
  .next (match s.redQ.find? fun q => q.stack == stack with
    | some _ => releaseAll (reduceHead s stack)
    | none => s)

/-- A stack whose oldest step waits on nothing. -/
def dueReduction (s : State) : Option Instr := ((List.range 12).find? (stepReady s)).map .reductionStep

/-! ### Liveness and the watchdog -/

/-- A probe is answered, with this device's GEN and the probe's in OPND (R422, R434).
DESIGN CHOICE (log entry 46), safe. -/
def answerProbe (s : State) (port : Nat) (p : Packet) : State :=
  if ctxTakes s p.ctx then
    let (tag, s) := takeTag s (unitPort port)
    sendColl s p.ctx (pktId p) { pkt0 s p.srank .collCtl 3 p.ctx tag with
      aux := setFld p.aux 31 16 (ownGen s p.ctx (pktId p)).toNat, msg := .probeAnswer, opnd := (pktGen p).setWidth 128 }
  else s

/-- PROBE_RECEIVE (R434, R504): a probe is answered; an answer renews its device's liveness; both are confirmed. -/
def execProbeReceive (port : Nat) (p : Packet) (s : State) : Host.Outcome State Fault Refusal :=
  match receive s port p with
  | (false, s) => .next s
  | (true, s) =>
    let s := match p.msg with
      | .probe => answerProbe s port p
      | .probeAnswer =>
        (match getView s p.ctx (pktId p) with
        | some v =>
          if v.gen = BitVec.ofNat 16 p.opnd.toNat then
            modView s p.ctx v.id fun v => { v with heard := upsert (fun e => e.1 == p.srank) (p.srank, now s) v.heard }
          else s
        | none => s)
      | _ => s
    .next (confirmPkt s port p)

/-- A probe is due: BUDGET / 4 has passed since the last (R434). -/
def probeDue (s : State) (v : CollView) : Bool :=
  viewLive v && cBudget v.desc != 0 && decide (v.probed.toNat + cBudget v.desc / 4 ≤ (now s).toNat)

/-- LIVENESS_PROBE (R434). -/
def execLivenessProbe (ctx id : Nat) (s : State) : Host.Outcome State Fault Refusal :=
  .next (match getView s ctx id with
    | some v =>
      if probeDue s v then
        let (tag, s) := takeTag (modView s ctx id fun v => { v with probed := now s }) (viewUnit s ctx v)
        (othersOf s v).foldl (fun s r => sendColl s ctx id (collPkt s ctx v r .probe 0 tag)) s
      else s
    | none => s)

def dueProbe (s : State) : Option Instr :=
  s.contexts.findSome? fun c => (c.views.find? (probeDue s)).map fun v => .livenessProbe c.num v.id

/-- A member device that is to be declared dead: it has answered no probe for BUDGET / 2, or no route reaches it (R434). -/
def deadNow (s : State) (v : CollView) (r : BitVec 12) : Bool :=
  r != s.rank && !v.dead.contains r && (cRanks v.desc).contains r && (viewLive v || v.vst == .draining || v.vst == .failed) &&
    (!reachable s r || (cBudget v.desc != 0 && viewLive v &&
      (match v.heard.find? fun e => e.1 == r with
      | some e => decide (e.2.toNat + cBudget v.desc / 2 ≤ (now s).toNat)
      | none => false)))

/-- PROBE_TIMEOUT (R434): its table entries become DEAD and the view FAILED. -/
def execProbeTimeout (ctx id : Nat) (rank : BitVec 12) (s : State) : Host.Outcome State Fault Refusal :=
  .next (match getView s ctx id with
    | some v =>
      if deadNow s v rank then
        let ords := (v.members.filter fun m => m.rank == rank).map (·.ordinal)
        let s := modView s ctx id fun v =>
          ords.foldl (fun v o => modMember_ v o fun m => { m with mst := 3 }) { v with dead := v.dead ++ [rank] }
        settleDrain (flushView (collFail s ctx id cfDead rank 0) ctx id) ctx id 0
      else s
    | none => s)

def dueDead (s : State) : Option Instr :=
  s.contexts.findSome? fun c => c.views.findSome? fun v =>
    ((othersOf s v).find? (deadNow s v)).map fun r => .probeTimeout c.num v.id r

/-- The parties that chunks homed here still await, in the watchdog's order: expected time, not joined, rank, group, chunk,
ordinal (R437). -/
def lateKeys (s : State) (v : CollView) : List (List Nat) :=
  ((List.range v.chunks.length).filter fun c => cHome v.desc c == s.rank).flatMap fun c =>
    match v.chunks[c]? with
    | none => []
    | some ch =>
      if terminal ch then []
      else (v.members.filter fun m => !ch.added.contains m.ordinal).map fun m =>
        let joined := m.mst != 0
        [(if joined then m.jstamp.toNat else v.opened.toNat) + cBudget v.desc, (if joined then 0 else 1), m.rank.toNat,
         m.group.toNat, c, m.ordinal]

/-- Lexicographic order of keys. -/
def lexLt (a b : List Nat) : Bool :=
  match a, b with
  | x :: r, y :: t => decide (x < y) || (x == y && lexLt r t)
  | _, _ => false

/-- The party that a COLL_LATE names now (R437). -/
def latest (s : State) (v : CollView) : Option (List Nat) :=
  if cBudget v.desc = 0 ∨ v.lateLogged = true ∨ viewLive v = false then none
  else
    match (lateKeys s v).foldl (fun (m : Option (List Nat)) k => match m with | none => some k | some x => some (if lexLt k x then k else x)) none with
    | some k => if k.headD 0 ≤ (now s).toNat then some k else none
    | none => none

/-- COLL_LATE's record (R437, R491). -/
def logCollLate (s : State) (ctx : Nat) (v : CollView) (k : List Nat) : State :=
  let c := k.getD 4 0
  match v.members[k.getD 5 0]? with
  | none => s
  | some m =>
    emit (modView s ctx v.id fun v => { v with lateLogged := true }) (unitStack (stackOfVa s ctx (chunkVa v.desc c 0))) (some ctx)
      evCollLate (v.id * 2 ^ 16 + c) (m.mst.toNat * 2 ^ 46 + m.rank.toNat * 2 ^ 32 + m.group.toNat) m.wake

def dueCollLate (s : State) : Option Instr :=
  s.contexts.findSome? fun c => (c.views.find? fun v => (latest s v).isSome).map fun v => .collLate c.num v.id

/-! ### The instructions -/

/-- COLLOPEN at a pilot (R425); the read of a poisoned format entry is fatal to the context (R103). One that joins logs COLL_STATE too, and
its JOIN carries that record's tag (R491). -/
def collopenOne (v : View) (s : State) : State :=
  let d := blockOf v 8
  let id := cId d
  let ctx := v.g.ctx
  if cRtype d = 0 ∧ formatPoisoned s ctx (cFmt d) = true then raiseCtxFatal (retryAt s v) ctx fcFormat
  else
    let st := openStatus s v.g d
    let give (s : State) : State := giveD s v ((ownGen s ctx id).toNat * 2 ^ 16 + st)
    if 1 < st then give s
    else match recordArea s v d with
    | (false, s) => s
    | (true, s) =>
      let old := (getView s ctx id).getD (viewFresh id)
      let s := if st = 0 then putView s ctx (viewOpened s old d) else s
      let (tag, s) := setView s ctx id (if st = 0 then .opened else old.vst) 0
      let s := flushView (joinUse s v.g id (cMidx d) d tag) ctx id
      give (if st = 0 then releaseHeld s ctx else s)

/-- COLLOPEN (R424, R425). -/
def execCollopen (f : Fields) (s : State) : Host.Outcome State Fault Refusal := issueEach f s collopenOne

/-- COLLCLOSE (R424, R426). -/
def execCollclose (f : Fields) (s : State) : Host.Outcome State Fault Refusal :=
  issueEach f s fun v s =>
    let (st, s) := closeMember s v.g.ctx (readB v 32 % 1024) v.g.gid
    giveD s v st

/-! ### The contribution of a TCOPY -/

/-- Targets of a contribution: GRID, or the devices of RMASK in its row (R427). -/
def copyTargets (w : W64) : List (BitVec 12) :=
  let yz := fld w 43 36
  if fld w 63 48 = 0 then [BitVec.ofNat 12 (fld w 47 36)]
  else ((List.range 16).filter fun i => bit1 w (48 + i)).map fun i => BitVec.ofNat 12 (i * 256 + yz)

/-- The chunk that a TCOPY's destination names. -/
def copyChunk (d : List W64) (dst : W64) : Option Nat :=
  let o := (dst - dw d 0).toNat
  if cBytes d ≠ 0 ∧ o % cBytes d = 0 ∧ o / cBytes d < cChunks d then some (o / cBytes d) else none

/-- A rejection by a relation of the fields of several block registers, the highest of which is i, or by one of them alone (R374). -/
def byRelation (st i : Nat) : Option (Nat × Nat) := some (st, 0x80 + i)
def byField (st i : Nat) : Option (Nat × Nat) := some (st, i)

/-- The checks that COLL adds, in R427's order, up to the last: status and detail of the first that fails. A field that is held against the
view, which CID in T6 names, or against another field takes part in a relation; the rest fail alone.
DESIGN CHOICE (log entry 43), unsafe. -/
def collChecks (s : State) (g : Group) (x : CopyBlk) : Option (Nat × Nat) :=
  let t (i : Nat) : W64 := br x.t i
  let w := t 7
  let view := getView s g.ctx (fld (t 6) 25 16)
  let d := match view with | some v => v.desc | none => []
  let member := match view with | some v => (localMembers v).any fun m => m.gid == some g.gid | none => false
  let tg := copyTargets w
  if x.gather then byField stBadparam 7
  else if x.dkind ≠ 0 then byField stBadparam 7
  else if t 4 ≠ 0 then byField stBadparam 4
  else if fld (t 5) 63 32 ≠ 0 then byField stBadparam 5
  else if fld w 19 17 ≠ 5 then byField stBadparam 7
  else if view.isSome = true ∧ d ≠ [] ∧ fld (t 6) 15 8 ≠ (cBreach d).toNat then byRelation stBadparam 6
  else match view with
  | none => some (13, 0)
  | some v =>
    if v.vst = .failed then some (14, 0)
    else if viewLive v = false ∨ member = false then some (13, 0)
    else match copyChunk d (t 1) with
    | none => byRelation stBadparam 6
    | some c =>
      if fld w 35 32 ≠ cRedop d then byRelation stBadparam 7
      else if cRedop d ≠ 0 ∧ (fld w 63 48 ≠ 0 ∨ tg ≠ [cHome d c]) then byRelation stBadparam 7
      else if cRedop d = 0 ∧ ((fld w 63 48 ≠ 0 ∧ fld w 47 44 ≠ 0) ∨ (tg.any fun r => !(cRanks d).contains r) = true) then
        byRelation stBadparam 7
      else none

/-- The descriptor of the collective that a TCOPY contributes to. -/
def copyDesc (s : State) (g : Group) (x : CopyBlk) : List W64 :=
  match getView s g.ctx (fld (br x.t 6) 25 16) with | some v => v.desc | none => []

/-- The last of the checks: the bytes of the shape in T2 and T3 are the contribution's, whose format must still be one that converts; its
entry may have been rewritten since COLLOPEN (R86, R375, R427).
DESIGN CHOICE (log entry 43), unsafe. -/
def collSize (s : State) (g : Group) (x : CopyBlk) : Option (Nat × Nat) :=
  let d := copyDesc s g x
  if cRedop d ≠ 0 ∧ cRtype d = 0 ∧ collFmtOk (collEnt s g.ctx d) = false then byRelation stBadfmt 6
  else if copyBytes x ≠ contribBytes s g.ctx d then byRelation stBadshape 7 else none

/-- The word of the format entry that a contribution is issued with, kept beside its block (R86). -/
def contribFmt (s : State) (g : Group) (x : CopyBlk) : W64 := BitVec.ofNat 64 (formatWord s g.ctx (cFmt (copyDesc s g x))).toNat

/-- The packed source bytes, as far as they can be read, and what stopped the reading (R397, R427). -/
def collSource (s : State) (g : Group) (x : CopyBlk) : (List Byte × Option EStop) × State :=
  let h := (getGroup s g.gid).getD g
  let src := spaceOf h x.skind (BitVec.ofNat 8 (fld (br x.t 6) 7 0)) 0 (br x.t 0) false
  let steps := copySteps x
  (steps.zip (List.range steps.length)).foldl (fun acc e =>
    match acc.1.2 with
    | some _ => acc
    | none =>
      match copySource acc.2 g x src e.2 e.1 with
      | (.ok bs, s) => ((acc.1.1 ++ bs, none), s)
      | (.error er, s) => ((acc.1.1, some er), s)) (([], none), s)

/-- The stream cut into packets' ADDR, OPND and payload (R427): whole blocks with their scale words under CGEO 1, else
4 KiB. -/
def cutStream (e : FmtEntry) (d : List W64) (bs : List Byte) : List (Nat × Nat × List Byte) :=
  if cRedop d ≠ 0 ∧ cRtype d = 0 ∧ cGeo d = 1 then
    let w := entW e
    let per := 4096 / (4 * w + 4)
    let blocks := cElems d / 32
    let codes := 4 * ceilDiv (rowBytes e (cElems d)) 4
    (List.range (ceilDiv blocks per)).map fun i =>
      let n := min per (blocks - i * per)
      (32 * (i * per), 0, ((bs.drop (i * per * 4 * w)).take (n * 4 * w)) ++ ((bs.drop (codes + 4 * (i * per))).take (4 * n)))
  else
    (List.range (ceilDiv bs.length 4096)).map fun i =>
      (4096 * i, if i = 0 then 0 else (bs.getD (4096 * i - 1) 0).toNat, (bs.drop (4096 * i)).take 4096)

/-- The packets of a contribution to one target. A failed one ends with its marker.
DESIGN CHOICE (log entry 46), safe. -/
def contribPkts (s : State) (ctx : Nat) (v : CollView) (c midx : Nat) (dst : BitVec 12) (fmt : W32) (bs : List Byte) (failed : Bool)
    (tag : BitVec 48) : List Packet :=
  let p := { collPkt s ctx v dst .join c tag with type := .collData, vc := 2 }
  let cut := cutStream (fmtEntry fmt) v.desc bs
  let word := fmt.toNat * 2 ^ 32
  let cut := if failed then (if cGeo v.desc = 1 then [] else cut.filter fun e => decide (e.2.2.length = 4096)) else cut
  let n := cut.length
  let body := (cut.zip (List.range n)).map fun e =>
    { p with addr := BitVec.ofNat 64 e.1.1, opnd := BitVec.ofNat 128 (e.1.2.1 + word), payload := e.1.2.2,
             opinfo := BitVec.ofNat 32 (midx * 2 ^ 16 + (if e.2 + 1 = n ∧ failed = false then 2 ^ 19 else 0)) }
  if failed then body ++ [{ p with addr := BitVec.ofNat 64 (4096 * n), opinfo := BitVec.ofNat 32 (midx * 2 ^ 16 + 2 ^ 19 + 2 ^ 20) }]
  else body

/-- Hands a packet of a contribution on: this device serves itself without a link (R427). -/
def handData (ctx id : Nat) (s : State) (p : Packet) : State :=
  if p.drank = s.rank then
    takePkt s 18 p
  else sendColl s ctx id p

/-- A TCOPY with COLL as a whole (R427): gives the failure that ends it, if any. -/
def runContribution (s : State) (g : Group) (blk : List W64) : ERes (Option EStop) :=
  let x := copyBlk blk
  let id := fld (br blk 6) 25 16
  match getView s g.ctx id with
  | none => (.error (.fail 14 0 0), s)
  | some v =>
    match (localMembers v).find? fun m => m.gid == some g.gid, copyChunk v.desc (br blk 1) with
    | some m, some c =>
      if viewLive v = false then (.error (.fail 14 0 0), s)
      else match collSource s g x with
      | ((_, some (.stall k l va a)), s) => (.error (.stall k l va a), s)
      | ((_, some .capture), s) => (.error .capture, s)
      | ((_, some .queueFull), s) => (.error .queueFull, s)
      | ((_, some (.fatal f)), s) => (.error (.fatal f), s)
      | ((bs, er), s) =>
        let tg := copyTargets (br blk 7)
        let s := if v.vst = .opened then (setView s g.ctx id .active 0).2 else s
        let (tag, s) := takeTag s (unitEngine (engCore g) .copy)
        let s := modView s g.ctx id fun v =>
          modChunk { v with sentBy := if v.sentBy.contains g.gid then v.sentBy else v.sentBy ++ [g.gid] } c fun ch =>
            { ch with sent := ch.sent + 1, awaiting := ch.awaiting ++ [(tag, tg.length)], wake := tag,
                      status := if ch.status.toNat = 2 ∨ ch.status.toNat = 3 ∨ 8 ≤ ch.status.toNat then ch.status else 1 }
        let s := flushView s g.ctx id
        match getView s g.ctx id with
        | some w =>
          if viewLive w = false then (.error (.fail 14 0 0), s)
          else
            (.ok er, tg.foldl (fun s r => (contribPkts s g.ctx w c m.midx r ((br blk 8).setWidth 32) bs er.isSome tag).foldl (handData g.ctx id) s) s)
        | none => (.error (.fail 14 0 0), s)
    | _, _ => (.error (.fail 14 0 0), s)

end Sys2Proof.Machine
end

