-- ==== Sys2Proof/Machine/Engine.lean ====
section
/-! DEFINITION. TCOPY, the firing and retirement of engine operations, and the resumption of what waits on a replayable
fault (R264, R376, R385, R396, R399, R409). -/

namespace Sys2Proof.Machine

open Sys2Proof

/-- TCOPY (R396, R427): the checks that COLL adds follow the others. -/
def execTcopy (f : Fields) (s : State) : Host.Outcome State Fault Refusal :=
  issueEach f s fun v s =>
    let blk := blockOf v 8
    let x := copyBlk blk
    let chans := kindChan x.skind (br blk 0) ++ kindChan x.dkind (br blk 1)
    let base := copyChecks v.g x
    let clear := (chans.all fun c => (chanCfg v.g c).isSome) && (firstReject base).isNone
    if x.coll = false ∨ clear = false then engIssue v s .copy 0x1E8 blk [] chans base
    else match collChecks s v.g x with
    | some (st, det) => giveD s v (rejToken .copy st det)
    | none =>
      if collPoisoned s v.g.ctx (copyDesc s v.g x) then raiseCtxFatal (retryAt s v) v.g.ctx fcFormat
      else match collSize s v.g x with
      | some (st, det) => giveD s v (rejToken .copy st det)
      | none => engIssue v s .copy 0x1E8 (blk ++ [contribFmt s v.g x]) [] chans base

/-! ### What an operation touches -/

/-- Completion word of an operation, as an arrival word where it has one, and its byte count (R379). -/
def compOf (s : State) (g : Group) (o : EngineOp) : Completion :=
  let p (i : Nat) : W64 := br o.blk i
  let (arrive, bytes) := match o.op.toNat with
    | 0x1E0 | 0x1E1 => let x := mmaBlk o.blk; (compArrive (p 6), x.m * x.n * 4)
    | 0x1E5 => let x := accBlk o.blk; (compArrive (p 2), x.m * x.ld + 4)
    | 0x1E6 => let x := accBlk o.blk; (compArrive (p 2), x.m * x.ld)
    | 0x1E2 => let x := spzBlk o.blk; (compArrive (p 3), spzBytes (tableOf s g x.fmt) x)
    | 0x1E8 => (if bit1 (p 7) 16 then some (fld (p 6) 63 32) else none, copyBytes (copyBlk o.blk))
    | 0x1EB => let x := scanBlk o.blk; (compArrive (p 6), outRows x * bRow x)
    | _ => (none, 0)
  { arrive := arrive, bytes := bytes, ins := (opChans o).1, outs := (opChans o).2 }

/-- The scratch ranges of an operation, its arrival word among them (R379). -/
def opRanges (s : State) (g : Group) (o : EngineOp) : List BankRange :=
  (match o.op.toNat with
    | 0x1E0 => mmaRanges (tableOf s g) false (mmaBlk o.blk)
    | 0x1E1 => mmaRanges (tableOf s g) true (mmaBlk o.blk)
    | 0x1E2 => spzRanges (tableOf s g (spzBlk o.blk).fmt) (spzBlk o.blk)
    | 0x1E5 => accRanges (tableOf s g) true (accBlk o.blk)
    | 0x1E6 => accRanges (tableOf s g) false (accBlk o.blk)
    | 0x1E8 => copyRanges (copyBlk o.blk)
    | 0x1EB => scanRanges (scanBlk o.blk)
    | _ => []) ++
    match (compOf s g o).arrive with | some a => rangeIf true 0 a 8 | none => []

/-- An operation reads or writes a bank: in a range, or in a channel that it names. -/
def opBank (s : State) (g : Group) (o : EngineOp) (i : Nat) : Bool :=
  ((opRanges s g o).any fun r => decide (r.2.1 < (98304 * (i + 1) : Nat) ∧ (98304 * i : Nat) < r.2.2)) ||
    ((opChans o).1 ++ (opChans o).2).any fun c =>
      match chanCfg g c with
      | some cfg => decide (chanFirst cfg ≤ i ∧ i < chanFirst cfg + chanBanks cfg)
      | none => false

/-! ### Firing -/

/-- The channels of an operation have their slots (R385). -/
def chansReady (g : Group) (o : EngineOp) : Bool := (opChans o).1.all (chanFull g) && (opChans o).2.all (chanFree g)

/-- The first operation of a group on an engine changes. -/
def modHead (s : State) (gid : Nat) (e : Engine) (f : EngineOp → EngineOp) : State :=
  match headOp s gid e with
  | none => s
  | some o => { s with engineQ := s.engineQ.map fun x => if x == o then f x else x }

/-- A BANKSW of the group's pilot holds what an operation would begin on its banks (R286). -/
def bankHeld (s : State) (g : Group) (o : EngineOp) : Bool :=
  match g.pilot.run with | .stalled (.bankSwitch banks) => banks.any (opBank s g o) | _ => false

/-- Starts the first operation of a group on an engine, where its fire condition holds and no BANKSW holds it (R286, R385, R409,
R411). -/
def fireOp (s : State) (gid : Nat) (e : Engine) : Option State :=
  match getGroup s gid, headOp s gid e with
  | some g, some o =>
    let go (s : State) (c : Option (Bool × List W64)) : State := modHead s gid e fun o => { o with started := true, carry := c }
    if o.started ∨ o.op = 0x1E4 ∨ opsRun s g = false ∨ bankHeld s g o = true ∨ chansReady g o = false then none
    else if o.op = 0x1EB then (startScan s g o).map fun r => go (useConvoy r.2 g.kid) r.1
    else if o.op = 0x1EE then (startBar s g).map fun s => go (useConvoy s g.kid) none
    else some (go s none)
  | _, _ => none

/-- OPERATION_FIRE (R385). -/
def execOperationFire (gid : Nat) (eng : Engine) (s : State) : Host.Outcome State Fault Refusal :=
  .next ((fireOp s gid eng).getD s)

/-- A group and engine whose first operation can start. -/
def dueFire (s : State) : Option Instr :=
  s.groups.findSome? fun g => ([.matrix, .copy, .reckoner] : List Engine).findSome? fun e =>
    (fireOp s g.gid e).map fun _ => .operationFire g.gid e

/-! ### Bank switching -/

/-- BANKSW (R286). -/
def switchBanks (f : Fields) (v : View) (s : State) : State :=
  let mask := readB v 32
  let m := match sb f 1 0 with | 0 => BankMode.cache | 1 => .scratch | _ => .fifo
  let banks := bankList v.g mask
  let ctl := match (kernelOf v).bind (·.desc) with | some d => bit1 d.kflags 3 | none => false
  let status (x : Nat) (s : State) : State := applyPend s v { effNone with writes := writesD v 64 x } 0
  if ctl = false then signalTrap s v causeBankmode 0 4
  else if mask / 2 ^ v.g.modes.length ≠ 0 then signalTrap s v causeBankmode 0 5
  else if banks.any (fun i => v.g.modes.getD i .scratch == .fifo && chanBank v.g i && m != .fifo) then status 1 s
  else if ownQueued s v || (s.engineQ.any fun o => o.gid == v.g.gid && o.started && banks.any (opBank s v.g o)) ||
      (v.g.stq.any fun e => e.ops.any fun o => o.scratch && banks.contains (o.addr / 98304)) then stallAt s v (.bankSwitch banks)
  else
    let s := if banks.any fun i => v.g.modes.getD i .scratch == .cache then
        v.g.cores.foldl (fun s c => writeBack s c fun _ => true) s else s
    let (tag, s) := wakeTagOf s v.g.gid (unitOf v.g v.who) fun g _ t => banks.any fun i => leavesScratch g m i && awaitsBank i t
    status 0 (modGroup s v.g.gid fun g => banks.foldl (fun g i => switchBank g i m tag) g)

/-- BANKSW (R286). -/
def execBanksw (f : Fields) (s : State) : Host.Outcome State Fault Refusal := issueEach f s (switchBanks f)

/-! ### Retirement -/

/-- An operation other than SCAN and CARRYBAR as a whole: its flags; its effects have been performed where it ends well.
DESIGN CHOICE (log entry 17), unsafe. -/
def runOp (s : State) (g : Group) (o : EngineOp) : ERes (BitVec 6) :=
  match o.op.toNat with
  | 0x1E0 | 0x1E1 => runMma s g o.blk
  | 0x1E2 => runMspz s g o.blk
  | 0x1E5 => runAccst s g o.blk
  | 0x1E6 => runAccld s g o.blk
  | _ =>
    if (copyBlk o.blk).coll then
      eThen (runContribution s g o.blk) fun e s => match e with | some e => (.error e, s) | none => (.ok 0, s)
    else runCopy s g o.blk

/-- What an operation that stops does next: it fails, or waits for its fault or capture copy, or its context fails
(R262, R264, R275, R376). `before` is done by one that fails, which has raised the flags. -/
def stopOp (s : State) (g : Group) (o : EngineOp) (e : EStop) (fl : BitVec 6) (before : State → State) : State :=
  let c := compOf s g o
  let wait (s : State) (tag : W32) : State := modHead s g.gid o.eng fun o => { o with stall := some tag }
  match e with
  | .fail st det a => retireOp (before s) g o c st det a fl
  | .stall k l va a =>
    let (tag, s) := openFault s g.ctx (unitEngine (engCore g) o.eng) g.vals.logfilt.toNat k l va a true 0
    wait (countCore s g (engCore g) selRfault 1) tag
  | .capture => wait s 0
  | .queueFull => s
  | .fatal c => raiseCtxFatal s g.ctx c

/-- A SCAN's carry leaves, once (R409). -/
def sendOnce (s : State) (g : Group) (o : EngineOp) (failed : Bool) (bs : List Byte) : State :=
  if o.sent then s else modHead (sendCarry s g (scanBlk o.blk) failed bs) g.gid .reckoner fun o => { o with sent := true }

/-- A started SCAN runs and retires: its carry is sent before its outputs are written, also where they must wait; one that
fails before it has sent its carry sends a failed one (R407, R409). -/
def retireScan (s : State) (g : Group) (o : EngineOp) : State :=
  match runScan s g o with
  | (.ok (r, none), s) => retireOp (engPuts (sendOnce s g o false r.carry) g .reckoner r.writes) g o (compOf s g o) 0 0 0 r.fl
  | (.ok (r, some e), s) => stopOp (sendOnce s g o false r.carry) g o e r.fl id
  | (.error e, s) => stopOp s g o e 0 fun s => sendOnce s g o true []

/-- A started CARRYBAR whose convoy does not complete it: outside a convoy it has nothing to wait for; in a BROKEN one it
ends with status 11 (R411, R416). -/
def barStatus (s : State) (g : Group) : Option Nat :=
  match convoyOfKernel s g.kid with
  | none => some 0
  | some c => if convoyDead c = true then some 11 else if (memberOf c g.gid).isNone then some 0 else none

/-- A group's first operation on an engine is started and can end. -/
def canRetire (s : State) (g : Group) (o : EngineOp) : Bool :=
  o.started && o.stall.isNone && (opsRun s g || g.gst == .saving) &&
    (if o.op = 0x1EB then scanSendable s g o else if o.op = 0x1EE then (barStatus s g).isSome else true)

/-- Runs a started operation to its end. -/
def endOp (s : State) (g : Group) (o : EngineOp) : State :=
  if o.op = 0x1EB then retireScan s g o
  else if o.op = 0x1EE then retireOp s g o (compOf s g o) ((barStatus s g).getD 0) 0 0 0
  else match runOp s g o with
    | (.ok fl, s) => retireOp s g o (compOf s g o) 0 0 0 fl
    | (.error e, s) => stopOp s g o e 0 id

/-- ENGINE_RETIRE (R376). -/
def execEngineRetire (gid : Nat) (eng : Engine) (s : State) : Host.Outcome State Fault Refusal :=
  .next (match getGroup s gid, headOp s gid eng with
    | some g, some o => if canRetire s g o then endOp s g o else s
    | _, _ => s)

/-- A group and engine whose first operation can end. -/
def dueRetire (s : State) : Option Instr :=
  s.groups.findSome? fun g => ([.matrix, .copy, .reckoner] : List Engine).findSome? fun e =>
    match headOp s g.gid e with
    | some o => if canRetire s g o then some (.engineRetire g.gid e) else none
    | none => none

/-- Every operation of a group ends ABORTED and performs nothing further (R399). -/
def abortOps (s : State) (gid : Nat) : State :=
  (s.engineQ.filter fun o => o.gid == gid).foldl (fun s o =>
    match getGroup s gid with
    | none => s
    | some g =>
      if o.op = 0x1E4 then popOp s gid o.eng
      else retireOp s g o { arrive := none, bytes := 0, ins := [], outs := [] } stAborted 0 0 0) s

/-! ### Faults resolved -/

/-- A context's views write what waited, and its held packets are tried again (R430). -/
def resumeViews (s : State) (ctx : Nat) : State :=
  match getCtx s ctx with
  | none => s
  | some c => releaseHeld (c.views.foldl (fun s v => settleDrain (flushView s ctx v.id) ctx v.id 0) s) ctx

/-- The operations of a context whose fault got FAIL end next (R264). -/
def endRefused (s : State) (ctx : Nat) : State :=
  let hit (o : EngineOp) : Bool :=
    o.failed.isSome && o.stall.isNone && (match getGroup s o.gid with | some g => g.ctx == ctx | none => false)
  { s with agenda := ((s.engineQ.filter hit).map fun o => Turn.event (.engineRetire o.gid o.eng)) ++ s.agenda }

/-- What waited on a fault goes on (R264); tag 0 stands for a capture copy (R275). -/
def resumeFault (s : State) (ctx : Nat) (tag : W32) (fail : Bool) : State :=
  endRefused (resumeViews (retryVectors (retryFault s ctx tag fail) ctx) ctx) ctx

/-- A fault of a context is outstanding (R264). -/
def isOutstanding (s : State) (ctx : Nat) (tag : W32) : Bool :=
  match getCtx s ctx with | some c => c.faults.any fun f => f.tag == tag | none => false

/-- FLTRESP_RETRY (R264). -/
def execFltrespRetry (ctx : Nat) (tag : W32) (s : State) : Host.Outcome State Fault Refusal :=
  .next (if isOutstanding s ctx tag then resumeFault s ctx tag false else s)

/-- FLTRESP_FAIL (R264). -/
def execFltrespFail (ctx : Nat) (tag : W32) (s : State) : Host.Outcome State Fault Refusal :=
  .next (if isOutstanding s ctx tag then resumeFault s ctx tag true else s)

end Sys2Proof.Machine
end

