-- ==== Sys2Proof/Machine/Launch.lean ====
section
/-! DEFINITION. The queue: its registers, states and commands, intake, dependences, trigger counters, and the end of a
kernel with its completion signal (R118-R126, R136, R137, R141). -/

namespace Sys2Proof.Machine

open Sys2Proof

/-! ### Queues -/

def queueFresh (ctx q : Nat) : Queue :=
  { ctx := ctx, q := q, cfg := 0, tickets := 0, wridx := 0, rdidx := 0, qst := .disabled, err := 0, errix := 0,
    drainTo := 0, resetting := false, guard := 0 }

/-- Queue q of a context; one that nothing has written is as CREATE leaves it. -/
def queueOfCtx (s : State) (ctx q : Nat) : Queue := (getQueue s ctx q).getD (queueFresh ctx q)

def putQueue (s : State) (x : Queue) : State :=
  { s with queues := upsert (fun y => y.ctx == x.ctx && y.q == x.q) x s.queues }

def qCode (q : QState) : Nat := match q with | .disabled => 0 | .enabled => 1 | .suspended => 2 | .draining => 3 | .error => 4

/-- Fields of QCFG (R118). -/
def ringBase (x : Queue) : Nat := fld x.cfg 51 12 * 4096
def ringPackets (x : Queue) : Nat := 2 ^ (fld x.cfg 11 8 + 4)
def qPriv (x : Queue) : Bool := bit1 x.cfg 7
def dropLate (x : Queue) : Bool := bit1 x.cfg 6
def isLottery (x : Queue) : Bool := fld x.cfg 5 4 == 1

/-- Packets written and not taken. -/
def pendingPackets (x : Queue) : Nat := (x.wridx - x.rdidx).toNat

/-- QSTATE as it reads (R118). -/
def qstateWord (x : Queue) : Nat := qCode x.qst + x.err.toNat * 2 ^ 8 + x.errix.toNat * 2 ^ 32

/-- Logs QUEUE_STATE (R120, R503). -/
def logQueue (s : State) (x : Queue) : State :=
  emit s unitHost (some x.ctx) evQueueState (x.q * 2 ^ 10 + x.ctx % 2 ^ 10) (qCode x.qst + x.err.toNat * 2 ^ 8 + x.errix.toNat * 2 ^ 16)

/-- QUEUE page registers as they read (R118): QCMD and the offsets without a register read zero. -/
def queuePageRead (x : Queue) (o : Nat) : W64 :=
  match o with
  | 0x000 => x.cfg
  | 0x008 => x.tickets.zeroExtend 64
  | 0x010 => x.wridx.zeroExtend 64
  | 0x018 => x.rdidx.zeroExtend 64
  | 0x020 => BitVec.ofNat 64 (qstateWord x)
  | _ => 0

/-- A queue enters a state; its guard restarts when it leaves the pair of ENABLED and DRAINING (R129): passing from the one to the
other keeps it.
DESIGN CHOICE (log entry 95), unsafe. -/
def setQueueState (s : State) (x : Queue) (st : QState) : State :=
  let keeps := st == .enabled || st == .draining
  let x := { x with qst := st, guard := if keeps then x.guard else 0 }
  logQueue (putQueue s x) x

/-- A queue goes to ERROR with a status (R118, R119, R122, R453). -/
def queueError (s : State) (x : Queue) (code : Nat) (ix : W32) : State :=
  let s := setQueueState s { x with err := BitVec.ofNat 8 code, errix := ix } .error
  raiseInt s (match getCtx s x.ctx with | some c => c.func | none => 0) 1

/-! ### Kernels -/

/-- Object id of a kernel's records (R141). -/
def kernelObj (k : Kernel) : Nat := (k.ctx % 1024) * 2 ^ 22 + (k.q % 256) * 2 ^ 14 + k.ix.toNat % 2 ^ 14

/-- A kernel that has not reached DISPATCHING. -/
def undispatched (k : Kernel) : Bool := k.kst == .queued || k.kst == .waiting || k.kst == .armed

/-- A kernel that has ended. -/
def kernelOver (k : Kernel) : Bool := k.kst == .done || k.kst == .aborted || k.kst == .dropped

/-- Kernels of a queue that were taken and have not ended. -/
def takenOf (s : State) (ctx q : Nat) : List Kernel :=
  s.kernels.filter fun k => k.ctx == ctx && k.q == q && !kernelOver k

/-- KFLAGS of a kernel whose descriptor has been read (R133): GRIDSYNC 0, CONVOY 1, RESTARTABLE 2, BANKCTL 3, REPLAY 4. -/
def kflag (k : Kernel) (i : Nat) : Bool := match k.desc with | some d => bit1 d.kflags i | none => false

/-- Groups of a kernel's grid (R138). -/
def gridSize (k : Kernel) : Nat := k.pkt.gridx * k.pkt.gridy * k.pkt.gridz

/-- Status codes of KERNEL_END (R141). -/
def ksBaddesc : Nat := 1
def ksTooLarge : Nat := 2
def ksDisabled : Nat := 3
def ksPageFault : Nat := 4
def ksGroupFault : Nat := 5
def ksLateDrop : Nat := 6
def ksChainDrop : Nat := 7
def ksCtxfault : Nat := 8
def ksTeardown : Nat := 9

/-- End state of a status (R141): 0 DONE, 1 ABORTED, 2 DROPPED. -/
def endCode (status : Nat) : Nat := if status = 0 then 0 else if status = ksLateDrop ∨ status = ksChainDrop then 2 else 1

/-- A leaf's CAPT is set or cleared at its entry's home slice, and the device's own copies of the entry are dropped
(R267). -/
def setCapt (s : State) (ctx : Nat) (va : BitVec 72) (on : Bool) : State :=
  match walk s ctx va with
  | .leaf _ =>
    let ea := lastEntry s va (ctxReg s ctx 0x213).toNat 5
    let w := (readEntry s ea).1
    let s := memPutNat s ea 8 (if on then w ||| BitVec.ofNat 64 (2 ^ 7) else w &&& ~~~(BitVec.ofNat 64 (2 ^ 7))).toNat
    { s with tlb := s.tlb.filter fun e => e.ea != ea }
  | _ => s

/-- Granule of capture record i (R274). -/
def captRecord (s : State) (ctx i : Nat) : BitVec 72 :=
  let at_ := (ctxReg s ctx 0x21C).toNat + 16 * i
  vaOf (BitVec.ofNat 8 (memGetNat s (at_ + 8) 1)) (BitVec.ofNat 64 (memGetNat s at_ 8))

/-- The granules that the context's capture has recorded. -/
def captured (s : State) (ctx : Nat) : List (BitVec 72) :=
  (List.range (fld (ctxReg s ctx 0x21E) 16 0)).map fun i => captRecord s ctx i

/-- CAPT is cleared in the leaf of every captured granule (R484). -/
def clearCapt (s : State) (ctx : Nat) : State := (captured s ctx).foldl (fun s g => setCapt s ctx g false) s

/-- The grid barrier of a kernel ends with it: its object is FREE (R329, R330). -/
def freeGrid (s : State) (k : Kernel) : State :=
  (barsOf s k.ctx).foldl (fun s b =>
    if b.key.grid && b.kid == some k.kid then logBar (delBar s k.ctx b.key) k.ctx b.key 0 b.phase else s) s

/-- Key of evc k on a core. -/
def evcKeys : List Nat := (List.range 128).flatMap fun c => (List.range 4).map fun k => ctrKey 1 c k

/-- The sum of evc k over cores (R480). -/
def evcSum (e : Session) (k : Nat) : Nat := (List.range 128).foldl (fun a c => a + (sget e.counts (ctrKey 1 c k)).toNat) 0

/-- The sessions of a context that have a plan for a pass, changed. -/
def modPlan (s : State) (ctx pass : Nat) (f : Session → Session) : State :=
  { s with sessions := replaceIf (fun e => e.ctx == ctx && sget e.plans pass != 0) f s.sessions }

/-- A planned pass starts: the evc counters are saved, zeroed and loaded with the plan's selectors (R485).
DEDUCED (log entry 65), unsafe. -/
def planStart (s : State) (k : Kernel) (pass : Nat) : State :=
  if kflag k 4 then
    modPlan s k.ctx pass fun e =>
      { e with
        held := match e.held with
          | some h => some h
          | none => some (k.kid, e.sel, e.counts.filter fun c => evcKeys.contains c.1)
        planned := true
        sel := sget e.plans pass
        counts := e.counts.filter fun c => !evcKeys.contains c.1 }
  else s

/-- A planned pass ends: the sums over cores are its plan results (R485). -/
def planEnd (s : State) (k : Kernel) (pass : Nat) : State :=
  modPlan s k.ctx pass fun e =>
    { e with planned := false, results := ssets e.results (4 * pass) ((List.range 4).map fun i => BitVec.ofNat 64 (evcSum e i)) }

/-- After a REPLAY kernel's last pass the saved evc values and selectors return (R485).
DEDUCED (log entry 65), unsafe. -/
def planRestore (s : State) (kid : Nat) : State :=
  let back (e : Session) : Session :=
    match e.held with
    | some (_, sel, cs) =>
      { e with held := none, planned := false, sel := sel,
               counts := cs.foldl (fun m c => sset m c.1 c.2) (e.counts.filter fun c => !evcKeys.contains c.1) }
    | none => e
  { s with sessions := replaceIf (fun e => match e.held with | some h => h.1 == kid | none => false) back s.sessions }

/-- A kernel enters COMPLETING with a status: its signal is the next event (R125, R136). A REPLAY kernel that ends
ABORTED has its CAPT bits cleared first (R484). -/
def finishKernel (s : State) (kid status detail : Nat) : State :=
  match getKernel s kid with
  | none => s
  | some k =>
    if kernelOver k ∨ k.kst = .completing then s
    else
      let s := if kflag k 4 && endCode status == 1 then clearCapt s k.ctx else s
      let s := planRestore s kid
      let s := modKernel (freeGrid s k) kid fun k =>
        { k with kst := .completing, status := BitVec.ofNat 8 status, detail := BitVec.ofNat 24 detail, stall := none, depStall := [], refused := [] }
      { s with agenda := s.agenda ++ [.event (.kernelCompleting kid)] }

/-- The last part of completion: the end state, KERNEL_END, and a kernel of which nothing is left goes (R125, R141). -/
def endKernel (s : State) (k : Kernel) : State :=
  let e := endCode k.status.toNat
  let st : KState := if e = 0 then .done else if e = 1 then .aborted else .dropped
  let s := modKernel s k.kid fun k => { k with kst := st }
  let s := emit s unitHost (some k.ctx) evKernelEnd (kernelObj k)
    (e + k.status.toNat * 2 ^ 8 + (if k.late then 2 ^ 16 else 0) + k.detail.toNat * 2 ^ 24)
  let s := { s with groups := s.groups.filter fun g => !(g.kid == k.kid && g.gst == .retired) }
  if s.groups.any fun g => g.kid == k.kid then s else { s with kernels := s.kernels.filter fun x => x.kid != k.kid }

/-- A packet's address in its queue's context (R121). -/
def pktVa (k : Kernel) (off : W64) : BitVec 72 := vaOf k.pkt.reach off

/-- What the launcher's access to a packet address answers (R122): the place and its bytes, a fault to wait on, or a fatal
fault; or the word of a peer device. -/
inductive LRes where
  | ok (pa : Nat) (bytes : List Byte)
  | wait (kind level : Nat)
  | peer (rank : BitVec 12) (a : Nat)
  | fatal
deriving DecidableEq, Repr

/-- The bytes at a place of main memory, of a stowed tile, or of the host; or the place at a peer device (R447). -/
def launchBytes (s : State) (ctx : Nat) (l : Leaf) (va : BitVec 72) (pa n : Nat) : LRes × State :=
  if leafStow l.w0 then
    match stowTile s ctx l va with
    | (.ok tile, s) => (.ok pa ((tile.drop (va.toNat % 4096)).take n), s)
    | (.error _, s) => (.fatal, s)
  else match physGet s pa n with
    | some bs => (.ok pa bs, s)
    | none => (match semPeer s pa with | some (r, a) => .peer r a | none => .fatal, s)

/-- An access of the launcher: one whose fault got FAIL is fatal (R122, R264).
DEDUCED (log entry 51), unsafe. -/
def launchAccess (s : State) (k : Kernel) (off : W64) (a : Acc) (n : Nat) : LRes × State :=
  if k.refused.any fun r => (refusedAt (some r) (pktVa k off) a).isSome then (.fatal, s)
  else match checkAccess s none k.ctx (pktVa k off) a n false with
  | (.ok l pa, s) => launchBytes s k.ctx l (pktVa k off) pa n
  | (.replay kd l, s) => (.wait kd l, s)
  | (.ctxFatal c, s) => (.fatal, raiseCtxFatal s k.ctx c)
  | (_, s) => (.fatal, s)

/-- A read of the launcher. A peer device's word has no rule of its own there: its read counts as a fatal fault.
DEDUCED (log entry 51), unsafe. -/
def launchRead (s : State) (k : Kernel) (off : W64) (n : Nat) : LRes × State :=
  match launchAccess s k off .read n with
  | (.peer _ _, s) => (.fatal, s)
  | r => r

/-- The kernel's descriptor read or completion signal waits on a replayable fault (R122, R125). -/
def stallKernel (s : State) (k : Kernel) (off : W64) (a : Acc) (kind level : Nat) : State :=
  let (tag, s) := openFault s k.ctx unitHost (filtOf s (some k.ctx)) kind level (pktVa k off) a true 0
  modKernel s k.kid fun k => { k with stall := some tag }

/-- Dependence i of a kernel waits on a replayable fault of its read; the others go on (R122, R124). -/
def stallDep (s : State) (k : Kernel) (i : Nat) (off : W64) (kind level : Nat) : State :=
  let (tag, s) := openFault s k.ctx unitHost (filtOf s (some k.ctx)) kind level (pktVa k off) .read true 0
  modKernel s k.kid fun k => { k with depStall := k.depStall ++ [(i, tag)] }

/-- PAGE_FAULT of a fatal fault on a packet address (R503). -/
def logPacketFault (s : State) (k : Kernel) (off : W64) : State :=
  emit s unitHost (some k.ctx) evPageFault (kernelObj k) (fld off 47 0)

/-- The kernel's end marks its completion word as that of a failed predecessor (R125). -/
def endedBadly (k : Kernel) : Bool := endCode k.status.toNat != 0

/-- The completion word after the signal (R125). -/
def doneWord (k : Kernel) (old : Nat) : Nat := signalWord k.pkt.doneval.toNat (endedBadly k || decide (2 ^ 63 ≤ old)) old

/-- The completion signal of a word at a peer device is an atomic that its home performs; the kernel stays COMPLETING until its
response (R125, R296, R448). One that cannot be sent counts as a fatal fault.
DESIGN CHOICE (log entry 34), unsafe. -/
def askSignal (s : State) (k : Kernel) (rank : BitVec 12) (a : Nat) : State :=
  if linkOk s k.ctx = false ∨ reachable s rank = false then endKernel (logPacketFault s k k.pkt.doneaddr) k
  else
    let (tag, s) := takeTag s unitHost
    let w : SemWaiter := { rank := s.rank, t := { gid := 0, who := .pilot }, lin := 0, core := 0, units := k.pkt.doneval,
                           stamp := now s, tag := tag }
    let p := semPacket s k.ctx rank a 4 6 w (endedBadly k) (pktVa k k.pkt.doneaddr)
    modKernel (askRemote s k.ctx (.inr k.kid) p).2 k.kid fun k => { k with signal := some none }

/-- Applies the completion signal, a release of the kernel's writes at system scope (R125, R319). -/
def signalDone (s : State) (k : Kernel) : State :=
  if k.pkt.doneaddr = 0 then endKernel s k
  else match launchAccess ((List.range 128).foldl (fun s c => writeBack s c fun _ => true) s) k k.pkt.doneaddr .rmw 8 with
  | (.ok pa bs, s) =>
    let old := ofBytes bs
    let (tag, s) := writeTag s unitHost pa 8
    endKernel (physPut s none pa (toBytes 8 (doneWord k old)) tag) k
  | (.wait kd l, s) => stallKernel s k k.pkt.doneaddr .rmw kd l
  | (.peer r a, s) => askSignal s k r a
  | (.fatal, s) => endKernel (logPacketFault s k k.pkt.doneaddr) k

/-- A kernel in COMPLETING goes on: its signal is applied, or the answer to one sent ends it (R125). -/
def goOnCompleting (s : State) (k : Kernel) : State :=
  match k.signal with
  | none => if k.stall.isNone then signalDone s k else s
  | some none => s
  | some (some st) => endKernel (if st = 0 then s else logPacketFault s k k.pkt.doneaddr) k

/-- Every group of a kernel's present pass has ended, and every engine operation of its groups has completed (R141). -/
def groupsOver (s : State) (k : Kernel) : Bool :=
  k.kst == .running && k.dealt == gridSize k && k.ended == gridSize k &&
    !(s.engineQ.any fun o => match getGroup s o.gid with | some g => g.kid == k.kid | none => false)

/-- A REPLAY kernel whose pass has ended without a FAULTED group; its passes end by REPLAY_PASS_END (R141, R484). -/
def replayWaits (k : Kernel) : Bool := kflag k 4 && k.faulted == 0

/-- KERNEL_COMPLETING (R125, R136, R141): a kernel whose groups have all ended is completed, and its signal applied. -/
def execKernelCompleting (kid : Nat) (s : State) : Host.Outcome State Fault Refusal :=
  let s := match getKernel s kid with
    | some k =>
      if groupsOver s k && !replayWaits k then finishKernel s kid (if k.faulted = 0 then 0 else ksGroupFault) k.faulted else s
    | none => s
  .next (match getKernel s kid with
    | some k => if k.kst = .completing then goOnCompleting s k else s
    | none => s)

/-- A kernel whose groups have all ended, or whose completion signal waits no longer. -/
def dueCompleting (s : State) : Option Instr :=
  (s.kernels.find? fun k => (k.kst == .completing && k.stall.isNone && k.signal != some none) || (groupsOver s k && !replayWaits k)).map fun k =>
    .kernelCompleting k.kid

/-- Kernels not yet dispatched are aborted by DISABLE and RESET (R120, R137). -/
def abortUndispatched (s : State) (ctx q : Nat) : State :=
  ((takenOf s ctx q).filter undispatched).foldl (fun s k => finishKernel s k.kid ksDisabled 0) s

/-! ### Commands -/

/-- A command that the state does not accept is logged as BADSTATE and changes nothing (R104, R505). -/
def refuseState (s : State) (ctx : Option Nat) : State := emit s unitHost ctx evBadState ((ctx.getD 0) % 1024) 0

/-- The context holds queues that take commands. -/
def queueCommand (ctx q : Nat) (s : State) (f : Queue → State → State) : Host.Outcome State Fault Refusal :=
  .next (match getCtx s ctx with | some _ => if q < 256 then f (queueOfCtx s ctx q) s else s | none => s)

/-- ENABLE's check of QCFG and TICKETS (R120). -/
def cfgBad (x : Queue) : Bool :=
  decide (2 ≤ fld x.cfg 5 4) || decide (12 < fld x.cfg 11 8) || !inMain (ringBase x) (128 * ringPackets x) ||
    (isLottery x && x.tickets == 0)

/-- QUEUE_ENABLE (R120): a configuration that fails its check leaves the queue DISABLED with BADCFG; one that passes clears the error
status and index.
DEDUCED (log entry 50), unsafe. DESIGN CHOICE (log entry 95), unsafe. -/
def execQueueEnable (ctx q : Nat) (s : State) : Host.Outcome State Fault Refusal :=
  queueCommand ctx q s fun x s =>
    if x.qst ≠ .disabled then refuseState s (some ctx)
    else if cfgBad x then
      let x := { x with err := 1, errix := 0 }
      logQueue (putQueue s x) x
    else setQueueState s { x with err := 0, errix := 0 } .enabled

/-- QUEUE_SUSPEND (R120). -/
def execQueueSuspend (ctx q : Nat) (s : State) : Host.Outcome State Fault Refusal :=
  queueCommand ctx q s fun x s =>
    if x.qst = .enabled then setQueueState s x .suspended else refuseState s (some ctx)

/-- QUEUE_RESUME (R120). -/
def execQueueResume (ctx q : Nat) (s : State) : Host.Outcome State Fault Refusal :=
  queueCommand ctx q s fun x s =>
    if x.qst = .suspended then setQueueState s x .enabled else refuseState s (some ctx)

/-- QUEUE_DRAIN (R120). -/
def execQueueDrain (ctx q : Nat) (s : State) : Host.Outcome State Fault Refusal :=
  queueCommand ctx q s fun x s =>
    if x.qst = .enabled ∨ x.qst = .suspended then setQueueState s { x with drainTo := x.wridx } .draining
    else refuseState s (some ctx)

/-- QUEUE_DISABLE (R120, R137): no taken kernel remains undispatched. -/
def execQueueDisable (ctx q : Nat) (s : State) : Host.Outcome State Fault Refusal :=
  queueCommand ctx q s fun x s =>
    if x.qst = .enabled ∨ x.qst = .suspended then setQueueState (abortUndispatched s ctx q) x .disabled
    else refuseState s (some ctx)

/-- QUEUE_RESET (R120, R137): RDIDX and WRIDX become 0 when the reset ends, not at the command. -/
def execQueueReset (ctx q : Nat) (s : State) : Host.Outcome State Fault Refusal :=
  queueCommand ctx q s fun x s =>
    if x.qst = .error then abortUndispatched (putQueue s { x with resetting := true }) ctx q
    else refuseState s (some ctx)

/-- QUEUE_DRAIN_END (R120): the packets up to the command's WRIDX are taken and have ended. -/
def execQueueDrainEnd (ctx q : Nat) (s : State) : Host.Outcome State Fault Refusal :=
  queueCommand ctx q s fun x s =>
    if x.qst = .draining ∧ x.rdidx = x.drainTo ∧ takenOf s ctx q = [] then setQueueState s x .disabled else s

/-- QUEUE_RESET_END (R120): RDIDX and WRIDX are 0 from here, and QSTATE's error status and index are cleared.
DESIGN CHOICE (log entry 95), unsafe. -/
def execQueueResetEnd (ctx q : Nat) (s : State) : Host.Outcome State Fault Refusal :=
  queueCommand ctx q s fun x s =>
    if x.resetting ∧ takenOf s ctx q = [] then
      setQueueState s { x with resetting := false, rdidx := 0, wridx := 0, err := 0, errix := 0 } .disabled
    else s

def dueQueueEnd (s : State) : Option Instr :=
  s.queues.findSome? fun x =>
    if x.qst = .draining ∧ x.rdidx = x.drainTo ∧ takenOf s x.ctx x.q = [] then some (.queueDrainEnd x.ctx x.q)
    else if x.resetting ∧ takenOf s x.ctx x.q = [] then some (.queueResetEnd x.ctx x.q)
    else none

/-- A write index is written: beyond the ring's size it puts the queue in ERROR (R119); one already in ERROR keeps its first status
and index.
DEDUCED (log entry 51), unsafe. DESIGN CHOICE (log entry 95), unsafe. -/
def writeWridx (s : State) (x : Queue) (v : W32) : State :=
  let x := { x with wridx := v }
  if x.qst ≠ .error ∧ ringPackets x < pendingPackets x then queueError s x 3 v else putQueue s x

/-- WRIDX_WRITE (R119). -/
def execWridxWrite (ctx q : Nat) (v : W32) (s : State) : Host.Outcome State Fault Refusal :=
  queueCommand ctx q s fun x t => writeWridx t x v

/-! ### Packets -/

/-- A field of a packet's bytes. -/
def pkf (b : List Byte) (o n : Nat) : Nat := ofBytes ((b.drop o).take n)

/-- A packet breaks R121 or R122. -/
def packetBad (x : Queue) (b : List Byte) : Bool :=
  let type := pkf b 0 1
  let fl := pkf b 1 1
  let nd := pkf b 2 1
  let marker := type == 2
  let kd := pkf b 8 8
  let gx := pkf b 16 4
  let gy := pkf b 20 2
  let gz := pkf b 22 2
  let dep (i : Nat) : Nat × Nat := (pkf b (32 + 16 * i) 8, pkf b (40 + 16 * i) 8)
  !(type == 1 || type == 2) || decide (16 ≤ fl) || decide (4 < nd) || pkf b 5 3 != 0 ||
    (if marker then kd != 0 || gx != 0 || gy != 0 || gz != 0 || pkf b 24 8 != 0
     else kd % 256 != 0 || gx == 0 || gy == 0 || gz == 0 || decide (2 ^ 32 < gx * gy * gz)) ||
    ((List.range 4).any fun i =>
      if i < nd then (dep i).1 % 8 != 0 || decide (2 ^ 63 ≤ (dep i).2) else (dep i).1 != 0 || (dep i).2 != 0) ||
    (!fl.testBit 2 && pkf b 96 8 != 0) || (isLottery x && pkf b 104 8 != 0) || pkf b 112 8 % 8 != 0 ||
    decide (2 ^ 63 ≤ pkf b 120 8) || (fl.testBit 0 && !qPriv x)

/-- A packet as the launcher keeps it (R121). -/
def packetOf (b : List Byte) : LaunchPacket :=
  let fl := pkf b 1 1
  let w (o : Nat) : W64 := BitVec.ofNat 64 (pkf b o 8)
  { marker := pkf b 0 1 == 2, privreq := fl.testBit 0, fence := fl.testBit 1, trig := fl.testBit 2, chain := fl.testBit 3,
    reach := BitVec.ofNat 8 (pkf b 3 1), trigix := pkf b 4 1, kdesc := w 8, gridx := pkf b 16 4, gridy := pkf b 20 2,
    gridz := pkf b 22 2, args := w 24, deps := (List.range (pkf b 2 1)).map fun i => (w (32 + 16 * i), w (40 + 16 * i)),
    trigth := w 96, deadline := w 104, doneaddr := w 112, doneval := w 120 }

/-! ### Dependences and triggers -/

/-- Every condition of a kernel is met. -/
def condsMet (k : Kernel) : Bool :=
  ((List.range k.pkt.deps.length).all fun i => k.met.contains i) && (!k.pkt.trig || k.fired)

/-- What the words of a CHAIN kernel's dependences say when its last condition is met (R122, R124): whether one has bit 63 set; none
where a word waits on a fault, or where a fatal fault has ended the kernel. -/
def chainFails (s : State) (k : Kernel) : Option Bool × State :=
  (k.pkt.deps.zip (List.range k.pkt.deps.length)).foldl (fun acc e =>
    match acc with
    | (some false, s) =>
      (match launchRead s k e.1.1 8 with
      | (.ok _ bs, s) => (some (decide (2 ^ 63 ≤ ofBytes bs)), s)
      | (.wait kd l, s) => (none, stallDep s k e.2 e.1.1 kd l)
      | (_, s) => (none, finishKernel (logPacketFault s k e.1.1) k.kid ksPageFault 0))
    | _ => acc) (some false, s)

/-- A kernel whose conditions are all met goes on: a MARKER ends, a KERNEL is ARMED (R123). -/
def armKernel (s : State) (k : Kernel) : State :=
  if k.pkt.marker then finishKernel s k.kid 0 0 else modKernel s k.kid fun k => { k with kst := .armed }

/-- A kernel that has not ended waits on (R123). -/
def waitKernel (s : State) (kid : Nat) : State :=
  modKernel s kid fun k => if k.kst = .queued then { k with kst := .waiting } else k

/-- A kernel in QUEUED or WAITING goes on as its conditions say (R123, R124). -/
def settleKernel (s : State) (kid : Nat) : State :=
  match getKernel s kid with
  | none => s
  | some k =>
    if k.kst ≠ .queued ∧ k.kst ≠ .waiting then s
    else if condsMet k = false ∨ k.depStall ≠ [] then waitKernel s kid
    else if k.pkt.chain then
      match chainFails s k with
      | (some true, s) => finishKernel s kid ksChainDrop 0
      | (some false, s) => armKernel s k
      | (none, s) => waitKernel s kid
    else armKernel s k

/-- Tests dependence i of a kernel (R122, R124). -/
def testDep (s : State) (kid i : Nat) : State :=
  match getKernel s kid with
  | none => s
  | some k =>
    match k.pkt.deps[i]? with
    | none => s
    | some (a, target) =>
      if k.kst ≠ .queued ∧ k.kst ≠ .waiting then s
      else if k.met.contains i then (if condsMet k then settleKernel s kid else s)
      else if k.depStall.any fun e => e.1 == i then s
      else match launchRead s k a 8 with
      | (.ok _ bs, s) =>
        if target.toNat % 2 ^ 63 ≤ ofBytes bs % 2 ^ 63 then
          settleKernel (modKernel s kid fun k => { k with met := k.met ++ [i] }) kid
        else s
      | (.wait kd l, s) => stallDep s k i a kd l
      | (_, s) => finishKernel (logPacketFault s k a) kid ksPageFault 0

/-- DEPENDENCE_WRITE (R124): the word of a dependence is tested after a write. -/
def execDependenceWrite (kid dep : Nat) (s : State) : Host.Outcome State Fault Refusal := .next (testDep s kid dep)

/-- HOST_DEPENDENCE_REREAD (R124). -/
def execHostDependenceReread (kid dep : Nat) (s : State) : Host.Outcome State Fault Refusal := .next (testDep s kid dep)

/-- A dependence whose test would change something. -/
def dueDep (s : State) : Option Instr :=
  (s.kernels.filter fun k => k.kst == .queued || k.kst == .waiting).findSome? fun k =>
    if condsMet k then (if k.depStall.isEmpty then some (.dependenceWrite k.kid 0) else none)
    else (List.range k.pkt.deps.length).findSome? fun i =>
      match k.met.contains i || (k.depStall.any fun e => e.1 == i), k.pkt.deps[i]? with
      | false, some (a, target) =>
        (match (launchRead s k a 8).1 with
        | .ok pa bs =>
          if target.toNat % 2 ^ 63 ≤ ofBytes bs % 2 ^ 63 then
            some (if pa < mainTop then .dependenceWrite k.kid i else .hostDependenceReread k.kid i)
          else none
        | _ => some (.dependenceWrite k.kid i))
      | _, _ => none

/-- One operation on a trigger counter: its new value is imaged, and every packet is tested against it (R126). -/
def trigOp (s : State) (ctx n : Nat) (f : W64 → W64) : State :=
  match getCtx s ctx with
  | none => s
  | some c =>
    let v := f (sget c.trig n)
    let s := modCtx s ctx fun c => { c with trig := sset c.trig n v }
    let s := memPutNat s (c.area + 0xB000 + 8 * n) 8 v.toNat
    let hit := s.kernels.filter fun k =>
      k.ctx == ctx && (k.kst == .queued || k.kst == .waiting) && k.pkt.trig && k.pkt.trigix == n && !k.fired &&
        decide (k.pkt.trigth.toNat ≤ v.toNat)
    hit.foldl (fun s k => settleKernel (modKernel s k.kid fun k => { k with fired := true }) k.kid) s

/-- A saturating addition to a counter (R132). -/
def trigAdd (a v : W64) : W64 := BitVec.ofNat 64 (min (a.toNat + v.toNat) (2 ^ 64 - 1))

/-- The context bound to a slot of a function (R451). -/
def slotCtx (s : State) (func slot : Nat) : Option Context := s.contexts.find? fun c => c.func == func && c.slot == some slot

/-- TRIGGER_WINDOW_ADD (R451). -/
def execTriggerWindowAdd (func slot n : Nat) (v : W64) (s : State) : Host.Outcome State Fault Refusal :=
  .next (match slotCtx s func slot with
    | some c => if n < 256 then trigOp s c.num n fun a => trigAdd a v else s
    | none => s)

/-- TRIGGER_WINDOW_SET (R451). -/
def execTriggerWindowSet (func slot n : Nat) (v : W64) (s : State) : Host.Outcome State Fault Refusal :=
  .next (match slotCtx s func slot with
    | some c => if n < 256 then trigOp s c.num n fun _ => v else s
    | none => s)

/-! ### Intake -/

/-- The queue takes a packet now (R120, R123): its intake window of 16 has room.
DEDUCED (log entry 52), unsafe. -/
def canTake (s : State) (x : Queue) : Bool :=
  (x.qst == .enabled || (x.qst == .draining && x.rdidx != x.drainTo)) && x.rdidx != x.wridx &&
    decide (((takenOf s x.ctx x.q).filter undispatched).length < 16)

/-- The packet that stands next in a queue's ring. -/
def nextPacket (x : Queue) : Nat := ringBase x + 128 * (x.rdidx.toNat % ringPackets x)

/-- A fence holds intake (R123). -/
def fenced (s : State) (x : Queue) : Bool :=
  bit1 (sget s.mem (nextPacket x + 1)) 1 && !(takenOf s x.ctx x.q).isEmpty

/-- Takes one packet (R122, R123, R126). -/
def takePacket (s : State) (x : Queue) : State :=
  let at_ := nextPacket x
  let b := memGet s at_ 128
  if poisoned s at_ 128 then queueError s x 4 x.rdidx
  else if packetBad x b then queueError s x 2 x.rdidx
  else
    let p := packetOf b
    let fired := match getCtx s x.ctx with | some c => decide (p.trigth.toNat ≤ (sget c.trig p.trigix).toNat) | none => false
    let kid := s.nextKid
    let k := { kernelFresh kid x.ctx x.q x.rdidx p with fired := p.trig && fired }
    let s := putQueue { s with nextKid := kid + 1, kernels := s.kernels ++ [k] } { x with rdidx := x.rdidx + 1 }
    let s := (List.range p.deps.length).foldl (fun s i => testDep s kid i) s
    settleKernel s kid

/-- PACKET_INTAKE (R123). -/
def execPacketIntake (ctx q : Nat) (s : State) : Host.Outcome State Fault Refusal :=
  queueCommand ctx q s fun x s => if canTake s x && !fenced s x then takePacket s x else s

def dueIntake (s : State) : Option Instr :=
  (s.queues.find? fun x => canTake s x && !fenced s x).map fun x => .packetIntake x.ctx x.q

end Sys2Proof.Machine
end

