-- ==== Sys2Proof/Machine/Pack.lean ====
section
/-! DEFINITION. Where groups fit: the dies open to a context, what a group occupies of a core, the packing rules, and the
cohort capacity (R108, R134, R138, R140, R143-R145). -/

namespace Sys2Proof.Machine

open Sys2Proof

/-! ### Shapes -/

/-- Spread factor of a depth and reservation (R134). -/
def spreadOf (depth regs : Nat) : Option Nat := ([1, 2, 4] : List Nat).find? fun s => decide (ceilDiv depth s * regs ≤ 1024)

/-- Register reservation (R134). -/
def reservation (regs : Nat) : Nat := 8 * ceilDiv regs 8

/-- The shape of a kernel's groups (R134, R143). -/
def shapeOfDesc (d : Desc) : GroupShape :=
  let r := reservation d.regs
  { w := d.width, d := d.depth, regs := r, spread := (spreadOf d.depth r).getD 4, ns := ceilDiv d.scratch 98304,
    nf := ceilDiv d.fifo 98304, acc := d.acc }

/-- Slots of one core: Q (R143). -/
def slotsPerCore (sh : GroupShape) : Nat := ceilDiv sh.d (max sh.spread 1)

/-- Registers that a group takes of each lane. -/
def laneRegs (sh : GroupShape) : Nat := slotsPerCore sh * sh.regs

/-! ### Occupation -/

/-- What a group occupies of one core: kernel, first lane of the core's 256, lanes, first register, registers, strands a
lane, banks, tiles (R144). -/
structure Foot where
  core : Nat
  kid : Nat
  lane : Nat
  w : Nat
  base : Nat
  len : Nat
  slots : Nat
  banks : Nat
  acc : Nat
deriving DecidableEq, Repr

/-- Tiles a group holds of its pilot's core: its quota and the pool tiles bound beyond it (R388, R389). -/
def tilesOf (g : Group) : Nat := g.shape.acc + (g.accMap.filter (·.pool)).length

/-- A position on a core (R143): partition, lane base, register base. -/
structure Pos where
  part : Nat
  lane0 : Nat
  base : Nat
deriving DecidableEq, Repr

/-- The footprint of a group at a position of a core. -/
def footAt (sh : GroupShape) (kid core acc : Nat) (p : Pos) : Foot :=
  { core := core, kid := kid, lane := p.part * 32 + p.lane0, w := sh.w, base := p.base, len := laneRegs sh,
    slots := slotsPerCore sh, banks := bankCount sh, acc := acc }

/-- Everything that is occupied on the device. -/
def feetOf (s : State) : List Foot :=
  (s.groups.filter (holdsPlace s)).flatMap fun g =>
    (g.cores.zip (List.range g.cores.length)).map fun c =>
      footAt g.shape g.kid c.1 (if c.2 = 0 then tilesOf g else 0) { part := g.part, lane0 := g.lane0, base := g.regbase }

/-- Two footprints of one core overlap. -/
def overlaps (a b : Foot) : Bool :=
  a.core == b.core && decide (a.lane < b.lane + b.w ∧ b.lane < a.lane + a.w ∧ a.base < b.base + b.len ∧ b.base < a.base + a.len)

def onCoreFeet (feet : List Foot) (core : Nat) : List Foot := feet.filter fun f => f.core == core

/-- A group slot and its banks are free on a core, and its lanes and registers (R144). -/
def footFits (feet : List Foot) (x : Foot) : Bool :=
  let here := onCoreFeet feet x.core
  decide (here.length < 64 ∧ (here.map (·.banks)).sum + x.banks ≤ 32 ∧ x.base + x.len ≤ 1024) && !(here.any (overlaps x))

/-- The tiles of a group are free on its pilot's core. -/
def tilesFit (feet : List Foot) (core acc : Nat) : Bool :=
  decide (((onCoreFeet feet core).map (·.acc)).sum + acc ≤ 32)

/-! ### The order of positions -/

/-- Partition and lane base pairs of a width (R143). -/
def partsOf (w : Nat) : List Nat := if w = 64 then [0, 2, 4, 6] else List.range 8
def lanesOf (w : Nat) : List Nat := if w = 64 then [0] else (List.range (32 / max w 1)).map (· * w)

/-- A footprint touches a partition, or the pair that starts there. -/
def inPart (w part : Nat) (f : Foot) : Bool :=
  let n := if w = 64 then 64 else 32
  decide (f.lane < part * 32 + n ∧ part * 32 < f.lane + f.w)

/-- Strands placed in a partition, or in a pair. -/
def strandsIn (feet : List Foot) (core w part : Nat) : Nat :=
  ((onCoreFeet feet core).map fun f =>
    let n := if w = 64 then 64 else 32
    (min (f.lane + f.w) (part * 32 + n) - max f.lane (part * 32)) * f.slots).sum

/-- Increasing order without repeats. -/
def sortNat (l : List Nat) : List Nat := sortBy (fun a b => decide (a ≤ b)) l.dedup

/-- Positions beside groups of the same launch, by partition, lane base and register base (R145, step 1). -/
def sidePositions (feet : List Foot) (kid core w : Nat) : List Pos :=
  (partsOf w).flatMap fun p =>
    let bases := sortNat (((onCoreFeet feet core).filter fun f => f.kid == kid && inPart w p f).map (·.base))
    (lanesOf w).flatMap fun l => bases.map fun b => { part := p, lane0 := l, base := b }

/-- Other positions: the partition with the fewest strands, then the lowest register base, then the lowest lane base
(R145, step 2). -/
def freePositions (feet : List Foot) (core w : Nat) : List Pos :=
  let parts := sortBy (fun a b => decide (strandsIn feet core w a ≤ strandsIn feet core w b)) (partsOf w)
  parts.flatMap fun p =>
    let bases := sortNat (0 :: ((onCoreFeet feet core).filter (inPart w p)).map fun f => f.base + f.len)
    bases.flatMap fun b => (lanesOf w).map fun l => { part := p, lane0 := l, base := b }

/-- The cores of a spread group at a position: the lowest-numbered of a quad that have room, the first with the tiles
(R143, R144). -/
def coresAt (feet : List Foot) (sh : GroupShape) (kid acc : Nat) (cores : List Nat) (p : Pos) : Option (List Nat) :=
  let fit := cores.filter fun c => footFits feet (footAt sh kid c 0 p)
  let fit := fit.dropWhile fun c => !tilesFit feet c acc
  if fit.length < sh.spread ∨ sh.spread = 0 then none else some (fit.take sh.spread)

/-- Where a group that starts at a core goes: the first position of R145 at that core at which the cores can be found. For
S = 1 the core itself; otherwise cores of its quad that may be used.
DESIGN CHOICE (log entry 54), unsafe. -/
def packAt (feet : List Foot) (sh : GroupShape) (kid acc core : Nat) (usable : Nat → Bool) : Option (Pos × List Nat) :=
  let cores := if sh.spread ≤ 1 then [core] else (List.range 4).map (fun i => core / 4 * 4 + i)
  let cores := cores.filter usable
  ((sidePositions feet kid core sh.w ++ freePositions feet core sh.w).findSome? fun p =>
    (coresAt feet sh kid acc cores p).map fun cs => (p, cs))

/-- The footprints of a group at a position on cores. -/
def feetAt (sh : GroupShape) (kid acc : Nat) (p : Pos) (cores : List Nat) : List Foot :=
  (cores.zip (List.range cores.length)).map fun c => footAt sh kid c.1 (if c.2 = 0 then acc else 0) p

/-- Places n groups on cores, each core filled before the next is taken; one group a core where `alone` (R140). Each round
places a group or drops a core. -/
def packFill (sh : GroupShape) (kid : Nat) (alone : Bool) (usable : Nat → Bool) (fuel n : Nat) (cores : List Nat)
    (feet : List Foot) : List (Pos × List Nat) :=
  match fuel, n, cores with
  | 0, _, _ => []
  | _, 0, _ => []
  | _, _, [] => []
  | f + 1, n + 1, c :: r =>
    let own := alone && (onCoreFeet feet c).any fun x => x.kid == kid
    match (if own then none else packAt feet sh kid sh.acc c usable) with
    | some (p, cs) => (p, cs) :: packFill sh kid alone usable f n (c :: r) (feet ++ feetAt sh kid sh.acc p cs)
    | none => packFill sh kid alone usable f (n + 1) r feet

def packMany (sh : GroupShape) (kid : Nat) (alone : Bool) (usable : Nat → Bool) (n : Nat) (cores : List Nat)
    (feet : List Foot) : List (Pos × List Nat) :=
  packFill sh kid alone usable (n + cores.length) n cores feet

/-! ### Open dies and cores -/

/-- Dies that some virtual function holds alone. -/
def takenDies (s : State) : Nat := s.funcs.foldl (fun a f => if f.num = 0 then a else Nat.lor a f.dies.toNat) 0

/-- A function holds dies of its own (R110, R454). -/
def exclusive (s : State) (func : Nat) : Bool := func != 0 && (getFunc s func).dies != 0

/-- The dies open to a function's contexts (R110, R138). -/
def openDies (s : State) (func : Nat) : List Nat :=
  (List.range 4).filter fun d =>
    if exclusive s func then (getFunc s func).dies.getLsbD d else !(takenDies s).testBit d

def ctxFunc (s : State) (ctx : Nat) : Nat := match getCtx s ctx with | some c => c.func | none => 0

/-- The logical cores of a function's open dies that are not vacant (R12, R138). -/
def openCores (s : State) (func : Nat) : List Nat :=
  (List.range 128).filter fun c => (openDies s func).contains (dieOf c) && !s.vacant.contains c

/-- A core that may take a new group: not fenced, not on a hot die, not in a region that waits for a re-stitch
(R19, R500, R501). -/
def coreUsable (s : State) (c : Nat) : Bool :=
  !s.vacant.contains c && !s.fencedCores.contains c && !s.mgmt.hotDies.contains (dieOf c) &&
    (match s.restitch with | some (r, _) => !r.contains c | none => true)

/-- Groups of a context are placed now: it is ACTIVE, and its function's turn on the time-sliced dies is not ending
(R101, R110). -/
def ctxPlaces (s : State) (ctx : Nat) : Bool :=
  match getCtx s ctx with
  | some c => c.cst == .active && (exclusive s c.func || (s.turnOf == c.func && !s.outgoing))
  | none => false

/-- A kernel's groups fit the cohort capacity of its open dies (R135, R138): the whole grid, every core empty. -/
def cohortFits (s : State) (func : Nat) (sh : GroupShape) (convoy : Bool) (n : Nat) : Bool :=
  let cores := openCores s func
  (packMany sh 0 convoy (fun c => cores.contains c) n cores []).length == n

/-- The cores that a waiting cohort needs (R140). -/
def neededCores (s : State) (k : Kernel) : List Nat :=
  match k.desc with
  | some d =>
    let cores := openCores s (ctxFunc s k.ctx)
    (packMany (shapeOfDesc d) k.kid (bit1 d.kflags 1) (fun c => cores.contains c) (gridSize k) cores []).flatMap (·.2)
  | none => []

/-- A kernel whose groups are placed all or nothing (R140). -/
def isCohort (k : Kernel) : Bool := kflag k 0 || kflag k 1

/-- A cohort kernel that waits for its reservation (R140). -/
def cohortWaits (k : Kernel) : Bool := isCohort k && !k.cohort && (k.kst == .dispatching || k.kst == .running)

/-- A core is held for a cohort selected before a kernel (R140). -/
def coreHeld (s : State) (sel core : Nat) : Bool :=
  s.kernels.any fun k => cohortWaits k && decide (k.sel < sel) && (neededCores s k).contains core

end Sys2Proof.Machine
end

