-- ==== Sys2Proof/Machine/Counter.lean ====
section
/-! DEFINITION. Counter sessions: CNTRD, CNTCTL, what an issue counts, the top-down counters and the passing of cycles
(R476-R481). -/

namespace Sys2Proof.Machine

open Sys2Proof

/-! ### Sessions -/

/-- The session of a function. -/
def funcSession (s : State) (func : Nat) : Option Session := s.sessions.find? fun e => e.func == func

/-- The session that a context owns (R476). -/
def ownSession (s : State) (ctx : Nat) : Option Session := (funcSession s (ctxFunc s ctx)).filter fun e => e.ctx == ctx

/-- Changes the session of a function. -/
def modSession (s : State) (func : Nat) (f : Session → Session) : State :=
  { s with sessions := replaceIf (fun e => e.func == func) f s.sessions }

/-- A session as `.open` makes it (R481). -/
def sessionFresh (func ctx : Nat) (buf : W64) : Session :=
  { func := func, ctx := ctx, buf := buf, run := 0, ovf := 0, ovfen := 0, sel := 0, xsel := 0, plans := [], loaded := true,
    counts := [], results := [], held := none, planned := false }

/-- A selector that is valid for a counter slot (R478): 0-3 core events, 4-5 slice, 6-7 link; 0 counts nothing. -/
def selOk (slot x : Nat) : Bool :=
  x == 0 ||
    (if slot < 4 then [1, 2, 3, 4, 0x10, 0x11, 0x12, 0x13, 0x14, 0x20, 0x21, 0x22, 0x30, 0x31, 0x32].contains x
     else if slot < 6 then [0x40, 0x41, 0x42, 0x43].contains x
     else [0x50, 0x51, 0x52].contains x)

/-- An event of a slice whose number no rule gives: hits, misses and mesh flits (R478). -/
def freeSel (x : Nat) : Bool := x == selL2hit || x == selL2miss || x == selMeshflit

/-- A selector whose counters read zero in a virtual function (R454, R478): fabric and link events.
DEDUCED (log entry 63), unsafe. -/
def allTraffic (x : Nat) : Bool := x == selMeshflit || decide (selFlittx ≤ x)

/-! ### CNTRD -/

/-- Value of a slice or link counter of a session (R478, R480). -/
def unitCounter (e : Session) (cls unit item : Nat) : W64 :=
  let x := slotSel e (ctrSlot cls + item)
  if e.func ≠ 0 ∧ (cls = 3 ∨ allTraffic x = true) then 0
  else BitVec.ofNat 64 (sget e.counts (ctrKey cls unit item)).toNat

/-- A core item that R480 assigns: evc, CYCLES, a partition's leaf, or the helm's. -/
def coreItem (i : Nat) : Bool := decide (i ≤ 4) || (decide (0x10 ≤ i ∧ i < 0xA0) && decide (i % 16 < 10))

/-- The value that a selector names, for code of a context on a core (R480); 0 where none is assigned. -/
def counterValue (s : State) (ctx core : Nat) (sel : Nat) : W64 :=
  let cls := sel / 2 ^ 24
  let unit := sel / 2 ^ 12 % 2 ^ 12
  let item := sel % 2 ^ 12
  let ofCore (e : Session) (c : Nat) : W64 :=
    if coreItem item then BitVec.ofNat 64 (sget e.counts (ctrKey 1 c item)).toNat else 0
  match ownSession s ctx with
  | none => 0
  | some e =>
    match cls with
    | 0 => if unit = 0 then ofCore e core else 0
    | 1 => if unit < 128 then ofCore e unit else 0
    | 2 => if unit < 512 ∧ item < 2 then unitCounter e 2 unit item else 0
    | 3 => if unit < 18 ∧ item < 2 then unitCounter e 3 unit item else 0
    | 4 =>
      if unit ≠ 0 then 0
      else if item ≤ 4 then BitVec.ofNat 64 (evcSum e item)
      else if 0x100 ≤ item ∧ item < 0x140 then sget e.results (item - 0x100)
      else 0
    | _ => 0

/-- CNTRD (R480). -/
def execCntrd (f : Fields) (s : State) : Host.Outcome State Fault Refusal :=
  issueEach f s fun v s =>
    applyPend s v { effNone with
      writes := writesD v 64 (counterValue s v.g.ctx (coreOf v.g v.who) (readB v 32)).toNat } 0

/-! ### CNTCTL -/

def csOk : Nat := 0
def csBusy : Nat := 1
def csNosess : Nat := 2
def csBadsel : Nat := 3
def csBadarg : Nat := 4

/-- CNTCTL at one executor: the status of an operation by a context, and the state it leaves (R481).
DEDUCED (log entry 24), unsafe. DEDUCED (log entry 64), unsafe. -/
def cntctl (f : Fields) (s : State) (op : State → Nat → Nat → Nat → Nat × State) : Host.Outcome State Fault Refusal :=
  issueEach f s fun v s =>
    let (st, s) := op s v.g.ctx (readB v 32) (readC v 64)
    applyPend s v { effNone with writes := writesD v (if isPilot v then 64 else 32) st } 0

/-- An operation of the owner of a session: its status, and what it does to the session (R481).
DEDUCED (log entry 64), unsafe. -/
def ownerOp (s : State) (ctx : Nat) (st : Nat) (h : Session → Session) : Nat × State :=
  match ownSession s ctx with
  | none => (csNosess, s)
  | some e => if st = csOk then (csOk, modSession s e.func h) else (st, s)

/-- CNTCTL.open (R481). -/
def execCntctlOpen (f : Fields) (s : State) : Host.Outcome State Fault Refusal :=
  cntctl f s fun s ctx b c =>
    if (funcSession s (ctxFunc s ctx)).isSome then (csBusy, s)
    else if b ≠ 0 ∨ c % 4096 ≠ 0 ∨ inMain c 0x80000 = false then (csBadarg, s)
    else (csOk, { s with sessions := s.sessions ++ [sessionFresh (ctxFunc s ctx) ctx (BitVec.ofNat 64 c)] })

/-- The session of a context ends (R476). -/
def endSession (s : State) (ctx : Nat) : State := { s with sessions := s.sessions.filter fun e => e.ctx != ctx }

/-- CNTCTL.close (R481). -/
def execCntctlClose (f : Fields) (s : State) : Host.Outcome State Fault Refusal :=
  cntctl f s fun s ctx b c =>
    match ownSession s ctx with
    | none => (csNosess, s)
    | some _ => if b ≠ 0 ∨ c ≠ 0 then (csBadarg, s) else (csOk, endSession s ctx)

/-- CNTCTL.sel (R481). -/
def execCntctlSel (f : Fields) (s : State) : Host.Outcome State Fault Refusal :=
  cntctl f s fun s ctx b c =>
    let st := if 8 ≤ b ∨ 2 ^ 12 ≤ c then csBadarg else if selOk b c = false then csBadsel else csOk
    ownerOp s ctx st fun e =>
      if b < 4 then { e with sel := setFld e.sel (12 * b + 11) (12 * b) c }
      else { e with xsel := setFld e.xsel (12 * (b - 4) + 11) (12 * (b - 4)) c }

/-- CNTCTL.run (R481). -/
def execCntctlRun (f : Fields) (s : State) : Host.Outcome State Fault Refusal :=
  cntctl f s fun s ctx b c =>
    ownerOp s ctx (if b ≠ 0 ∨ 2 ^ 9 ≤ c then csBadarg else csOk) fun e => { e with run := BitVec.ofNat 9 c }

/-- The mask bit that covers a counter (R481): its slot, or bit 8 for CYCLES and the top-down counters. -/
def maskBit (key : Nat) : Nat :=
  let cls := key / 2 ^ 24
  let item := key % 2 ^ 12
  if cls = 1 ∧ 4 ≤ item then 8 else ctrSlot cls + item

/-- CNTCTL.clear (R481). -/
def execCntctlClear (f : Fields) (s : State) : Host.Outcome State Fault Refusal :=
  cntctl f s fun s ctx b c =>
    ownerOp s ctx (if b ≠ 0 ∨ 2 ^ 9 ≤ c then csBadarg else csOk) fun e =>
      { e with counts := e.counts.filter fun x => !c.testBit (maskBit x.1) }

/-- CNTCTL.ovfen (R481). -/
def execCntctlOvfen (f : Fields) (s : State) : Host.Outcome State Fault Refusal :=
  cntctl f s fun s ctx b c =>
    ownerOp s ctx (if b ≠ 0 ∨ 2 ^ 10 ≤ c then csBadarg else csOk) fun e => { e with ovfen := BitVec.ofNat 10 c }

/-- CNTCTL.plan (R481). -/
def execCntctlPlan (f : Fields) (s : State) : Host.Outcome State Fault Refusal :=
  cntctl f s fun s ctx b c =>
    let ok := (List.range 4).all fun k => selOk k (c / 2 ^ (12 * k) % 2 ^ 12)
    let st := if 16 ≤ b ∨ 2 ^ 48 ≤ c then csBadarg else if ok = false then csBadsel else csOk
    ownerOp s ctx st fun e => { e with plans := sset e.plans b (BitVec.ofNat 48 c) }

/-! ### What an issue counts -/

/-- An executor has performed its instruction: it does not wait to issue it again.
DEDUCED (log entry 63), unsafe. -/
def performed (t : Thread) : Bool :=
  match t.run with
  | .stalled w =>
    (match w with
    | .fault _ | .walkQueue | .storeQueue | .fence _ | .tlbinv _ _ | .decisionQueue | .engineQueue | .carry | .capture | .engineDrain | .bankSwitch _ | .remote _ => false
    | _ => true)
  | _ => true

/-- The event that an instruction's access counts at each executor (R478): loads, stores with RED, atomic lanes.
DEDUCED (log entry 63), unsafe. -/
def accessSel (i : Instr) : Option Nat :=
  match i with
  | .ld _ | .lds _ | .ldu _ | .lde _ => some selLoads
  | .st _ | .sts _ | .stu _ | .stc _ | .red _ => some selStores
  | .atom _ | .cas _ | .cas2 _ => some selAtomlane
  | _ => none

/-- A read-modify-write, whose lanes aggregate by address (R298). -/
def isRmw (i : Instr) : Bool := match i with | .atom _ | .cas _ | .cas2 _ | .red _ => true | _ => false

/-- The fields of a read-modify-write. -/
def rmwFields (i : Instr) : Option Fields := match i with | .atom f | .cas f | .cas2 f | .red f => some f | _ => none

/-- The executors of an issue, as they stood before it, that have performed it. -/
def performers (before after : State) (ids : List ThreadId) (f : Fields) : List View :=
  ids.filterMap fun id =>
    match getGroup before id.gid, (getGroup after id.gid).bind fun g => getThread g id.who with
    | some g, some t' =>
      match getThread g id.who with
      | some t => if performed t' then some { s := before, g := g, who := id.who, t := t, f := f } else none
      | none => none
    | _, _ => none

/-- Lanes of a partition with a live strand of a kernel. -/
def liveLanes (s : State) (unit kid : Nat) : List Nat :=
  (s.groups.filter fun g => g.kid == kid && onCore g).flatMap fun g =>
    ((List.range g.strands.length).filter fun k =>
      schedUnit g (.strand k) == unit && (match g.strands[k]? with | some t => t.run != .exited | none => false)).map
      fun k => (g.lane0 + laneOf g k) % 32

/-- A gang holds every lane of its partition with a live strand of its kernel (R479). -/
def gangFull (s : State) (unit kid : Nat) (vs : List View) : Bool :=
  let lanes := vs.filterMap fun v => match v.who with | .strand k => some ((v.g.lane0 + laneOf v.g k) % 32) | .pilot => none
  let further := ((jointTurns s).flatMap issuerIds).filterMap fun id =>
    match getGroup s id.gid, id.who with
    | some g, .strand k => some ((g.lane0 + laneOf g k) % 32)
    | _, _ => none
  (liveLanes s unit kid).all (lanes ++ further).contains

/-- What an issue counts (R478, R479): gang issues and their strands, pilot instructions, and accesses.
DEDUCED (log entry 63), unsafe. -/
def countIssue (before : State) (u : Nat) (i : Instr) (after : State) : State :=
  let ids := match before.cur with | some iss => issuerIds iss | none => []
  let vs := performers before after ids (opNop)
  match vs with
  | [] => after
  | v :: _ =>
    let core := coreOf v.g v.who
    let c (s : State) (ev n : Nat) : State := if n = 0 then s else countCore s v.g core ev n
    let again := after.issued.any fun x => x.1 == u
    let s := if isPilot v then c after selPinstr 1 else c (if again then after else c after selGissue 1) selSinstr vs.length
    let s := if again then s else { s with issued := s.issued ++ [(u, v.g.kid, isPilot v || gangFull before u v.g.kid vs)] }
    let s := match accessSel i with
      | some ev => c s ev ((performers before after ids (fieldsOf i)).filter guardTrue).length
      | none => s
    match rmwFields i with
    | some f => c s selAtomreq ((((performers before after ids f).filter guardTrue).map memVa).dedup).length
    | none => s
where
  /-- Fields of no instruction, and of one that accesses memory. -/
  opNop : Fields := { x := false, a := 0, d := 0, yld := false, stall := 0, len := 0, sub := 0, neg := false, pnum := 7,
                      c := 0, b := 0, w2 := 0, lit := 0 }
  fieldsOf (i : Instr) : Fields :=
    match i with
    | .ld f | .lds f | .ldu f | .lde f | .st f | .sts f | .stu f | .stc f | .red f | .atom f | .cas f | .cas2 f => f
    | _ => opNop

/-- WAITJ completions (R478): strands that have left JOINING, and those that passed their WAITJ at once. -/
def countJoins (before : State) (i : Option Instr) (after : State) : State :=
  -- the strands of a round that has expired have completed no WAITJ (R184)
  let expired (id : ThreadId) (t : Thread) : Bool :=
    match i, t.run with
    | some (.waitjExpiry gid n slot), .joining n' slot' _ _ =>
      gid == id.gid && n == n' && slot == slot' && (match getGroup before gid with
        | some g => (g.rounds.find? fun r => r.n == n && r.slot == slot).any fun r => !roundDone g r
        | none => false)
    | _, _ => false
  let at_ (s : State) (id : ThreadId) : Option Thread := (getGroup s id.gid).bind fun g => getThread g id.who
  let joining (t : Thread) : Bool := match t.run with | .joining _ _ _ _ => true | _ => false
  let left := (whoWith before fun _ t => joining t).filter fun id => !((at_ before id).any (expired id))
  let fresh := match i with
    | some (.waitj _) => match before.cur with | some iss => issuerIds iss | none => []
    | _ => []
  (left ++ fresh).foldl (fun s id =>
    match at_ after id, getGroup s id.gid with
    | some t, some g => if t.run = .ready ∧ groupIssues g = true then countCore s g (coreOf g id.who) selWjdone 1 else s
    | _, _ => s) after

/-! ### The top-down counters -/

/-- Groups placed at a unit: with strands in its partition, or with their pilot at its helm. -/
def unitGroups (s : State) (core p : Nat) : List Group :=
  s.groups.filter fun g =>
    holdsPlace s g &&
      (if p = 8 then g.cores.getD 0 128 == core
       else g.cores.contains core && (List.range g.strands.length).any fun k => schedUnit g (.strand k) == core * 16 + p)

/-- The executors of a group at a unit. -/
def unitThreads (g : Group) (core p : Nat) : List Thread :=
  if p = 8 then [g.pilot]
  else (List.range g.strands.length).filterMap fun k =>
    if schedUnit g (.strand k) = core * 16 + p then g.strands[k]? else none

/-- The group is being saved, flushed, switched or halted, or is HALTED. -/
def blockedGroup (s : State) (g : Group) : Bool :=
  g.gst == .saving || g.gst == .flushing || g.gst == .halted || g.haltPend ||
    (s.outgoing && ctxFunc s g.ctx == s.turnOf && !exclusive s (ctxFunc s g.ctx))

/-- The BLOCK leaf of a wait (R479): 4 memory, 5 engine, 6 synchronisation. -/
def waitLeaf (t : Thread) : Option Nat :=
  match t.run with
  | .stalled w =>
    (match w with
    | .fault _ | .vector _ | .walkQueue | .storeQueue | .fence _ | .tlbinv _ _ | .capture => some 4
    | .result leaf _ => some leaf
    | .remote _ => some t.leaf
    | .engineQueue | .carry | .engineDrain | .bankSwitch _ => some 5
    | .row | .trapSlot | .decisionQueue => some 6)
  | .parked w =>
    (match w with
    | .waitw _ | .engwait _ _ | .accalloc _ _ _ | .carryget => some 5
    | .nap _ _ | .waita _ _ _ | .barw _ | .semp _ => some 6
    | .dqpop _ => none)
  | .joining _ _ _ _ => some 6
  | _ => none

/-- The executor has not begun. -/
def isNew (t : Thread) : Bool := match t.run with | .new => true | _ => false

/-- The executor waits for a decision. -/
def inPop (t : Thread) : Bool := match t.run with | .parked (.dqpop _) => true | _ => false

/-- The leaf that a unit's cycle falls in for a session's context: the first row of R479 that applies. -/
def leafOf (s : State) (e : Session) (core p : Nat) : Nat :=
  let unit := core * 16 + p
  let mine (kid : Nat) : Bool := match getKernel s kid with | some k => k.ctx == e.ctx | none => false
  let gs := unitGroups s core p
  let own := gs.filter fun g => g.ctx == e.ctx
  let ts := own.flatMap fun g => unitThreads g core p
  let live := ts.filter fun t => t.run != .exited
  match s.issued.find? fun x => x.1 == unit && mine x.2.1 with
  | some x => if p = 8 ∨ x.2.2 = true then 0 else 1
  | none =>
    if (s.issued.any fun x => x.1 == unit) ∨ (gs ≠ [] ∧ own = []) then 8
    else if gs = [] then 9
    else if own.any (blockedGroup s) ∨ ts.any (fun t => t.run == .trapped) then 2
    else if live.any fun t => t.run == .ready && decide (s.cycle < t.issueAt) then 3
    else if live.any fun t => waitLeaf t == some 4 then 4
    else if live.any fun t => waitLeaf t == some 5 then 5
    else if live.any fun t => waitLeaf t == some 6 then 6
    else if p = 8 ∧ live = [] ∧ own.any (fun g => g.strands.any fun t => t.run != .exited) = true then 7
    else if p ≠ 8 ∧ live ≠ [] ∧ (live.all isNew = true ∨ live.all inPop = true) then 7
    else 9

/-- Adds cycles to one core's CYCLES and to one leaf of each of its partitions and its helm (R479). -/
def countCoreCycles (s : State) (e : Session) (core n : Nat) : State :=
  let s := bumpCounter s e.func (ctrKey 1 core 4) 8 n
  (List.range 9).foldl (fun s p => bumpCounter s e.func (ctrKey 1 core (0x10 + 16 * p + leafOf s e core p)) 9 n) s

/-- Cycles that pass, for every loaded session whose mask has bit 8 (R476, R479, R481): the first with what has issued in
it, the others with no issue. -/
def countCycles (s : State) (n : Nat) : State :=
  let one (s : State) (n : Nat) : State :=
    s.sessions.foldl (fun s e =>
      if e.loaded && bit1 e.run 8 then (openCores s e.func).foldl (fun s c => countCoreCycles s e c n) s else s) s
  if n = 0 then s
  else
    let s := { one s 1 with issued := [] }
    if n = 1 then s else one s (n - 1)

/-- A slice slot (4, 5) of a session that runs on an event without a number. -/
def freeSlot_ (e : Session) (slot : Nat) : Bool :=
  e.loaded && (slot == 4 || slot == 5) && bit1 e.run slot && freeSel (slotSel e slot)

/-- What the slice counters of hits, misses and mesh flits count while cycles pass, at every slice a free number (R478).
DESIGN CHOICE (log entry 11), safe. -/
def countSlices (s : State) (n : Nat) : State :=
  if n = 0 then s
  else s.sessions.foldl (fun s e =>
    ([4, 5].filter (freeSlot_ e)).foldl (fun s slot =>
      (List.range 512).foldl (fun s u =>
        bumpCounter s e.func (ctrKey 2 u (slot - 4)) slot (Config.sliceEvents s.free (ctrKey 2 u (slot - 4))).toNat) s) s) s

/-! ### Time -/

/-- The chronometer after it has counted some ns, with its offset slewed at 200 ppm: one ns in 5,000 that it counts (R456). -/
def advanceChron (c : Chron) (dn : Nat) : Chron :=
  let cross := (c.rest + dn) / 5000
  let adj : Int := if 0 ≤ c.slew then min c.slew (cross : Int) else -(min (-c.slew) (cross : Int))
  { c with ns := BitVec.ofInt 64 (c.ns.toNat + dn + adj), slew := c.slew - adj, rest := (c.rest + dn) % 5000 }

/-- Time passes: core cycles, which the loaded sessions count, and the ns that the chronometer counts meanwhile, a free value, with
those that are given (R15). What the management port reads of memory meanwhile is answered first (R471).
DESIGN CHOICE (log entry 17), unsafe. DESIGN CHOICE (log entry 18), safe. -/
def passTime (s : State) (cycles ns : Nat) : State :=
  let s := countSlices (countCycles (answerReads s) cycles) cycles
  let dn := if cycles = 0 then 0 else Config.nsPassed s.free
  tickFree { s with cycle := s.cycle + cycles, unitsDone := if cycles = 0 then s.unitsDone else 0, chron := advanceChron s.chron (dn + ns) }

/-- The counters of a running session that stand at their greatest value: of CYCLES (bit 8), of the leaves (bit 9), or of a slice's slot with
hits, misses or mesh flits (bits 4, 5). -/
def fullCounters (e : Session) (item : Nat) : List Nat :=
  (e.counts.filter fun x => x.2 == BitVec.allOnes 48 &&
    (if item = 8 ∨ item = 9 then
      e.loaded && bit1 e.run 8 && x.1 / 2 ^ 24 == 1 &&
        (if item = 8 then x.1 % 2 ^ 12 == 4 else decide (0x10 ≤ x.1 % 2 ^ 12))
     else freeSlot_ e item && x.1 / 2 ^ 24 == 2 && x.1 % 2 ^ 12 == item - 4)).map (·.1)

/-- A counter of a function's session is about to wrap: item is its CNTOVF bit. -/
def aboutToWrap (s : State) (func item : Nat) : Bool :=
  s.sessions.any fun e => e.func == func && !(fullCounters e item).isEmpty

/-- One more event at every slice counter of a slot that stands at its greatest value (R477, R478). -/
def wrapSlices (s : State) (func item : Nat) : State :=
  match funcSession s func with
  | some e => (fullCounters e item).foldl (fun s k => bumpCounter s func k item 1) s
  | none => s

/-- COUNTER_WRAP (R477): the cycle in which a counter that stands at its greatest value wraps, or the event that makes a slice counter of
hits, misses or mesh flits wrap. Item is its CNTOVF bit. -/
def execCounterWrap (func item : Nat) (s : State) : Host.Outcome State Fault Refusal :=
  .next (if aboutToWrap s func item then (if item = 8 ∨ item = 9 then passTime s 1 0 else wrapSlices s func item) else s)

/-! ### Unloading and reloading -/

/-- The place of a counter in the session buffer (R476). -/
def bufOff (key : Nat) : Nat :=
  let unit := key / 2 ^ 12 % 2 ^ 12
  let item := key % 2 ^ 12
  match key / 2 ^ 24 with
  | 1 => 0x800 * unit + 8 * item
  | 2 => 0x40000 + 16 * unit + 8 * item
  | _ => 0x42000 + 16 * unit + 8 * item

/-- Every counter's key. -/
def allKeys : List Nat :=
  ((List.range 128).flatMap fun c => ((List.range 0xA0).filter coreItem).map fun i => ctrKey 1 c i) ++
  ((List.range 512).flatMap fun u => [ctrKey 2 u 0, ctrKey 2 u 1]) ++
  ((List.range 18).flatMap fun u => [ctrKey 3 u 0, ctrKey 3 u 1])

/-- CNTSESS as the owner reads it (R477). -/
def cntsess (e : Session) : W64 := BitVec.ofNat 64 (2 ^ 63 + e.ctx % 1024)

/-- Session register 0x300 + i (R477). -/
def sessionReg (s : State) (e : Session) (i : Nat) : W64 :=
  match i with
  | 0 => cntsess e
  | 1 => e.buf
  | 2 => BitVec.ofNat 64 e.run.toNat
  | 3 => BitVec.ofNat 64 e.ovf.toNat
  | 4 => BitVec.ofNat 64 e.ovfen.toNat
  | 5 => BitVec.ofNat 64 e.sel.toNat
  | 6 => BitVec.ofNat 64 e.xsel.toNat
  | _ => ctxReg s e.ctx (0x300 + i)

/-- A function is switched out: its session's values go to the buffer and its registers to the context area (R476). -/
def unloadSession (s : State) (func : Nat) : State :=
  match funcSession s func with
  | none => s
  | some e =>
    if e.loaded = false then s
    else
      let area := match getCtx s e.ctx with | some c => c.area | none => 0
      let s := { s with mem := skeep s.mem fun a => !decide (e.buf.toNat ≤ a ∧ a < e.buf.toNat + 0x43200) }
      let s := e.counts.foldl (fun s x => memPutNat s (e.buf.toNat + bufOff x.1) 8 x.2.toNat) s
      let s := e.results.foldl (fun s x => memPutNat s (e.buf.toNat + 0x43000 + 8 * x.1) 8 x.2.toNat) s
      let s := (List.range 9).foldl (fun s i => memPutNat s (area + 0xA000 + 8 * i) 8 (sessionReg s e i).toNat) s
      modSession s func fun e => { e with loaded := false }

/-- A function is switched in: its session reloads both (R476).
DEDUCED (log entry 65), unsafe. -/
def loadSession (s : State) (func : Nat) : State :=
  match funcSession s func with
  | none => s
  | some e =>
    if e.loaded then s
    else
      let area := match getCtx s e.ctx with | some c => c.area | none => 0
      let w (i : Nat) : Nat := memGetNat s (area + 0xA000 + 8 * i) 8
      let buf := BitVec.ofNat 64 (w 1)
      let cs := allKeys.foldl (fun m k => sset m k (BitVec.ofNat 48 (memGetNat s (buf.toNat + bufOff k) 8))) []
      let rs := ssets [] 0 ((List.range 64).map fun i => BitVec.ofNat 64 (memGetNat s (buf.toNat + 0x43000 + 8 * i) 8))
      let s := [7, 8].foldl (fun s i => modCtxReg s e.ctx (0x300 + i) (BitVec.ofNat 64 (w i))) s
      modSession s func fun e =>
        { e with loaded := true, ctx := w 0 % 1024, buf := buf, counts := cs, results := rs, run := BitVec.ofNat 9 (w 2),
                 ovf := BitVec.ofNat 10 (w 3), ovfen := BitVec.ofNat 10 (w 4), sel := BitVec.ofNat 48 (w 5),
                 xsel := BitVec.ofNat 48 (w 6) }

end Sys2Proof.Machine
end

