-- ==== Sys2Proof/Machine/Preempt.lean ====
section
/-! DEFINITION. Pre-emption, saving, flushing and retirement of groups (R148, R149, R155-R161, R265, R415). -/

namespace Sys2Proof.Machine

open Sys2Proof

/-! ### The estimates -/

/-- Nanoseconds a group has run since it was last started (R156: T). -/
def ranTime (s : State) (g : Group) : Nat :=
  g.ranNs + (if g.gst = .running then (now s).toNat - g.ranSince else 0)

def drainBound (s : State) (g : Group) : Nat := match (getKernel s g.kid).bind (·.desc) with | some d => d.drain | none => 0xFFFFFFFF

/-- The methods of pre-emption (R156). -/
inductive Method where
  | drain | save | flush
deriving DecidableEq, Repr

/-- Latency and cost of a method in units of 1/784 ns, in which both 1.75 and 112 divide whole (R156). -/
def latencyOf (s : State) (g : Group) (m : Method) : Nat :=
  match m with
  | .drain => drainBound s g * 448
  | .save => recordSize g.shape * 7
  | .flush => 250 * 784

def costOf (s : State) (g : Group) (m : Method) : Nat :=
  match m with | .flush => ranTime s g * 784 | _ => latencyOf s g m

/-- A group has sent a contribution in a use it has not closed (R426). -/
def hasSent (s : State) (g : Group) : Bool :=
  match getCtx s g.ctx with
  | some c => c.views.any fun v => v.sentBy.contains g.gid && (localMembers v).any fun m => m.gid == some g.gid
  | none => false

/-- A method is eligible for a group (R156, R161, R426). Flush is none for a group that is not RUNNING: a further request to a DRAINING one
can only move it to SAVING.
DESIGN CHOICE (log entry 103), unsafe. -/
def eligible (s : State) (g : Group) (m : Method) : Bool :=
  match m with
  | .drain => drainBound s g != 0xFFFFFFFF && g.gst != .halted
  | .save => true
  | .flush =>
    match getKernel s g.kid with
    | some k => kflag k 2 && !isCohort k && g.gst == .running && !(g.strands.any (·.caps.isSome)) && !hasSent s g
    | none => false

/-- The method of a single group under a bound in ns, 0 for none, and whether it meets it (R156). -/
def chooseMethod (s : State) (g : Group) (bound : Nat) : Method × Bool :=
  let ms := ([.drain, .save, .flush] : List Method).filter (eligible s g)
  let inTime := ms.filter fun m => bound == 0 || decide (latencyOf s g m ≤ bound * 784)
  let least (l : List Method) : Method :=
    match l with
    | [] => .save
    | m :: r => r.foldl (fun b m => if costOf s g m < costOf s g b then m else b) m
  if inTime.isEmpty then (least ms, false) else (least inTime, true)

def methodCode (m : Method) : Nat := match m with | .drain => 0 | .save => 1 | .flush => 2

/-- An estimate in GROUP_PREEMPT: units of 64 ns, rounded up (R502). -/
def estimate (s : State) (g : Group) (m : Method) (x : Nat) : Nat :=
  if eligible s g m then min (ceilDiv x (64 * 784)) 0x7FFE else 0x7FFF

/-- GROUP_PREEMPT's payload (R502). -/
def preemptPayload (s : State) (g : Group) (m : Method) (launcher : Bool) : Nat :=
  methodCode m * 2 ^ 46 + (if launcher then 2 ^ 45 else 0) + estimate s g .drain (latencyOf s g .drain) * 2 ^ 30 +
    estimate s g .save (latencyOf s g .save) * 2 ^ 15 + estimate s g .flush (costOf s g .flush)

/-- The method takes effect (R157-R159). -/
def beginMethod (s : State) (g : Group) (m : Method) (bound : Nat) (victimOf : Option Nat) : State :=
  modGroup s g.gid fun g =>
    { g with
      gst := match m with | .drain => .draining | .save => .saving | .flush => .flushing
      haltPend := g.haltPend || (g.gst == .halted && m == .save)
      ranNs := ranTime s g
      preempt := some ((now s).toNat, bound)
      victimOf := victimOf }

/-- A pre-emption request for one group, with a bound in ns (0: none), of the launcher where so, for a kernel (R155, R156,
R161). `saveOnly`: a cohort is pre-empted by save. A further request to a DRAINING group is evaluated afresh, and logged, and moves it to
SAVING or lets it drain on. -/
def requestPreempt (s : State) (gid bound : Nat) (launcher : Bool) (victimOf : Option Nat) (saveOnly : Bool) : State :=
  match getGroup s gid with
  | none => s
  | some g =>
    if g.gst = .running ∨ g.gst = .halted ∨ g.gst = .draining then
      let (m, ok) := chooseMethod s g bound
      let m := if saveOnly ∨ g.gst = .halted then .save else m
      let ok := ok && (bound == 0 || decide (latencyOf s g m ≤ bound * 784))
      let (_, s) := emitGroup s g evGroupPreempt (preemptPayload s g m launcher)
      let s := if ok then s else (emitGroup s g evBoundMissed (kernelTag s g.kid)).2
      if g.gst = .draining ∧ m ≠ .save then modGroup s gid fun g => { g with victimOf := victimOf.or g.victimOf }
      else beginMethod s g m bound victimOf
    else s

/-- Groups that are pre-empted with a group: all of its kernel where that is a cohort (R110, R155, R415). -/
def preemptSet (s : State) (gid : Nat) : List Nat × Bool :=
  match getGroup s gid with
  | none => ([], false)
  | some g =>
    match getKernel s g.kid with
    | some k => if isCohort k then ((s.groups.filter fun h => h.kid == g.kid).map (·.gid), true) else ([gid], false)
    | none => ([gid], false)

/-- PREEMPT_REQUEST (R155): the launcher names no group of a cohort. -/
def execPreemptRequest (gid bound : Nat) (fromLauncher : Bool) (s : State) : Host.Outcome State Fault Refusal :=
  let (l, cohort) := preemptSet s gid
  .next (if fromLauncher && cohort then s
    else l.foldl (fun s g => requestPreempt s g bound fromLauncher none cohort) s)

/-! ### Overruns -/

/-- The drain latency has elapsed (R157). -/
def drainOver (s : State) (g : Group) : Bool :=
  g.gst == .draining &&
    (match g.preempt with | some (t, _) => decide (drainBound s g * 4 ≤ ((now s).toNat - t) * 7) | none => false)

/-- DRAIN_OVERRUN (R157). -/
def execDrainOverrun (gid : Nat) (s : State) : Host.Outcome State Fault Refusal :=
  .next (match getGroup s gid with
    | some g =>
      if drainOver s g then
        modGroup (emitGroup s g evDrainOverrun (kernelTag s g.kid)).2 gid fun g => { g with gst := .saving }
      else s
    | none => s)

/-- A save that a fault holds has passed its bound (R265). -/
def boundPassed (s : State) (g : Group) : Bool :=
  g.gst == .saving &&
    (match g.preempt with | some (t, b) => b != 0 && decide (t + b < (now s).toNat) | none => false) &&
    s.engineQ.any fun o => o.gid == g.gid && o.stall.isSome

/-- BOUND_MISSED (R265). -/
def execBoundMissed (gid : Nat) (s : State) : Host.Outcome State Fault Refusal :=
  .next (match getGroup s gid with
    | some g =>
      if boundPassed s g then
        modGroup (emitGroup s g evBoundMissed (kernelTag s g.kid)).2 gid fun g =>
          { g with preempt := g.preempt.map fun p => (p.1, 0) }
      else s
    | none => s)

/-! ### Save -/

/-- Nothing that a save must wait for is in flight (R158 step 2, R265). A CARRYBAR that has arrived is saved as it waits (R415). -/
def quiet (s : State) (g : Group) : Bool :=
  !(s.engineQ.any fun o => o.gid == g.gid && o.started && o.op != 0x1EE) && g.stq.isEmpty &&
    ((g.pilot :: g.strands).all fun t =>
      t.pend.isEmpty && (match t.run with | .stalled (.remote _) => t.remote.isSome | _ => true))

/-- The packets of every member that find room in their receiving buffer have been delivered (R415). -/
def delivered (s : State) (g : Group) : Bool :=
  match convoyOfKernel s g.kid with
  | some c =>
    c.members.all fun m => m.out.all fun p => decide ((if p.1 then 4 else 8) ≤ buffered c ((m.pos + 1) % max 1 c.len) p.1)
  | none => true

/-- A convoy is saved whole: no member leaves while another can still send (R415). -/
def convoyStill (s : State) (g : Group) : Bool :=
  match convoyOfKernel s g.kid with
  | some c => delivered s g && c.members.all fun m =>
      m.ended || (match getGroup s m.gid with | some h => h.gst == .descheduled || (h.gst == .saving && quiet s h) | none => true)
  | none => true

/-- An executor as it is saved: parks, joins and stalls end, and their instruction is reissued (R158, R186, R265); a fence that
had begun has ended with the group's writes (R314); a trap that waits for a slot goes on waiting, and a response that has come
back is kept for its reissue. A capsule's present step is discarded, and the strand stands at its start (R362).
DEDUCED (log entry 58), unsafe. -/
def savedThread (t : Thread) : Thread :=
  let t := { t with fixed := endFixed t.fixed, pc := savedPc t, caps := t.caps.map fun (c : Capsule) => { c with intents := [], path := 0 } }
  match t.run with
  | .joining _ _ _ _ => { t with run := .reissue true }
  | .parked _ => { t with run := .reissue false }
  | .stalled (.fence next) => { t with run := .ready, pc := next }
  | _ => unpark t

/-- What the capsule steps that a save goes back over have added to the path signature (R362, R483). -/
def stepPaths (g : Group) : W64 := (g.strands.filterMap (·.caps)).foldl (fun a c => a + c.path) 0

/-- The carry save block of a member (R415): its buffers, pending packets and their tags.
DESIGN CHOICE (log entry 81), unsafe. -/
def writeCsb (s : State) (m : ConvoyMember) : State :=
  let words (at_ : Nat) (l : List CarryPkt) (s : State) : State :=
    (l.zip (List.range 8)).foldl (fun s p =>
      (p.1.data.zip (List.range 8)).foldl (fun s w => memPutNat s (at_ + 64 * p.2 + 8 * w.2) 8 w.1.toNat) s) s
  let all := m.scanBuf ++ m.softBuf ++ m.out.map (·.2)
  let s := { s with mem := skeep s.mem fun a => !decide (m.csb ≤ a ∧ a < m.csb + 2048) }
  let s := words (m.csb + 0x300) (m.out.map (·.2)) (words (m.csb + 0x200) m.softBuf (words m.csb m.scanBuf s))
  (all.zip (List.range 32)).foldl (fun s p =>
    memPutNat s (m.csb + 0x500 + 8 * p.2) 8 (p.1.seg.toNat + (if p.1.failed then 2 ^ 16 else 0) + p.1.size * 2 ^ 32)) s

/-- The pool tiles of a group in its extension block, in increasing logical number (R164, R388). -/
def writeExt (s : State) (g : Group) : State :=
  match g.ext with
  | none => s
  | some at_ =>
    let tiles := sortNat ((g.accMap.filter (·.pool)).map (·.logical))
    (tiles.zip (List.range 32)).foldl (fun s t =>
      let s := { s with mem := skeep s.mem fun a => !decide (at_ + 65536 * t.2 ≤ a ∧ a < at_ + 65536 * (t.2 + 1)) }
      (g.acc.filter fun e => e.1 / 65536 == t.1).foldl (fun s e =>
        memPut s (at_ + 65536 * t.2 + e.1 % 65536) [e.2]) s) s

/-- A die on which no group holds a place any more has its routers gated (R20).
DESIGN CHOICE (log entry 91), safe. -/
def gateEmpty (s : State) (die : Nat) : State :=
  let used := s.groups.any fun g => g.cores.any fun c => dieOf c == die
  if used || s.gated.contains die then s else { s with gated := s.gated ++ [die] }

/-- What a group leaves behind on its cores is free: parked ACCALLOCs and full queues go on, and its cores ask for records again (R139). -/
def coreFreed (s : State) (cores : List Nat) : State :=
  let core := cores.headD 0
  let s := { s with asked := s.asked.filter fun c => !cores.contains c }
  gateEmpty (serveAcc (readyEngine s core) core) (dieOf core)

/-- The whole of a save (R158 steps 3-5, R322): the group's writes are performed, the record is written, and the group is
DESCHEDULED.
DESIGN CHOICE (log entry 56), unsafe. -/
def saveGroup (s : State) (g : Group) : State :=
  let cores := g.cores
  let s := g.cores.foldl (fun s c => writeBack s c fun _ => true) (leaveSems s g.gid)
  let s := modGroup s g.gid fun g =>
    { g with pilot := savedThread g.pilot, strands := g.strands.map savedThread, rounds := [], saved := true,
             path := g.path - stepPaths g, ranNs := ranTime s g, preempt := none }
  let s := capGroupStatus s g ostDescheduled
  let g := (getGroup s g.gid).getD g
  let s := writeExt (writeRecord s g) g
  let s := match (convoyOfKernel s g.kid).bind fun c => memberOf c g.gid with
    | some m => writeCsb s m
    | none => s
  let (tag, s) := emitGroup s g evGroupSave (kernelTag s g.kid)
  let s := barDesched s g true tag
  let s := modGroup s g.gid fun g => { g with gst := .descheduled, core0 := firstCore g, cores := [], die := none, pcore := none }
  let queued (o : EngineOp) : EngineOp := if o.gid = g.gid then { o with started := false } else o
  coreFreed { s with engineQ := s.engineQ.map queued } cores

/-- SAVE_COMPLETE (R158): with `written` false the write of the record has failed, which is fatal to the context (R103).
DEDUCED (log entry 61), unsafe. -/
def execSaveComplete (gid : Nat) (written : Bool) (s : State) : Host.Outcome State Fault Refusal :=
  .next (match getGroup s gid with
    | some g =>
      if g.gst = .saving ∧ quiet s g = true ∧ convoyStill s g = true then
        if written then saveGroup s g else raiseCtxFatal s g.ctx 5
      else s
    | none => s)

/-- A group whose save can end; it ends written where no unit of the record is poisoned. -/
def dueSave (s : State) : Option Instr :=
  (s.groups.find? fun g => g.gst == .saving && quiet s g && convoyStill s g).map fun g =>
    .saveComplete g.gid (!poisoned s g.saveRec (recordSize g.shape))

/-! ### Flush -/

/-- Frees what a group reserved in the save region. -/
def freeRecord (s : State) (g : Group) : State :=
  let s := if g.saveRec = 0 then s else freeSave s g.ctx g.saveRec
  match g.ext with | some a => freeSave s g.ctx a | none => s

/-- A group as an unstarted record (R138, R159). -/
def unstarted (g : Group) : Group :=
  { groupFresh g.gid g.kid g.ctx g.lin g.shape g.vals with die := g.die, core0 := firstCore g, victimOf := g.victimOf, haltPend := g.haltPend }

/-- FLUSH_COMPLETE (R159, R322, R337, R426): the state is discarded, and the group is an unstarted record again; what its cores hold
dirty is written back. -/
def execFlushComplete (gid : Nat) (s : State) : Host.Outcome State Fault Refusal :=
  .next (match getGroup s gid with
    | some g =>
      if g.gst = .flushing then
        let s := g.cores.foldl (fun s c => writeBack s c fun _ => true) s
        let s := collLeave (barFlush (leaveSems s gid) g) g false
        let s := { freeRecord s g with engineQ := s.engineQ.filter fun o => o.gid != gid }
        coreFreed (modGroup s gid unstarted) g.cores
      else s
    | none => s)

def dueFlush (s : State) : Option Instr := (s.groups.find? fun g => g.gst == .flushing).map fun g => .flushComplete g.gid

/-! ### Retirement -/

/-- R149: the pilot has halted, every strand has exited, and every engine operation has completed. -/
def canGroupRetire (s : State) (g : Group) : Bool :=
  (g.gst == .running || g.gst == .draining || g.gst == .saving) && g.pilot.run == .exited &&
    g.strands.all (fun t => t.run == .exited) && g.stq.isEmpty && !(s.engineQ.any fun o => o.gid == g.gid)

/-- A member of a convoy has ended. -/
def endMember (s : State) (g : Group) : State :=
  let s := match (convoyOfKernel s g.kid).bind fun c => memberOf c g.gid with
    | some m => freeSave s g.ctx m.csb
    | none => s
  markEnded s g.kid g.gid

/-- What is kept of a RETIRED group until its kernel ends: its name and its path signature.
DESIGN CHOICE (log entry 59), unsafe. -/
def retiredGroup (g : Group) : Group :=
  { groupFresh g.gid g.kid g.ctx g.lin g.shape g.vals with gst := .retired, core0 := firstCore g, strands := [], path := g.path }

/-- GROUP_RETIRE (R149, R337, R426): the memberships that remain, the pilot's among them, end as EXITED. -/
def execGroupRetire (gid : Nat) (s : State) : Host.Outcome State Fault Refusal :=
  .next (match getGroup s gid with
    | some g =>
      if canGroupRetire s g then
        let (tag, s) := emitGroup s g evGroupRetire (kernelTag s g.kid)
        let s := collLeave (barExit (barDesched s g false tag) g .pilot) g false
        let s := endMember (freeRecord (leaveSems s gid) g) g
        countEnded (coreFreed (modGroup s gid retiredGroup) g.cores) g.kid false
      else s
    | none => s)

def dueGroupRetire (s : State) : Option Instr := (s.groups.find? (canGroupRetire s)).map fun g => .groupRetire g.gid

def dueOverrun (s : State) : Option Instr :=
  match s.groups.find? (drainOver s) with
  | some g => some (.drainOverrun g.gid)
  | none => (s.groups.find? (boundPassed s)).map fun g => .boundMissed g.gid

end Sys2Proof.Machine
end

