-- ==== Sys2Proof/Machine/Debug.lean ====
section
/-! DEFINITION. The debug registers and the commands of DBGCMD (R474, R475). -/

namespace Sys2Proof.Machine

open Sys2Proof

/-- The group that a DBGSEL value names, RETIRED ones among them (R474). -/
def debugTarget (s : State) (sel : W64) : Option Group :=
  s.groups.find? fun g => g.ctx == fld sel 9 0 && kernelTag s g.kid == fld sel 31 10 && g.lin.toNat == fld sel 63 32

/-- Every live executor is parked: none that has begun and has not ended is in another state (R148).
DESIGN CHOICE (log entry 66), unsafe. -/
def allParked (g : Group) : Bool :=
  let l := (g.pilot :: g.strands).filter fun t => t.run != .exited && t.run != .new
  !l.isEmpty && l.all fun t => match t.run with | .parked _ => true | _ => false

/-- The group state that DBGSTAT reports (R148, R474).
DESIGN CHOICE (log entry 59), unsafe. -/
def groupCode (g : Group) : Nat :=
  match g.gst with
  | .pending => 1
  | .placing => 2
  | .running => if g.pilot.inh then 5 else if allParked g then 4 else 3
  | .halted => 6
  | .draining => 7
  | .saving => 8
  | .flushing => 9
  | .descheduled => 10
  | .retired => 11
  | .faulted => 12

/-- DBGSTAT of a slot: the result of its last command, and what its target is now (R474). -/
def dbgstat (s : State) (ctx slot : Nat) : W64 :=
  let res := fld (ctxReg s ctx (0x405 + slot)) 15 8
  match debugTarget s (ctxReg s ctx (0x400 + slot)) with
  | none => BitVec.ofNat 64 (res * 2 ^ 8)
  | some g =>
    BitVec.ofNat 64 (res * 2 ^ 8 + 2 ^ 6 + (if g.atBkpt then 2 ^ 5 else 0) + (if g.haltPend then 2 ^ 4 else 0) + groupCode g)

/-- Results of a command (R474). -/
def dbgOk : Nat := 0
def dbgNotarget : Nat := 1
def dbgDenied : Nat := 2
def dbgBadcmd : Nat := 3

/-- A strand of a resumed group takes the STATE that a debugger wrote: 1 READY, 4 TRAPPED (R473, R475).
DESIGN CHOICE (log entry 66), unsafe. -/
def wakeStrand (t : Thread) : Thread :=
  let run := match t.stateWr with
    | some 1 => Run.ready
    | some 4 => .trapped
    | _ => t.run
  { t with run := run, stopped := false, stateWr := none }

/-- The strands of a group whose STATE a debugger has written as 6 EXITED. -/
def exitMarked (g : Group) : List Nat :=
  (List.range g.strands.length).filter fun k =>
    match g.strands[k]? with | some t => t.stateWr == some 6 && t.run != .exited | none => false

/-- The strands of a stopped group take the STATE values that a debugger wrote (R473, R475). -/
def takeStates (s : State) (gid : Nat) : State :=
  let gone := match getGroup s gid with | some g => exitMarked g | none => []
  let s := gone.foldl (fun s k => match getGroup s gid with | some g => exitStrand s g k | none => s) s
  modGroup s gid fun g => { g with pilot := { g.pilot with stopped := false, stateWr := none }, strands := g.strands.map wakeStrand }

/-- RESUME (R362, R475): the executors go on at their PCs, marked strands exit, and capsules are RUNNING again. A group
that is saved comes back running: its record in memory loses HALTPEND too. -/
def resumeGroup (s : State) (g : Group) : State :=
  if g.gst = .descheduled then memPutNat (modGroup s g.gid fun g => { g with haltPend := false, atBkpt := false }) (g.saveRec + 0x135A) 1 0
  else
    let s := modGroup (takeStates s g.gid) g.gid fun g =>
      { g with gst := .running, haltPend := false, atBkpt := false, ranSince := (now s).toNat }
    let s := match getGroup s g.gid with | some h => capGroupStatus s h ostRunning | none => s
    afterExit s g.gid

/-- A command on the group of a slot, by code of a context: its result and the state it leaves (R475). -/
def debugOn (s : State) (ctx slot cmd : Nat) : Nat × State :=
  match debugTarget s (ctxReg s ctx (0x400 + slot)) with
  | none => (dbgNotarget, s)
  | some g =>
    if ctxFunc s ctx ≠ 0 ∧ ctxFunc s ctx ≠ ctxFunc s g.ctx then (dbgDenied, s)
    else match cmd with
    | 1 | 2 => if g.gst = .retired then (dbgBadcmd, s) else (dbgOk, haltGroup s g.gid (cmd == 2))
    | 3 =>
      if g.gst = .halted ∨ (g.gst = .descheduled ∧ g.haltPend = true) then (dbgOk, resumeGroup s g) else (dbgBadcmd, s)
    | 4 => (dbgOk, modCtx s g.ctx fun c => { c with bkpt := true })
    | 5 => (dbgOk, modCtx s g.ctx fun c => { c with bkpt := false })
    | _ => (dbgBadcmd, s)

/-- A write to DBGCMD (R475): the command acts, and its result stands in DBGSTAT of the slot.
DESIGN CHOICE (log entry 66), unsafe. -/
def debugCommand (s : State) (ctx slot cmd : Nat) : State :=
  let (r, s) := debugOn s ctx slot cmd
  modCtxReg s ctx (0x405 + slot) (BitVec.ofNat 64 (r * 2 ^ 8))

/-- A command of a context that holds the debug right. -/
def debugEvent (s : State) (ctx slot cmd : Nat) : Host.Outcome State Fault Refusal :=
  .next (match getCtx s ctx with
    | some c => if c.debug = true ∧ slot < 4 then debugCommand s ctx slot cmd else s
    | none => s)

/-- DEBUG_HALT (R475). -/
def execDebugHalt (ctx slot : Nat) (s : State) : Host.Outcome State Fault Refusal := debugEvent s ctx slot 1

/-- DEBUG_HALTF (R475). -/
def execDebugHaltf (ctx slot : Nat) (s : State) : Host.Outcome State Fault Refusal := debugEvent s ctx slot 2

/-- DEBUG_RESUME (R475). -/
def execDebugResume (ctx slot : Nat) (s : State) : Host.Outcome State Fault Refusal := debugEvent s ctx slot 3

/-- DEBUG_BKPTON (R475). -/
def execDebugBkpton (ctx slot : Nat) (s : State) : Host.Outcome State Fault Refusal := debugEvent s ctx slot 4

/-- DEBUG_BKPTOFF (R475). -/
def execDebugBkptoff (ctx slot : Nat) (s : State) : Host.Outcome State Fault Refusal := debugEvent s ctx slot 5

end Sys2Proof.Machine
end

