-- ==== Sys2Proof/Machine/Launcher.lean ====
section
/-! DEFINITION. The launcher and the die dispatchers: arbitration, dispatch checks, dealing, stealing, reservation of
cohorts, and the start of groups (R114, R127-R129, R133, R135, R138-R140, R147, R155, R160, R330, R413, R414). -/

namespace Sys2Proof.Machine

open Sys2Proof

/-! ### Arbitration -/

def ctxActive (s : State) (ctx : Nat) : Bool := match getCtx s ctx with | some c => c.cst == .active | none => false

/-- A kernel of an EDF queue: the class is that of its queue's QCFG now, also where the queue has been DISABLED and configured again since
the kernel's intake.
DESIGN CHOICE (log entry 102), unsafe. -/
def edfKernel (s : State) (k : Kernel) : Bool := !isLottery (queueOfCtx s k.ctx k.q)

/-- A kernel that arbitration may take (R120, R127, R129).
DEDUCED (log entry 52), unsafe. -/
def selectable (s : State) (k : Kernel) : Bool :=
  let x := queueOfCtx s k.ctx k.q
  k.kst == .armed && ctxActive s k.ctx && x.qst != .suspended &&
    (edfKernel s k || x.qst == .enabled || x.qst == .draining)

/-- The EDF kernel of smallest deadline; then the lower context, the lower queue, the earlier intake (R127). -/
def pickEdf (s : State) : Option Kernel :=
  let l := s.kernels.filter fun k => selectable s k && edfKernel s k
  let less (a b : Kernel) : Bool :=
    decide (a.pkt.deadline.toNat < b.pkt.deadline.toNat) ||
      (a.pkt.deadline == b.pkt.deadline && (decide (a.ctx < b.ctx) ||
        (a.ctx == b.ctx && (decide (a.q < b.q) || (a.q == b.q && decide (a.kid < b.kid))))))
  l.foldl (fun b k => match b with | none => some k | some x => if less k x then some k else some x) none

/-- Contexts with a lottery kernel that may be taken, in increasing order. -/
def lotteryCtxs (s : State) : List Nat :=
  sortNat ((s.kernels.filter fun k => selectable s k && !edfKernel s k).map (·.ctx))

/-- The next context of the round (R128). -/
def nextLotCtx (s : State) : Option Nat :=
  let l := lotteryCtxs s
  match l.find? (s.lotCtx < ·) with
  | some c => some c
  | none => l.head?

/-- One step of the lottery generator (R83, R129). -/
def lotStep (x : W32) : W32 := if x.getLsbD 0 then (x >>> 1) ^^^ 0x80200003 else x >>> 1

/-- The winner of a draw: the first queue whose running sum of tickets passes x (R129). -/
def drawWinner (l : List Queue) (x run : Nat) : Option Queue :=
  match l with
  | [] => none
  | q :: r => if x < run + q.tickets.toNat then some q else drawWinner r x (run + q.tickets.toNat)

/-- The queue with the largest guard, ties to the lowest number. -/
def largestGuard (l : List Queue) : Option Queue :=
  l.foldl (fun b q => match b with | none => some q | some x => if x.guard < q.guard then some q else some x) none

/-- The queue that wins a context's lottery opportunity, and the generator after it (R129). -/
def lotteryWin (s : State) (ctx : Nat) (l : List Queue) : Option Queue × State :=
  match l.find? fun q => decide (65536 ≤ q.guard) with
  | some q => (some q, emit s unitHost (some ctx) evLotteryGuard ctx 0)
  | none =>
    let total := (l.map (·.tickets.toNat)).sum
    if total = 0 then (largestGuard l, s)
    else
      let x := lotStep ((ctxReg s ctx 0x215).setWidth 32)
      (drawWinner l (x.toNat % total) 0, ctxRegWrite s ctx 0x215 (x.zeroExtend 64))

/-- The kernel that a lottery opportunity takes (R128, R129). -/
def pickLottery (s : State) : Option (Kernel × State) :=
  match nextLotCtx s with
  | none => none
  | some ctx =>
    let ks := s.kernels.filter fun k => selectable s k && !edfKernel s k && k.ctx == ctx
    let qs := (sortNat (ks.map (·.q))).map fun q => queueOfCtx s ctx q
    match lotteryWin { s with lotCtx := ctx } ctx qs with
    | (none, _) => none
    | (some w, s) =>
      let s := qs.foldl (fun s q => putQueue s { q with guard := if q.q = w.q then 0 else q.guard + 1 }) s
      ((ks.filter fun k => k.q == w.q).foldl
        (fun b k => match b with | none => some k | some x => if k.kid < x.kid then some k else some x) none).map
          fun k => (k, s)

/-- A late EDF kernel that the launcher has not seen late (R127): its context is ACTIVE.
DEDUCED (log entry 52), unsafe. -/
def newlyLate (s : State) (k : Kernel) : Bool :=
  edfKernel s k && !k.pkt.marker && !k.late && !kernelOver k && k.kst != .completing && ctxActive s k.ctx &&
    decide (k.pkt.deadline.toNat < (now s).toNat)

/-- A kernel is seen late: DEADLINE_MISS is logged, and under DROPLATE one that is not dispatched ends DROPPED (R127). -/
def missDeadline (s : State) (k : Kernel) : State :=
  if newlyLate s k then
    let s := emit (modKernel s k.kid fun k => { k with late := true }) unitHost (some k.ctx) evDeadlineMiss (k.ctx % 1024) 0
    if dropLate (queueOfCtx s k.ctx k.q) && undispatched k then finishKernel s k.kid ksLateDrop 0 else s
  else s

/-- DEADLINE_MISS (R127).
DEDUCED (log entry 53), unsafe. -/
def execDeadlineMiss (kid : Nat) (s : State) : Host.Outcome State Fault Refusal :=
  .next (match getKernel s kid with | some k => missDeadline s k | none => s)

def dueDeadline (s : State) : Option Instr := (s.kernels.find? (newlyLate s)).map fun k => .deadlineMiss k.kid

/-! ### Dispatch -/

/-- A descriptor's fields (R133). -/
def descOf (b : List Byte) : Desc :=
  { kflags := BitVec.ofNat 8 (pkf b 2 1), codeReach := BitVec.ofNat 8 (pkf b 3 1), regs := pkf b 4 1, width := pkf b 5 1,
    depth := pkf b 6 2, codebase := BitVec.ofNat 64 (pkf b 8 8), pentry := pkf b 16 4, sentry := pkf b 20 4,
    scratch := pkf b 24 4, fifo := pkf b 28 4, acc := pkf b 32 1, passes := pkf b 33 1 % 16 + 1, drain := pkf b 36 4,
    codesize := pkf b 40 8 }

/-- The first check of R135 that a descriptor fails: its number and status. -/
def descCheck (s : State) (k : Kernel) (b : List Byte) : Option (Nat × Nat) :=
  let d := descOf b
  let sh := shapeOfDesc d
  let convoy := bit1 d.kflags 1
  if pkf b 0 2 ≠ 1 ∨ 32 ≤ d.kflags.toNat ∨ 16 ≤ pkf b 33 1 ∨ pkf b 34 2 ≠ 0 ∨ (b.drop 48).take 80 ≠ List.replicate 80 0 then
    some (2, ksBaddesc)
  else if [8, 16, 32, 64].contains d.width = false ∨ d.depth = 0 ∨ 256 < d.depth ∨
      (d.regs ≠ 255 ∧ (d.regs = 0 ∨ d.regs % 8 ≠ 0)) then some (3, ksBaddesc)
  else if d.pentry % 4 ≠ 0 ∨ d.sentry % 4 ≠ 0 ∨ d.codesize ≤ d.pentry ∨ d.codesize ≤ d.sentry ∨
      d.codebase.toNat % 256 ≠ 0 then some (4, ksBaddesc)
  else if 32 < d.acc ∨ 32 < bankCount sh then some (5, ksBaddesc)
  else if d.passes ≠ 1 ∧ bit1 d.kflags 4 = false then some (6, ksBaddesc)
  else if (spreadOf d.depth sh.regs).isNone then some (7, ksBaddesc)
  else if convoy = true ∧ (sh.spread ≠ 1 ∨ 128 < gridSize k) then some (8, ksTooLarge)
  else if (bit1 d.kflags 0 = true ∨ convoy = true) ∧ cohortFits s (ctxFunc s k.ctx) sh convoy (gridSize k) = false then
    some (9, ksTooLarge)
  else none

/-- Pass 0 of a REPLAY kernel starts: CAPCOUNT and REPSTAT return to 0, and its plan is loaded (R477, R484, R485).
DESIGN CHOICE (log entry 59), unsafe. -/
def startReplay (s : State) (k : Kernel) : State :=
  if kflag k 4 then planStart (modCtxReg (ctxRegWrite s k.ctx 0x21E 0) k.ctx 0x307 0) k 0 else s

/-- The launcher reads and checks the descriptor of a kernel in DISPATCHING (R135). -/
def checkDispatch (s : State) (k : Kernel) : State :=
  match launchRead s k k.pkt.kdesc 256 with
  | (.wait kd l, s) => stallKernel s k k.pkt.kdesc .read kd l
  | (.ok _ b, s) =>
    match descCheck s k b with
    | some (n, st) => finishKernel s k.kid st n
    | none =>
      let s := modKernel s k.kid fun k => { k with desc := some (descOf b), holdSince := (now s).toNat }
      startReplay s { k with desc := some (descOf b) }
  | (_, s) => finishKernel (logPacketFault s k k.pkt.kdesc) k.kid ksPageFault 1

/-- A kernel whose descriptor has not been read. -/
def unchecked (k : Kernel) : Bool := k.kst == .dispatching && k.desc.isNone && k.stall.isNone

/-- Selects a kernel: DISPATCHING, with its place in the selection order (R136, R138). -/
def selectKernel (s : State) (k : Kernel) : State :=
  let s := modKernel { s with nextSel := s.nextSel + 1 } k.kid fun k => { k with kst := .dispatching, sel := s.nextSel }
  match getKernel s k.kid with
  | some k => checkDispatch s k
  | none => s

/-- The choice of an opportunity between the classes (R128).
DEDUCED (log entry 55), unsafe. -/
def chooseKernel (s : State) : Option (Kernel × State) :=
  match pickEdf s, pickLottery s with
  | some e, some l => if s.edfRun < 7 then some (e, { s with edfRun := s.edfRun + 1 }) else some (l.1, { l.2 with edfRun := 0 })
  | some e, none => some (e, { s with edfRun := min 7 (s.edfRun + 1) })
  | none, some l => some (l.1, { l.2 with edfRun := 0 })
  | none, none => none

/-! ### Records -/

/-- A record that no core has started. -/
def isRecord (g : Group) : Bool := g.gst == .pending && g.cores == []

/-- Records that a die holds and has not dealt to a core (R138). -/
def dieHeld (s : State) (die : Nat) : List Group :=
  s.groups.filter fun g => isRecord g && g.die == some die && g.pcore.isNone

/-- Those of contexts that place now, oldest first. -/
def dieReady (s : State) (die : Nat) : List Group :=
  sortBy (older s) ((dieHeld s die).filter fun g => ctxPlaces s g.ctx)

/-- A core's pending list, oldest first (R139). -/
def pendingList (s : State) (core : Nat) : List Group :=
  sortBy (older s) (s.groups.filter fun g => isRecord g && g.pcore == some core)

/-- The record that a core starts next: the first of its list whose context places now. -/
def nextRecord (s : State) (core : Nat) : Option Group := (pendingList s core).find? fun g => ctxPlaces s g.ctx

/-- A die with a core that is neither vacant nor fenced: only such a die takes records, since no record leaves it.
DESIGN CHOICE (log entry 54), unsafe. -/
def dieServes (s : State) (die : Nat) : Bool :=
  (List.range 32).any fun i => !s.vacant.contains (die * 32 + i) && !s.fencedCores.contains (die * 32 + i)

/-- Kernels with records to deal to a die, the first selected first (R138). -/
def dealable (s : State) (die : Nat) : Option Kernel :=
  let l := s.kernels.filter fun k =>
    k.desc.isSome && !isCohort k && (k.kst == .dispatching || k.kst == .running) && decide (k.dealt < gridSize k) &&
      ctxPlaces s k.ctx && dieServes s die && (openDies s (ctxFunc s k.ctx)).contains die
  l.foldl (fun b k => match b with | none => some k | some x => if k.sel < x.sel then some k else some x) none

/-- A group as its record is dealt: identity and shape (R138). -/
def newGroup (s : State) (k : Kernel) (lin : Nat) : Group :=
  let sh := match k.desc with | some d => shapeOfDesc d | none => { w := 8, d := 1, regs := 8, spread := 1, ns := 0, nf := 0, acc := 0 }
  groupFresh s.nextGid k.kid k.ctx (BitVec.ofNat 32 lin) sh
    { chksb := false, tvec := 0, tvreach := 0, ptvec := 0, srseed := 0, caplease := 0, logfilt := 0 }

/-- Cores of a die whose pending lists have room (R139). -/
def dealCores (s : State) (die : Nat) : List Nat :=
  (List.range 32).filterMap fun i =>
    let c := die * 32 + i
    if coreUsable s c && decide ((pendingList s c).length < 8) then some c else none

/-- A die passes its oldest record to one of its cores, a free choice, or takes the next record (R138, R139).
DESIGN CHOICE (log entry 9), safe. -/
def dealRecord (s : State) (die : Nat) : State :=
  let cores := dealCores s die
  match dieReady s die, cores with
  | g :: _, _ :: _ =>
    let c := cores.getD ((Config.freeWord s.free).toNat % cores.length) 0
    tickFree (modGroup { s with asked := s.asked.filter (· != c) } g.gid fun g => { g with pcore := some c })
  | _, _ =>
    match dealable s die with
    | some k =>
      if (dieHeld s die).length < 32 then
        let g := { newGroup s k k.dealt with die := some die }
        modKernel { s with nextGid := s.nextGid + 1, groups := s.groups ++ [g] } k.kid fun k => { k with dealt := k.dealt + 1 }
      else s
    | none => s

/-- RECORD_DEAL (R138, R139). -/
def execRecordDeal (die : Nat) (s : State) : Host.Outcome State Fault Refusal := .next (if die < 4 then dealRecord s die else s)

/-- A die that can pass on or take a record; the one that holds the fewest takes first.
DESIGN CHOICE (log entry 54), unsafe. -/
def dueDeal (s : State) : Option Instr :=
  match (List.range 4).find? fun d => !(dieReady s d).isEmpty && !(dealCores s d).isEmpty with
  | some d => some (.recordDeal d)
  | none =>
    let l := (List.range 4).filter fun d => (dealable s d).isSome && decide ((dieHeld s d).length < 32)
    let load (d : Nat) : Nat := (s.groups.filter fun g => isRecord g && g.die == some d).length
    (l.foldl (fun (b : Option Nat) d => match b with | none => some d | some x => if load d < load x then some d else some x) none).map
      .recordDeal

/-! ### Room and precedence -/

/-- Where a group would go from a core, among the cores that meet a test; a convoy member takes a core of its own, and a saved group
needs room for the tiles it had allocated (R140, R145, R389). -/
def roomWhere (s : State) (g : Group) (core : Nat) (p : Nat → Bool) : Option (Pos × List Nat) :=
  let feet := feetOf s
  let conv := match getKernel s g.kid with | some k => kflag k 1 | none => false
  let cores := openCores s (ctxFunc s g.ctx)
  let ok (c : Nat) : Bool := p c && coreUsable s c && cores.contains c && !(conv && (onCoreFeet feet c).any fun x => x.kid == g.kid)
  if ok core then packAt feet g.shape g.kid (max g.shape.acc g.accMap.length) core ok else none

/-- Room for a group from a core. -/
def roomAt (s : State) (g : Group) (core : Nat) : Option (Pos × List Nat) := roomWhere s g core fun _ => true

/-- Room to start a record from a core: no core of it is held for a cohort selected before its kernel (R140). -/
def startAt (s : State) (g : Group) (core : Nat) : Option (Pos × List Nat) :=
  let sel := match getKernel s g.kid with | some k => k.sel | none => 0
  roomWhere s g core fun c => !coreHeld s sel c

/-- A group saved for a waiting EDF kernel waits for it (R160). -/
def waitsForVictor (s : State) (h : Group) : Bool :=
  match h.victimOf.bind (getKernel s) with
  | some k =>
    k.kst == .dispatching &&
      (decide (k.dealt < gridSize k) || s.groups.any fun g => g.kid == k.kid && g.gst == .pending && !g.saved)
  | none => false

/-- Every member of a group's convoy that has not ended has been saved (R415). -/
def convoyAway (s : State) (g : Group) : Bool :=
  match convoyOfKernel s g.kid with
  | none => true
  | some c => c.members.all fun m =>
      m.ended || (match getGroup s m.gid with | some h => h.gst == .descheduled || h.gst == .faulted | none => true)

/-- Saved groups that may come back, oldest first (R160): a convoy's once all of it has been saved (R415).
DESIGN CHOICE (log entry 57), unsafe. -/
def restorable (s : State) : List Group :=
  sortBy (older s) (s.groups.filter fun g => g.gst == .descheduled && ctxPlaces s g.ctx && convoyAway s g)

/-- Two contexts share a die set. -/
def sameDies (s : State) (a b : Nat) : Bool := openDies s (ctxFunc s a) == openDies s (ctxFunc s b)

/-- An older saved group of the die set comes first (R160). -/
def behindSaved (s : State) (g : Group) : Bool :=
  (restorable s).any fun h => sameDies s g.ctx h.ctx && older s h g && !(h.victimOf == some g.kid && waitsForVictor s h)

/-- A record of a core that can start now (R139, R140, R160). -/
def canStart (s : State) (g : Group) (core : Nat) : Bool :=
  !behindSaved s g && (startAt s g core).isSome

/-- The longest pending list of a die, the lowest core on a tie (R139). -/
def longestList (s : State) (die : Nat) : Option Nat :=
  ((List.range 32).map (die * 32 + ·)).foldl (fun (b : Option Nat) c =>
    let n := (pendingList s c).length
    match b with
    | none => if n = 0 then none else some c
    | some x => if (pendingList s x).length < n then some c else some x) none

/-- What a steal ships: the younger half of the victim's list, rounded up (R139). -/
def stealable (s : State) (core : Nat) : List Group :=
  if coreUsable s core = false ∨ pendingList s core ≠ [] then []
  else match longestList s (dieOf core) with
  | some v =>
    let l := pendingList s v
    l.drop (l.length - ceilDiv l.length 2)
  | none => []

/-- STEAL_REQUEST (R139): one that meets an empty list returns nothing. The core has asked. -/
def execStealRequest (core : Nat) (s : State) : Host.Outcome State Fault Refusal :=
  let s' := (stealable s core).foldl (fun s g => modGroup s g.gid fun g => { g with pcore := some core }) s
  .next { s' with asked := s.asked.filter (· != core) ++ [core] }

/-- A core with an empty list and room for a group, which has not asked yet: it asks again after its next group ends or a record is dealt to
it. The room is for the first record that it would get.
DESIGN CHOICE (log entry 54), unsafe. -/
def dueSteal (s : State) : Option Instr :=
  if (s.groups.any fun g => isRecord g && g.pcore.isSome) = false then none
  else ((List.range 128).find? fun c =>
    !s.asked.contains c && (match stealable s c with | g :: _ => (roomAt s g c).isSome | [] => false)).map .stealRequest

/-! ### Starting a group -/

/-- The context values a group takes when it is placed (R114, R152, R350, R467). -/
def valsOf (s : State) (ctx : Nat) : PlaceVals :=
  let r (n : Nat) : W64 := ctxReg s ctx n
  { chksb := bit1 (r 0x200) 0, tvec := r 0x210, tvreach := (r 0x211).setWidth 8, ptvec := r 0x216,
    srseed := (r 0x212).setWidth 32, caplease := (r 0x222).setWidth 40, logfilt := (r 0x503).setWidth 2 }

/-- SRSTATE of a fresh executor (R83). -/
def srSeeded (seed : W32) (i : Nat) : W32 :=
  let x := BitVec.ofNat 32 i ^^^ seed
  if x = 0 then 1 else x

/-- The seed of a group's generators: in a later pass of a replay, that of pass 0 (R83). -/
def seedOf (k : Kernel) (g : Group) (seed : W32) : W32 :=
  let x := sget k.seeds g.lin.toNat
  if 0 < k.pass ∧ x.getLsbD 32 = true then x.setWidth 32 else seed

/-- A group as it starts (R147).
DESIGN CHOICE (log entry 57), unsafe. -/
def startedGroup (s : State) (g : Group) (k : Kernel) (d : Desc) (rec : Nat) (p : Pos) (cores : List Nat) : Group :=
  let v := valsOf s g.ctx
  let seed := seedOf k g v.srseed
  { g with
    gst := .placing, priv := k.pkt.privreq, codeReach := d.codeReach, sentry := d.codebase + BitVec.ofNat 64 d.sentry,
    cores := cores, pcore := cores.head?, part := p.part, lane0 := p.lane0, regbase := p.base, saveRec := rec, vals := v,
    ranSince := (now s).toNat, ranNs := 0,
    sregs := ssets [] 0 [k.pkt.args, k.pkt.reach.zeroExtend 64, g.lin.zeroExtend 64],
    h := ssets [] 0 ((List.range 8).map fun i => (ctxReg s g.ctx (0x208 + i)).setWidth 8),
    pilot := { Thread.fresh with run := .ready, pc := d.codebase + BitVec.ofNat 64 d.pentry, srstate := srSeeded seed 65536 },
    strands := (List.range (g.shape.w * g.shape.d)).map fun i => { Thread.fresh with srstate := srSeeded seed i },
    modes := List.replicate g.shape.ns .scratch ++ List.replicate g.shape.nf .fifo }

/-- A member's carry save block (R413). -/
def addMember (s : State) (g : Group) (csb : Nat) : State :=
  modConvoy s g.kid fun c =>
    { c with members := c.members ++ [{ pos := g.lin.toNat, gid := g.gid, seg := 0, scanBuf := [], softBuf := [], out := [],
                                         barArr := false, csb := csb, ended := false }] }

/-- The group that starts: its save record, and a convoy member's carry save block (R108, R413). -/
def reserveRecord (s : State) (g : Group) : Option (Nat × State) :=
  match allocSave s g.ctx (recordSize g.shape) with
  | none => none
  | some (at_, s) =>
    if (convoyOfKernel s g.kid).isSome then (allocSave s g.ctx 2048).map fun r => (at_, addMember r.2 g r.1)
    else some (at_, s)

/-- SAVE_SPACE, once per kernel, under the kernel's id as in ACCALLOC (R108, R141, R389).
DEDUCED (log entry 41), unsafe. -/
def logSpace (s : State) (k : Kernel) : State :=
  if k.spaceLogged then s
  else modKernel (emit s unitHost (some k.ctx) evSaveSpace (kernelObj k) 0) k.kid fun k => { k with spaceLogged := true }

/-- The context's control block cannot be read (R103). After CREATE the model reads it when a group starts, and then alone.
DESIGN CHOICE (log entry 98), unsafe. -/
def controlPoisoned (s : State) (ctx : Nat) : Bool := match getCtx s ctx with | some c => poisoned s c.area 4096 | none => false

/-- An unstarted record starts at a position, and sees what its launch acquired (R144, R147, R148, R319); none where the save region cannot
supply its record. -/
def placeRecord (s : State) (k : Kernel) (d : Desc) (g : Group) (p : Pos) (cores : List Nat) : Option State :=
  match reserveRecord s g with
  | none => none
  | some (rec, s) =>
    let s := modGroup (cores.foldl dropClean s) g.gid fun g => startedGroup s g k d rec p cores
    let g := (getGroup s g.gid).getD g
    let (tag, s) := emitGroup s g evGroupPlace (kernelTag s g.kid)
    let s := barDesched s g false tag
    some (modKernel s k.kid fun k => { k with kst := if k.kst = .dispatching then .running else k.kst })

/-- A record starts; a save region without room is logged, and a control block that cannot be read is fatal to the context (R103, R108). -/
def startGroup (s : State) (g : Group) (p : Pos) (cores : List Nat) : State :=
  match getKernel s g.kid with
  | none => s
  | some k =>
    if controlPoisoned s g.ctx then raiseCtxFatal s g.ctx 1
    else match k.desc.bind fun d => placeRecord s k d g p cores with
    | some s => s
    | none => logSpace s k

/-- Pool tiles become quota tiles while the quota has room, and tiles get free physical numbers (R389). -/
def rebindTiles (acc : Nat) (busy : List Nat) (l : List AccTile) : List AccTile :=
  let quota := (l.filter fun t => !t.pool).length
  (l.foldl (fun (a : List AccTile × Nat) t =>
    let phys := ((List.range 32).find? fun n => !busy.contains n && !(a.1.any fun x => x.phys == n)).getD 0
    let turn := t.pool && decide (a.2 < acc)
    (a.1 ++ [{ t with phys := phys, pool := t.pool && !turn }], if turn then a.2 + 1 else a.2)) ([], quota)).1

/-- The words of a saved record that memory no longer holds as the group was saved, below its engine tail (R160, R162). -/
def changedWords (s : State) (g : Group) : List Nat :=
  let here := (s.mem.filter fun e => decide (g.saveRec ≤ e.1 ∧ e.1 < g.saveRec + tailOff g.shape)).map fun e => e.1 - g.saveRec
  (sortNat ((here ++ (recordItems s g).map (·.1)).map (· / 8))).filter fun w =>
    decide (8 * w < tailOff g.shape) && memGet s (g.saveRec + 8 * w) 8 != imageLive s g (8 * w) 8

/-- A saved group as its record in memory has it (R160): words that something has written since the save are taken over, in the areas
that R473 names.
DESIGN CHOICE (log entry 56), unsafe. -/
def readRecord (s : State) (g : Group) : Group :=
  (changedWords s g).foldl (fun g w => setImageWord g (8 * w) (BitVec.ofNat 64 (memGetNat s (g.saveRec + 8 * w) 8))) g

/-- A saved group is placed again from its record, with an acquire on each of its new cores (R160, R322).
DESIGN CHOICE (log entry 56), unsafe. -/
def restoreGroup (s : State) (g : Group) (p : Pos) (cores : List Nat) : State :=
  let s := cores.foldl dropClean s
  let busy := (engGroups s (cores.headD 0)).flatMap fun h => h.accMap.map (·.phys)
  let read := readRecord s g
  let s := modGroup s g.gid fun _ =>
    { read with gst := .placing, cores := cores, die := cores.head?.map dieOf, part := p.part, lane0 := p.lane0, regbase := p.base,
                accMap := rebindTiles g.shape.acc busy g.accMap, ranSince := (now s).toNat, victimOf := none }
  let g := (getGroup s g.gid).getD g
  let (tag, s) := emitGroup s g evGroupPlace (kernelTag s g.kid)
  barDesched s g false tag

/-- The saved members of a cohort's convoy come back all or nothing (R415). -/
def restoreSet (s : State) (g : Group) : List Group :=
  match convoyOfKernel s g.kid with
  | some _ => (restorable s).filter fun h => h.kid == g.kid
  | none => [g]

/-- Places saved groups one after another, each at the lowest core with room; none where one finds none.
DESIGN CHOICE (log entry 57), unsafe. -/
def restoreAll (s : State) (l : List Group) : Option State :=
  match l with
  | [] => some s
  | g :: r =>
    match (List.range 128).findSome? fun c => roomAt s g c with
    | some (p, cs) => restoreAll (restoreGroup s g p cs) r
    | none => none

/-- A convoy whose members come back forms again (R414). -/
def reformConvoy (s : State) (kid : Nat) : State :=
  match convoyOfKernel s kid with
  | some c =>
    if c.cvst = .forming then s
    else setConvoy (modConvoy s kid fun c => { c with back := c.cvst }) kid .forming
  | none => s

/-- RECORD_START (R139, R148, R160): an unstarted record of a core's list, or a saved group. -/
def execRecordStart (core gid : Nat) (s : State) : Host.Outcome State Fault Refusal :=
  .next (match getGroup s gid with
    | none => s
    | some g =>
      if g.gst = .descheduled ∧ ctxPlaces s g.ctx = true ∧ convoyAway s g = true then
        (match restoreAll s (restoreSet s g) with | some t => reformConvoy t g.kid | none => s)
      else if (nextRecord s core).map (·.gid) = some gid ∧ canStart s g core = true then
        (match startAt s g core with | some (p, cs) => startGroup s g p cs | none => s)
      else s)

/-- The save region can supply a group's record, or SAVE_SPACE has not been logged for its kernel. -/
def startProgress (s : State) (g : Group) : Bool :=
  (reserveRecord s g).isSome || (match getKernel s g.kid with | some k => !k.spaceLogged | none => false)

/-- The oldest saved group comes back first; then the first record of each core's list. -/
def dueStart (s : State) : Option Instr :=
  let saved := (restorable s).find? fun g => !waitsForVictor s g
  match saved.bind fun g => (restoreAll s (restoreSet s g)).map fun _ => g with
  | some g => some (.recordStart 0 g.gid)
  | none =>
    if (s.groups.any fun g => isRecord g && g.pcore.isSome) = false then none
    else (List.range 128).findSome? fun c =>
      (nextRecord s c).bind fun g => if canStart s g c && startProgress s g then some (.recordStart c g.gid) else none

/-- Regions whose routers are gated are powered first (R20). A region is taken to be a die; the model gates one when its last placed
group leaves it.
DESIGN CHOICE (log entry 91), safe. -/
def powerUp (s : State) (g : Group) : State := { s with gated := s.gated.filter fun d => !(g.cores.map dieOf).contains d }

/-- Every member of a group's convoy has its place (R414, R415).
DEDUCED (log entry 60), unsafe. -/
def convoyPlaced (s : State) (g : Group) : Bool :=
  match convoyOfKernel s g.kid with
  | none => true
  | some c =>
    c.members.length == c.len && c.members.all fun m =>
      m.ended || (match getGroup s m.gid with | some h => h.gst == .placing || onCore h || h.gst == .faulted | none => true)

/-- A group's executors go on from where they were saved: a capsule is resumed, and a suspended one, whose strand is in its handler,
is marked RUNNING (R362). -/
def resumeCaps (s : State) (g : Group) : State :=
  (List.range g.strands.length).foldl (fun s k =>
    match g.strands[k]? with
    | some t =>
      match t.caps with
      | some c => if c.mode = .suspended then capStatus s g k c.record ostRunning true else resumeCapsule s { gid := g.gid, who := .strand k } c.start
      | none => s
    | none => s) s

/-- An executor of a placed group: one saved at a park or a join issues its instruction again (R158, R163). -/
def placedThread (halt : Bool) (t : Thread) : Thread :=
  { t with stopped := halt, run := match t.run with | .reissue _ => .ready | r => r }

/-- A group that has come to stand on a hot die is pre-empted by save (R500), a cohort's with its kernel's others; so is one that comes to
stand while another group of its cohort is being saved (R155, R415). -/
def coolGroup (s : State) (gid : Nat) : State :=
  match getGroup s gid with
  | some g =>
    let (l, cohort) := preemptSet s gid
    if g.cores.any fun c => s.mgmt.hotDies.contains (dieOf c) then l.foldl (fun s n => requestPreempt s n 0 false none true) s
    else if cohort && s.groups.any fun h => l.contains h.gid && h.gst == .saving then requestPreempt s gid 0 false none true
    else s
  | none => s

/-- Resources and routers are ready: RUNNING, or HALTED where HALTPEND was saved (R20, R148); strands whose STATE a debugger has written in
the record take it (R473). -/
def readyGroup (s : State) (g : Group) : State :=
  let s := powerUp s g
  let halt := g.haltPend
  let s := modGroup s g.gid fun g =>
    { g with gst := if halt then .halted else .running, haltPend := false, saved := false,
             pilot := placedThread halt g.pilot, strands := g.strands.map (placedThread halt) }
  match getGroup s g.gid with
  | some h =>
    let s := if g.saved then resumeCaps s h else s
    if halt then capGroupStatus s h ostHalted
    else if g.saved then
      let marked := h.strands.any fun t => t.stateWr.isSome
      let s := if marked then afterExit (takeStates s g.gid) g.gid else s
      coolGroup (serveSlots s g.gid) g.gid
    else coolGroup s g.gid
  | none => s

/-- PLACEMENT_READY (R148). -/
def execPlacementReady (gid : Nat) (s : State) : Host.Outcome State Fault Refusal :=
  .next (match getGroup s gid with
    | some g => if g.gst = .placing ∧ convoyPlaced s g = true then readyGroup s g else s
    | none => s)

def dueReady (s : State) : Option Instr :=
  (s.groups.find? fun g => g.gst == .placing && convoyPlaced s g).map fun g => .placementReady g.gid

def dueSealed (s : State) : Option Instr :=
  (s.convoys.find? fun c => c.cvst == .forming && convoyStands s c).map fun c => .convoySealed c.kid

/-! ### Cohorts -/

/-- The whole grid of a waiting cohort fits now, and no saved group comes before it (R140, R160).
DESIGN CHOICE (log entry 54), unsafe. -/
def cohortPlan (s : State) (k : Kernel) : Option (List (Pos × List Nat)) :=
  match k.desc with
  | none => none
  | some d =>
    let cores := openCores s (ctxFunc s k.ctx)
    let usable (c : Nat) : Bool := cores.contains c && coreUsable s c && !coreHeld s k.sel c
    let l := packMany (shapeOfDesc d) k.kid (bit1 d.kflags 1) usable (gridSize k) cores (feetOf s)
    if l.length = gridSize k ∧ behindSaved s (newGroup s k 0) = false then some l else none

/-- The records of a reserved cohort, with their places. -/
def cohortRecords (s : State) (k : Kernel) (l : List (Pos × List Nat)) : State :=
  (l.zip (List.range l.length)).foldl (fun s e =>
    let g := { newGroup s k e.2 with
               cores := e.1.2, die := e.1.2.head?.map dieOf, pcore := e.1.2.head?, part := e.1.1.part,
               lane0 := e.1.1.lane0, regbase := e.1.1.base }
    { s with nextGid := s.nextGid + 1, groups := s.groups ++ [g] }) s

/-- The grid barrier of a GRIDSYNC kernel, with each group's pilot as its sole member (R330). -/
def makeGrid (s : State) (k : Kernel) : State :=
  let gs := s.groups.filter fun g => g.kid == k.kid && g.gst == .pending
  let key : BarKey := { level := 4, num := 0, inst := k.kid, grid := true }
  let b : Barrier :=
    { key := key, kid := some k.kid, cfg := BitVec.ofNat 64 (gridSize k % 2 ^ 16 + fld (ctxReg s k.ctx 0x221) 39 0 * 2 ^ 24),
      bst := .collecting, phase := 0, wpend := 0, opened := now s, members := [], parties := [], lateLogged := false,
      made := s.nextMade, lost := false, remoteHome := false }
  let b := gs.foldl (fun b g =>
    registerMember s b { rank := s.rank, gid := g.gid, lin := g.lin, who := .pilot, arrived := false, waiter := false,
                         exited := false } (g.cores.headD 0) 0) b
  logBar (putBar { s with nextMade := s.nextMade + 1 } k.ctx b) k.ctx key 1 0

/-- The convoy of a CONVOY kernel, FORMING (R413, R414). -/
def makeConvoy (s : State) (k : Kernel) : State :=
  let c : Convoy := { kid := k.kid, cvst := .forming, back := .sealed, len := gridSize k, members := [] }
  emit { s with convoys := s.convoys ++ [c] } unitHost (some k.ctx) evConvoyState (kernelObj k) (gridSize k * 2 ^ 32)

/-- The records of a cohort start where room was reserved for them, each with its save record; none where the save region cannot supply them
all (R108, R140). -/
def startCohort (s : State) (k : Kernel) (d : Desc) : Option State :=
  (s.groups.filter fun g => g.kid == k.kid && g.gst == .pending).foldl (fun (r : Option State) g =>
    r.bind fun s => placeRecord s k d g { part := g.part, lane0 := g.lane0, base := g.regbase } g.cores) (some s)

/-- Room for every group is reserved in one step, with everything of R144, and the cores start the records at once; none where the save
region has no room for them all (R108, R140).
DESIGN CHOICE (log entry 54), unsafe. -/
def reserveCohort (s : State) (k : Kernel) (l : List (Pos × List Nat)) : Option State :=
  let s := cohortRecords s k l
  let s := modKernel s k.kid fun k => { k with cohort := true, dealt := gridSize k }
  let s := if kflag k 0 then makeGrid s k else s
  let s := if kflag k 1 then makeConvoy s k else s
  k.desc.bind (startCohort s k)

/-- COHORT_RESERVATION (R103, R108, R140). -/
def execCohortReservation (kid : Nat) (s : State) : Host.Outcome State Fault Refusal :=
  .next (match getKernel s kid with
    | some k =>
      if cohortWaits k && k.desc.isSome && ctxPlaces s k.ctx then
        match cohortPlan s k with
        | some l =>
          if controlPoisoned s k.ctx then raiseCtxFatal s k.ctx 1 else (reserveCohort s k l).getD (logSpace s k)
        | none => s
      else s
    | none => s)

/-- The reservation of a cohort can be met, or a save region without room for it has not been logged. -/
def cohortProgress (s : State) (k : Kernel) : Bool :=
  match cohortPlan s k with | some l => !k.spaceLogged || (reserveCohort s k l).isSome | none => false

/-- COHORT_WAIT (R140): the hold has lasted 1 ms. -/
def cohortLate (s : State) (k : Kernel) : Bool :=
  cohortWaits k && k.desc.isSome && !k.waitLogged && decide (k.holdSince + 1000000 ≤ (now s).toNat)

/-- DEDUCED (log entry 53), unsafe. -/
def execCohortWait (kid : Nat) (s : State) : Host.Outcome State Fault Refusal :=
  .next (match getKernel s kid with
    | some k =>
      if cohortLate s k then
        modKernel (emit s unitHost (some k.ctx) evCohortWait (k.ctx % 1024) 0) kid fun k => { k with waitLogged := true }
      else s
    | none => s)

def dueCohort (s : State) : Option Instr :=
  let l := s.kernels.filter fun k => cohortWaits k && k.desc.isSome
  match l.find? fun k => ctxPlaces s k.ctx && cohortProgress s k with
  | some k => some (.cohortReservation k.kid)
  | none => (l.find? (cohortLate s)).map fun k => .cohortWait k.kid

/-! ### Placement opportunities -/

/-- A kernel has a group that has not started. -/
def hasUnstarted (s : State) (k : Kernel) : Bool :=
  cohortWaits k || (!isCohort k && (decide (k.dealt < gridSize k) || s.groups.any fun g => g.kid == k.kid && isRecord g))

/-- A selected EDF kernel that finds no room on the dies open to it, and for which no request is taking effect (R155): no core can
place one group of it. -/
def starved (s : State) (k : Kernel) : Bool :=
  let g := newGroup s k 0
  edfKernel s k && k.desc.isSome && (k.kst == .dispatching || k.kst == .running) && ctxPlaces s k.ctx && hasUnstarted s k &&
    !(s.groups.any fun g => g.victimOf == some k.kid && (g.gst == .draining || g.gst == .saving || g.gst == .flushing)) &&
    !((List.range 128).any fun c => (startAt s g c).isSome) && (allocSave s k.ctx (recordSize g.shape)).isSome

/-- The victim: the youngest group on the open dies of a lottery kernel or of an EDF kernel with a later deadline, no cohort's
(R155). -/
def victimFor (s : State) (k : Kernel) : Option Group :=
  let dies := openDies s (ctxFunc s k.ctx)
  let l := s.groups.filter fun g =>
    (g.gst == .running || g.gst == .halted || g.gst == .draining) && (g.cores.any fun c => dies.contains (dieOf c)) &&
      (match getKernel s g.kid with
      | some x => x.kid != k.kid && !isCohort x && (!edfKernel s x || decide (k.pkt.deadline.toNat < x.pkt.deadline.toNat))
      | none => false)
  l.foldl (fun b g => match b with | none => some g | some x => if older s x g then some g else some x) none

/-- A request that the launcher makes now: kernel and victim.
DEDUCED (log entry 55), unsafe. -/
def launcherRequest (s : State) : Option (Kernel × Group) :=
  s.kernels.findSome? fun k => if starved s k then (victimFor s k).map fun g => (k, g) else none

/-- The bound of a launcher's request (R155). -/
def edfBound (s : State) (k : Kernel) : Nat := max 1000 ((k.pkt.deadline.toNat - (now s).toNat) / 2)

/-- A die dispatcher has room for a record, and no selected kernel has one left to deal. -/
def opportunity (s : State) : Bool :=
  (List.range 4).any fun d => dieServes s d && (dealable s d).isNone && decide ((dieHeld s d).length < 32)

/-- PLACEMENT_OPPORTUNITY (R127-R129, R135, R155): the chronometer is compared with every deadline at the selection. -/
def execPlacementOpportunity (s : State) : Host.Outcome State Fault Refusal :=
  .next (match s.kernels.find? unchecked with
    | some k => checkDispatch s k
    | none =>
      match launcherRequest s with
      | some (k, g) => requestPreempt s g.gid (edfBound s k) true (some k.kid) false
      | none =>
        if opportunity s then
          let s := s.kernels.foldl missDeadline s
          (match chooseKernel s with | some (k, s) => selectKernel s k | none => s)
        else s)

def dueOpportunity (s : State) : Option Instr :=
  if s.kernels.any unchecked || (launcherRequest s).isSome || (opportunity s && (chooseKernel s).isSome)
  then some .placementOpportunity else none

end Sys2Proof.Machine
end

