-- ==== Sys2Proof/Machine/Replay.lean ====
section
/-! DEFINITION. Multi-pass replay: the capture of a granule, the restoration between passes, and the signatures
(R274, R275, R484-R486). -/

namespace Sys2Proof.Machine

open Sys2Proof

/-- The bytes of a granule, listed: of main memory, of the host, or of a peer (R17, R447). -/
def granuleBytes (s : State) (src : Nat) : Sparse 8 :=
  match hostBus src with
  | some a => (s.hostMem.filter fun e => decide (a ≤ e.1 ∧ e.1 < a + 65536)).map fun e => (e.1 - a, e.2)
  | none =>
    if apertureBase ≤ src then ssets [] 0 (physBytes s src 65536)
    else (s.mem.filter fun e => decide (src ≤ e.1 ∧ e.1 < src + 65536)).map fun e => (e.1 - src, e.2)

/-- A memory in which a granule's bytes stand at a place. -/
def putGranule (m : Sparse 8) (at_ : Nat) (bs : Sparse 8) : Sparse 8 :=
  bs.foldl (fun m e => sset m (at_ + e.1) e.2) (skeep m fun a => !decide (at_ ≤ a ∧ a < at_ + 65536))

/-- A granule goes to a peer, in posted writes of 4 KiB (R440, R448). -/
def sendGranule (s : State) (ctx dst : Nat) (bs : Sparse 8) : State :=
  let (rank, a) := peerOf s dst
  (List.range 16).foldl (fun s i =>
    postPeer s ctx (filtOf s (some ctx)) unitHost rank fun tag =>
      { pkt0 s rank .write 0 ctx tag with
        addr := BitVec.ofNat 64 (a + 4096 * i), opinfo := opInfo 12 0 4 0 0, payload := sgets bs (4096 * i) 4096,
        tag := postedTag }) s

/-- Copies 64 KiB of main memory, of the host or of a peer for a context, with the marks of poison of main memory. -/
def copyGranule (s : State) (ctx src dst : Nat) : State :=
  let bs := granuleBytes s src
  let p := (s.poison.filter fun u => decide (src / 16 ≤ u ∧ u < src / 16 + 4096)).map fun u => u - src / 16 + dst / 16
  match hostBus dst with
  | some a => { s with hostMem := putGranule s.hostMem a bs }
  | none =>
    if apertureBase ≤ dst then sendGranule s ctx dst bs
    else { s with mem := putGranule s.mem dst bs,
                  poison := (s.poison.filter fun u => !decide (dst / 16 ≤ u ∧ u < dst / 16 + 4096)) ++ p }

/-- The frame that a granule maps to now. -/
def frameOf (s : State) (ctx : Nat) (g : BitVec 72) : Option Nat :=
  match walk s ctx g with
  | .leaf l => some (l.pa + g.toNat % 2 ^ l.bits)
  | _ => none

/-- Address of snapshot slot i (R274). -/
def snapAt (s : State) (ctx i : Nat) : Nat := (ctxReg s ctx 0x21C).toNat + 0x100000 + 0x10000 * i

/-- The unit and filter of what waits for a capture copy of a context: the executor, engine or collective whose write
started it.
DEDUCED (log entry 67), unsafe. -/
def captureUnit (s : State) (ctx : Nat) : Nat × Nat :=
  match (whoWith s fun g t => g.ctx == ctx && t.run == .stalled .capture).head? with
  | some id =>
    (match getGroup s id.gid with | some g => (unitOf g id.who, g.vals.logfilt.toNat) | none => (unitHost, 0))
  | none =>
    match s.engineQ.find? fun o => o.stall == some (0 : W32) && (match getGroup s o.gid with | some g => g.ctx == ctx | none => false) with
    | some o =>
      (match getGroup s o.gid with | some g => (unitEngine (engCore g) o.eng, g.vals.logfilt.toNat) | none => (unitHost, 0))
    | none => (unitHost, filtOf s (some ctx))

/-- What waited for a capture copy goes on. -/
def endCapture (s : State) (ctx : Nat) : State :=
  let go (t : Thread) : Thread := if t.run = .stalled .capture then { t with run := .ready } else t
  resumeFault { s with groups := s.groups.map fun g =>
    if g.ctx = ctx then { g with pilot := go g.pilot, strands := g.strands.map go } else g } ctx 0 false

/-- CAPTURE_COPY_DONE (R275): the granule is in its snapshot slot, its record is written, CAPT is set, and the held write
goes on. What cores hold dirty of the granule is written back first.
DEDUCED (log entry 67), unsafe. -/
def execCaptureCopyDone (ctx : Nat) (granule : BitVec 72) (s : State) : Host.Outcome State Fault Refusal :=
  .next (match getCtx s ctx with
    | some c =>
      if c.capturing.contains granule then
        let s := modCtx s ctx fun c => { c with capturing := c.capturing.filter (· != granule) }
        match frameOf s ctx granule with
        | some pa =>
          let n := fld (ctxReg s ctx 0x21E) 16 0
          let s := (List.range 128).foldl (fun s c => writeBack s c fun a => decide (pa ≤ a ∧ a < pa + 65536)) s
          let s := copyGranule s ctx pa (snapAt s ctx n)
          let at_ := (ctxReg s ctx 0x21C).toNat + 16 * n
          let s := memPutNat (memPutNat s at_ 8 (fld granule 63 0)) (at_ + 8) 8 (fld granule 71 64)
          let s := ctxRegWrite (setCapt s ctx granule true) ctx 0x21E (BitVec.ofNat 64 (n + 1))
          let (unit, filt) := captureUnit s ctx
          let (_, s) := emitFilt s filt unit (some ctx) evPageCapture (fld granule 71 64 * 2 ^ 16 + ctx % 1024) (fld granule 63 16) 0
          endCapture s ctx
        | none => endCapture s ctx
      else s
    | none => s)

/-! ### Restoration -/

/-- Step 1 (R484): dirty copies of captured granules are dropped, every other one is written back, and the clean copies
and decoded tiles of the context are dropped. -/
def dropCopies (s : State) (ctx : Nat) : State :=
  let frames := (captured s ctx).filterMap (frameOf s ctx)
  let inCaptured (a : Nat) : Bool := frames.any fun f => decide (f ≤ a ∧ a < f + 65536)
  let s := { s with dirty := skeep s.dirty fun k => !inCaptured (k % 2 ^ 52) }
  let s := (List.range 128).foldl (fun s c => dropClean (writeBack s c fun _ => true) c) s
  modCtx s ctx fun c => { c with decoded := [] }

/-- Step 2 (R484): the snapshots are copied back, in slot order; false where a granule no longer translates. -/
def restoreSlots (s : State) (ctx : Nat) (is : List Nat) : Bool × State :=
  match is with
  | [] => (true, s)
  | i :: r =>
    match frameOf s ctx (captRecord s ctx i) with
    | none => (false, s)
    | some pa => restoreSlots (copyGranule s ctx (snapAt s ctx i) pa) ctx r

/-- Restoration of a context's captured write set. -/
def restoreWrites (s : State) (ctx : Nat) : Bool × State :=
  let s := dropCopies s ctx
  restoreSlots s ctx (List.range (fld (ctxReg s ctx 0x21E) 16 0))

/-! ### Signatures -/

/-- The retired groups of a kernel's pass, in linear order. -/
def passGroups (s : State) (kid : Nat) : List Group :=
  sortBy (fun a b => decide (a.lin.toNat ≤ b.lin.toNat)) (s.groups.filter fun g => g.kid == kid && g.gst == .retired)

/-- A signature that differs: the first one sets REPSTAT, and is logged as REPLAY_MISMATCH (R486). -/
def mismatch (s : State) (k : Kernel) (g : Group) : State :=
  if bit1 (ctxReg s k.ctx 0x307) 0 then s
  else
    let s := modCtxReg s k.ctx 0x307 (BitVec.ofNat 64 (1 + k.pass % 16 * 2 ^ 4 + g.lin.toNat * 2 ^ 32))
    emit s unitHost (some k.ctx) evReplayMismatch (kernelObj k) (k.pass % 16 * 2 ^ 32 + g.lin.toNat)

/-- The signatures of a pass are stored, in pass 0, or compared with those of pass 0 (R486).
DEDUCED (log entry 67), unsafe. -/
def signatures (s : State) (k : Kernel) : State :=
  let base := (ctxReg s k.ctx 0x308).toNat
  if base = 0 then s
  else (passGroups s k.kid).foldl (fun s g =>
    let at_ := base + 8 * g.lin.toNat
    if inMain at_ 8 = false then s
    else if k.pass = 0 then
      let (tag, s) := writeTag s unitHost at_ 8
      homeWrite s none at_ (toBytes 8 g.path.toNat) tag
    else if memGetNat s at_ 8 = g.path.toNat then s else mismatch s k g) s

/-! ### The passes -/

/-- A REPLAY kernel whose pass has ended (R141, R484). -/
def passOver (s : State) (k : Kernel) : Bool := replayWaits k && groupsOver s k

/-- The seeds that the groups of pass 0 were placed with (R83). -/
def passSeeds (s : State) (k : Kernel) : Sparse 33 :=
  (passGroups s k.kid).foldl (fun m g => sset m g.lin.toNat (BitVec.ofNat 33 (2 ^ 32 + g.vals.srseed.toNat))) []

/-- The next pass starts: every group is placed afresh, with its launch age, and its generators start as in pass 0 (R83, R484). -/
def nextPass (s : State) (k : Kernel) : State :=
  let seeds := if k.pass = 0 then passSeeds s k else k.seeds
  let s := freeGrid { s with groups := s.groups.filter fun g => !(g.kid == k.kid && g.gst == .retired) } k
  let s := modKernel s k.kid fun k =>
    { k with pass := k.pass + 1, seeds := seeds, dealt := 0, ended := 0, cohort := false, holdSince := (now s).toNat }
  planStart s k (k.pass + 1)

/-- REPLAY_PASS_END (R484-R486).
DEDUCED (log entry 67), unsafe. -/
def execReplayPassEnd (kid : Nat) (s : State) : Host.Outcome State Fault Refusal :=
  .next (match getKernel s kid with
    | some k =>
      if passOver s k then
        let s := planEnd (signatures s k) k k.pass
        if k.pass + 1 < (match k.desc with | some d => d.passes | none => 1) then
          match restoreWrites s k.ctx with
          | (true, s) => nextPass s k
          | (false, s) => finishKernel s kid ksPageFault 0
        else finishKernel (clearCapt s k.ctx) kid 0 0
      else s
    | none => s)

def dueReplayPass (s : State) : Option Instr := (s.kernels.find? (passOver s)).map fun k => .replayPassEnd k.kid

end Sys2Proof.Machine
end

