-- ==== Sys2Proof/Machine/System.lean ====
section
/-! DEFINITION. System registers, LOGEV, CHRON, and the pilot's LAUNCH, QSIG and TRIGARM (R113-R117, R131, R132, R458,
R467, R468). -/

namespace Sys2Proof.Machine

open Sys2Proof

/-! ### Reading system registers -/

/-- The quality word (R457). -/
def qualityWord (s : State) : W64 :=
  BitVec.ofNat 64 (s.chron.st.toNat * 2 ^ 62 + s.chron.src.toNat * 2 ^ 60 + s.chron.errb.toNat)

/-- A register of an executor's own (R113, R467); 0 where none is assigned. -/
def ownReg (t : Thread) (n : Nat) : W64 :=
  match n with
  | 0x100 => t.tcause
  | 0x101 => t.tpc
  | 0x102 => t.taddrlo
  | 0x103 => t.taddrhi.zeroExtend 64
  | 0x104 => t.tinfo
  | 0x110 => t.flags.zeroExtend 64
  | 0x111 => t.ovfcnt.zeroExtend 64
  | 0x112 => t.srstate.zeroExtend 64
  | 0x113 => t.stcres.zeroExtend 64
  | _ => 0

/-- The bits that a write of register 0x200-0x2FF, LOGFILT or SIGBASE keeps (R113, R116 and the tables that add to them);
0 for one that is read-only or not assigned. A register that holds an aligned address or size keeps its aligned part.
DESIGN CHOICE (log entry 68), unsafe. -/
def ctxRegMask (n : Nat) : Nat :=
  if n = 0x200 then 1
  else if 0x208 ≤ n ∧ n ≤ 0x20F then 0xFF
  else match n with
  | 0x210 => 2 ^ 64 - 1
  | 0x211 => 0xFF
  | 0x212 => 2 ^ 32 - 1
  | 0x215 => 2 ^ 32 - 1
  | 0x216 => 2 ^ 64 - 1
  | 0x217 => 2 ^ 52 - 2 ^ 12
  | 0x218 => 0x1F
  | 0x21A => 2 ^ 32 - 1
  | 0x21C => 2 ^ 52 - 2 ^ 16
  | 0x21D => 2 ^ 17 - 1
  | 0x21F => 2 ^ 52 - 2 ^ 12
  | 0x220 => 2 ^ 24 - 1
  | 0x221 => 2 ^ 40 - 1
  | 0x222 => 2 ^ 40 - 1
  | 0x223 => 2 ^ 52 - 2 ^ 16
  | 0x224 => 2 ^ 64 - 2 ^ 16
  | 0x308 => 2 ^ 64 - 1
  | 0x503 => 3
  | _ => 0

/-- A value that the register's table lists (R6, R263): FLTCFG's n is 0-12, and CAPSIZE at most 65,536. -/
def ctxRegListed (n : Nat) (x : W64) : Bool :=
  match n with
  | 0x218 => decide (fld x 3 0 ≤ 12)
  | 0x21D => decide (fld x 16 0 ≤ 65536)
  | _ => true

/-- A register of range 0x200-0x2FF (R113): FLTRESP reads zero. -/
def ctxRegRead (s : State) (ctx n : Nat) : W64 := if n = 0x21B then 0 else ctxReg s ctx n

/-- A session register as a context reads it (R477): zero where its function holds no session; CNTSESS marks the owner.
DEDUCED (log entry 64), unsafe. -/
def sessRegRead (s : State) (ctx n : Nat) : W64 :=
  match funcSession s (ctxFunc s ctx) with
  | none => 0
  | some e =>
    if n = 0x300 then BitVec.ofNat 64 ((if e.ctx = ctx then 2 ^ 63 else 0) + e.ctx % 1024)
    else if n ≤ 0x306 then sessionReg s e (n - 0x300)
    else 0

/-- SysReg(n) for an executor (R116); 0 where no table assigns the address. -/
def sysReg (s : State) (v : View) (n : Nat) : W64 :=
  let ctx := v.g.ctx
  if n ≤ 0x19 then BitVec.ofNat 64 (special { v with s := s } n)
  else if n = 0x20 then (match kernelOf v with | some k => k.pkt.kdesc | none => 0)
  else if n = 0x21 then (match kernelOf v with | some k => BitVec.ofNat 64 k.q | none => 0)
  else if n = 0x22 then
    (match kernelOf v with
    | some k => BitVec.ofNat 64 ((if k.late then 1 else 0) + k.pass % 16 * 2 ^ 4)
    | none => 0)
  else if 0x100 ≤ n ∧ n < 0x200 then ownReg v.t n
  else if 0x200 ≤ n ∧ n < 0x300 then ctxRegRead s ctx n
  else if 0x300 ≤ n ∧ n ≤ 0x306 then sessRegRead s ctx n
  else if n = 0x307 ∨ n = 0x308 ∨ (0x400 ≤ n ∧ n ≤ 0x403) ∨ n = 0x503 then ctxReg s ctx n
  else if 0x405 ≤ n ∧ n ≤ 0x408 then dbgstat s ctx (n - 0x405)
  else match n with
  | 0x500 => now s
  | 0x501 => qualityWord s
  | 0x502 => v.t.lastwake.zeroExtend 64
  | 0x504 => (getPart s (ctx + 1)).wridx
  | 0x505 => (getPart s (ctx + 1)).drops
  | _ => 0

/-! ### Writing system registers -/

/-- A write of a register of range 0x200-0x2FF (R6, R113, R129, R263, R264): CTXFLAGS keeps its DEBUG bit; zero in LOTSTATE stores
1; FLTRESP answers an outstanding fault. A field written with a value that its table does not list keeps the value it has.
DESIGN CHOICE (log entry 68), unsafe. -/
def writeCtxReg (s : State) (ctx n : Nat) (x : W64) : State :=
  if n = 0x21B then
    let tag := BitVec.ofNat 32 (fld x 31 0)
    if isOutstanding s ctx tag then resumeFault s ctx tag (bit1 x 32) else s
  else if ctxRegMask n = 0 then s
  else
    let y := x &&& BitVec.ofNat 64 (ctxRegMask n)
    let old := ctxReg s ctx n
    ctxRegWrite s ctx n (
      if n = 0x215 ∧ y = 0 then 1
      else if n = 0x200 then y ||| (old &&& 2)
      else if ctxRegListed n y then y
      else if n = 0x218 then setFld y 3 0 (fld old 3 0)
      else old)

/-- A write of a register of an executor's own (R83, R113); others are not written. -/
def writeOwn (t : Thread) (n : Nat) (x : W64) : Thread :=
  match n with
  | 0x100 => { t with tcause := x }
  | 0x101 => { t with tpc := x }
  | 0x102 => { t with taddrlo := x }
  | 0x103 => { t with taddrhi := x.setWidth 8 }
  | 0x104 => { t with tinfo := x }
  | 0x110 => { t with flags := x.setWidth 6 }
  | 0x111 => { t with ovfcnt := x.setWidth 32 }
  | 0x112 => { t with srstate := if x.setWidth 32 = (0 : W32) then 1 else x.setWidth 32 }
  | 0x113 => { t with stcres := x.setWidth 32 }
  | _ => t

/-- SysRegWrite by an executor (R116): read-only registers and addresses without one ignore it; CNTOVF clears. -/
def sysWrite (s : State) (v : View) (n : Nat) (x : W64) : State :=
  let ctx := v.g.ctx
  if 0x100 ≤ n ∧ n < 0x200 then modThread s (vid v) fun t => writeOwn t n x
  else if 0x200 ≤ n ∧ n < 0x300 then writeCtxReg s ctx n x
  else if n = 0x303 then modSession s (ctxFunc s ctx) fun e => { e with ovf := e.ovf &&& ~~~(x.setWidth 10) }
  else if n = 0x308 ∨ n = 0x503 then modCtxReg s ctx n (x &&& BitVec.ofNat 64 (ctxRegMask n))
  else if 0x400 ≤ n ∧ n ≤ 0x403 then modCtxReg s ctx n x
  else if n = 0x404 then debugCommand s ctx (fld x 1 0) (fld x 5 2)
  else s

/-- The debug registers need the debug right beside the privilege (R474). -/
def needsDebug (s : State) (v : View) (n : Nat) : Bool :=
  decide (0x400 ≤ n ∧ n ≤ 0x408) && !(match getCtx s v.g.ctx with | some c => c.debug | none => false)

/-- Width of SYSRD and SYSWR (R116). -/
def sysWidth (v : View) : Nat := if isPilot v || bit1 v.f.sub 0 then 64 else 32

/-- SYSRD at one executor (R116, R117). -/
def sysrdOne (v : View) (s : State) : State :=
  let n := srnOf v.f
  if needsDebug s v n then signalTrap s v causePriv 0 (decodeInfo 0x1F0 5)
  else applyPend s v { effNone with writes := writesD v (sysWidth v) ((sysReg s v n).toNat % 2 ^ sysWidth v) } 0

/-- SYSRD (R116). -/
def execSysrd (f : Fields) (s : State) : Host.Outcome State Fault Refusal := issueEach f s sysrdOne

/-- SYSWR at one executor (R116, R117). -/
def syswrOne (v : View) (s : State) : State :=
  let n := srnOf v.f
  if needsDebug s v n then signalTrap s v causePriv 0 (decodeInfo 0x1F1 5)
  else sysWrite s v n (BitVec.ofNat 64 (readA v (sysWidth v)))

/-- SYSWR (R116). -/
def execSyswr (f : Fields) (s : State) : Host.Outcome State Fault Refusal := issueEach f s syswrOne

/-- HOST_CTXREG_WRITE (R452): a host write of a context register page's register acts as SYSWR with the privilege, on the
context of a slot. -/
def execHostCtxregWrite (func slot : Nat) (n : BitVec 8) (v : W64) (s : State) : Host.Outcome State Fault Refusal :=
  .next (match slotCtx s func slot with
    | some c => writeCtxReg s c.num (0x200 + n.toNat) v
    | none => s)

/-! ### LOGEV and CHRON -/

/-- LOGEV at one executor (R468). -/
def logevOne (v : View) (s : State) : State :=
  let k := fld v.f.sub 1 0
  let n := fld v.f.sub 7 2
  if v.g.vals.logfilt.toNat ≤ k then
    let unit := unitOf v.g v.who
    let (own, s) := takeTag (flushDrop s unit) unit
    emitTagged s unit (some v.g.ctx) (k * 2 ^ 14 + 0x3F00 + n) (readA v 32) (readB v 64 % 2 ^ 48) v.t.lastwake own
  else s

/-- LOGEV (R468). -/
def execLogev (f : Fields) (s : State) : Host.Outcome State Fault Refusal := issueEach f s logevOne

/-- CHRON and CHRON.q give one value to every executor of the issue (R458). -/
def chronRead (f : Fields) (s : State) (x : W64) : Host.Outcome State Fault Refusal :=
  issueEach f s fun v s => applyPend s v { effNone with writes := writesD v 64 x.toNat } 0

/-- CHRON (R458). -/
def execChron (f : Fields) (s : State) : Host.Outcome State Fault Refusal := chronRead f s (now s)

/-- CHRON.q (R458). -/
def execChronQ (f : Fields) (s : State) : Host.Outcome State Fault Refusal := chronRead f s (qualityWord s)

/-! ### LAUNCH, QSIG and TRIGARM -/

def lsOk : Nat := 0
def lsFull : Nat := 1
def lsBadstate : Nat := 2
def lsDenied : Nat := 4

/-- The packet goes into its slot and WRIDX advances: a release at system scope (R131). -/
def placePacket (s : State) (v : View) (q : Nat) (bs : List Byte) : State :=
  let s := writeBack s (coreOf v.g v.who) fun _ => true
  let x := queueOfCtx s v.g.ctx q
  let at_ := ringBase x + 128 * (x.wridx.toNat % ringPackets x)
  let (tag, s) := writeTag s (unitOf v.g v.who) at_ 128
  let s := homeWrite s none at_ bs tag
  giveD (writeWridx s x (x.wridx + 1)) v lsOk

/-- The packet is loaded at package scope with acquire (R131), and placed.
DEDUCED (log entry 69), unsafe. -/
def loadPacket (s : State) (v : View) (va : BitVec 72) (q : Nat) : State :=
  match resolve s v va .read 128 with
  | (.win w, s) => winLoad s v w 128 fun s bs => placePacket s v q bs
  | (.mem l pa, s) =>
    (match (if leafStow l.w0 then Place.main else placeOf s pa) with
    | .main =>
      let (bs, s) := readMain s v l va pa 128 4 2
      placePacket s v q bs
    | .host a => placePacket (acquireAt s v 4) v q (sgets s.hostMem a 128)
    | .peer rank a =>
      match v.t.remote with
      | some (st, bs) => remoteTake s v va .read l st bs fun s bs => placePacket (acquireAt s v 4) v q bs
      | none => remoteAsk s v va .read l rank (readPacket s v.g.ctx rank a 128 4 2))
  | (r, s) => failAccess s v va .read r 0

/-- LAUNCH at a pilot (R131): a refusal at the reissue drops the packet that a peer has answered with.
DEDUCED (log entry 69), unsafe. DEDUCED (log entry 70), unsafe. -/
def launchOne (v : View) (s : State) : State :=
  let off := BitVec.ofNat 64 (readA v 64)
  let va := vaOf (reachReg v.g (fld v.f.sub 2 0)) off
  let q := readB v 32 % 256
  let x := queueOfCtx s v.g.ctx q
  if off.toNat % 128 ≠ 0 then signalTrap s v causeMisalign va 0
  else if x.qst ≠ .enabled ∧ x.qst ≠ .suspended then giveD (takeRemote s v) v lsBadstate
  else if qPriv x = true ∧ v.g.priv = false then giveD (takeRemote s v) v lsDenied
  else if pendingPackets x = ringPackets x then giveD (takeRemote s v) v lsFull
  else if ownQueued s v then stallAt s v .storeQueue
  else loadPacket s v va q

/-- LAUNCH (R131). -/
def execLaunch (f : Fields) (s : State) : Host.Outcome State Fault Refusal := issueEach f s launchOne

/-- An operation on a trigger counter, after the pilot's earlier writes at system scope (R132).
DEDUCED (log entry 70), unsafe. -/
def trigOne (v : View) (s : State) (k : State → Nat → State) : State :=
  if ownQueued s v then stallAt s v .storeQueue
  else k (writeBack s (coreOf v.g v.who) fun _ => true) (readB v 32 % 256)

/-- QSIG (R132). -/
def execQsig (f : Fields) (s : State) : Host.Outcome State Fault Refusal :=
  issueEach f s fun v s => trigOne v s fun s n => trigOp s v.g.ctx n fun a => trigAdd a (BitVec.ofNat 64 (readA v 64))

/-- The value of a trigger counter. -/
def trigValue (s : State) (ctx n : Nat) : W64 := match getCtx s ctx with | some c => sget c.trig n | none => 0

/-- TRIGARM (R132). -/
def execTrigarm (f : Fields) (s : State) : Host.Outcome State Fault Refusal :=
  issueEach f s fun v s => trigOne v s fun s n =>
    giveD (trigOp s v.g.ctx n fun _ => BitVec.ofNat 64 (readA v 64)) v (trigValue s v.g.ctx n).toNat

end Sys2Proof.Machine
end

