-- ==== Sys2Proof/Machine/World.lean ====
section
/-! DEFINITION. Contexts and the world switch: CREATE, ACTIVATE, TEARDOWN, fatal events, slices, switch-out and switch-in
(R100-R111). -/

namespace Sys2Proof.Machine

open Sys2Proof

/-! ### Commands -/

/-- Results of a context command (R453). -/
def ccOk : Nat := 0
def ccDenied : Nat := 1
def ccBadarea : Nat := 2
def ccBadstate : Nat := 3
def ccNoctx : Nat := 4

def cstCode (c : CState) : Nat :=
  match c with | .free => 0 | .created => 1 | .active => 2 | .switchedOut => 3 | .teardown => 4 | .faulted => 5

/-- Word 0 of the control block (R106). -/
def controlWord (c : Context) : Nat := c.fcause.toNat * 2 ^ 32 + c.num % 1024 * 2 ^ 16 + c.func % 16 * 2 ^ 8 + cstCode c.cst

/-- A context enters a state, which its control block shows (R101, R106). -/
def setCst (s : State) (ctx : Nat) (st : CState) : State :=
  let s := modCtx s ctx fun c => { c with cst := st }
  match getCtx s ctx with
  | some c => memPutNat s c.area 8 (controlWord c)
  | none => s

/-- The function that a commander's slots belong to; the management processor uses the physical function's. -/
def commanderFunc (b : Commander) : Nat := match b with | .func v => v | .management => 0

/-- CTXSTAT of a function after a command (R453).
DEDUCED (log entry 71), unsafe. -/
def setStat (s : State) (b : Commander) (ctx res : Nat) : State :=
  match b with
  | .func v => modFunc s v fun f => { f with ctxstat := BitVec.ofNat 64 (ctx % 1024 * 2 ^ 16 + res) }
  | .management => s

/-- The context bound to a commander's slot, 0 where none is (R453). -/
def boundNum (s : State) (b : Commander) (slot : Nat) : Nat :=
  match slotCtx s (commanderFunc b) slot with | some c => c.num | none => 0

/-- A command of the function is in progress: CTXSTAT.BUSY (R453), between an accepted TEARDOWN and the context's end.
DEDUCED (log entry 71), unsafe. -/
def commandBusy (s : State) (b : Commander) : Bool :=
  match b with
  | .func v => match s.funcs.find? fun f => f.num == v with | some f => bit1 f.ctxstat 7 | none => false
  | .management => false

/-- BUSY ends with the TEARDOWN of the context that CTXSTAT names. -/
def endBusy (s : State) (ctx : Nat) : State :=
  let ends (f : Func) : Bool := bit1 f.ctxstat 7 && fld f.ctxstat 25 16 == ctx % 1024
  let done (f : Func) : Func := { f with ctxstat := f.ctxstat &&& ~~~(0x80 : W64) }
  { s with funcs := replaceIf ends done s.funcs }

/-- A refused command: BADSTATE is logged (R104, R505). -/
def refuse (s : State) (b : Commander) (ctx res : Nat) : State :=
  let s := setStat s b ctx res
  if res = ccBadstate then refuseState s (some ctx) else s

/-- What a command names: a refusal's code, or the number of a context that exists (R100, R453).
DEDUCED (log entry 71), unsafe. -/
def commandTarget (s : State) (b : Commander) (slot : Nat) (num : Option Nat) : Nat ⊕ Nat :=
  match num, b with
  | some _, .func (_ + 1) => .inl ccDenied
  | some 0, .func 0 => .inl ccDenied
  | some n, _ => if (getCtx s n).isSome then .inr n else .inl ccBadstate
  | none, _ => match slotCtx s (commanderFunc b) slot with | some c => .inr c.num | none => .inl ccNoctx

/-- The lowest free context number that a function may be given (R99, R453). -/
def freeContext (s : State) : Option Nat := (List.range 1024).find? fun n => n != 0 && (getCtx s n).isNone

/-- Bits that may be set in the image of system register 0x200 + i at CREATE (R102, R106): those of registers that software
writes, and PTROOT. -/
def imageMask (i : Nat) : Nat := if i = 0x13 then 2 ^ 64 - 1 else ctxRegMask (0x200 + i)

/-- Word i of the SYSIMG of an area. -/
def imageWord (s : State) (area i : Nat) : W64 := BitVec.ofNat 64 (memGetNat s (area + 0x800 + 8 * i) 8)

/-- CREATE's checks of the area and its control block (R102).
DEDUCED (log entry 71), unsafe. -/
def areaOk (s : State) (area : Nat) : Bool :=
  area % 65536 == 0 && inMain area 65536 &&
    (let size := memGetNat s (area + 8) 8
     size != 0 && size % 65536 == 0 && inMain area (65536 + size)) &&
    memGetNat s area 8 == 0 && (memGet s (area + 0x10) 0x7F0).all (· == 0) && !poisoned s area 4096 &&
    (imageWord s area 0x13).toNat % 32768 == 0 && ctxRegListed 0x218 (imageWord s area 0x18) && ctxRegListed 0x21D (imageWord s area 0x1D) &&
    (List.range 256).all fun i => imageWord s area i &&& ~~~(BitVec.ofNat 64 (imageMask i)) == 0

/-- The partition entry of a context that is created: zeroed apart from RESETS, CGEN raised, OPENED set (R464). -/
def openPart (s : State) (ctx : Nat) : State :=
  let p := getPart s (ctx + 1)
  setPart { s with logs := s.logs.filter fun l => l.1 != ctx + 1 }
    { p with num := ctx + 1, wridx := 0, drops := 0, cgen := p.cgen + 1, opened := now s }

/-- The registers of a created context: the image, with LOTSTATE's zero taken as 1, DEBUG and FUNC (R106, R113, R129). -/
def imageRegs (s : State) (area func : Nat) (debug : Bool) : Sparse 64 :=
  let m := ssets [] 0x200 ((List.range 256).map (imageWord s area))
  let m := if sget m 0x215 = 0 then sset m 0x215 1 else m
  let m := if debug then sset m 0x200 (sget m 0x200 ||| 2) else m
  sset m 0x214 (BitVec.ofNat 64 func)

/-- A context is bound in CREATED (R102, R106, R126, R464). Context 0 is offered to no host function, so it has no slot (R99). SAVESIZE is
taken here and not read again.
DESIGN CHOICE (log entry 100), unsafe. -/
def bindContext (s : State) (n func slot area : Nat) (debug : Bool) : State :=
  let c := { contextFresh n func area with
    slot := if n = 0 then none else some slot, savesize := memGetNat s (area + 8) 8, debug := debug, sys := imageRegs s area func debug }
  let s := { s with contexts := s.contexts ++ [c] }
  let s := setCst s n .created
  let s := memPutNat s (area + 0x10) 8 (n + 1)
  let s := [0x200, 0x214, 0x215].foldl (fun s r => memPutNat s (area + 0x800 + 8 * (r - 0x200)) 8 (sget c.sys r).toNat) s
  openPart (memPut s (area + 0xB000) (List.replicate 2048 0)) n

/-- CTX_CREATE (R100-R102, R453): the number named, or the lowest free one. The management processor acts for the physical function
here: it may grant the debug right as well (R112).
DESIGN CHOICE (log entry 96), unsafe. -/
def execCtxCreate (by_ : Commander) (slot : Nat) (num : Option Nat) (area : W64) (debug : Bool) (s : State) :
    Host.Outcome State Fault Refusal :=
  let func := commanderFunc by_
  let denied := match num, by_ with
    | some _, .func (_ + 1) => true
    | some 0, .func _ => true
    | _, _ => false
  let grant := debug && func == 0
  .next (
    if 16 ≤ func ∨ 64 ≤ slot ∨ commandBusy s by_ then s
    else if denied then refuse s by_ 0 ccDenied
    else match (match num with | some n => some n | none => freeContext s) with
    | none => refuse s by_ (boundNum s by_ slot) ccNoctx
    | some n =>
      if 1024 ≤ n then refuse s by_ 0 ccNoctx
      else if (getCtx s n).isSome ∨ (n ≠ 0 ∧ (slotCtx s func slot).isSome) then
        refuse s by_ (num.getD (boundNum s by_ slot)) ccBadstate
      else if areaOk s area.toNat = false then refuse s by_ (num.getD (boundNum s by_ slot)) ccBadarea
      else setStat (bindContext s n func slot area.toNat grant) by_ n ccOk)

/-- CTX_ACTIVATE (R101, R104). -/
def execCtxActivate (by_ : Commander) (slot : Nat) (num : Option Nat) (s : State) : Host.Outcome State Fault Refusal :=
  .next (if commandBusy s by_ then s else match commandTarget s by_ slot num with
    | .inl r => refuse s by_ (num.getD 0) r
    | .inr n =>
      match getCtx s n with
      | some c => if c.cst = .created then setStat (setCst s n .active) by_ n ccOk else refuse s by_ n ccBadstate
      | none => s)

/-! ### TEARDOWN and fatal events -/

/-- A group is aborted without saving (R107): its capsules become ABANDONED, its operations perform nothing further. -/
def abortGroup (s : State) (g : Group) : State :=
  let s := if g.gst = .retired then s else leaveSems (capGroupStatus s g ostAbandoned) g.gid
  let s := abortOps s g.gid
  coreFreed { s with groups := s.groups.filter fun h => h.gid != g.gid } g.cores

/-- Every kernel of a context that has not ended ends ABORTED with a status; its detail counts the groups that are FAULTED by then
(R141). -/
def abortKernels (s : State) (ctx status : Nat) : State :=
  (s.kernels.filter fun k => k.ctx == ctx).foldl (fun s k => finishKernel s k.kid status k.faulted) s

/-- The replayable faults that a context's kernels in COMPLETING wait on end as fatal ones, so that these kernels end (R122, R137).
DEDUCED (log entry 72), unsafe. -/
def endStalled (s : State) (ctx : Nat) : State :=
  (s.kernels.filter fun k => k.ctx == ctx && k.kst == .completing).foldl (fun s k =>
    match k.stall with | some tag => retryFault s ctx tag true | none => s) s

/-- TEARDOWN of a context (R107).
DEDUCED (log entry 72), unsafe. -/
def teardownCtx (s : State) (ctx : Nat) : State :=
  let s := setCst s ctx .teardown
  let s := (s.queues.filter fun x => x.ctx == ctx).foldl (fun s x =>
    setQueueState s { x with resetting := false } .disabled) s
  let s := freeBars (collCtxEnd (endStalled s ctx) ctx true) ctx
  let s := (s.groups.filter fun g => g.ctx == ctx).foldl abortGroup s
  let s := modCtx s ctx fun c => { c with faults := [], capturing := [] }
  let kids := (s.kernels.filter fun k => k.ctx == ctx).map (·.kid)
  let s := kids.foldl (fun s kid => setConvoy s kid .closed) s
  abortKernels { s with convoys := s.convoys.filter fun c => !kids.contains c.kid } ctx ksTeardown

/-- CTX_TEARDOWN (R104, R107). -/
def execCtxTeardown (by_ : Commander) (slot : Nat) (num : Option Nat) (s : State) : Host.Outcome State Fault Refusal :=
  .next (if commandBusy s by_ then s else match commandTarget s by_ slot num with
    | .inl r => refuse s by_ (num.getD 0) r
    | .inr n =>
      match getCtx s n with
      | some c => if c.cst = .teardown then refuse s by_ n ccBadstate else setStat (teardownCtx s n) by_ n (128 + ccOk)
      | none => s)

/-- A packet of a context. -/
def packetOfCtx (ctx : Nat) (p : Packet) : Bool := packetCtx p == some ctx

/-- Nothing of a context is in flight (R107 step 4). -/
def ctxQuiet (s : State) (ctx : Nat) : Bool :=
  !(s.engineQ.any fun o => match getGroup s o.gid with | some g => g.ctx == ctx | none => true) &&
    !(s.walkQ.any fun w => w.uses.any fun u => u.ctx == ctx) && !(s.redQ.any fun r => r.ctx == ctx) && !(s.remotes.any fun r => r.ctx == ctx) &&
    !(s.ports.any fun p => (p.waiting ++ p.retry).any (packetOfCtx ctx)) && !(s.turning.any fun t => t.2.any (packetOfCtx ctx)) &&
    (s.kernels.filter fun k => k.ctx == ctx).all kernelOver

/-- A context in TEARDOWN with nothing in flight. -/
def tornDown (s : State) (c : Context) : Bool := c.cst == .teardown && ctxQuiet s c.num

/-- TEARDOWN_COMPLETE (R107 step 5): its translations and decoded tiles go, and the number is FREE. -/
def execTeardownComplete (ctx : Nat) (s : State) : Host.Outcome State Fault Refusal :=
  .next (match getCtx s ctx with
    | some c =>
      if tornDown s c then
        let s := endBusy (endSession (setCst s ctx .free) ctx) ctx
        { s with tlb := s.tlb.filter (fun e => e.ctx != ctx), contexts := s.contexts.filter (fun c => c.num != ctx),
                 queues := s.queues.filter (fun x => x.ctx != ctx), kernels := s.kernels.filter (fun k => k.ctx != ctx),
                 groups := s.groups.filter (fun g => g.ctx != ctx) }
      else s
    | none => s)

/-- Every queue of a context goes to ERROR with status 5 (R103, R118).
DEDUCED (log entry 72), unsafe. -/
def errorQueues (s : State) (ctx : Nat) : State :=
  (List.range 256).foldl (fun s q => queueError s (queueOfCtx s ctx q) 5 0) s

/-- A group of a context that meets a fatal event (R103): an unstarted record goes, any other enters FAULTED. -/
def faultOrDrop (s : State) (g : Group) : State :=
  if g.gst = .pending ∧ g.saved = false then { s with groups := s.groups.filter fun h => h.gid != g.gid }
  else groupFault s g.gid 3

/-- CONTEXT_FAULT (R103, R104, R323, R399): a TEARDOWN already accepted overrides it.
DEDUCED (log entry 72), unsafe. -/
def execContextFault (ctx : Nat) (cause : BitVec 8) (s : State) : Host.Outcome State Fault Refusal :=
  .next (match getCtx s ctx with
    | some c =>
      if c.cst = .teardown ∨ c.cst = .faulted then s
      else
        let s := setCst (modCtx s ctx fun c => { c with fcause := cause }) ctx .faulted
        let s := collCtxEnd (emit s unitMgmt (some ctx) evContextFault (ctx % 1024) cause.toNat) ctx false
        let s := (s.groups.filter fun g => g.ctx == ctx).foldl (fun s g => abortOps s g.gid) (barFailCtx s ctx)
        let s := (s.groups.filter fun g => g.ctx == ctx).foldl faultOrDrop s
        let s := abortKernels (errorQueues s ctx) ctx ksCtxfault
        raiseInt s c.func 4
    | none => s)

/-! ### The world switch -/

/-- A function shares the time-sliced dies (R110): the physical function, or an enabled virtual one without dies of its
own; not where every die is held. -/
def sliced (s : State) (f : Nat) : Bool :=
  (f == 0 || (getFunc s f).vfflags.getLsbD 1) && !exclusive s f && takenDies s != 15

/-- A function holds a context with a kernel in DISPATCHING or RUNNING (R110). -/
def hasWork (s : State) (f : Nat) : Bool :=
  sliced s f && s.kernels.any fun k =>
    (k.kst == .dispatching || k.kst == .running) &&
      (match getCtx s k.ctx with
      | some c => c.func == f && (c.cst == .active || c.cst == .switchedOut)
      | none => false)

/-- The function whose turn is next, in the order PF, VF 1, ..., VF 15; the present one comes last. -/
def nextFunc (s : State) : Option Nat :=
  ((List.range 16).map fun i => (s.turnOf + 1 + i) % 16).find? (hasWork s)

/-- A function's slice in ns (R454). -/
def sliceNs (s : State) (f : Nat) : Nat :=
  let n := (getFunc s f).slice.toNat
  (if n = 0 then 1000 else n) * 1000

/-- The contexts of the function that is being switched out which are not out yet; a function with dies of its own is never switched
out. -/
def outgoingCtxs (s : State) : List Context :=
  s.contexts.filter fun c => c.func == s.turnOf && c.cst == .active && !exclusive s c.func

/-- A group of the outgoing function that is to be pre-empted; `all`: those that drain already are asked too (R155). -/
def toPreempt (s : State) (all : Bool) (g : Group) : Bool :=
  (outgoingCtxs s).any (fun c => c.num == g.ctx) &&
    ((g.preempt.isNone && (g.gst == .running || g.gst == .halted)) || (all && g.gst == .draining))

/-- Every group of the outgoing function is pre-empted, with its switch bound; cohorts are taken whole, by save (R110,
R155, R415). -/
def preemptAll (s : State) (all : Bool) : State :=
  let bound := (getFunc s s.turnOf).bound.toNat
  (s.groups.filter (toPreempt s all)).foldl (fun s g => requestPreempt s g.gid bound false none (preemptSet s g.gid).2) s

/-- SLICE_END (R110): another function with work takes its turn, or the slice renews. Groups of the outgoing function that
have come to stand on a core since are pre-empted too.
DEDUCED (log entry 60), unsafe. -/
def execSliceEnd (s : State) : Host.Outcome State Fault Refusal :=
  .next (
    if s.outgoing then preemptAll s false
    else match nextFunc s with
    | none => s
    | some f =>
      if f = s.turnOf then { s with sliceEnd := (now s).toNat + sliceNs s f }
      else preemptAll { s with outgoing := true } true)

/-- Nothing of a context stands on a core. -/
def offCores (s : State) (ctx : Nat) : Bool :=
  !(s.groups.any fun g => g.ctx == ctx && (onCore g || g.gst == .placing || g.gst == .flushing))

/-- SWITCH_OUT_COMPLETE (R110, R111, R476): every group is saved; the session is saved with the last context. -/
def execSwitchOutComplete (ctx : Nat) (s : State) : Host.Outcome State Fault Refusal :=
  .next (
    if s.outgoing && (outgoingCtxs s).any (fun c => c.num == ctx) && offCores s ctx then
      let s := if (outgoingCtxs s).all fun c => offCores s c.num then unloadSession s s.turnOf else s
      emit (setCst s ctx .switchedOut) unitHost (some ctx) evWorldOut (ctx % 1024) 0
    else s)

/-- A function's switched-out contexts become ACTIVE, with WORLD_IN, after its session has been reloaded. -/
def bringIn (s : State) (f : Nat) : State :=
  let s := loadSession s f
  (s.contexts.filter fun c => c.func == f && c.cst == .switchedOut).foldl (fun s c =>
    emit (setCst s c.num .active) unitHost (some c.num) evWorldIn (c.num % 1024) 0) s

/-- SWITCH_IN (R110): once the outgoing function is out, with its counter session saved, the next one's slice begins. A function that has been given
dies of its own comes in at once.
DEDUCED (log entry 60), unsafe. -/
def execSwitchIn (func : Nat) (s : State) : Host.Outcome State Fault Refusal :=
  .next (
    if exclusive s func then bringIn s func
    else if s.outgoing ∧ outgoingCtxs s = [] ∧ func < 16 then
      let s := unloadSession s s.turnOf
      bringIn { s with outgoing := false, turnOf := func, sliceEnd := (now s).toNat + sliceNs s func } func
    else s)

/-- The turn of the world switch that is due. -/
def dueWorld (s : State) : Option Instr :=
  match s.contexts.find? fun c => c.cst == .switchedOut && exclusive s c.func with
  | some c => some (.switchIn c.func)
  | none =>
    if s.outgoing then
      if s.groups.any (toPreempt s false) then some .sliceEnd
      else
        match (outgoingCtxs s).find? fun c => offCores s c.num with
        | some c => some (.switchOutComplete c.num)
        | none => if outgoingCtxs s = [] then some (.switchIn ((nextFunc s).getD s.turnOf)) else none
    else match nextFunc s with
    | some f =>
      if f = s.turnOf then (if s.sliceEnd ≤ (now s).toNat then some .sliceEnd else none)
      else if hasWork s s.turnOf = false ∨ s.sliceEnd ≤ (now s).toNat then some .sliceEnd
      else none
    | none => none

def dueTeardown (s : State) : Option Instr := (s.contexts.find? (tornDown s)).map fun c => .teardownComplete c.num

end Sys2Proof.Machine
end

