-- ==== Sys2Proof/Machine/Fix.lean ====
section
/-! DEFINITION. The fix of the wait-for graph, the watchdog records that may take one, and the management port's
replies (R344, R437, R469-R471, R498). -/

namespace Sys2Proof.Machine

open Sys2Proof

/-! ### Edges -/

/-- An edge of a fix (R470). -/
structure Edge where
  waiter : Nat
  wstrand : Nat
  wcount : Nat
  kind : Nat
  pstate : Nat
  obj : Nat
  party : Nat
  planes : Nat
  ctx : Nat
  since : Nat
  pwake : Nat
deriving DecidableEq, Repr

/-- The 64 bytes of an edge (R470). -/
def edgeBytes (e : Edge) : List Byte :=
  toBytes 8 e.waiter ++ toBytes 2 e.wstrand ++ toBytes 2 e.wcount ++ toBytes 1 e.kind ++ toBytes 1 e.pstate ++ toBytes 2 0 ++
    toBytes 8 e.obj ++ toBytes 8 e.party ++ toBytes 4 e.planes ++ toBytes 4 e.ctx ++ toBytes 8 e.since ++ toBytes 6 e.pwake ++
    toBytes 10 0

/-- A who word (R470). -/
def whoWord (rank core : Nat) (pilot : Bool) (lin : Nat) : Nat :=
  rank % 4096 * 2 ^ 52 + core % 128 * 2 ^ 45 + (if pilot then 2 ^ 44 else 0) + lin % 2 ^ 32

/-- A party that is not known.
DESIGN CHOICE (log entry 73), unsafe. -/
def unknownParty : Nat := whoWord 0xFFF 0 false 0xFFFFFFFF

/-- The who word of an executor; of one whose group holds no core, under the group's last core SPREADIX 0. -/
def whoOf (s : State) (g : Group) (w : Who) : Nat := whoWord s.rank.toNat (if g.cores.isEmpty then g.core0 else coreOf g w) (w == .pilot) g.lin.toNat

/-- Strand index in an edge. -/
def fixStrand (w : Who) : Nat := match w with | .strand k => k | .pilot => 0xFFFF

/-- An awaited executor's PSTATE: EXITED, DESCHEDULED, HALTED, TRAPPED or AWAITED. -/
def threadState (g : Group) (t : Thread) : Nat :=
  if t.run = .exited then 2 else if g.saved then 3 else if g.gst = .halted then 4 else if t.run = .trapped then 5 else 1

/-- The executors of the device that wait as a test says, each with its group. -/
def waitersBy (s : State) (p : Group → Thread → Bool) : List (Group × Who × Thread) :=
  s.groups.flatMap fun g => (allWho g).filterMap fun w =>
    match getThread g w with
    | some t => if p g t then some (g, w, t) else none
    | none => none

/-- The one that has waited longest. -/
def longest (l : List (Group × Who × Thread)) : Option (Group × Who × Thread) :=
  match l with
  | [] => none
  | e :: r => match longest r with
    | some x => some (if x.2.2.since.toNat < e.2.2.since.toNat then x else e)
    | none => some e

/-- The parties of an edge: party, PSTATE, PLANES, PWAKE. -/
abbrev Parties := List (Nat × Nat × Nat × BitVec 48)

/-- The party of an edge that names no executor. -/
def noParty : Parties := [(unknownParty, 7, 0, 0)]

/-- The edges from an object's waiters to its parties. -/
def edgesTo (s : State) (ws : List (Group × Who × Thread)) (kind obj : Nat) (ps : Parties) : List Edge :=
  match longest ws with
  | none => []
  | some (g, w, t) => ps.map fun p =>
      { waiter := whoOf s g w, wstrand := fixStrand w, wcount := ws.length, kind := kind, pstate := p.2.1, obj := obj,
        party := p.1, planes := p.2.2.1, ctx := g.ctx, since := t.since.toNat, pwake := p.2.2.2.toNat }

/-- An executor as a party. -/
def execParty (s : State) (g : Group) (w : Who) : Parties :=
  match getThread g w with
  | some t =>
    let k := match w with | .strand k => k | .pilot => 0
    [(whoOf s g w, threadState g t, k + k * 2 ^ 16, t.lastwake)]
  | none => []

/-- Edges of a barrier whose record is kept (R469). -/
def barEdges (s : State) (ctx : Nat) (b : Barrier) : List Edge :=
  let ws := waitersBy s fun g t => g.ctx == ctx && t.run == .parked (.barw b.key)
  let home := if b.key.level = 5 then b.key.inst else 0
  let party (p : Party) : Nat × Nat × Nat × BitVec 48 :=
    let ms := b.members.filter fun m => sameParty m p
    let ks := ms.filterMap fun m => match m.who with | .strand k => some k | .pilot => none
    (whoWord p.rank.toNat p.core.toNat (ms.any fun m => m.who == .pilot) p.lin.toNat, partyState b p,
     (ks.min?.getD 0) % 2 ^ 16 + (ks.max?.getD 0) % 2 ^ 16 * 2 ^ 16, p.wake)
  edgesTo s ws 1 (home * 2 ^ 36 + keyHandle b.key)
    ((b.parties.filter fun p => partyState b p != 0).map party ++
      (if b.parties.length < partiesOf b then noParty else []))

/-- Edges of a semaphore word: to its home slice, which is no executor, and to each holder (R469). -/
def semEdges (s : State) (ctx : Nat) (m : Sem) : List Edge :=
  let ws := waitersBy s fun g t => g.ctx == ctx && t.run == .parked (.semp m.pa)
  let holder (h : SemHolder) : Nat × Nat × Nat × BitVec 48 :=
    if h.rank = s.rank ∧ (getGroup s h.gid).isNone = true then (unknownParty, 7, 0, h.tag)
    else (whoWord h.rank.toNat h.core.toNat false h.lin.toNat, 1, 0, h.tag)
  edgesTo s ws 2 (fld m.va 63 0) (noParty ++ (holdersOf m).map holder)

/-- One edge for each thing of a kind that the executors of a context wait for, the waiters of all its groups together: a key tells the
things apart (R469). -/
def ctxEdges (s : State) (ctx : Nat) (kind : Nat) (key : Thread → Option Nat) (obj : Nat → Nat) : List Edge :=
  let mine (g : Group) (t : Thread) : Bool := g.ctx == ctx && (key t).isSome
  (((waitersBy s mine).filterMap fun x => key x.2.2).dedup).flatMap fun k =>
    edgesTo s (waitersBy s fun g t => g.ctx == ctx && key t == some k) kind (obj k) noParty

/-- The objects of a context whose bearing records are kept (R341). -/
def keptBars (s : State) (c : Context) : List Barrier :=
  if ctxReg s c.num 0x220 = 0 then []
  else c.barriers.filter fun b => !b.remoteHome && !(bearLost s c).contains (some b.key, 0)

def keptSems (s : State) (c : Context) : List Sem :=
  if ctxReg s c.num 0x220 = 0 then [] else c.sems.filter fun m => (semPeer s m.pa).isNone && !(bearLost s c).contains (none, m.pa)

/-- Offset of a chunk's record. -/
def chunkRecOff (v : CollView) (c : Nat) : W64 := dw v.desc 1 + BitVec.ofNat 64 (16 * c)

/-- A WAITA watches a word of a chunk's record. -/
def onRecord (v : CollView) (c : Nat) (va : BitVec 72) : Bool :=
  let r := vaOf (cRreach v.desc) (chunkRecOff v c)
  decide (r.toNat ≤ va.toNat ∧ va.toNat < r.toNat + 16)

/-- The words on which executors of a context wait in SEMP, but for those whose bearing record is kept: each to its home slice, with the
word's offset as object (R469, R470). -/
def sempEdges (s : State) (c : Context) : List Edge :=
  let kept := (keptSems s c).map (·.pa)
  ctxEdges s c.num 2 (fun t => match t.run with
      | .parked (.semp pa) => if kept.contains pa then none else some pa
      | _ => none)
    fun pa => match c.sems.find? fun m => m.pa == pa with
      | some m => fld m.va 63 0
      | none => pa % 2 ^ 64

/-- The words on which executors of a context wait in WAITA, but for those of a chunk's record: each to its home slice (R469). -/
def waitaEdges (s : State) (c : Context) : List Edge :=
  let onAny (va : BitVec 72) : Bool := c.views.any fun v => (List.range v.chunks.length).any fun k => onRecord v k va
  ctxEdges s c.num 4 (fun t => match t.run with
      | .parked (.waita va _ _) => if onAny va then none else some va.toNat
      | _ => none) fun va => va % 2 ^ 64

/-- PSTATE of a collective's member by MSTATE. -/
def memberState (m : CollMember) : Nat := match m.mst.toNat with | 0 => 6 | 1 => 1 | 2 => 2 | _ => 7

/-- Edges of a chunk that is not terminal (R469, R470). -/
def chunkEdges (s : State) (ctx : Nat) (v : CollView) (c : Nat) (ch : Chunk) : List Edge :=
  let ws := waitersBy s fun g t =>
    g.ctx == ctx && (match t.run with | .parked (.waita va _ _) => onRecord v c va | _ => false)
  let obj := v.id % 1024 * 2 ^ 32 + v.gen.toNat * 2 ^ 16 + c % 2 ^ 16
  let member (m : CollMember) : Nat × Nat × Nat × BitVec 48 :=
    let core := match m.gid.bind (getGroup s) with | some g => firstCore g | none => 0
    (whoWord m.rank.toNat core false m.group.toNat, memberState m, 0, m.wake)
  let ps : Parties := if cHome v.desc c = s.rank then (v.members.filter fun m => !ch.added.contains m.ordinal).map member
    else [(whoWord (cHome v.desc c).toNat 0 false 0xFFFFFFFF, 1, 0, ch.wake)]
  if ws.isEmpty then
    ps.map fun p =>
      { waiter := whoWord s.rank.toNat 0x7F false 0xFFFFFFFF, wstrand := 0xFFFF, wcount := 0, kind := 7, pstate := p.2.1,
        obj := obj, party := p.1, planes := p.2.2.1, ctx := ctx, since := v.opened.toNat, pwake := p.2.2.2.toNat }
  else edgesTo s ws 7 obj ps

/-- Edges of a context's collective views (R469). -/
def viewEdges (s : State) (c : Context) : List Edge :=
  (c.views.filter viewLive).flatMap fun v =>
    (v.chunks.zip (List.range v.chunks.length)).flatMap fun e => if terminal e.1 then [] else chunkEdges s c.num v e.2 e.1

/-- Edges of open rejoin rounds: WAITJ to the named lanes that have not arrived. -/
def joinEdges (s : State) (g : Group) : List Edge :=
  g.rounds.flatMap fun r =>
    let ws := waitersBy s fun h t => h.gid == g.gid && (match t.run with
      | .joining n slot _ _ => n == r.n && slot == r.slot
      | _ => false)
    let mask := sget g.j r.n
    let lanes := (List.range g.shape.w).filter fun l => mask.getLsbD l && !r.lanes.contains l
    edgesTo s ws 3 (r.n + r.slot * 2 ^ 8) (lanes.flatMap fun l => execParty s g (.strand (r.slot * g.shape.w + l)))

/-- One edge for each thing of a kind that executors of a group wait for: a key tells the things apart. -/
def keyedEdges (s : State) (g : Group) (kind : Nat) (key : Thread → Option Nat) (obj : Nat → Nat) (ps : Nat → Parties) :
    List Edge :=
  ((g.pilot :: g.strands).filterMap key).dedup.flatMap fun k =>
    edgesTo s (waitersBy s fun h t => h.gid == g.gid && key t == some k) kind (obj k) (ps k)

/-- The member of a convoy before a group's. -/
def predecessor (s : State) (g : Group) : Parties :=
  match convoyOfKernel s g.kid with
  | none => noParty
  | some c =>
    match c.members.find? fun m => m.gid == g.gid with
    | none => noParty
    | some m =>
      match (c.members.find? fun x => x.pos == (m.pos + c.len - 1) % max 1 c.len).bind fun x => getGroup s x.gid with
      | some h => execParty s h .pilot
      | none => noParty

/-- Operations of a group that wait for a carry. -/
def carryOps (s : State) (g : Group) : List EngineOp :=
  (match headOp s g.gid .reckoner with | some o => [o] | none => []).filter fun o =>
    o.op == 0x1EB && !o.started && o.carry.isNone && (scanBlk o.blk).cin == 1

/-- An engine operation's edge: its waiter is the group.
DESIGN CHOICE (log entry 73), unsafe. -/
def opEdge (s : State) (g : Group) (o : EngineOp) (kind obj : Nat) (ps : Parties) : List Edge :=
  ps.map fun p =>
    { waiter := whoWord s.rank.toNat (engCore g) false g.lin.toNat, wstrand := 0xFFFF, wcount := 1, kind := kind,
      pstate := p.2.1, obj := obj, party := p.1, planes := p.2.2.1, ctx := g.ctx, since := o.since.toNat,
      pwake := p.2.2.2.toNat }

/-- The older group that an ACCALLOC waits for (R389). -/
def olderParty (s : State) (g : Group) : Parties :=
  match ((engGroups s (engCore g)).filter fun h => older s h g && h.gid != g.gid) with
  | h :: _ => execParty s h .pilot
  | [] => noParty

/-- The instruction at an executor's PC as it waits for its row, and the row's segment. -/
def rowSegAt (s : State) (g : Group) (w : Who) (t : Thread) : Option Nat :=
  match (fetchInstr s g (coreOf g w) (codeReachOf g t) t.pc).1 with
  | .words ws => (splitRaw ws).bind fun e => (shapeOf e.1.toNat false e.2).bind fun sh => rowSeg e.1.toNat sh e.2
  | .stop _ _ => none

/-- The missing lanes of the row of a strand (R251). -/
def missingLanes (s : State) (g : Group) (k seg : Nat) (pc : BitVec 72) : Parties :=
  (rowLanes g.shape.w seg (laneOf g k)).flatMap fun l =>
    let i := slotOf g k * g.shape.w + l
    match g.strands[i]? with
    | some t => if t.run = .exited ∨ atRow g [] pc i t = true then [] else execParty s g (.strand i)
    | none => []

/-- Edges of the rows that wait, one a row. -/
def rowEdges (s : State) (g : Group) : List Edge :=
  let waiting := (List.range g.strands.length).filterMap fun k =>
    match g.strands[k]? with
    | some t => if t.run = .stalled .row then (rowSegAt s g (.strand k) t).map fun seg => (k, seg, t) else none
    | none => none
  let sameRow (a b : Nat × Nat × Thread) : Bool :=
    fullPc g a.2.2 == fullPc g b.2.2 && slotOf g a.1 == slotOf g b.1 && laneOf g a.1 / max 1 a.2.1 == laneOf g b.1 / max 1 b.2.1
  (waiting.zip (List.range waiting.length)).flatMap fun e =>
    if (waiting.take e.2).any (sameRow e.1) then []
    else edgesTo s ((waiting.filter (sameRow e.1)).map fun x => (g, .strand x.1, x.2.2)) 10 0
      (missingLanes s g e.1.1 e.1.2.1 (fullPc g e.1.2.2))

/-- The fault tag that an executor waits for. -/
def faultTag (t : Thread) : Option Nat :=
  match t.run with | .stalled (.fault n) => some n.toNat | .stalled (.vector n) => some n.toNat | _ => none

/-- Edges of one group's parked, joining and stalled executors and of its engine operations, but for those of words and faults, which
several groups may share (R469). -/
def groupEdges (s : State) (g : Group) : List Edge :=
  let parked (p : ParkOn → Option Nat) (t : Thread) : Option Nat := match t.run with | .parked w => p w | _ => none
  joinEdges s g ++
    keyedEdges s g 5 (parked fun w => match w with | .waitw o => some o | _ => none) (fun _ => 0) (fun _ => noParty) ++
    keyedEdges s g 6 (parked fun w => match w with | .dqpop _ => some 0 | _ => none) (fun _ => 0) (fun _ => execParty s g .pilot) ++
    keyedEdges s g 8 (parked fun w => match w with | .carryget => some 0 | _ => none) (fun _ => 0) (fun _ => predecessor s g) ++
    (carryOps s g).flatMap (fun o => opEdge s g o 8 0 (predecessor s g)) ++
    keyedEdges s g 9 (parked fun w => match w with | .accalloc _ _ _ => some 0 | _ => none) (fun _ => 0) (fun _ => olderParty s g) ++
    rowEdges s g

/-- The edge of a replayable fault: to system software, with the fault tag, from the executor or engine operation of the context that has
waited longest, for all that wait (R469). -/
def faultEdge (s : State) (ctx tag : Nat) : List Edge :=
  let ws := waitersBy s fun g t => g.ctx == ctx && faultTag t == some tag
  let os := s.engineQ.filterMap fun o =>
    match getGroup s o.gid with
    | some g => if g.ctx = ctx ∧ o.stall.map (·.toNat) = some tag then some (opEdge s g o 11 tag noParty) else none
    | none => none
  match edgesTo s ws 11 tag noParty ++ os.flatten with
  | [] => []
  | x :: r =>
    let first := r.foldl (fun a b => if b.since < a.since then b else a) x
    [{ first with wcount := ws.length + os.length }]

/-- The edges of a context's outstanding replayable faults (R469). -/
def faultEdges (s : State) (c : Context) : List Edge :=
  let stalled := (waitersBy s fun g _ => g.ctx == c.num).filterMap fun x => faultTag x.2.2
  let ops := s.engineQ.filterMap fun o => if ((getGroup s o.gid).map (·.ctx)) = some c.num then o.stall.map (·.toNat) else none
  (((stalled ++ ops).filter (· != 0)).dedup).flatMap (faultEdge s c.num)

/-- All edges whose wait is old enough (R469). -/
def fixEdges (s : State) (age : Nat) : List Edge :=
  let all := (s.contexts.flatMap fun c => (keptBars s c).flatMap (barEdges s c.num) ++ (keptSems s c).flatMap (semEdges s c.num) ++
    sempEdges s c ++ waitaEdges s c ++ viewEdges s c ++ faultEdges s c) ++ s.groups.flatMap (groupEdges s)
  all.filter fun e => decide (e.since + age ≤ (now s).toNat)

/-- Edges that a slot holds. -/
def slotEdges : Nat := 1048575

/-- Takes a fix into the next slot (R469, R470); it reads everything in one step.
DESIGN CHOICE (log entry 73), unsafe. -/
def doFix (s : State) (trigger : Nat) : State :=
  let es := fixEdges s s.mgmt.fixage
  let no := s.mgmt.fixno + 1
  let base := (no.toNat - 1) % 4 * 0x4000000
  let count := min es.length slotEdges + (if slotEdges < es.length then 2 ^ 63 else 0)
  let head := toBytes 4 no.toNat ++ toBytes 2 s.rank.toNat ++ toBytes 2 trigger ++ toBytes 8 (now s).toNat ++
    toBytes 8 (now s).toNat ++ toBytes 8 count ++ toBytes 32 0
  let mem := ssets s.mgmt.fixMem base (head ++ (es.take slotEdges).flatMap edgeBytes)
  emit { s with mgmt := { s.mgmt with fixno := no, fixMem := mem } } unitMgmt none evFixTaken 0 no.toNat

/-- A watchdog record takes a fix under AUTOFIX, at most once a second (R469).
DESIGN CHOICE (log entry 73), unsafe. -/
def autoFix (s : State) (trigger : Nat) : State :=
  let ok := match s.mgmt.lastAuto with | some t => decide (t + 1000000000 ≤ (now s).toNat) | none => true
  if s.mgmt.autofix && ok then doFix { s with mgmt := { s.mgmt with lastAuto := some (now s).toNat } } trigger else s

/-- BARRIER_LATE (R344, R469). -/
def execBarrierLate (ctx : Nat) (key : BarKey) (s : State) : Host.Outcome State Fault Refusal :=
  .next (match findBar s ctx key with
    | some b =>
      match barIsLate s b with
      | some (_, st, rank, lin, wake) =>
        autoFix (emit (putBar s ctx { b with lateLogged := true }) (barUnit s key) (some ctx) evBarrierLate (barObj ctx key)
          (st * 2 ^ 44 + rank * 2 ^ 32 + lin) wake) 1
      | none => s
    | none => s)

/-- COLL_LATE (R437, R469). -/
def execCollLate (ctx id : Nat) (s : State) : Host.Outcome State Fault Refusal :=
  .next (match getView s ctx id with
    | some v => match latest s v with | some k => autoFix (logCollLate s ctx v k) 2 | none => s
    | none => s)

/-! ### The management port -/

/-- Statuses of a reply (R498). -/
def msOk : Nat := 0
def msDenied : Nat := 1
def msBadstate : Nat := 2
def msBadarg : Nat := 3

/-- A reply is sent, after those of the reads that are under way; a refused state is logged (R498, R505).
DESIGN CHOICE (log entry 74), unsafe. -/
def reply (s : State) (st : Nat) (data : List Byte) : State :=
  let s := answerReads s
  let s := { s with mgmt := { s.mgmt with replies := s.mgmt.replies ++ [{ status := BitVec.ofNat 8 st, data := data }] } }
  if st = msBadstate then emit s unitMgmt none evBadState 0 0 else s

/-- A command that needs a session, and may or may not be given in recovery (R495, R497, R498).
DESIGN CHOICE (log entry 74), unsafe. -/
def command (s : State) (inRecovery : Bool) (k : State) : Host.Outcome State Fault Refusal :=
  .next (if s.mgmt.session && (inRecovery || !s.mgmt.recovery) then k else reply s msDenied [])

/-- CHRONRD (R471): no session is needed. -/
def execChronrd (s : State) : Host.Outcome State Fault Refusal :=
  .next (reply s msOk (toBytes 8 (now s).toNat ++ toBytes 8 (qualityWord s).toNat))

/-- LOGHDR (R471). -/
def execLoghdr (part : Nat) (s : State) : Host.Outcome State Fault Refusal :=
  command s true (if 1024 < part then reply s msBadarg [] else reply s msOk (partBytes (getPart s part)))

/-- LOGRD (R471): WRIDX, the records, and WRIDX. -/
def execLogrd (part index count : Nat) (s : State) : Host.Outcome State Fault Refusal :=
  command s true (
    if 1024 < part ∨ 128 < count then reply s msBadarg []
    else
      let ix := toBytes 8 (getPart s part).wridx.toNat
      reply s msOk (ix ++ ((List.range count).flatMap fun i => recAt s part ((index + i) % partCap part)) ++ ix))

/-- FIX (R469, R471). -/
def execTakeFix (age : Nat) (autofix : Bool) (s : State) : Host.Outcome State Fault Refusal :=
  let t := doFix { s with mgmt := { s.mgmt with fixage := age, autofix := autofix } } 0
  command s false (reply t msOk (toBytes 4 t.mgmt.fixno.toNat))

/-- FIXRD (R471). -/
def execFixrd (slot offset length : Nat) (s : State) : Host.Outcome State Fault Refusal :=
  command s true (
    if 4 ≤ slot ∨ 65536 < length ∨ 0x4000000 < offset + length then reply s msBadarg []
    else reply s msOk (sgets s.mgmt.fixMem (slot * 0x4000000 + offset) length))

/-- PHYSRD (R471): the read of memory is under way until it is answered, or a reset meets it (R494). -/
def execPhysrd (pa length : Nat) (s : State) : Host.Outcome State Fault Refusal :=
  command s false (
    if 65536 < length ∨ inMain pa length = false then reply s msBadarg []
    else { s with mgmt := { s.mgmt with reads := s.mgmt.reads ++ [(pa, length)] } })

end Sys2Proof.Machine
end

