-- ==== Sys2Proof/Machine/Mgmt.lean ====
section
/-! DEFINITION. Resets, firmware, identity, the commands of the management port, power, cooling and fencing
(R12, R19, R493-R501). -/

namespace Sys2Proof.Machine

open Sys2Proof

/-! ### The die map -/

/-- Physical cores are die × 34 + 0..33; a logical core stands on its own number in the die, or on a spare (R10, R12).
DEDUCED (log entry 77), unsafe. -/
def physOfCore (s : State) (core : Nat) : Nat :=
  let k := (sget s.coreMap core).toNat
  dieOf core * 34 + (if k = 0 then core % 32 else k)

/-- A physical core is on the fence list. -/
def coreFenced (s : State) (phys : Nat) : Bool := s.mgmt.fences.contains (.core phys)

/-- Maps one logical core: its own, the die's first spare that is neither fenced nor taken, or vacant (R12, R501). -/
def mapCore (s : State) (core : Nat) : State :=
  let d := dieOf core
  let taken := (List.range 32).map fun i => (sget s.coreMap (d * 32 + i)).toNat
  if coreFenced s (d * 34 + core % 32) = false then s
  else match [32, 33].find? fun k => !coreFenced s (d * 34 + k) && !taken.contains k with
  | some k => { s with coreMap := sset s.coreMap core (BitVec.ofNat 8 k) }
  | none => { s with vacant := s.vacant ++ [core] }

/-- The cores that the device identity shows as absent (R12, R501). -/
def absentCores (s : State) : List Nat := s.vacant

/-- The map of a die is rebuilt; a vacant number asks for service (R12, R501).
DEDUCED (log entry 77), unsafe. -/
def mapDie (s : State) (die : Nat) : State :=
  let s := { s with
    coreMap := skeep s.coreMap fun c => dieOf c != die
    vacant := s.vacant.filter fun c => dieOf c != die
    fencedCores := s.fencedCores.filter fun c => dieOf c != die
    fencedSlices := s.fencedSlices.filter (fun n => n / 128 != die) ++
      s.mgmt.fences.filterMap fun p => match p with | .slice n => if n / 128 = die then some n else none | _ => none }
  let s := ((List.range 32).map fun i => die * 32 + i).foldl mapCore s
  if s.vacant.any fun c => dieOf c == die then requestService s else s

/-! ### Resets -/

/-- The RESET record, and RESETS of every entry that has been opened and of the device's own (R464, R493).
DESIGN CHOICE (log entry 75), unsafe. -/
def logReset (s : State) (level : Nat) (thermal : Bool) : State :=
  let s := emit s unitMgmt none evReset 0 (level + if thermal then 256 else 0)
  let p := getPart s 0
  let s := setPart s p
  { s with parts := replaceIf (fun p => p.num == 0 || p.cgen != 0) (fun p => { p with resets := p.resets + 1 }) s.parts }

/-- An image of the flash passes the boot ROM's checks (R495).
DESIGN CHOICE (log entry 14), safe. -/
def imageOk (m : Mgmt) (bank : Nat) : Bool :=
  let img := sgets m.flash (bank * 2 ^ 40) (m.imageLen.getD bank 0)
  Config.verifies 0 (Config.shake256 img) (Config.imageSignature img) && decide (m.rollback.toNat ≤ Config.imageVersion img) &&
    Config.imageReservedZero img

/-- The boot ROM runs the image of a bank: the measurement log is made, and the rollback counter raised where the image
asks for it (R495, R496). A vendor's service image clears the fence list (R501).
DESIGN CHOICE (log entry 14), safe. -/
def runImage (m : Mgmt) (bank : Nat) : Mgmt :=
  let img := sgets m.flash (bank * 2 ^ 40) (m.imageLen.getD bank 0)
  { m with
    recovery := false
    fences := if Config.imageIsService img then [] else m.fences
    measures := [Config.stageImage 0, img, Config.stageImage 1, Config.stageImage 2].map Config.shake256
    rollback := if Config.imageRaisesRollback img then BitVec.ofNat 32 (Config.imageVersion img) else m.rollback }

/-- Firmware boot: the first bank, then the second, then recovery (R495). -/
def boot (s : State) : State :=
  let m := s.mgmt
  let b := m.bootBank % 2
  { s with mgmt :=
    if imageOk m b then runImage m b else if imageOk m (1 - b) then runImage m (1 - b)
    else { m with recovery := true, measures := [Config.shake256 (Config.stageImage 0)] } }

/-- A port after a reset that loses link training: its fenced lanes stay fenced (R494, R501). -/
def lostPort (fences : List Part) (port : Nat) : Port :=
  { Port.fresh port with fencedLanes := fences.filterMap fun p => match p with | .lane q n => if q = port then some n else none | _ => none }

/-- The units of the failing frames of fenced stacks, which stay poisoned (R501). -/
def fencedUnits (fences : List Part) : List Nat :=
  (fences.flatMap fun p => match p with | .stack _ units _ => units | _ => []).dedup

/-- The reads of memory that a reset meets end with an error (R494).
DESIGN CHOICE (log entry 74), unsafe. -/
def failReads (m : Mgmt) : Mgmt :=
  { m with reads := [], replies := m.replies ++ m.reads.map fun _ => { status := BitVec.ofNat 8 msBadstate, data := [] } }

/-- A port after a reset that keeps link training: what waited at it is gone, and its withheld slots go back (R494). -/
def keepPort (q : Port) : Port :=
  { q with waiting := [], withheld := 0, returns := modNth q.returns 2 fun n => n + q.withheld }

/-- Where the host puts its memory, what leaves the device, and the model's own numbers are no part of the package; the
auxiliary domain is kept by levels 1 and 2 (R493, R494).
DESIGN CHOICE (log entry 13), safe. DESIGN CHOICE (log entry 75), unsafe. -/
def packageReset (s : State) (keepMem : Bool) : State :=
  let r := { State.reset with
    rank := s.rank, hostMem := s.hostMem, sentPkts := s.sentPkts, free := s.free + 1, nextGid := s.nextGid,
    nextKid := s.nextKid, nextSel := s.nextSel, nextPark := s.nextPark, nextMade := s.nextMade,
    chron := s.chron, mgmt := failReads s.mgmt, parts := s.parts, logs := s.logs, units := s.units.filter fun u => u.num == unitMgmt }
  let r := if keepMem then
      { r with mem := s.mem, poison := s.poison, modeDie := s.modeDie, ports := s.ports.map keepPort, routes := s.routes,
               turning := s.turning.map fun e => (e.1, []) }
    else { r with modeDie := bit1 (Config.freeWord s.free) 0, ports := (List.range 18).map (lostPort s.mgmt.fences),
                  poison := fencedUnits s.mgmt.fences }
  (List.range 4).foldl mapDie r

/-- A level 1 reset: the firmware boots first, and maps the cores by the fence list that it leaves (R12, R493-R495, R501).
DESIGN CHOICE (log entry 75), unsafe. -/
def coldResetOp (s : State) (thermal : Bool) : State := logReset (packageReset (boot s) false) 1 thermal

/-- A level 2 reset (R493, R494).
DESIGN CHOICE (log entry 75), unsafe. DESIGN CHOICE (log entry 76), unsafe. -/
def warmResetOp (s : State) : State := logReset (packageReset s true) 2 false

/-- A context holds a group placed on a die (R493). -/
def dieBusy (s : State) (die : Nat) : Bool := s.groups.any fun g => holdsPlace s g && g.cores.any fun c => dieOf c == die

/-- A unit of a compute die: its cores, slices and dispatcher (R459). -/
def dieUnit (die n : Nat) : Bool :=
  (decide (n < 512) && n / 128 == die) || (decide (512 ≤ n ∧ n < 1024) && (n - 512) / 128 == die) || n == unitDie die

/-- A level 3 reset of a die (R34, R493, R494): its caches, TLBs and walks are lost, its units start anew, and records
that were pending at its cores go back to its dispatcher. The die's core map is rebuilt (R494) even while a context is ACTIVE, as long
as none of its groups is placed on the die, though R12 says that logical numbers never change then.
DESIGN CHOICE (log entry 75), unsafe. -/
def dieResetOp (s : State) (die : Nat) : State :=
  let away (c : Nat) : Bool := dieOf c != die
  let s := { s with
    dieStart := modNth s.dieStart die fun _ => s.cycle
    dirty := skeep s.dirty fun k => away (k / 2 ^ 52)
    clean := skeep s.clean fun k => away (k / 2 ^ 52)
    tlb := s.tlb.filter fun e => e.die != die
    walkQ := s.walkQ.filter fun w => w.die != die
    units := s.units.filter fun u => !dieUnit die u.num
    gangs := s.gangs.filter fun p => away (p.unit / 16)
    starving := s.starving.filter fun e => away e.1
    contexts := s.contexts.map fun c => { c with decoded := c.decoded.filter fun d => d.slice / 128 != die }
    groups := s.groups.map fun g => if g.die = some die ∧ g.gst = .pending ∧ g.cores = [] then { g with pcore := none } else g }
  logReset (mapDie s die) 3 false

/-- POWER_RESET (R456, R493, R494): the auxiliary rail is lost too; what is fused and the flash stay. -/
def execPowerReset (s : State) : Host.Outcome State Fault Refusal :=
  let m := { Mgmt.fresh with flash := s.mgmt.flash, imageLen := s.mgmt.imageLen, bootBank := s.mgmt.bootBank,
                             rollback := s.mgmt.rollback, fences := s.mgmt.fences,
                             reads := s.mgmt.reads, replies := s.mgmt.replies }
  .next (logReset (packageReset (boot { s with chron := Chron.fresh, mgmt := m, parts := [], logs := [], units := [] }) false) 0 false)

/-- COLD_RESET (R493). -/
def execColdReset (thermal : Bool) (s : State) : Host.Outcome State Fault Refusal := .next (coldResetOp s thermal)

/-- WARM_RESET (R493). -/
def execWarmReset (s : State) : Host.Outcome State Fault Refusal := .next (warmResetOp s)

/-- DIE_RESET (R493). -/
def execDieReset (die : Nat) (s : State) : Host.Outcome State Fault Refusal :=
  .next (if die < 4 ∧ dieBusy s die = false then dieResetOp s die else s)

/-- FUNCTION_RESET (R107, R493). -/
def execFunctionReset (vf : Nat) (s : State) : Host.Outcome State Fault Refusal :=
  .next (
    if 1 ≤ vf ∧ vf < 16 then
      let s := (s.contexts.filter fun c => c.func == vf && c.cst != .teardown).foldl (fun s c => teardownCtx s c.num) s
      logReset s 4 false
    else s)

/-! ### Firmware, sessions and identity -/

/-- FWLOAD (R498).
DESIGN CHOICE (log entry 74), unsafe. -/
def execFwload (bank offset : Nat) (bytes : List Byte) (final : Bool) (s : State) : Host.Outcome State Fault Refusal :=
  command s true (
    if 2 ≤ bank ∨ 65536 < bytes.length ∨ 2 ^ 40 < offset + bytes.length then reply s msBadarg []
    else
      let m := { s.mgmt with flash := ssets s.mgmt.flash (bank * 2 ^ 40 + offset) bytes }
      if final = false then reply { s with mgmt := m } msOk []
      else
        let m := { m with imageLen := modNth m.imageLen bank fun _ => offset + bytes.length }
        if imageOk m bank then
          let s := reply { s with mgmt := { m with bootBank := bank } } msOk []
          if m.recovery then coldResetOp s false else s
        else reply { s with mgmt := m } msBadarg [])

/-- COLDRST (R498). -/
def execColdrst (s : State) : Host.Outcome State Fault Refusal := command s false (coldResetOp (reply s msOk []) false)

/-- WARMRST (R498). -/
def execWarmrst (s : State) : Host.Outcome State Fault Refusal := command s false (warmResetOp (reply s msOk []))

/-- DIERST (R493, R498). -/
def execDierst (die : Nat) (s : State) : Host.Outcome State Fault Refusal :=
  command s false (
    if 4 ≤ die then reply s msBadarg []
    else if dieBusy s die then reply s msBadstate []
    else dieResetOp (reply s msOk []) die)

/-- SESSION_CHALLENGE (R497): the operator's signature over the device's present challenge.
DESIGN CHOICE (log entry 14), safe. -/
def execSessionChallenge (signature : List Byte) (s : State) : Host.Outcome State Fault Refusal :=
  let next := { s with mgmt := { s.mgmt with challenge := s.mgmt.challenge + 1 } }
  .next (
    if Config.verifies 1 (Config.shake256 (Config.challenge s.mgmt.challenge)) signature then
      reply { next with mgmt := { next.mgmt with session := true } } msOk []
    else reply next msDenied [])

/-- A fenced part in a report. -/
def partBytesOf (p : Part) : List Byte :=
  match p with
  | .core n => toBytes 1 0 ++ toBytes 4 n
  | .spare n => toBytes 1 4 ++ toBytes 4 n
  | .slice n => toBytes 1 1 ++ toBytes 4 n
  | .lane port n => toBytes 1 2 ++ toBytes 2 port ++ toBytes 2 n
  | .stack n _ _ => toBytes 1 3 ++ toBytes 4 n

/-- What an attestation report covers, in R496's order, with the cores that the identity shows as absent after the fence list
(R12, R501); the spec gives the report no layout.
DESIGN CHOICE (log entry 14), safe. DESIGN CHOICE (log entry 74), unsafe. -/
def reportOf (s : State) (nonce : List Byte) (func : Option Nat) : List Byte :=
  nonce ++ (match func with | some f => toBytes 1 f | none => []) ++ s.mgmt.measures.flatMap (fun d => toBytes 32 d.toNat) ++
    Config.identity.1 ++ toBytes 2 s.rank.toNat ++ s.mgmt.fences.flatMap partBytesOf ++
    (absentCores s).flatMap (toBytes 1) ++ toBytes 1 (if s.mgmt.service then 1 else 0)

/-- ATTEST (R496, R498): no session is needed; a function's own request has its number in the report. -/
def execAttest (nonce : List Byte) (func : Option Nat) (s : State) : Host.Outcome State Fault Refusal :=
  .next (
    if s.mgmt.recovery then reply s msDenied []
    else if nonce.length ≠ 32 then reply s msBadarg []
    else
      let r := reportOf s nonce func
      reply s msOk (r ++ Config.signature r))

/-! ### Ports, routes, power cap and discipline -/

/-- A command on a port: it moves the port, or the port's state does not accept it (R444, R498). -/
def portCommand (s : State) (port : Nat) (k : Port → Option State) : Host.Outcome State Fault Refusal :=
  command s false (
    match getPort s port with
    | none => reply s msBadarg []
    | some q => match k q with | some s => reply s msOk [] | none => reply s msBadstate [])

/-- PORT_DRAIN (R444, R498). -/
def execPortDrain (port : Nat) (s : State) : Host.Outcome State Fault Refusal :=
  portCommand s port fun q => if q.lst = .up ∨ q.lst = .degraded then some (drainPort s port) else none

/-- PORT_FENCE (R444, R445, R498). -/
def execPortFence (port : Nat) (s : State) : Host.Outcome State Fault Refusal :=
  portCommand s port fun q => some (if q.lst = .fenced then s else requestService (portDown s port .fenced .command))

/-- PORT_UNFENCE (R444, R498). -/
def execPortUnfence (port : Nat) (s : State) : Host.Outcome State Fault Refusal :=
  portCommand s port fun q => if q.lst = .fenced then some (setLink s port .down .command) else none

/-- A port that is DOWN or FENCED enters REPLAY, with counts that start anew (R444, R450). -/
def enterReplay (s : State) (port : Nat) (q : Port) : Option State :=
  if q.lst = .down ∨ q.lst = .fenced then
    let s := { s with replayPos := skeep s.replayPos fun k => k / 2 != port }
    some (setLink (modPort s port fun q => { q with sent := 0, rcvd := 0 }) port .replay .command)
  else none

/-- A port leaves REPLAY for DOWN (R444). -/
def leaveReplay (s : State) (port : Nat) (q : Port) : Option State :=
  if q.lst = .replay then some (portDown s port .down .command) else none

/-- PORT_REPLAY (R444, R450, R498). -/
def execPortReplay (port : Nat) (s : State) : Host.Outcome State Fault Refusal := portCommand s port (enterReplay s port)

/-- PORT_REPLAYCLR (R444, R498). -/
def execPortReplayclr (port : Nat) (s : State) : Host.Outcome State Fault Refusal :=
  portCommand s port (leaveReplay s port)

/-- PORT_TRAINOFF (R498). -/
def execPortTrainoff (port : Nat) (s : State) : Host.Outcome State Fault Refusal :=
  portCommand s port fun _ => some (modPort s port fun q => { q with trainOff := true })

/-- PORT_TRAINON (R498). -/
def execPortTrainon (port : Nat) (s : State) : Host.Outcome State Fault Refusal :=
  portCommand s port fun _ => some (modPort s port fun q => { q with trainOff := false })

/-- ROUTEWR (R329, R442, R498). -/
def execRoutewr (first : Nat) (dirs : List Byte) (s : State) : Host.Outcome State Fault Refusal :=
  command s false (
    if 4096 < first + dirs.length ∨ (dirs.any fun d => decide (6 ≤ d.toNat) && d != 0xFF) = true then reply s msBadarg []
    else reply (failUnreachable { s with routes := ssets s.routes first (dirs.map fun d => if d = 0xFF then 7 else d + 1) }) msOk [])

/-- POWCAP (R498). -/
def execMgmtPowcap (watts : Nat) (s : State) : Host.Outcome State Fault Refusal :=
  command s false (
    if watts < 1200 ∨ 2800 < watts then reply s msBadarg []
    else reply { s with mgmt := { s.mgmt with powcap := BitVec.ofNat 12 watts } } msOk [])

/-- CHRONCFG (R455, R498): a source that is turned off is no longer in use. -/
def execChroncfg (ptp pps : Bool) (domain : Byte) (s : State) : Host.Outcome State Fault Refusal :=
  let src := s.chron.src &&& ((if ptp then 1 else 0) ||| (if pps then 2 else 0))
  command s false (reply { s with chron := { s.chron with ptp := ptp, pps := pps, domain := domain, src := src } } msOk [])

/-! ### The discipline of the chronometer -/

/-- The chronometer enters a state, which is logged; the spec gives the record no layout (R456).
DESIGN CHOICE (log entry 7), safe. -/
def setChron (s : State) (st : BitVec 2) : State :=
  if s.chron.st = st then s
  else
    emit { s with chron := { s.chron with st := st } } unitMgmt none evChronState 0 (Config.recordWord evChronState [st.toNat]).toNat

/-- The count is stepped to the source time (R456).
DESIGN CHOICE (log entry 79), unsafe. -/
def stepChron (s : State) (time : W64) : State :=
  let d := wrapInt 48 ((time.toNat : Int) - (now s).toNat)
  emit { s with chron := { s.chron with ns := time, slew := 0 } } unitMgmt none evChronStep 0 d

/-- A source's time reaches the chronometer (R456, R457): the first after FREERUN makes it LOCKING, the next one locks
it, with a step where no context is live; every other offset is slewed away.
DESIGN CHOICE (log entry 79), unsafe. -/
def discipline (s : State) (src : BitVec 2) (time : W64) (err : W32) : State :=
  let s := { s with chron := { s.chron with src := s.chron.src ||| src, lastSrc := now s, errb := err } }
  let off (s : State) : State := { s with chron := { s.chron with slew := (time.toNat : Int) - (now s).toNat } }
  match s.chron.st.toNat with
  | 0 => setChron s 1
  | 1 =>
    let live := s.contexts.any fun c => c.cst == .active || c.cst == .switchedOut
    let s := setChron (if live then off s else stepChron s time) 2
    { s with chron := { s.chron with lastSrc := now s } }
  | _ => setChron (off s) 2

/-- PTP_MESSAGE (R455). -/
def execPtpMessage (time : W64) (err : W32) (s : State) : Host.Outcome State Fault Refusal :=
  .next (if s.chron.ptp then discipline s 1 time err else s)

/-- PPS_PULSE (R455). -/
def execPpsPulse (time : W64) (err : W32) (s : State) : Host.Outcome State Fault Refusal :=
  .next (if s.chron.pps then discipline s 2 time err else s)

/-- No source for 2 s after LOCKED (R457). -/
def sourceLost (s : State) : Bool := s.chron.st == 2 && decide (s.chron.lastSrc.toNat + 2000000000 ≤ (now s).toNat)

/-- HOLDOVER_ENTRY (R457): the bound on the error is then open.
DESIGN CHOICE (log entry 8), safe. -/
def execHoldoverEntry (s : State) : Host.Outcome State Fault Refusal :=
  .next (if sourceLost s then
      setChron (tickFree { s with chron := { s.chron with src := 0, errb := (Config.freeWord s.free).setWidth 32 } }) 3
    else s)

/-! ### Power, cooling and fencing -/

/-- PACING_CHANGE (R462, R499). -/
def execPacingChange (level : BitVec 4) (s : State) : Host.Outcome State Fault Refusal :=
  .next (
    if s.mgmt.pacing = level then s
    else
      emit { s with mgmt := { s.mgmt with pacing := level } } unitMgmt none evPowerLimit 0
        (level.toNat + s.mgmt.powcap.toNat * 2 ^ 16))

/-- Groups with a core on a die. -/
def dieGroups (s : State) (die : Nat) : List Group :=
  s.groups.filter fun g => (g.gst == .running || g.gst == .halted || g.gst == .draining) && g.cores.any fun c => dieOf c == die

/-- THERMAL_LIMIT (R500): with pacing at its deepest, the die's groups are saved and it takes no more.
DEDUCED (log entry 78), unsafe. -/
def execThermalLimit (die : Nat) (s : State) : Host.Outcome State Fault Refusal :=
  .next (
    if s.mgmt.pacing ≠ 15 ∨ 4 ≤ die ∨ s.mgmt.hotDies.contains die = true then s
    else
      let s := requestService { s with mgmt := { s.mgmt with hotDies := s.mgmt.hotDies ++ [die] } }
      (dieGroups s die).foldl (fun s g => requestPreempt s g.gid 0 false none true) s)

/-- THERMAL_RECOVER (R500). -/
def execThermalRecover (die : Nat) (s : State) : Host.Outcome State Fault Refusal :=
  .next { s with mgmt := { s.mgmt with hotDies := s.mgmt.hotDies.filter (· != die) } }

/-- THERMAL_SHUTDOWN (R500). -/
def execThermalShutdown (die : Nat) (s : State) : Host.Outcome State Fault Refusal :=
  .next (if die < 4 then coldResetOp s true else s)

/-- A part goes on the fence list. -/
def addFence (s : State) (p : Part) : State := { s with mgmt := { s.mgmt with fences := s.mgmt.fences ++ [p] } }

/-- POISON, bit 8 of word 0, is set in a page-table leaf (R256, R259, R501). -/
def poisonLeaf (s : State) (pa : Nat) : State :=
  memPutNat s pa 8 ((readEntry s pa).1 ||| BitVec.ofNat 64 (2 ^ 8)).toNat

/-- A core is fenced: its groups enter FAULTED, and it takes no new group (R501). -/
def fenceCore (s : State) (n : Nat) : State :=
  if 128 ≤ n ∨ s.vacant.contains n = true ∨ s.fencedCores.contains n = true then s
  else
    let s := requestService (addFence { s with fencedCores := s.fencedCores ++ [n] } (.core (physOfCore s n)))
    (s.groups.filter fun g => holdsPlace s g && g.cores.contains n).foldl (fun s g => groupFault s g.gid 4) s

/-- A spare core that carries no logical number is fenced: no rebuild of the map takes it (R12, R501). -/
def fenceSpare (s : State) (phys : Nat) : State :=
  if 136 ≤ phys ∨ coreFenced s phys = true then s
  else match (List.range 128).find? fun c => !s.vacant.contains c && physOfCore s c == phys with
  | some c => fenceCore s c
  | none => requestService (addFence s (.core phys))

/-- PART_FENCE (R501).
DEDUCED (log entry 77), unsafe. -/
def execPartFence (part : Part) (s : State) : Host.Outcome State Fault Refusal :=
  .next (match part with
    | .core n => fenceCore s n
    | .spare n => fenceSpare s n
    | .slice n => if 512 ≤ n ∨ s.mgmt.fences.contains part = true then s else requestService (addFence s part)
    | .lane port n =>
      (match getPort s port with
      | none => s
      | some q =>
        if 8 ≤ n ∨ q.fencedLanes.contains n = true then s
        else
          let s := modPort s port fun q =>
            { q with fencedLanes := q.fencedLanes ++ [n], lanes := if q.lanes = 0 then 0 else 8 - (q.fencedLanes.length + 1) }
          let s := requestService (addFence s part)
          if q.lst = .up ∨ q.lst = .degraded then setLink s port .training .lanes else s)
    | .stack n units leaves =>
      if 12 ≤ n then s
      else
        let us := units.filter fun u => stackOf s (16 * u) == n
        let s := { s with poison := (s.poison ++ us).dedup }
        leaves.foldl poisonLeaf (requestService (addFence s (.stack n us leaves))))

/-! ### Re-stitching -/

/-- A core from whose executor or walk something is in flight: a walk that it asked for, or a request to a peer whose response has not
come. -/
def busyCores (s : State) : List Nat :=
  s.walkQ.flatMap (fun w => w.uses.map (·.core)) ++
    s.remotes.filterMap fun r =>
      match r.t with
      | .inl id => (getGroup s id.gid).map fun g => coreOf g id.who
      | .inr _ => none

/-- No placed group has a core in a region, and no packet is in flight inside it (R19).
DEDUCED (log entry 80), unsafe. -/
def regionEmpty (s : State) (region : List Nat) : Bool :=
  !(s.groups.any fun g => holdsPlace s g && g.cores.any region.contains) && !(busyCores s).any region.contains

/-- RESTITCH (R19): the request waits until its region is empty. The record holds the region and the new shape; its layout is not
given. A second, different request made while one waits is ignored, on which the spec says nothing.
DESIGN CHOICE (log entry 7), safe. DESIGN CHOICE (log entry 97), unsafe. -/
def execRestitch (region : List Nat) (shape : BitVec 8) (s : State) : Host.Outcome State Fault Refusal :=
  .next (
    if (match s.restitch with | some r => r == (region, shape) | none => true) = false then s
    else if regionEmpty s region then
      let s := { s with restitch := none, stitched := upsert (fun e => e.1 == region) (region, shape) s.stitched }
      emit s unitMgmt none evRestitch (Config.recordWord evRestitch region).toNat
        (Config.recordWord evRestitch (shape.toNat :: region)).toNat
    else { s with restitch := some (region, shape) })

/-! ### What is due -/

/-- The log's and the chronometer's own events: drop counts go out where there is room, the head writes what has arrived,
the discipline falls into HOLDOVER, a re-stitch takes effect.
DESIGN CHOICE (log entry 88), unsafe. -/
def dueMgmt (s : State) : Option Instr :=
  match s.units.find? fun u => !(u.drops.all (· == 0)) && decide (u.buf.length < 16) with
  | some u => some (.dropEmit u.num)
  | none =>
    match s.units.find? fun u => !u.buf.isEmpty with
    | some u => some (.logHeadWrite u.num)
    | none =>
      if sourceLost s then some .holdoverEntry
      else match s.restitch with
        | some (r, sh) => if regionEmpty s r then some (.restitch r sh) else none
        | none => none

/-- DROP_EMIT (R466). -/
def execDropEmit (unit : Nat) (s : State) : Host.Outcome State Fault Refusal := .next (flushDrop s unit)

/-- LOG_HEAD_WRITE (R464, R465).
DESIGN CHOICE (log entry 88), unsafe. -/
def execLogHeadWrite (unit : Nat) (s : State) : Host.Outcome State Fault Refusal := .next (headWrite s unit)

end Sys2Proof.Machine
end

