-- ==== Sys2Proof/Machine/HostPort.lean ====
section
/-! DEFINITION. Reads and writes of the host in BAR0: the function page, the control page and the queue pages (R4, R118, R451-R454). -/

namespace Sys2Proof.Machine

open Sys2Proof

/-- INTCAUSE_CLEAR (R453): bits written as 1 are cleared. -/
def execIntcauseClear (func : Nat) (v : W64) (s : State) : Host.Outcome State Fault Refusal :=
  .next (modFunc s func fun f => { f with intcause := f.intcause &&& ~~~(v.setWidth 5) })

/-- VFDIES_WRITE (R454, R505): it is refused while the function holds an ACTIVE context, and ignored for the physical
function. -/
def execVfdiesWrite (vf : Nat) (v : W64) (s : State) : Host.Outcome State Fault Refusal :=
  .next (
    if vf = 0 ∨ 16 ≤ vf then s
    else if s.contexts.any fun c => c.func == vf && c.cst == .active then emit s unitHost none evBadState 0 0
    else modFunc s vf fun f => { f with dies := v.setWidth 4 })

/-- POWCAP_WRITE (R454): the value is clamped. -/
def execPowcapWrite (v : W64) (s : State) : Host.Outcome State Fault Refusal :=
  .next { s with mgmt := { s.mgmt with powcap := BitVec.ofNat 12 (max 1200 (min 2800 (fld v 11 0))) } }

/-- RESETREQ_WRITE (R454, R493). -/
def execResetreqWrite (v : W64) (s : State) : Host.Outcome State Fault Refusal :=
  .next (if fld v 15 0 = 0x5752 then warmResetOp s else s)

/-- The bits of a word that a register keeps. -/
def keepBits (v : W64) (mask : Nat) : W64 := v &&& BitVec.ofNat 64 mask

/-- RECCTL (R449, R454): 1 in bit 31 clears LOSS; a port that is enabled anew counts its packets from here, and the
region is filled from its start where no port was recording.
DESIGN CHOICE (log entry 68), unsafe. -/
def writeRecctl (s : State) (v : W64) : State :=
  let loss := if bit1 v 31 then 0 else fld s.recctl 31 31
  let old := fld s.recctl 17 0
  let new := fld v 17 0
  let s := { s with
    recctl := keepBits v 0x103FFFF ||| BitVec.ofNat 64 (loss * 2 ^ 31)
    recpos := if old = 0 then 0 else s.recpos }
  { s with ports := replaceIf (fun q => new.testBit q.num && !old.testBit q.num) (fun q => { q with sent := 0, rcvd := 0 }) s.ports }

/-- REPCTL (R444, R450, R454): 1 in bit 31 clears MISMATCH, and MPORT is read-only. A port whose bit is set enters REPLAY where it is DOWN or
FENCED; one that is in REPLAY and whose bit is clear leaves it.
DESIGN CHOICE (log entry 68), unsafe. -/
def writeRepctl (s : State) (v : W64) : State :=
  let mis := if bit1 v 31 then 0 else fld s.repctl 31 31
  let s := { s with repctl := BitVec.ofNat 64 (mis * 2 ^ 31 + fld s.repctl 28 24 * 2 ^ 24) }
  (List.range 18).foldl (fun s n =>
    match getPort s n with
    | some q => ((if bit1 v n then enterReplay s n q else leaveReplay s n q)).getD s
    | none => s) s

/-- What REPCTL reads: MISMATCH, MPORT, and the ports in REPLAY (R454). -/
def readRepctl (s : State) : W64 :=
  s.repctl ||| BitVec.ofNat 64 (((s.ports.filter fun q => q.lst == .replay).map fun q => 2 ^ q.num).sum)

/-- A register of the control page that has no event of its own (R454). -/
def writeControl (s : State) (o : Nat) (v : W64) : State :=
  match o with
  | 0x800 => { s with recbase := keepBits v (2 ^ 52 - 2 ^ 12) }
  | 0x808 => { s with recsize := keepBits v (2 ^ 40 - 2 ^ 12) }
  | 0x810 => writeRecctl s v
  | 0x818 => writeRepctl s v
  | _ =>
    let f := o / 0x40
    if 16 ≤ f then s
    else match o % 0x40 with
    | 0x00 => modFunc s f fun x => { x with slice := v.setWidth 32 }
    | 0x08 => modFunc s f fun x => { x with bound := v.setWidth 32 }
    | 0x18 => if f = 0 then s else modFunc s f fun x => { x with vfflags := v.setWidth 2 }
    | _ => s

/-- QCFG and TICKETS (R118): QCFG takes writes while the queue is DISABLED, its PRIV bit from the physical function or the management processor.
DESIGN CHOICE (log entry 68), unsafe. -/
def writeQueueReg (s : State) (may : Bool) (ctx q o : Nat) (v : W64) : State :=
  let x := queueOfCtx s ctx q
  match o with
  | 0x000 =>
    if x.qst ≠ .disabled then s
    else
      let w := keepBits v (2 ^ 52 - 2 ^ 4)
      putQueue s { x with cfg := if may then w else setFld w 7 7 (fld x.cfg 7 7) }
  | 0x008 => putQueue s { x with tickets := v.setWidth 16 }
  | _ => s

/-- A write to CTXCMD: CREATE with the area and the debug grant of CTXARG, ACTIVATE or TEARDOWN, for the slot or, under ABS, for the
number named; a code without a command does nothing (R453). -/
def writeCtxcmd (func : Nat) (v : W64) (s : State) : Host.Outcome State Fault Refusal :=
  let num := if bit1 v 31 then some (fld v 25 16) else none
  let slot := fld v 13 8
  let arg := (getFunc s func).ctxarg
  match fld v 2 0 with
  | 1 => execCtxCreate (.func func) slot num (keepBits arg (2 ^ 52 - 2 ^ 16)) (bit1 arg 0) s
  | 2 => execCtxActivate (.func func) slot num s
  | 3 => execCtxTeardown (.func func) slot num s
  | _ => .next s

/-- A write to QCMD: a code without a command does nothing (R118, R120). -/
def writeQcmd (ctx q : Nat) (v : W64) (s : State) : Host.Outcome State Fault Refusal :=
  match fld v 2 0 with
  | 1 => execQueueEnable ctx q s
  | 2 => execQueueSuspend ctx q s
  | 3 => execQueueResume ctx q s
  | 4 => execQueueDrain ctx q s
  | 5 => execQueueDisable ctx q s
  | 6 => execQueueReset ctx q s
  | _ => .next s

/-- A write to a queue's page (R118, R119). -/
def writeQueuePage (may : Bool) (ctx q o : Nat) (v : W64) (s : State) : Host.Outcome State Fault Refusal :=
  if 256 ≤ q then .next s
  else match o with
  | 0x010 => execWridxWrite ctx q (v.setWidth 32) s
  | 0x028 => writeQcmd ctx q v s
  | _ => .next (writeQueueReg s may ctx q o v)

/-- A write to a trigger window: at 8n an addition, at 0x800 + 8n a set (R451). -/
def writeTrigger (func slot o : Nat) (v : W64) (s : State) : Host.Outcome State Fault Refusal :=
  if o % 8 ≠ 0 ∨ 0x1000 ≤ o then .next s
  else if o < 0x800 then execTriggerWindowAdd func slot (o / 8) v s
  else execTriggerWindowSet func slot (o % 0x800 / 8) v s

/-- A write to the function page (R453). -/
def writeFunction (func o : Nat) (v : W64) (s : State) : Host.Outcome State Fault Refusal :=
  match o with
  | 0x000 => writeCtxcmd func v s
  | 0x008 => .next (modFunc s func fun f => { f with ctxarg := keepBits v (2 ^ 52 - 2 ^ 16 + 1) })
  | 0x018 => execIntcauseClear func v s
  | _ => .next s

/-- A write to the control page (R454). -/
def writeControlPage (o : Nat) (v : W64) (s : State) : Host.Outcome State Fault Refusal :=
  match o with
  | 0x828 => execResetreqWrite v s
  | 0x830 => execPowcapWrite v s
  | _ => if o < 0x400 ∧ o % 0x40 = 0x10 then execVfdiesWrite (o / 0x40) v s else .next (writeControl s o v)

/-- REGISTER_WRITE (R4, R118, R451-R454): a write at an offset of a page acts as the register there does, in the event that the write is where
it is one; read-only registers and offsets without a register do not change by it. -/
def execRegisterWrite (func : Nat) (page : HostPage) (offset : Nat) (v : W64) (s : State) : Host.Outcome State Fault Refusal :=
  if 16 ≤ func then .next s
  else match page with
  | .function => writeFunction func offset v s
  | .control => if func = 0 then writeControlPage offset v s else .next s
  | .trigger slot => writeTrigger func slot offset v s
  | .context slot =>
    if offset < 0x800 ∧ offset % 8 = 0 then execHostCtxregWrite func slot (BitVec.ofNat 8 (offset / 8)) v s else .next s
  | .queue slot q =>
    (match slotCtx s func slot with
    | some c => writeQueuePage (func == 0) c.num q offset v s
    | none => .next s)
  | .managed ctx q => if (getCtx s ctx).isSome then writeQueuePage true ctx q offset v s else .next s

/-- What a read of a register of the control page returns (R454): RESETREQ and the offsets without a register read zero, and the
physical function's own VFFLAGS reads ones. -/
def readControl (s : State) (o : Nat) : W64 :=
  match o with
  | 0x800 => s.recbase
  | 0x808 => s.recsize
  | 0x810 => s.recctl
  | 0x818 => readRepctl s
  | 0x820 => s.rank.zeroExtend 64
  | 0x830 => s.mgmt.powcap.zeroExtend 64
  | _ =>
    let f := getFunc s (o / 0x40)
    if 16 ≤ o / 0x40 then 0
    else match o % 0x40 with
    | 0x00 => f.slice.zeroExtend 64
    | 0x08 => f.bound.zeroExtend 64
    | 0x10 => if o / 0x40 = 0 then 0 else f.dies.zeroExtend 64
    | 0x18 => if o / 0x40 = 0 then 3 else f.vfflags.zeroExtend 64
    | _ => 0

/-- What a 64-bit read in BAR0 returns (R118, R451-R454): in a trigger window the counters, and zero where no register stands, where
no context is bound, and in the function page of a device in recovery (R495). A read changes nothing. -/
def pageRead (s : State) (func : Nat) (page : HostPage) (o : Nat) : W64 :=
  if 16 ≤ func then 0
  else match page with
  | .function =>
    if s.mgmt.recovery then 0
    else (match o with
      | 0x008 => (getFunc s func).ctxarg
      | 0x010 => (getFunc s func).ctxstat
      | 0x018 => (getFunc s func).intcause.zeroExtend 64
      | _ => 0)
  | .control => if func = 0 then readControl s o else 0
  | .trigger slot =>
    (match slotCtx s func slot with
    | some c => if o < 0x1000 ∧ o % 8 = 0 then sget c.trig (o % 0x800 / 8) else 0
    | none => 0)
  | .context slot =>
    (match slotCtx s func slot with
    | some c => if o < 0x800 ∧ o % 8 = 0 then ctxRegRead s c.num (0x200 + o / 8) else 0
    | none => 0)
  | .queue slot q =>
    (match slotCtx s func slot with
    | some c => if q < 256 then queuePageRead (queueOfCtx s c.num q) o else 0
    | none => 0)
  | .managed ctx q => if q < 256 ∧ (getCtx s ctx).isSome then queuePageRead (queueOfCtx s ctx q) o else 0

/-! ### The map of BAR0 -/

/-- The page that an offset in BAR0 lies in, and the offset in it (R118, R451). -/
def barPage (a : Nat) : Option (HostPage × Nat) :=
  let at_ (p : HostPage) : Option (HostPage × Nat) := some (p, a % 0x1000)
  if a < 0x1000 then at_ .function
  else if a < 0x2000 then at_ .control
  else if 0x10000 ≤ a ∧ a < 0x50000 then at_ (.trigger ((a - 0x10000) / 0x1000))
  else if 0x100000 ≤ a ∧ a < 0x140000 then at_ (.context ((a - 0x100000) / 0x1000))
  else if 0x4000000 ≤ a ∧ a < 0x8000000 then at_ (.queue ((a - 0x4000000) / 0x100000) (a % 0x100000 / 0x1000))
  else none

/-- A 64-bit read at an offset in a function's BAR0; offsets that hold no page read zero.
DESIGN CHOICE (log entry 68), unsafe. -/
def barRead (s : State) (func a : Nat) : W64 :=
  match barPage a with
  | some (p, o) => pageRead s func p o
  | none => 0

/-- A 64-bit write at an offset in a function's BAR0 is the REGISTER_WRITE at the place that the offset names; where no page stands, nothing
happens.
DESIGN CHOICE (log entry 68), unsafe. -/
def barWrite (func a : Nat) (v : W64) (s : State) : Host.Outcome State Fault Refusal :=
  match barPage a with
  | some (p, o) => execRegisterWrite func p o v s
  | none => .next s

end Sys2Proof.Machine
end

