-- ==== Sys2Proof/Machine/Special.lean ====
section
/-! DEFINITION. The approximated functions (R224, R225): the true value as a rational close enough to judge the bounds,
the configured result where it meets them, else the nearest FP32 value. -/

namespace Sys2Proof.Machine

open Sys2Proof

/-- Fixed-point scale of the series. -/
def fxOne : Int := 2 ^ 200

/-- Pi times 2^400 and ln 2 times 2^300, rounded down. -/
def piFx : Int := 8112377246730971238862271351300894519161151600179265203591191037615230905373990498745523360926816815427566779727327576236
def ln2Fx : Int := 1411965743695424507508857192728570223734551239724995589061361292466257174357546532574725854

/-- A rational in fixed point. -/
def toFx (x : Rat) : Int := (x * (fxOne : Rat)).floor

/-- Sum of a series whose next term is the present one times r / (d * 2^200), for n terms: d is a function of the term's
index. -/
def fxSeries (r : Int) (d : Nat → Int) (n i : Nat) (term acc : Int) : Int :=
  match n with
  | 0 => acc
  | k + 1 => let t := term * r / (fxOne * d i); fxSeries r d k (i + 1) t (acc + t)

/-- e^r for 0 <= r < 1 in fixed point. -/
def expFx (r : Int) : Int := fxSeries r (fun i => (i : Int) + 1) 50 0 fxOne fxOne

/-- 2^x. -/
def exp2Rat (x : Rat) : Rat :=
  let n := x.floor
  let fr := toFx (x - n)
  (expFx (fr * (ln2Fx / 2 ^ 100) / fxOne) : Rat) / (fxOne : Rat) * pow2 n

/-- ln m for 1 <= m < 2 in fixed point: twice the series of the inverse hyperbolic tangent. -/
def lnFx (m : Rat) : Int :=
  let z := toFx ((m - 1) / (m + 1))
  let z2 := z * z / fxOne
  let rec go (n i : Nat) (p acc : Int) : Int :=
    match n with
    | 0 => acc
    | k + 1 => go k (i + 1) (p * z2 / fxOne) (acc + p / (2 * (i : Int) + 1))
  2 * go 75 0 z 0

/-- log2 x for x > 0. -/
def log2Rat (x : Rat) : Rat :=
  let e := ilog2 x
  (e : Rat) + (lnFx (x * pow2 (-e)) : Rat) / ((ln2Fx / 2 ^ 100 : Int) : Rat)

/-- x reduced modulo 2 pi to about -pi .. pi, in fixed point. -/
def reducePi (x : Rat) : Int :=
  let p : Rat := (piFx : Rat) * pow2 (-400)
  let k := (x / (2 * p) + 1 / 2).floor
  toFx (x - (k : Rat) * (2 * p))

def sinRat (x : Rat) : Rat :=
  let r := reducePi x
  let r2 := -(r * r / fxOne)
  (fxSeries r2 (fun i => (2 * (i : Int) + 2) * (2 * (i : Int) + 3)) 45 0 r r : Rat) / (fxOne : Rat)

def cosRat (x : Rat) : Rat :=
  let r := reducePi x
  let r2 := -(r * r / fxOne)
  (fxSeries r2 (fun i => (2 * (i : Int) + 1) * (2 * (i : Int) + 2)) 45 0 fxOne fxOne : Rat) / (fxOne : Rat)

/-- tanh x for x > 0. -/
def tanhRat (x : Rat) : Rat :=
  if x < pow2 (-20) then x - x * x * x / 3 + 2 * x * x * x * x * x / 15
  else
    let e := exp2Rat (2 * x * (fxOne : Rat) / ((ln2Fx / 2 ^ 100 : Int) : Rat))
    (e - 1) / (e + 1)

/-- One unit in the last place at a magnitude (R224). -/
def ulpOf (fm : FloatFmt) (m : Rat) : Rat := pow2 (max (ilog2 m) (fmtEmin fm) - fm.fb)

/-- The outcome of a function before it is delivered: an exact value with flags, or a true value with its bound. -/
inductive Approx where
  | exact (v : Ext) (fl : BitVec 6)
  | near (x : Rat) (bound : Rat) (unit : Bool)

/-- The value of a candidate for the bound: an infinity stands for the first magnitude above MAXF. -/
def candVal (fm : FloatFmt) (v : Ext) : Option Rat :=
  match v with
  | .nan => none
  | .inf s => some (signedVal s (pow2 ((fmtBias fm : Int) + 1)))
  | .fin s m => some (signedVal s m)

def absR (x : Rat) : Rat := if x < 0 then -x else x

/-- The configured result where it meets the bound, else the nearest value.
DESIGN CHOICE (log entry 6), safe. -/
def pickApprox (fm : FloatFmt) (x bound : Rat) (unit : Bool) (cand : Nat) : Ext :=
  let c := decodeF fm (cand % 2 ^ fmtW fm)
  let ok := match candVal fm c with
    | some y => decide (absR (y - x) ≤ bound) && (!unit || decide (absR y ≤ 1))
    | none => false
  if ok then c
  else (roundF fm { rm := .rne, ftz := false, sat := false, infIn := false } (.fin (decide (x < 0)) (absR x))).val

/-- Delivers an approximated result (R224): `code` names the function; a bound of 0 marks a result that is exact in FP32. In `.f16` and `.bf16` it is the FP32 result, rounded once. UF
marks a non-zero result below the smallest normal, one that FTZ then replaces by zero among them (R76).
DESIGN CHOICE (log entry 6), safe. -/
def approxEff (v : View) (code : Nat) (x : FIn) (r : Approx) : Eff :=
  let fm := ffmt v.f
  let wide := if fcode v.f = 1 then fp64 else fp32
  let inFl := x.fl ||| flagIf x.snan flNV
  let put (e : Ext) (fl : BitVec 6) (c : Bool) : Eff :=
    { writes := writesD v (fmtRegW fm) (encodeF fm e), flags := fl ||| inFl, ovf := if c && ovcBit v.f then 1 else 0 }
  match r with
  | .exact e fl => put e fl false
  | .near y bound unit =>
    let bits := if fcode v.f ≤ 1 then x.bits else encodeF fp32 x.val
    let cand := Config.approx (2 * code + (if satBit v.f then 1 else 0)) (if fcode v.f = 1 then 1 else 0)
      (fFtz v.f) (BitVec.ofNat 64 bits)
    let past := isInfE (roundF wide { rm := .rne, ftz := false, sat := false, infIn := false } (.fin (decide (y < 0)) (absR y))).val
    let e := if past then .fin (decide (y < 0)) (absR y) else pickApprox wide y bound unit cand.toNat
    let o := roundF fm { rm := .rne, ftz := fFtz v.f, sat := satBit v.f, infIn := false } e
    let kept := (roundF fm { rm := .rne, ftz := false, sat := satBit v.f, infIn := false } e).val
    let ov := isInfE e || isInfE o.val || bit1 o.fl 2
    let tiny := match kept with | .fin _ m => decide (0 < m ∧ m < pow2 (fmtEmin fm)) | _ => false
    put o.val (if bound = 0 then o.fl else flNX ||| flagIf ov flOF ||| flagIf tiny flUF) o.clamped

/-- A NaN operand gives NaN; otherwise the function of R224. -/
def approxAlu (code : Nat) (f : Fields) (s : State) (fn : FloatFmt → FloatFmt → Ext → Approx) :
    Host.Outcome State Fault Refusal :=
  issueAlu 0 f s fun v =>
    let fm := ffmt f
    let wide := if fcode f = 1 then fp64 else fp32
    let x := readFloat fm (fFtz f) false false (fbitsA v fm)
    approxEff v code x (match x.val with | .nan => .exact .nan 0 | e => fn fm wide e)

/-- An exact power of two, and its exponent. -/
def isPow2 (m : Rat) : Bool := m == pow2 (ilog2 m)

def rsqFn (_ wide : FloatFmt) (x : Ext) : Approx :=
  match x with
  | .nan => .exact .nan 0
  | .inf s => if s then .exact .nan flNV else .exact (.fin false 0) 0
  | .fin s m =>
    if m = 0 then .exact (.inf s) flDZ
    else if s then .exact .nan flNV
    else if isPow2 m ∧ ilog2 m % 2 = 0 then .exact (.fin false (pow2 (-(ilog2 m / 2)))) 0
    else let y := sqrtNear (1 / m); .near y (ulpOf wide y) false

/-- 2^a (R224): exact where the FP32 result is, which a narrower format then rounds as any FP32 value. -/
def exp2Fn (_ wide : FloatFmt) (x : Ext) : Approx :=
  match x with
  | .nan => .exact .nan 0
  | .inf s => if s then .exact (.fin false 0) 0 else .exact (.inf false) 0
  | .fin s m =>
    let y := signedVal s m
    if y.den = 1 ∧ decide ((fmtEmin wide : Rat) ≤ y ∧ y ≤ (fmtBias wide : Rat)) = true then .near (pow2 y.num) 0 false
    else
      let z := exp2Rat (max (-300) (min 300 y))
      .near z (2 * ulpOf wide z) false

def log2Fn (_ wide : FloatFmt) (x : Ext) : Approx :=
  match x with
  | .nan => .exact .nan 0
  | .inf s => if s then .exact .nan flNV else .exact (.inf false) 0
  | .fin s m =>
    if m = 0 then .exact (.inf true) flDZ
    else if s then .exact .nan flNV
    else if isPow2 m then .exact (.fin (decide (ilog2 m < 0)) ((ilog2 m).natAbs : Rat)) 0
    else
      let y := log2Rat m
      .near y (if 1 / 2 ≤ m ∧ m ≤ 2 then pow2 (-22) else 2 * ulpOf wide (absR y)) false

def sinFn (_ _ : FloatFmt) (x : Ext) : Approx :=
  match x with
  | .nan => .exact .nan 0
  | .inf _ => .exact .nan flNV
  | .fin s m => if m = 0 then .exact (.fin s 0) 0 else .near (sinRat (signedVal s m)) (pow2 (-22)) true

def cosFn (_ _ : FloatFmt) (x : Ext) : Approx :=
  match x with
  | .nan => .exact .nan 0
  | .inf _ => .exact .nan flNV
  | .fin s m => if m = 0 then .exact oneE 0 else .near (cosRat (signedVal s m)) (pow2 (-22)) true

def tanhFn (_ wide : FloatFmt) (x : Ext) : Approx :=
  match x with
  | .nan => .exact .nan 0
  | .inf s => .exact (.fin s 1) 0
  | .fin s m =>
    if m = 0 then .exact (.fin s 0) 0
    else if 91 / 10 ≤ m then .exact (.fin s 1) 0
    else let y := tanhRat m; .near (signedVal s y) (2 * ulpOf wide y) false

def execFrsq (f : Fields) (s : State) : Host.Outcome State Fault Refusal := approxAlu 0 f s rsqFn
def execFexp2 (f : Fields) (s : State) : Host.Outcome State Fault Refusal := approxAlu 1 f s exp2Fn
def execFlog2 (f : Fields) (s : State) : Host.Outcome State Fault Refusal := approxAlu 2 f s log2Fn
def execFsin (f : Fields) (s : State) : Host.Outcome State Fault Refusal := approxAlu 3 f s sinFn
def execFcos (f : Fields) (s : State) : Host.Outcome State Fault Refusal := approxAlu 4 f s cosFn
def execFtanh (f : Fields) (s : State) : Host.Outcome State Fault Refusal := approxAlu 5 f s tanhFn

end Sys2Proof.Machine
end

