-- ==== Sys2Proof/Machine/Dispatch.lean ====
section
/-! DEFINITION. The one dispatch: each instruction's meaning, called once. -/

namespace Sys2Proof.Machine

open Sys2Proof

def exec (i : Instr) (s : State) : Host.Outcome State Fault Refusal :=
  match i with
  | .nop f => Sys2Proof.Machine.execNop f s
  | .bra f => Sys2Proof.Machine.execBra f s
  | .brx f => Sys2Proof.Machine.execBrx f s
  | .call f => Sys2Proof.Machine.execCall f s
  | .callx f => Sys2Proof.Machine.execCallx f s
  | .ret f => Sys2Proof.Machine.execRet f s
  | .land f => Sys2Proof.Machine.execLand f s
  | .join f => Sys2Proof.Machine.execJoin f s
  | .waitj f => Sys2Proof.Machine.execWaitj f s
  | .waitjExpiry gid n slot => Sys2Proof.Machine.execWaitjExpiry gid n slot s
  | .jmaskGet f => Sys2Proof.Machine.execJmaskGet f s
  | .jmaskSet f => Sys2Proof.Machine.execJmaskSet f s
  | .jmaskOr f => Sys2Proof.Machine.execJmaskOr f s
  | .jmaskAndn f => Sys2Proof.Machine.execJmaskAndn f s
  | .exit f => Sys2Proof.Machine.execExit f s
  | .yield f => Sys2Proof.Machine.execYield f s
  | .nap f => Sys2Proof.Machine.execNap f s
  | .napWake t => Sys2Proof.Machine.execNapWake t s
  | .trap f => Sys2Proof.Machine.execTrap f s
  | .bkpt f => Sys2Proof.Machine.execBkpt f s
  | .trapret f => Sys2Proof.Machine.execTrapret f s
  | .release f => Sys2Proof.Machine.execRelease f s
  | .dqpush f => Sys2Proof.Machine.execDqpush f s
  | .dqpushNb f => Sys2Proof.Machine.execDqpushNb f s
  | .dqpop f => Sys2Proof.Machine.execDqpop f s
  | .dqpopNb f => Sys2Proof.Machine.execDqpopNb f s
  | .phalt f => Sys2Proof.Machine.execPhalt f s
  | .launch f => Sys2Proof.Machine.execLaunch f s
  | .qsig f => Sys2Proof.Machine.execQsig f s
  | .trigarm f => Sys2Proof.Machine.execTrigarm f s
  | .iadd f => Sys2Proof.Machine.execIadd f s
  | .isub f => Sys2Proof.Machine.execIsub f s
  | .imul f => Sys2Proof.Machine.execImul f s
  | .imulh f => Sys2Proof.Machine.execImulh f s
  | .imad f => Sys2Proof.Machine.execImad f s
  | .imadw f => Sys2Proof.Machine.execImadw f s
  | .idiv f => Sys2Proof.Machine.execIdiv f s
  | .irem f => Sys2Proof.Machine.execIrem f s
  | .imin f => Sys2Proof.Machine.execImin f s
  | .imax f => Sys2Proof.Machine.execImax f s
  | .iabs f => Sys2Proof.Machine.execIabs f s
  | .ineg f => Sys2Proof.Machine.execIneg f s
  | .isad f => Sys2Proof.Machine.execIsad f s
  | .iadc f => Sys2Proof.Machine.execIadc f s
  | .isbc f => Sys2Proof.Machine.execIsbc f s
  | .clamp f => Sys2Proof.Machine.execClamp f s
  | .iand f => Sys2Proof.Machine.execIand f s
  | .ior f => Sys2Proof.Machine.execIor f s
  | .ixor f => Sys2Proof.Machine.execIxor f s
  | .inot f => Sys2Proof.Machine.execInot f s
  | .lop3 f => Sys2Proof.Machine.execLop3 f s
  | .shl f => Sys2Proof.Machine.execShl f s
  | .shr f => Sys2Proof.Machine.execShr f s
  | .sar f => Sys2Proof.Machine.execSar f s
  | .rol f => Sys2Proof.Machine.execRol f s
  | .fshr f => Sys2Proof.Machine.execFshr f s
  | .popc f => Sys2Proof.Machine.execPopc f s
  | .clz f => Sys2Proof.Machine.execClz f s
  | .ctz f => Sys2Proof.Machine.execCtz f s
  | .brev f => Sys2Proof.Machine.execBrev f s
  | .bfx f => Sys2Proof.Machine.execBfx f s
  | .bfi f => Sys2Proof.Machine.execBfi f s
  | .prmb f => Sys2Proof.Machine.execPrmb f s
  | .icmp f => Sys2Proof.Machine.execIcmp f s
  | .iset f => Sys2Proof.Machine.execIset f s
  | .sel f => Sys2Proof.Machine.execSel f s
  | .mov f => Sys2Proof.Machine.execMov f s
  | .movi f => Sys2Proof.Machine.execMovi f s
  | .movl f => Sys2Proof.Machine.execMovl f s
  | .lea f => Sys2Proof.Machine.execLea f s
  | .cvti f => Sys2Proof.Machine.execCvti f s
  | .fadd f => Sys2Proof.Machine.execFadd f s
  | .fsub f => Sys2Proof.Machine.execFsub f s
  | .fmul f => Sys2Proof.Machine.execFmul f s
  | .ffma f => Sys2Proof.Machine.execFfma f s
  | .fmin f => Sys2Proof.Machine.execFmin f s
  | .fmax f => Sys2Proof.Machine.execFmax f s
  | .fcmp f => Sys2Proof.Machine.execFcmp f s
  | .fset f => Sys2Proof.Machine.execFset f s
  | .fclass f => Sys2Proof.Machine.execFclass f s
  | .frcp f => Sys2Proof.Machine.execFrcp f s
  | .frsq f => Sys2Proof.Machine.execFrsq f s
  | .fsqrt f => Sys2Proof.Machine.execFsqrt f s
  | .fdiv f => Sys2Proof.Machine.execFdiv f s
  | .fexp2 f => Sys2Proof.Machine.execFexp2 f s
  | .flog2 f => Sys2Proof.Machine.execFlog2 f s
  | .fsin f => Sys2Proof.Machine.execFsin f s
  | .fcos f => Sys2Proof.Machine.execFcos f s
  | .ftanh f => Sys2Proof.Machine.execFtanh f s
  | .frnd f => Sys2Proof.Machine.execFrnd f s
  | .fscale f => Sys2Proof.Machine.execFscale f s
  | .fcvt f => Sys2Proof.Machine.execFcvt f s
  | .fcvti f => Sys2Proof.Machine.execFcvti f s
  | .icvtf f => Sys2Proof.Machine.execIcvtf f s
  | .fdot2 f => Sys2Proof.Machine.execFdot2 f s
  | .ncvt f => Sys2Proof.Machine.execNcvt f s
  | .nexp f => Sys2Proof.Machine.execNexp f s
  | .bscale f => Sys2Proof.Machine.execBscale f s
  | .npack f => Sys2Proof.Machine.execNpack f s
  | .nunpk f => Sys2Proof.Machine.execNunpk f s
  | .lmov f => Sys2Proof.Machine.execLmov f s
  | .ballot f => Sys2Proof.Machine.execBallot f s
  | .vote f => Sys2Proof.Machine.execVote f s
  | .lrank f => Sys2Proof.Machine.execLrank f s
  | .laneMatch f => Sys2Proof.Machine.execLaneMatch f s
  | .lred f => Sys2Proof.Machine.execLred f s
  | .lscan f => Sys2Proof.Machine.execLscan f s
  | .lbcast f => Sys2Proof.Machine.execLbcast f s
  | .lcomp f => Sys2Proof.Machine.execLcomp f s
  | .lfirst f => Sys2Proof.Machine.execLfirst f s
  | .ld f => Sys2Proof.Machine.execLd f s
  | .st f => Sys2Proof.Machine.execSt f s
  | .lds f => Sys2Proof.Machine.execLds f s
  | .sts f => Sys2Proof.Machine.execSts f s
  | .ldu f => Sys2Proof.Machine.execLdu f s
  | .stu f => Sys2Proof.Machine.execStu f s
  | .lde f => Sys2Proof.Machine.execLde f s
  | .stc f => Sys2Proof.Machine.execStc f s
  | .pref f => Sys2Proof.Machine.execPref f s
  | .cflush f => Sys2Proof.Machine.execCflush f s
  | .atom f => Sys2Proof.Machine.execAtom f s
  | .red f => Sys2Proof.Machine.execRed f s
  | .cas f => Sys2Proof.Machine.execCas f s
  | .cas2 f => Sys2Proof.Machine.execCas2 f s
  | .waita f => Sys2Proof.Machine.execWaita f s
  | .waitaWake t => Sys2Proof.Machine.execWaitaWake t s
  | .waitaReread t => Sys2Proof.Machine.execWaitaReread t s
  | .fence f => Sys2Proof.Machine.execFence f s
  | .armw f => Sys2Proof.Machine.execArmw f s
  | .waitw f => Sys2Proof.Machine.execWaitw f s
  | .banksw f => Sys2Proof.Machine.execBanksw f s
  | .tlbinvPage f => Sys2Proof.Machine.execTlbinvPage f s
  | .tlbinvRange f => Sys2Proof.Machine.execTlbinvRange f s
  | .tlbinvCtx f => Sys2Proof.Machine.execTlbinvCtx f s
  | .barinit f => Sys2Proof.Machine.execBarinit f s
  | .bara f => Sys2Proof.Machine.execBara f s
  | .barw f => Sys2Proof.Machine.execBarw f s
  | .bart f => Sys2Proof.Machine.execBart f s
  | .bardrop f => Sys2Proof.Machine.execBardrop f s
  | .semp f => Sys2Proof.Machine.execSemp f s
  | .semv f => Sys2Proof.Machine.execSemv f s
  | .sempWake t => Sys2Proof.Machine.execSempWake t s
  | .capopen f => Sys2Proof.Machine.execCapopen f s
  | .capstep f => Sys2Proof.Machine.execCapstep f s
  | .capclose f => Sys2Proof.Machine.execCapclose f s
  | .capadopt f => Sys2Proof.Machine.execCapadopt f s
  | .capres f => Sys2Proof.Machine.execCapres f s
  | .mma f => Sys2Proof.Machine.execMma f s
  | .mmas f => Sys2Proof.Machine.execMmas f s
  | .mspz f => Sys2Proof.Machine.execMspz f s
  | .accalloc f => Sys2Proof.Machine.execAccalloc f s
  | .accfree f => Sys2Proof.Machine.execAccfree f s
  | .accfreePerform gid => Sys2Proof.Machine.execAccfreePerform gid s
  | .accst f => Sys2Proof.Machine.execAccst f s
  | .accld f => Sys2Proof.Machine.execAccld f s
  | .chncfgSet f => Sys2Proof.Machine.execChncfgSet f s
  | .chncfgReset f => Sys2Proof.Machine.execChncfgReset f s
  | .chncfgGet f => Sys2Proof.Machine.execChncfgGet f s
  | .tcopy f => Sys2Proof.Machine.execTcopy f s
  | .collopen f => Sys2Proof.Machine.execCollopen f s
  | .collclose f => Sys2Proof.Machine.execCollclose f s
  | .scan f => Sys2Proof.Machine.execScan f s
  | .carryput f => Sys2Proof.Machine.execCarryput f s
  | .carryget f => Sys2Proof.Machine.execCarryget f s
  | .carrybar f => Sys2Proof.Machine.execCarrybar f s
  | .carrybarComplete kid => Sys2Proof.Machine.execCarrybarComplete kid s
  | .engwait f => Sys2Proof.Machine.execEngwait f s
  | .sysrd f => Sys2Proof.Machine.execSysrd f s
  | .syswr f => Sys2Proof.Machine.execSyswr f s
  | .logev f => Sys2Proof.Machine.execLogev f s
  | .chron f => Sys2Proof.Machine.execChron f s
  | .chronQ f => Sys2Proof.Machine.execChronQ f s
  | .cntrd f => Sys2Proof.Machine.execCntrd f s
  | .cntctlOpen f => Sys2Proof.Machine.execCntctlOpen f s
  | .cntctlClose f => Sys2Proof.Machine.execCntctlClose f s
  | .cntctlSel f => Sys2Proof.Machine.execCntctlSel f s
  | .cntctlRun f => Sys2Proof.Machine.execCntctlRun f s
  | .cntctlClear f => Sys2Proof.Machine.execCntctlClear f s
  | .cntctlOvfen f => Sys2Proof.Machine.execCntctlOvfen f s
  | .cntctlPlan f => Sys2Proof.Machine.execCntctlPlan f s
  | .interlockedResult t => Sys2Proof.Machine.execInterlockedResult t s
  | .starvationGuard core part t => Sys2Proof.Machine.execStarvationGuard core part t s
  | .ctxCreate by_ slot num area debug => Sys2Proof.Machine.execCtxCreate by_ slot num area debug s
  | .ctxActivate by_ slot num => Sys2Proof.Machine.execCtxActivate by_ slot num s
  | .ctxTeardown by_ slot num => Sys2Proof.Machine.execCtxTeardown by_ slot num s
  | .teardownComplete ctx => Sys2Proof.Machine.execTeardownComplete ctx s
  | .contextFault ctx cause => Sys2Proof.Machine.execContextFault ctx cause s
  | .sliceEnd => Sys2Proof.Machine.execSliceEnd s
  | .switchOutComplete ctx => Sys2Proof.Machine.execSwitchOutComplete ctx s
  | .switchIn func => Sys2Proof.Machine.execSwitchIn func s
  | .wridxWrite ctx q v => Sys2Proof.Machine.execWridxWrite ctx q v s
  | .queueEnable ctx q => Sys2Proof.Machine.execQueueEnable ctx q s
  | .queueSuspend ctx q => Sys2Proof.Machine.execQueueSuspend ctx q s
  | .queueResume ctx q => Sys2Proof.Machine.execQueueResume ctx q s
  | .queueDrain ctx q => Sys2Proof.Machine.execQueueDrain ctx q s
  | .queueDisable ctx q => Sys2Proof.Machine.execQueueDisable ctx q s
  | .queueReset ctx q => Sys2Proof.Machine.execQueueReset ctx q s
  | .queueDrainEnd ctx q => Sys2Proof.Machine.execQueueDrainEnd ctx q s
  | .queueResetEnd ctx q => Sys2Proof.Machine.execQueueResetEnd ctx q s
  | .packetIntake ctx q => Sys2Proof.Machine.execPacketIntake ctx q s
  | .dependenceWrite kid dep => Sys2Proof.Machine.execDependenceWrite kid dep s
  | .hostDependenceReread kid dep => Sys2Proof.Machine.execHostDependenceReread kid dep s
  | .triggerWindowAdd func slot n v => Sys2Proof.Machine.execTriggerWindowAdd func slot n v s
  | .triggerWindowSet func slot n v => Sys2Proof.Machine.execTriggerWindowSet func slot n v s
  | .placementOpportunity => Sys2Proof.Machine.execPlacementOpportunity s
  | .deadlineMiss kid => Sys2Proof.Machine.execDeadlineMiss kid s
  | .recordDeal die => Sys2Proof.Machine.execRecordDeal die s
  | .stealRequest core => Sys2Proof.Machine.execStealRequest core s
  | .recordStart core gid => Sys2Proof.Machine.execRecordStart core gid s
  | .placementReady gid => Sys2Proof.Machine.execPlacementReady gid s
  | .cohortReservation kid => Sys2Proof.Machine.execCohortReservation kid s
  | .cohortWait kid => Sys2Proof.Machine.execCohortWait kid s
  | .groupRetire gid => Sys2Proof.Machine.execGroupRetire gid s
  | .kernelCompleting kid => Sys2Proof.Machine.execKernelCompleting kid s
  | .preemptRequest gid bound fromLauncher => Sys2Proof.Machine.execPreemptRequest gid bound fromLauncher s
  | .drainOverrun gid => Sys2Proof.Machine.execDrainOverrun gid s
  | .saveComplete gid written => Sys2Proof.Machine.execSaveComplete gid written s
  | .flushComplete gid => Sys2Proof.Machine.execFlushComplete gid s
  | .pageWalk die => Sys2Proof.Machine.execPageWalk die s
  | .faultEntryDelayed ctx => Sys2Proof.Machine.execFaultEntryDelayed ctx s
  | .fltrespRetry ctx tag => Sys2Proof.Machine.execFltrespRetry ctx tag s
  | .fltrespFail ctx tag => Sys2Proof.Machine.execFltrespFail ctx tag s
  | .stowDecode ctx va => Sys2Proof.Machine.execStowDecode ctx va s
  | .captureCopyDone ctx granule => Sys2Proof.Machine.execCaptureCopyDone ctx granule s
  | .storeQueueDepart gid spreadIx => Sys2Proof.Machine.execStoreQueueDepart gid spreadIx s
  | .cacheWriteBack core line => Sys2Proof.Machine.execCacheWriteBack core line s
  | .arrivalWordStep gid off bytes => Sys2Proof.Machine.execArrivalWordStep gid off bytes s
  | .barrierPacket p => Sys2Proof.Machine.execBarrierPacket p s
  | .barrierLate ctx key => Sys2Proof.Machine.execBarrierLate ctx key s
  | .bearingUpdate ctx => Sys2Proof.Machine.execBearingUpdate ctx s
  | .operationFire gid eng => Sys2Proof.Machine.execOperationFire gid eng s
  | .engineRetire gid eng => Sys2Proof.Machine.execEngineRetire gid eng s
  | .carryDelivery kid pos soft => Sys2Proof.Machine.execCarryDelivery kid pos soft s
  | .convoySealed kid => Sys2Proof.Machine.execConvoySealed kid s
  | .joinReceive port p => Sys2Proof.Machine.execJoinReceive port p s
  | .colldataReceive port p => Sys2Proof.Machine.execColldataReceive port p s
  | .reductionStep stack => Sys2Proof.Machine.execReductionStep stack s
  | .addAckReceive port p => Sys2Proof.Machine.execAddAckReceive port p s
  | .completionNoticeReceive port p => Sys2Proof.Machine.execCompletionNoticeReceive port p s
  | .failNoticeReceive port p => Sys2Proof.Machine.execFailNoticeReceive port p s
  | .livenessProbe ctx id => Sys2Proof.Machine.execLivenessProbe ctx id s
  | .probeTimeout ctx id rank => Sys2Proof.Machine.execProbeTimeout ctx id rank s
  | .collLate ctx id => Sys2Proof.Machine.execCollLate ctx id s
  | .deliveryAckReceive port p => Sys2Proof.Machine.execDeliveryAckReceive port p s
  | .closeNoticeSend ctx id => Sys2Proof.Machine.execCloseNoticeSend ctx id s
  | .closeNoticeReceive port p => Sys2Proof.Machine.execCloseNoticeReceive port p s
  | .flitError port lane => Sys2Proof.Machine.execFlitError port lane s
  | .slotonlyReceive port p => Sys2Proof.Machine.execSlotonlyReceive port p s
  | .remoteRequestReceive port p => Sys2Proof.Machine.execRemoteRequestReceive port p s
  | .remoteResponseReceive port p => Sys2Proof.Machine.execRemoteResponseReceive port p s
  | .remoteTimeout tag => Sys2Proof.Machine.execRemoteTimeout tag s
  | .lossOfSignal port => Sys2Proof.Machine.execLossOfSignal port s
  | .trainingAttempt port => Sys2Proof.Machine.execTrainingAttempt port s
  | .trainingComplete port lanes peer => Sys2Proof.Machine.execTrainingComplete port lanes peer s
  | .laneFence port lane => Sys2Proof.Machine.execLaneFence port lane s
  | .linkDrainEnd port => Sys2Proof.Machine.execLinkDrainEnd port s
  | .replayDeliver port => Sys2Proof.Machine.execReplayDeliver port s
  | .hostCtxregWrite func slot n v => Sys2Proof.Machine.execHostCtxregWrite func slot n v s
  | .intcauseClear func v => Sys2Proof.Machine.execIntcauseClear func v s
  | .vfdiesWrite vf v => Sys2Proof.Machine.execVfdiesWrite vf v s
  | .powcapWrite v => Sys2Proof.Machine.execPowcapWrite v s
  | .resetreqWrite v => Sys2Proof.Machine.execResetreqWrite v s
  | .registerWrite func page offset v => Sys2Proof.Machine.execRegisterWrite func page offset v s
  | .ptpMessage time err => Sys2Proof.Machine.execPtpMessage time err s
  | .ppsPulse time err => Sys2Proof.Machine.execPpsPulse time err s
  | .holdoverEntry => Sys2Proof.Machine.execHoldoverEntry s
  | .dropEmit unit => Sys2Proof.Machine.execDropEmit unit s
  | .logHeadWrite unit => Sys2Proof.Machine.execLogHeadWrite unit s
  | .chronrd => Sys2Proof.Machine.execChronrd s
  | .loghdr part => Sys2Proof.Machine.execLoghdr part s
  | .logrd part index count => Sys2Proof.Machine.execLogrd part index count s
  | .takeFix age autofix => Sys2Proof.Machine.execTakeFix age autofix s
  | .fixrd slot offset length => Sys2Proof.Machine.execFixrd slot offset length s
  | .physrd pa length => Sys2Proof.Machine.execPhysrd pa length s
  | .fwload bank offset bytes final => Sys2Proof.Machine.execFwload bank offset bytes final s
  | .coldrst => Sys2Proof.Machine.execColdrst s
  | .warmrst => Sys2Proof.Machine.execWarmrst s
  | .dierst die => Sys2Proof.Machine.execDierst die s
  | .portDrain port => Sys2Proof.Machine.execPortDrain port s
  | .portFence port => Sys2Proof.Machine.execPortFence port s
  | .portUnfence port => Sys2Proof.Machine.execPortUnfence port s
  | .portReplay port => Sys2Proof.Machine.execPortReplay port s
  | .portReplayclr port => Sys2Proof.Machine.execPortReplayclr port s
  | .portTrainoff port => Sys2Proof.Machine.execPortTrainoff port s
  | .portTrainon port => Sys2Proof.Machine.execPortTrainon port s
  | .routewr first dirs => Sys2Proof.Machine.execRoutewr first dirs s
  | .mgmtPowcap watts => Sys2Proof.Machine.execMgmtPowcap watts s
  | .chroncfg ptp pps domain => Sys2Proof.Machine.execChroncfg ptp pps domain s
  | .attest nonce func => Sys2Proof.Machine.execAttest nonce func s
  | .sessionChallenge signature => Sys2Proof.Machine.execSessionChallenge signature s
  | .powerReset => Sys2Proof.Machine.execPowerReset s
  | .coldReset thermal => Sys2Proof.Machine.execColdReset thermal s
  | .warmReset => Sys2Proof.Machine.execWarmReset s
  | .dieReset die => Sys2Proof.Machine.execDieReset die s
  | .functionReset vf => Sys2Proof.Machine.execFunctionReset vf s
  | .pacingChange level => Sys2Proof.Machine.execPacingChange level s
  | .thermalLimit die => Sys2Proof.Machine.execThermalLimit die s
  | .thermalRecover die => Sys2Proof.Machine.execThermalRecover die s
  | .thermalShutdown die => Sys2Proof.Machine.execThermalShutdown die s
  | .partFence part => Sys2Proof.Machine.execPartFence part s
  | .restitch region shape => Sys2Proof.Machine.execRestitch region shape s
  | .debugHalt ctx slot => Sys2Proof.Machine.execDebugHalt ctx slot s
  | .debugHaltf ctx slot => Sys2Proof.Machine.execDebugHaltf ctx slot s
  | .debugResume ctx slot => Sys2Proof.Machine.execDebugResume ctx slot s
  | .debugBkpton ctx slot => Sys2Proof.Machine.execDebugBkpton ctx slot s
  | .debugBkptoff ctx slot => Sys2Proof.Machine.execDebugBkptoff ctx slot s
  | .replayPassEnd kid => Sys2Proof.Machine.execReplayPassEnd kid s
  | .hostMemoryWrite pa bytes => Sys2Proof.Machine.execHostMemoryWrite pa bytes s
  | .barrierCompletionReceive port p => Sys2Proof.Machine.execBarrierCompletionReceive port p s
  | .probeReceive port p => Sys2Proof.Machine.execProbeReceive port p s
  | .boundMissed gid => Sys2Proof.Machine.execBoundMissed gid s
  | .counterWrap func item => Sys2Proof.Machine.execCounterWrap func item s

end Sys2Proof.Machine
end

