-- ==== Sys2Proof/Machine/Place.lean ====
section
/-! DEFINITION. A program placed from outside the machine: what stands for the load of one instruction by the host and
the launcher. -/

namespace Sys2Proof.Machine

open Sys2Proof

/-- Physical address at which placeProgram stores the instruction; its virtual address is 0 under reach 0. -/
def placeBase : Nat := 0x2000000

/-- The context of the placed program: 1, ACTIVE, of the physical function. -/
def placeContext : Context := { contextFresh 1 0 0x100000 with cst := .active, debug := true, slot := some 0 }

/-- The placed group: one partition row of 8 strands, READY at address 0 with their pilot. -/
def placeGroup : Group :=
  let g := groupFresh 1 1 1 0 { w := 8, d := 1, regs := 256, spread := 1, ns := 1, nf := 1, acc := 0 }
    { chksb := false, tvec := 0x1000, tvreach := 0, ptvec := 0x2000, srseed := 0, caplease := 0, logfilt := 0 }
  { g with priv := true, gst := .running, cores := [0], die := some 0, pcore := some 0, modes := [.scratch, .fifo],
           saveRec := 0x200000, strands := g.strands.map fun t => { t with run := .ready } }

/-- The placed kernel. -/
def placeKernel : Kernel :=
  { kernelFresh 1 1 0 0 packetFresh with kst := .running, dealt := 1, desc := some {
      kflags := 0, codeReach := 0, regs := 256, width := 8, depth := 1, codebase := 0, pentry := 0, sentry := 0,
      scratch := 0, fifo := 0, acc := 0, passes := 1, drain := 0, codesize := 0 } }

/-- A TLB entry of core 0 that maps the 32 MiB page at address 0 to placeBase, readable, writable and executable. -/
def placeTlb : TlbEntry :=
  { core := some 0, die := 0, ctx := 1, base := 0, bits := 25, w0 := BitVec.ofNat 64 (0x3B + 3 * 2 ^ 9 + placeBase), w1 := 0, level := 1,
    pa := placeBase, ea := 0 }

/-- The handlers' first words: LAND 0xFF in strand and in pilot encoding (R179). -/
def placeLands (m : Sparse 8) : Sparse 8 :=
  ssets (ssets m (placeBase + 0x1000) (toBytes 4 0x007F8180)) (placeBase + 0x2000) (toBytes 4 0x807F8180)

/-- Places the 20 bytes of an instruction and the trap vectors' first words, and makes the instruction's issue the next
turn.
DESIGN CHOICE (log entry 3), safe. -/
def placeProgram (s : State) (w : Nat) : State :=
  { s with
    mem := placeLands (ssets s.mem placeBase (toBytes 20 w))
    tlb := placeTlb :: s.tlb
    contexts := upsert (fun c => c.num == 1) placeContext s.contexts
    kernels := upsert (fun k => k.kid == 1) placeKernel s.kernels
    groups := upsert (fun g => g.gid == 1) placeGroup s.groups
    unitsDone := 0
    agenda := [Turn.issue (if w.testBit 31 then .pilot 1 else .gang 1 [0])] }

end Sys2Proof.Machine
end

