-- ==== Sys2Proof/Machine/Sched.lean ====
section
/-! DEFINITION. What moves next when nothing has been set down: the event that is due, and the passing of time. -/

namespace Sys2Proof.Machine

open Sys2Proof

/-- The first executor that meets a test. -/
def firstWho (s : State) (p : Group → Thread → Bool) : Option ThreadId := (whoWith s p).head?

/-- A result that is on its way (R46). -/
def duePend (s : State) : Option Instr := (firstWho s fun _ t => !t.pend.isEmpty).map .interlockedResult

/-- A NAP whose time has come (R189). -/
def dueNap (s : State) : Option Instr :=
  (firstWho s fun g t => groupIssues g && (match t.run with | .parked (.nap w _) => decide (w ≤ s.cycle) | _ => false)).map
    .napWake

/-- A round whose deadline cycle has ended without its completion (R184): the units of that cycle have had their turn. -/
def dueRound (s : State) : Option Instr :=
  s.groups.findSome? fun g =>
    if roundsTested g then
      (g.rounds.find? fun r => match r.deadline with
        | some d => decide (d < coreCycle s (g.cores.getD 0 0))
        | none => false).map fun r => .waitjExpiry g.gid r.n r.slot
    else none

/-- A capture copy that can end (R275). -/
def dueCopy (s : State) : Option Instr :=
  s.contexts.findSome? fun c => (c.capturing.head?).map fun g => .captureCopyDone c.num g

/-- What executors, cores and engines wait for. -/
def dueCore : List (State → Option Instr) :=
  [duePend, dueNap, dueRound, dueStarving, dueReread, dueSemp, dueRing, dueWalk, dueCopy, dueStore, dueTimeout, dueReady, dueSealed,
   dueAccfree, dueCarry, dueCarrybar, dueFire, dueRetire]

/-- What ports, views and reducers do of themselves. -/
def dueFabric : List (State → Option Instr) :=
  [dueReplay, dueDrained, dueTraining, dueReduction, dueClose, dueProbe, dueDead]

/-- What groups, kernels, queues and contexts go through. -/
def dueLaunch : List (State → Option Instr) :=
  [dueGroupRetire, dueSave, dueFlush, dueOverrun, dueReplayPass, dueCompleting, dueQueueEnd, dueDeadline, dueDep, dueIntake,
   dueWorld, dueTeardown, dueCohort, dueDeal, dueStart, dueSteal, dueOpportunity]

/-- What is only recorded. -/
def dueRecord : List (State → Option Instr) := [dueBarLate, dueCollLate, dueBearing, dueMgmt]

/-- The event that is due, by a fixed order.
DESIGN CHOICE (log entry 16), unsafe. -/
def dueEvent (s : State) : Option Instr :=
  (dueCore ++ dueFabric ++ dueLaunch ++ dueRecord).findSome? fun d => d s

/-- The leaf in which a wait for an instruction's result counts (R479): memory, engines, or synchronisation, capsules and system. -/
def instrLeaf (i : Instr) : Nat :=
  match i.enc with
  | some (op, _) =>
    if op = 0x191 ∨ op = 0x192 ∨ (0x1E0 ≤ op ∧ op < 0x1F0) then 5
    else if op = 0x18E ∨ (0x1C0 ≤ op ∧ op < 0x1D0) ∨ 0x1F0 ≤ op then 6
    else if 0x180 ≤ op ∧ op < 0x1C0 then 4 else 9
  | none => 9

/-- What an instruction leaves waiting is marked with the leaf of its wait (R479). -/
def markWaits (i : Instr) (ids : List ThreadId) (s : State) : State :=
  let leaf := instrLeaf i
  ids.foldl (fun s id => modThread s id fun t =>
    { t with leaf := leaf, pend := t.pend.map fun p => if p.leaf = 0 then { p with leaf := leaf } else p }) s

/-- The executors of a prepared issue. -/
def issuedIds (t : State) (iss : Issuer) : List ThreadId := issuerIds (t.cur.getD iss)

/-- The state that an issue leaves: what it counts for the sessions, and what its unit keeps of it (R171, R478); `t` is the
state its meaning began in. -/
def afterIssue (t : State) (u : Nat) (iss : Issuer) (e : Entry) (i : Instr) (r : State) : State :=
  let r := markWaits i (issuedIds t iss) r
  if t.sessions.isEmpty then noteIssue r u (t.cur.getD iss) e
  else countJoins t (some i) (noteIssue (countIssue t u i r) u (t.cur.getD iss) e)

/-- The state that an issue by a further group of a gang leaves (R146, R478). -/
def afterJoint (t : State) (u : Nat) (iss : Issuer) (e : Entry) (i : Instr) (r : State) : State :=
  let r := markWaits i (issuedIds t iss) r
  if t.sessions.isEmpty then noteJoint r u (t.cur.getD iss) e
  else countJoins t (some i) (noteJoint (countIssue t u i r) u (t.cur.getD iss) e)

/-- The state that an event leaves: WAITJ completions are counted (R478). -/
def afterEvent (i : Instr) (s r : State) : State := if s.sessions.isEmpty then r else countJoins s (some i) r

/-- A unit has had its turn in the present cycle: a cycle passes before it issues again (R14, R16, R171).
DESIGN CHOICE (log entry 17), unsafe. -/
def hadTurn (s : State) (u : Nat) : Bool := decide (unitPlace u < s.unitsDone)

end Sys2Proof.Machine
end

