-- ==== Sys2Proof/Machine/Step.lean ====
section
/-! DEFINITION. One step of the machine, and the placing of one instruction where the next step fetches. -/

namespace Sys2Proof.Machine

open Sys2Proof

/-- One issue: fetch, checks, meaning, and what the unit keeps of it. -/
def issueStep (u : Nat) (iss : Issuer) (s : State) : Host.Outcome State Fault Refusal :=
  match prepare iss s with
  | (t, none) => .next (noteIssue t u iss (issueEntry s iss))
  | (t, some i) =>
    match exec i t with
    | .next r => .next (afterIssue t u iss (issueEntry s iss) i r)
    | .fault e => .fault e
    | .refused e => .refused e

/-- An issue by a further group of a gang, in the slot of the gang's first issue (R146, R170). -/
def jointStep (u : Nat) (iss : Issuer) (s : State) : Host.Outcome State Fault Refusal :=
  match prepare iss s with
  | (t, none) => .next (noteJoint t u iss (issueEntry s iss))
  | (t, some i) =>
    match exec i t with
    | .next r => .next (afterJoint t u iss (issueEntry s iss) i r)
    | .fault e => .fault e
    | .refused e => .refused e

/-- One event.
DESIGN CHOICE (log entry 84), unsafe. -/
def eventStep (i : Instr) (s : State) : Host.Outcome State Fault Refusal :=
  match exec i s with
  | .next r => .next (afterEvent i s r)
  | .fault e => .fault e
  | .refused e => .refused e

/-- One step: what the agenda holds; or the event that is due; or an issue; or the passing of one cycle. An issue that the agenda holds
for a unit that has had its turn waits for the next cycle.
DESIGN CHOICE (log entry 16), unsafe. -/
def step (s : State) : Host.Outcome State Fault Refusal :=
  match s.agenda with
  | .event i :: r => eventStep i { s with agenda := r }
  | .pass c n :: r => .next (passTime { s with agenda := r } c n)
  | .issue iss :: r =>
    if hadTurn s (issuerUnit s iss) then
      match dueEvent s with
      | some i => eventStep i s
      | none => .next (passTime s 1 0)
    else issueStep (issuerUnit s iss) iss { s with agenda := r }
  | .joint iss :: r => jointStep (issuerUnit s iss) iss { s with agenda := r }
  | [] =>
    match dueEvent s with
    | some i => eventStep i s
    | none =>
      match pickIssuer s with
      | some (u, iss, more) => issueStep u iss { s with agenda := more.map Turn.joint }
      | none => .next (passTime s 1 0)

/-- The state with an instruction where the next step fetches: an ACTIVE context whose group stands at the
instruction, in memory that its core's TLB maps, and the issue of its pilot or of its strand 0 as the next turn.
DESIGN CHOICE (log entry 3), safe. -/
def State.withFetchWord (s : State) (nbits w : Nat) : State := placeProgram s (w % 2 ^ nbits)

end Sys2Proof.Machine
end

