-- ==== Sys2Proof/Safety.lean ====
section
/-! DEFINITION. What counts as a safe run, the invariant of the states, and the terms in which claims speak of one issue:
its executors, what one of them holds afterwards, and what an issue or an event leaves alone. -/

namespace Sys2Proof.Machine

open Sys2Proof

/-! ### The invariant -/

/-- The sparse parts of a thread are canonical. -/
def Thread.wf (t : Thread) : Bool := swf t.regs

/-- The sparse parts of a group are canonical. -/
def Group.wf (g : Group) : Bool :=
  swf g.sregs && swf g.j && swf g.h && swf g.scratch && swf g.acc && g.pilot.wf && g.strands.all Thread.wf

/-- Main memory and host memory are in their canonical form. -/
def State.memWf (s : State) : Bool := Memory.wf s.mem && Memory.wf s.hostMem

/-- Main memory, host memory, the copies in core stores, the registers of groups and those of contexts are in their
canonical form. -/
def State.wf (s : State) : Bool :=
  s.memWf && swf s.dirty && swf s.clean && s.groups.all Group.wf && s.contexts.all fun c => swf c.sys && swf c.trig

/-! ### Runs -/

/-- A step that goes on. -/
def goesOn (o : Host.Outcome State Fault Refusal) : Prop := match o with | .next _ => True | _ => False

/-- A run of n steps never stops. -/
def safeFor (n : Nat) (s : State) : Prop := goesOn (Sys2Proof.core.run n s)

/-! ### One issue -/

/-- The executors of an issue, each once, of a group whose registers are canonical. -/
def Issuing (s : State) (f : Fields) (vs : List View) : Prop :=
  viewsOf s f = some vs ∧ vs ≠ [] ∧ (vs.map fun v => v.who).Nodup ∧ ∀ v ∈ vs, v.g.wf = true

/-- One executor issues, and its guard is true. -/
def Solo (s : State) (f : Fields) (v : View) : Prop :=
  viewsOf s f = some [v] ∧ v.g.wf = true ∧ guardTrue v = true ∧ skipping v = false

/-- The executor takes the effect of the instruction: its guard is true and it is not in skip mode (R29, R361). -/
def acting (v : View) : Bool := guardTrue v && !skipping v

/-- No result of the executor is still within its declared distance (R47). -/
def Quiet (v : View) : Prop := v.t.fixed = []

/-- What a register holds once a value has been stored into it (R28, R351). -/
def kept (t : Thread) (r : RegId) (x : W64) : W64 :=
  match r with
  | .v n => if 255 ≤ n then 0 else (x.setWidth 32).setWidth 64
  | .s _ => x
  | .p n => if 7 ≤ n then 1 else if x.getLsbD 0 then 1 else 0
  | .x n => match t.caps with | some c => if n < c.x.length then x else 0 | none => 0

/-- A write that is kept after its declared distance is over: one of an s-register, which the strands of a spread group see later (R151). -/
def keptLong (r : RegId) : Bool := match r with | .s _ => true | _ => false

/-- The cycle before which an executor does not issue again: 1 + STALL cycles after this issue (R45). -/
def nextIssue (v : View) : Nat := v.s.cycle + 1 + v.f.stall.toNat

/-- The executor after an instruction has written results of latency `lat`: each register written holds its value, every
other one what it held; FLAGS and OVFCNT have taken the effect's; a result whose latency exceeds the declared distance, and one of an
s-register, is kept with the cycle at which it is written, before which a reader gets the old or the new value; the executor issues again
1 + STALL cycles later (R28, R45-R48, R78, R79, R151). -/
def Wrote (lat : Nat) (e : Eff) (v : View) (g : Group) (t : Thread) : Prop :=
  (∀ r, heldReg g t r = match e.writes.lookup r with | some x => kept v.t r x | none => heldReg v.g v.t r) ∧
  (∀ r, (t.fixed.filter fun x => x.reg == r) =
    if (e.writes.lookup r).isSome ∧ (1 + v.f.stall.toNat < lat ∨ keptLong r = true)
    then [{ reg := r, old := heldReg v.g v.t r, left := lat - (1 + v.f.stall.toNat), ripe := v.s.cycle + lat }] else []) ∧
  t = { v.t with pc := nextPc v, regs := t.regs, preds := t.preds, fixed := t.fixed, caps := t.caps, issueAt := nextIssue v
                 flags := v.t.flags ||| e.flags
                 ovfcnt := BitVec.ofNat 32 (min (v.t.ovfcnt.toNat + e.ovf) 0xFFFFFFFF) } ∧
  (t.caps.map fun c => { c with x := [] }) = v.t.caps.map fun c => { c with x := [] }

/-- The executor after an instruction whose result is interlocked: the result waits for its delivery (R46). -/
def Waits (e : Eff) (v : View) (t : Thread) : Prop :=
  t = { v.t with pc := nextPc v, issueAt := nextIssue v,
                 pend := v.t.pend ++ [{ dst := e.writes, flags := e.flags, ovf := e.ovf, cause := 0, leaf := 0 }] }

/-- The executor after an instruction that has no effect on it but to go on, and to issue again 1 + STALL cycles later. -/
def WentOn (v : View) (t : Thread) : Prop := t = { v.t with pc := nextPc v, issueAt := nextIssue v }

/-- Nothing but the groups and the counter of free values has changed. -/
def OnlyGroups (s t : State) : Prop := t = { s with groups := t.groups, free := s.free + 1 }

/-- Nothing of the groups has changed but the executors of an issue, and the s-registers where the pilot is one. -/
def OnlyIssuers (s t : State) (vs : List View) : Prop :=
  OnlyGroups s t ∧ ∀ v ∈ vs,
    (∀ n, n ≠ v.g.gid → getGroup t n = getGroup s n) ∧
    ∃ g, getGroup t v.g.gid = some g ∧
      g = { v.g with pilot := g.pilot, strands := g.strands, sregs := g.sregs } ∧
      ((∀ u ∈ vs, u.who ≠ .pilot) → g.sregs = v.g.sregs) ∧
      ∀ w, (∀ u ∈ vs, u.who ≠ w) → getThread g w = getThread v.g w

/-- The group and the thread of an executor in a state. -/
def Holds (t : State) (v : View) (p : Group → Thread → Prop) : Prop :=
  ∃ g x, getGroup t v.g.gid = some g ∧ getThread g v.who = some x ∧ p g x

/-- An instruction that computes results from registers, where every acting executor meets `ok`: it answers a next state,
in which each acting executor has taken the effect, each other one has gone on, and nothing else has changed. Latency 0
means interlocked. The first argument of `eff` is the acting executors. -/
def ComputesWhen (i : Instr) (f : Fields) (lat : Nat) (ok : View → Prop) (eff : List View → View → Eff) : Prop :=
  ∀ s vs, Issuing s f vs → (∀ v ∈ vs, Quiet v) → (∀ v ∈ vs, acting v = true → ok v) →
    ∃ t, exec i s = .next t ∧ OnlyIssuers s t vs ∧ ∀ v ∈ vs, Holds t v fun g x =>
      if acting v then (if lat = 0 then Waits (eff (vs.filter acting) v) v x else Wrote lat (eff (vs.filter acting) v) v g x)
      else WentOn v x

/-- The same where nothing is asked of the executors. -/
def Computes (i : Instr) (f : Fields) (lat : Nat) (eff : List View → View → Eff) : Prop :=
  ComputesWhen i f lat (fun _ => True) eff

/-- The state after one executor has issued an instruction: it has gone on to the next one before the effect, declared
distance has passed after it unless the effect has stalled it at the instruction, and one free value has been used. -/
def issued (s : State) (v : View) (effect : State → State) : State :=
  tickFree (modThread (effect (modThread s (vid v) fun t => { t with pc := nextPc v })) (vid v) (ageExecuted v))

end Sys2Proof.Machine
end

