-- ==== Sys2Proof/WellFormed.lean ====
section
/-! DEFINITION. Well-formed instructions: the fields of absent words hold the values of R43, and every decode check of
R55 passes for the executor that X names, with the privilege, outside capsule mode. -/

namespace Sys2Proof

open Sys2Proof.Machine

/-- Fields of absent words hold the values of R43. -/
def Fields.absentOk (f : Fields) : Bool :=
  let n := lenWords f.len
  (decide (2 ≤ n) || (f.sub == 0 && !f.neg && f.pnum == 7 && f.c == 0 && f.b == 0)) &&
    (decide (3 ≤ n) || f.w2 == 0) && (n == 5 || f.lit == 0)

/-- An instruction whose words the machine can hold and execute. Events have no words and are well-formed. -/
def Instr.wellFormed (i : Instr) : Bool :=
  match i.enc with
  | none => true
  | some (op, f) => f.absentOk && (check op f.x true false f).isNone && (ofOp op f == some i)

end Sys2Proof
end

