-- ==== Sys2Proof/Certificates/Slice0/Obligations.lean ====
section
/-! DEFINITION. The statements for the provers. The namespace Rules holds the formulas of the rules that they use. -/

namespace Sys2Proof.Rules

open Sys2Proof Sys2Proof.Machine

/-! ### Numbers (R72-R74, R197, R200) -/

/-- Width and signedness of an integer type (R31). -/
def width (t : Nat) : Nat := [32, 32, 64, 64, 16, 16, 8].getD t 8
def signed (t : Nat) : Bool := t % 2 == 0

/-- The low n bits of an operand as an integer of the type (R197). -/
def asInt (t x : Nat) : Int :=
  let b := BitVec.ofNat (width t) x
  if signed t then b.toInt else (b.toNat : Int)

/-- Width of the register that holds a value of the type: 32 bits for the 8- and 16-bit types (R72). -/
def regWidth (t : Nat) : Nat := if width t = 64 then 64 else 32

/-- What WriteInt puts into a register of the type's register width (R72, R197). -/
def image (t : Nat) (x : Int) : Nat :=
  let b := BitVec.ofInt (width t) x
  if signed t then (b.signExtend (regWidth t)).toNat else b.toNat

/-- The range of a type, and a value brought into it (R73). -/
def least (t : Nat) : Int := if signed t then -(2 ^ (width t - 1)) else 0
def greatest (t : Nat) : Int := if signed t then 2 ^ (width t - 1) - 1 else 2 ^ width t - 1
def clamped (t : Nat) (x : Int) : Int := max (least t) (min (greatest t) x)

/-- SAT and OVC of the modifier word (R38). -/
def sat (v : View) : Bool := v.f.w2.getLsbD 26
def ovc (v : View) : Bool := v.f.w2.getLsbD 27

/-- An exact result narrowed and written: wrapped, or clamped under SAT and counted under OVC (R73, R200). -/
def narrowed (v : View) (t : Nat) (x : Int) : Eff :=
  { writes := writesD v (regWidth t) (image t (if sat v then clamped t x else x)), flags := 0,
    ovf := if sat v = true ∧ ovc v = true ∧ clamped t x ≠ x then 1 else 0 }

/-- A pattern of n bits written to D, with no flag. -/
def pattern {n : Nat} (v : View) (x : BitVec n) : Eff := { writes := writesD v n x.toNat, flags := 0, ovf := 0 }

/-- Type code of an integer instruction, and its operands as integers (R31, R197). -/
def ty (v : View) : Nat := (v.f.sub.setWidth 3).toNat
def opA (v : View) : Int := asInt (ty v) (readA v (regWidth (ty v)))
def opB (v : View) : Int := asInt (ty v) (readB v (regWidth (ty v)))
def opC (v : View) : Int := asInt (ty v) (readC v (regWidth (ty v)))

/-- Operands as patterns of the type's width. -/
def bitsA (v : View) : BitVec (width (ty v)) := BitVec.ofNat _ (readA v (width (ty v)))
def bitsB (v : View) : BitVec (width (ty v)) := BitVec.ofNat _ (readB v (width (ty v)))
def bitsC (v : View) : BitVec (width (ty v)) := BitVec.ofNat _ (readC v (width (ty v)))

/-- The high half of the 2n-bit product. -/
def highHalf (n : Nat) (x y : Int) : Int := (((BitVec.ofInt (2 * n) (x * y)) >>> n).toNat : Int)

/-- Quotient rounded towards zero, and the remainder with the dividend's sign (R74). -/
def quotient (x y : Int) : Int :=
  let q : Int := ((x.natAbs / y.natAbs : Nat) : Int)
  if (x < 0) = (y < 0) then q else -q
def remainder (x y : Int) : Int := if y = 0 then x else x - quotient x y * y

/-- Predicate N of an executor, N in SUB<5:3>. -/
def subPred (v : View) : Nat := ((v.f.sub >>> 3).setWidth 3).toNat

/-- A pattern given bit by bit. -/
def byBit (n : Nat) (p : Nat → Bool) : BitVec n := BitVec.ofNat n (BitVec.ofBoolListLE ((List.range n).map p)).toNat

/-- A byte of a number. -/
def byteOf (x j : Nat) : Nat := x / 256 ^ j % 256

/-- The four bytes that PRMB selects from the pool of eight (R209). -/
def permuted (pool sel : Nat) : List Nat :=
  (List.range 4).map fun i =>
    let q := sel / 16 ^ i % 16
    if q < 8 then byteOf pool q else if 128 ≤ byteOf pool (q - 8) then 0xFF else 0

/-- The conditions of integer compares (R210). -/
def holds (cc : Nat) (x y : Int) : Bool :=
  if cc = 0 then x == y else if cc = 1 then x != y else if cc = 2 then decide (x < y)
  else if cc = 3 then decide (x ≤ y) else if cc = 4 then decide (x > y) else decide (x ≥ y)

/-- A predicate result of D (R28, R210). -/
def predicate (v : View) (b : Bool) : Eff :=
  { writes := [(.p (v.f.d.setWidth 3).toNat, if b then 1 else 0)], flags := 0, ovf := 0 }

end Sys2Proof.Rules

open Sys2Proof Sys2Proof.Machine Sys2Proof.Rules

/-! ### Integers -/

/-- R200: an exact result, then narrowed; every executor whose guard is true, and nothing else. -/
def Obligations.IntegerArithmetic : Prop := ∀ f : Fields,
  Computes (.iadd f) f 3 (fun _ v => narrowed v (ty v) (opA v + opB v)) ∧
  Computes (.isub f) f 3 (fun _ v => narrowed v (ty v) (opA v - opB v)) ∧
  Computes (.imul f) f 3 (fun _ v => narrowed v (ty v) (opA v * opB v)) ∧
  Computes (.imad f) f 3 (fun _ v => narrowed v (ty v) (opA v * opB v + opC v)) ∧
  Computes (.imulh f) f 3 (fun _ v => narrowed v (ty v) (highHalf (width (ty v)) (opA v) (opB v))) ∧
  Computes (.isad f) f 3 (fun _ v => narrowed v (ty v) (|opA v - opB v| + opC v)) ∧
  Computes (.imin f) f 3 (fun _ v => narrowed v (ty v) (min (opA v) (opB v))) ∧
  Computes (.imax f) f 3 (fun _ v => narrowed v (ty v) (max (opA v) (opB v))) ∧
  Computes (.iabs f) f 3 (fun _ v => narrowed v (ty v) |opA v|) ∧
  Computes (.ineg f) f 3 (fun _ v => narrowed v (ty v) (-opA v))

/-- R203: CLAMP is min(max(x, lo), hi) at the type's signedness; where lo > hi the result is hi. -/
def Obligations.ClampResult : Prop := ∀ f : Fields,
  Computes (.clamp f) f 3 (fun _ v =>
    narrowed v (ty v) (if opB v > opC v then opC v else min (max (opA v) (opB v)) (opC v)))

/-- R201, R202, R74: the wide multiply-add wraps modulo 2^64; division rounds towards zero, and a divisor of zero gives
all ones and the dividend, without a clamp. -/
def Clauses.WideProductAndDivision : Prop := ∀ f : Fields,
  Computes (.imadw f) f 3 (fun _ v => pattern v (BitVec.ofInt 64 (opA v * opB v +
    (if signed (ty v) then (BitVec.ofNat 64 (readC v 64)).toInt else ((readC v 64 : Nat) : Int))))) ∧
  Computes (.idiv f) f 0 (fun _ v =>
    if opB v = 0 then { writes := writesD v (regWidth (ty v)) (image (ty v) (-1)), flags := 0, ovf := 0 }
    else narrowed v (ty v) (quotient (opA v) (opB v))) ∧
  Computes (.irem f) f 0 (fun _ v => narrowed v (ty v) (remainder (opA v) (opB v)))

/-- R204: sums and differences of naturals that take their carry from a predicate and leave it there. -/
def Clauses.CarryChains : Prop := ∀ f : Fields,
  Computes (.iadc f) f 3 (fun _ v =>
    let ci := if v.f.sub.getLsbD 6 && readPred v (subPred v) then 1 else 0
    { writes := writesD v (width (ty v)) (bitsA v + bitsB v + BitVec.ofNat _ ci).toNat ++
        (if v.f.sub.getLsbD 7 then
          [(.p (subPred v), if 2 ^ width (ty v) ≤ (bitsA v).toNat + (bitsB v).toNat + ci then 1 else 0)] else [])
      flags := 0, ovf := 0 }) ∧
  Computes (.isbc f) f 3 (fun _ v =>
    let ci := if v.f.sub.getLsbD 6 && readPred v (subPred v) then 1 else 0
    { writes := writesD v (width (ty v)) (bitsA v - bitsB v - BitVec.ofNat _ ci).toNat ++
        (if v.f.sub.getLsbD 7 then [(.p (subPred v), if (bitsA v).toNat < (bitsB v).toNat + ci then 1 else 0)] else [])
      flags := 0, ovf := 0 })

/-- R205: bitwise functions; LOP3 takes its result for each position from the function word, minterm 0 at bit 7. -/
def Clauses.BitwiseLogic : Prop := ∀ f : Fields,
  Computes (.iand f) f 3 (fun _ v => pattern v (bitsA v &&& bitsB v)) ∧
  Computes (.ior f) f 3 (fun _ v => pattern v (bitsA v ||| bitsB v)) ∧
  Computes (.ixor f) f 3 (fun _ v => pattern v (bitsA v ^^^ bitsB v)) ∧
  Computes (.inot f) f 3 (fun _ v => pattern v (~~~bitsA v)) ∧
  Computes (.lop3 f) f 3 (fun _ v =>
    let w := if v.who = .pilot then 64 else 32
    pattern v (byBit w fun i =>
      f.sub.getLsbD (7 - (4 * ((readA v w).testBit i).toNat + 2 * ((readB v w).testBit i).toNat + ((readC v w).testBit i).toNat))))

/-- R206: shifts by the whole amount; SHL alone reads the signedness and takes SAT. -/
def Clauses.ShiftsAndRotates : Prop := ∀ f : Fields,
  Computes (.shl f) f 3 (fun _ v => narrowed v (ty v) (opA v * 2 ^ readB v 32)) ∧
  Computes (.shr f) f 3 (fun _ v => pattern v (bitsA v >>> readB v 32)) ∧
  Computes (.sar f) f 3 (fun _ v => pattern v ((bitsA v).sshiftRight (readB v 32))) ∧
  Computes (.rol f) f 3 (fun _ v => pattern v ((bitsA v).rotateLeft (readB v 32))) ∧
  Computes (.fshr f) f 3 (fun _ v =>
    pattern v (((bitsB v ++ bitsA v) >>> (readC v 32 % width (ty v))).setWidth (width (ty v))))

/-- R207: set bits, zero bits above the highest and below the lowest set bit, and the reversed order. -/
def Clauses.BitCounts : Prop := ∀ f : Fields,
  Computes (.popc f) f 3 (fun _ v => pattern v (BitVec.ofNat (width (ty v)) ((List.range (width (ty v))).countP (bitsA v).getLsbD))) ∧
  Computes (.clz f) f 3 (fun _ v => pattern v (bitsA v).clz) ∧
  Computes (.ctz f) f 3 (fun _ v => pattern v (bitsA v).ctz) ∧
  Computes (.brev f) f 3 (fun _ v => pattern v (bitsA v).reverse)

/-- R208, R209: fields at a position and of a length, cut at the top bit; bytes chosen from a pool of eight. -/
def Clauses.BitFields : Prop := ∀ f : Fields,
  Computes (.bfx f) f 3 (fun _ v =>
    let n := width (ty v)
    let pos := byteOf (readB v 32) 0
    let len := byteOf (readB v 32) 1
    if len = 0 ∨ (n ≤ pos ∧ signed (ty v) = false) then pattern v (0 : BitVec n)
    else if n ≤ pos then pattern v (if (bitsA v).msb then BitVec.allOnes n else 0)
    else
      let x := ((bitsA v) >>> pos).setWidth (min len (n - pos))
      pattern v (if signed (ty v) then x.signExtend n else x.setWidth n)) ∧
  Computes (.bfi f) f 3 (fun _ v =>
    let n := width (ty v)
    let pos := byteOf (readB v 32) 0
    let len := byteOf (readB v 32) 1
    pattern v (byBit n fun i => if pos ≤ i ∧ i < pos + len then (bitsA v).getLsbD (i - pos) else (bitsC v).getLsbD i)) ∧
  Computes (.prmb f) f 3 (fun _ v =>
    pattern v (BitVec.ofNat 32 (ofBytes ((permuted (readA v 32 + 2 ^ 32 * readB v 32) (readC v 32)).map (BitVec.ofNat 8)))))

/-- R210, R211, R212, R214: compares, selection, copies, constants and conversions between integer types. -/
def Obligations.ComparesAndMoves : Prop := ∀ f : Fields,
  Computes (.icmp f) f 3 (fun _ v => predicate v (holds (subPred v) (opA v) (opB v))) ∧
  Computes (.iset f) f 3 (fun _ v =>
    { writes := writesD v (regWidth (ty v)) (if holds (subPred v) (opA v) (opB v) then image (ty v) (-1) else 0)
      flags := 0, ovf := 0 }) ∧
  Computes (.sel f) f 3 (fun _ v =>
    pattern v (if readPred v (subPred v) = v.f.sub.getLsbD 6 then bitsB v else bitsA v)) ∧
  Computes (.mov f) f 3 (fun _ v => pattern v (if v.f.sub.getLsbD 3 then bitsB v else bitsA v)) ∧
  Computes (.movi f) f 3 (fun _ v =>
    { writes := writesDI v (regWidth (ty v)) (image (ty v) (if signed (ty v) then v.f.w2.toInt else (v.f.w2.toNat : Int)))
      flags := 0, ovf := 0 }) ∧
  Computes (.movl f) f 3 (fun _ v =>
    { writes := writesD v (regWidth (ty v)) (image (ty v) (opB v)), flags := 0, ovf := 0 }) ∧
  Computes (.cvti f) f 5 (fun _ v => narrowed v (ty v) (asInt (subPred v) (readA v (regWidth (subPred v)))))

namespace Sys2Proof.Rules

/-! ### Floating values (R75-R82, R216-R218) -/

/-- Format code, rounding mode and FTZ of SUB (R217). -/
def fcode (v : View) : Nat := (v.f.sub.setWidth 2).toNat
def ffmt (v : View) : FloatFmt := fmtOf (fcode v)
def mode (v : View) : Rm := [Rm.rne, Rm.rtz, Rm.rup].getD ((v.f.sub >>> 2).setWidth 2).toNat Rm.rdn
def ftz (v : View) : Bool := v.f.sub.getLsbD 4
def subBit (v : View) (i : Nat) : Bool := v.f.sub.getLsbD i

/-- Operands A, B and C read as values of a format, with negate and absolute bits (R216). -/
def inA (v : View) (fm : FloatFmt) (neg abs : Bool) : FIn := readFloat fm (ftz v) neg abs (fbitsA v fm)
def inB (v : View) (fm : FloatFmt) (neg abs : Bool) : FIn := readFloat fm (ftz v) neg abs (fbitsB v fm)
def inC (v : View) (fm : FloatFmt) (neg : Bool) : FIn := readFloat fm (ftz v) neg false (fbitsC v fm)

/-- DN and NV that the reading of the inputs brings: flushed inputs and signalling ones (R76, R218). -/
def inputFlags (ins : List FIn) : BitVec 6 :=
  (if ins.any fun x => x.fl != 0 then flDN else 0) ||| (if ins.any (·.snan) then flNV else 0)

/-- An exact result delivered into a format: rounded, flushed, clamped and counted (R218); `nv` and `dz` are the flags of
the operation itself. -/
def delivered (v : View) (fm : FloatFmt) (flush : Bool) (ins : List FIn) (r : Ext) (fl : BitVec 6) : Eff :=
  let o := roundF fm { rm := mode v, ftz := flush, sat := sat v, infIn := ins.any fun x => isInfE x.val } r
  { writes := writesD v (if fmtW fm = 64 then 64 else 32) (encodeF fm o.val), flags := o.fl ||| fl ||| inputFlags ins,
    ovf := if o.clamped = true ∧ ovc v = true then 1 else 0 }

/-- Latency of the fixed-latency floating instructions: 6 for FP64, else 4 (R46). -/
def fltLatency (f : Fields) : Nat := if (f.sub.setWidth 2).toNat = 1 then 6 else 4

/-- The sign of an exact zero sum: minus only where rounding goes down (R81). -/
def zeroSign (v : View) : Bool := mode v == .rdn

/-- NV where an operation is invalid (R77). -/
def nvIf (b : Bool) : BitVec 6 := if b then flNV else 0

/-- The compares of R221: outcome of a condition code, and whether NV is raised. -/
def compared (cc : Nat) (x y : FIn) : Bool :=
  let un := x.val == .nan || y.val == .nan
  if cc = 0 then !un && eqE x.val y.val
  else if cc = 1 then un || !eqE x.val y.val
  else if cc = 2 then !un && ltE x.val y.val
  else if cc = 3 then !un && (ltE x.val y.val || eqE x.val y.val)
  else if cc = 4 then !un && !(ltE x.val y.val || eqE x.val y.val)
  else if cc = 5 then !un && !ltE x.val y.val
  else if cc = 6 then un else !un

def comparedFlags (cc : Nat) (x y : FIn) : BitVec 6 :=
  let un := x.val == .nan || y.val == .nan
  nvIf (x.snan || y.snan || (un && (cc == 2 || cc == 3 || cc == 4 || cc == 5))) ||| (if x.fl != 0 || y.fl != 0 then flDN else 0)

/-- Condition of FCMP and FSET in SUB<7:5>; the integer type of a conversion stands there as well. -/
def topCode (v : View) : Nat := (v.f.sub >>> 5).toNat

/-- minimumNumber and maximumNumber (R220): the other operand of a single NaN, -0 below +0. -/
def chosen (fm : FloatFmt) (greater : Bool) (x y : FIn) : Nat :=
  if x.val = .nan ∧ y.val = .nan then canonNan fm
  else if x.val = .nan then y.bits
  else if y.val = .nan then x.bits
  else if greater then (if ltNum x.val y.val then y.bits else x.bits)
  else if ltNum y.val x.val then y.bits else x.bits

/-- The class of a bit pattern, by the numbering of R222. -/
def classBit (fm : FloatFmt) (x : Nat) : Nat :=
  let e := fexp fm x
  let top := 2 ^ fm.eb - 1
  let fr := ffrac fm x
  let neg := fneg fm x
  if e = top ∧ fr = 0 then (if neg then 0 else 7)
  else if e = top then (if fr < 2 ^ (fm.fb - 1) then 8 else 9)
  else if e = 0 ∧ fr = 0 then (if neg then 3 else 4)
  else if e = 0 then (if neg then 2 else 5)
  else if neg then 1 else 6

/-- Rounding to an integer in a mode (R82, R226). -/
def toIntegral (m : Rm) (x : Rat) : Int :=
  match m with
  | .rtz => if 0 ≤ x then x.floor else x.ceil
  | .rup => x.ceil
  | .rdn => x.floor
  | _ => if x - x.floor < 1 / 2 ∨ (x - x.floor = 1 / 2 ∧ x.floor % 2 = 0) then x.floor else x.floor + 1

/-- A signed rational, and the value with its sign apart. -/
def ratOf (neg : Bool) (m : Rat) : Rat := if neg then -m else m

end Sys2Proof.Rules

/-! ### Floating instructions -/

/-- R219: exact sums and products, one rounding; AA before NA on A; FFMA negates the product by NA and takes NV for an
invalid product even beside a quiet NaN. -/
def Obligations.FloatArithmetic : Prop := ∀ f : Fields,
  Computes (.fadd f) f (fltLatency f) (fun _ v =>
    let x := inA v (ffmt v) (subBit v 5) (subBit v 6)
    let y := inB v (ffmt v) (subBit v 7) false
    let r := addE (zeroSign v) x.val y.val
    delivered v (ffmt v) (ftz v) [x, y] r.1 (nvIf r.2)) ∧
  Computes (.fsub f) f (fltLatency f) (fun _ v =>
    let x := inA v (ffmt v) (subBit v 5) (subBit v 6)
    let y := inB v (ffmt v) (subBit v 7) false
    let r := addE (zeroSign v) x.val (negE y.val)
    delivered v (ffmt v) (ftz v) [x, y] r.1 (nvIf r.2)) ∧
  Computes (.fmul f) f (fltLatency f) (fun _ v =>
    let x := inA v (ffmt v) (subBit v 5) (subBit v 6)
    let y := inB v (ffmt v) (subBit v 7) false
    let r := mulE x.val y.val
    delivered v (ffmt v) (ftz v) [x, y] r.1 (nvIf r.2)) ∧
  Computes (.ffma f) f (fltLatency f) (fun _ v =>
    let x := inA v (ffmt v) (subBit v 5) false
    let y := inB v (ffmt v) false false
    let z := inC v (ffmt v) (subBit v 6)
    let p := mulE x.val y.val
    let r := addE (zeroSign v) p.1 z.val
    delivered v (ffmt v) (ftz v) [x, y, z] r.1 (nvIf (p.2 || r.2)))

/-- R220, R221, R222: minimumNumber and maximumNumber, the compares, and the class mask. -/
def Obligations.FloatMinMaxAndCompares : Prop := ∀ f : Fields,
  Computes (.fmin f) f (fltLatency f) (fun _ v =>
    let x := inA v (ffmt v) false (subBit v 5)
    let y := inB v (ffmt v) false (subBit v 6)
    { writes := writesD v (if fmtW (ffmt v) = 64 then 64 else 32) (chosen (ffmt v) false x y), flags := inputFlags [x, y], ovf := 0 }) ∧
  Computes (.fmax f) f (fltLatency f) (fun _ v =>
    let x := inA v (ffmt v) false (subBit v 5)
    let y := inB v (ffmt v) false (subBit v 6)
    { writes := writesD v (if fmtW (ffmt v) = 64 then 64 else 32) (chosen (ffmt v) true x y), flags := inputFlags [x, y], ovf := 0 }) ∧
  Computes (.fcmp f) f (fltLatency f) (fun _ v =>
    let x := inA v (ffmt v) false false
    let y := inB v (ffmt v) false false
    { predicate v (compared (topCode v) x y) with flags := comparedFlags (topCode v) x y }) ∧
  Computes (.fset f) f (fltLatency f) (fun _ v =>
    let x := inA v (ffmt v) false false
    let y := inB v (ffmt v) false false
    { writes := writesD v (if fmtW (ffmt v) = 64 then 64 else 32) (if compared (topCode v) x y then 2 ^ fmtW (ffmt v) - 1 else 0)
      flags := comparedFlags (topCode v) x y, ovf := 0 }) ∧
  Computes (.fclass f) f (fltLatency f) (fun _ v =>
    { writes := writesD v 32 (2 ^ classBit (ffmt v) (fbitsA v (ffmt v))), flags := 0, ovf := 0 })

/-- R223, R226, R227: correctly rounded quotient, root and reciprocal, interlocked; rounding to an integral value, with
the sign kept and NX only under EXACT; scaling by a power of two (an exponent beyond 4,000 acts as 4,000). -/
def Obligations.FloatDivisionAndScaling : Prop := ∀ f : Fields,
  Computes (.fdiv f) f 0 (fun _ v =>
    let x := inA v (ffmt v) false false
    let y := inB v (ffmt v) false false
    delivered v (ffmt v) (ftz v) [x, y] (divE x.val y.val).1 (divE x.val y.val).2) ∧
  Computes (.frcp f) f 0 (fun _ v =>
    let x := inA v (ffmt v) false false
    delivered v (ffmt v) (ftz v) [x] (divE (.fin false 1) x.val).1 (divE (.fin false 1) x.val).2) ∧
  Computes (.fsqrt f) f 0 (fun _ v =>
    let x := inA v (ffmt v) false false
    delivered v (ffmt v) (ftz v) [x] (sqrtE x.val).1 (sqrtE x.val).2) ∧
  Computes (.frnd f) f (fltLatency f) (fun _ v =>
    let x := inA v (ffmt v) false false
    match x.val with
    | .fin neg m =>
      let y := toIntegral (mode v) (ratOf neg m)
      { writes := writesD v (if fmtW (ffmt v) = 64 then 64 else 32) (encodeF (ffmt v) (.fin neg (y.natAbs : Rat)))
        flags := inputFlags [x] ||| (if subBit v 5 = true ∧ (y : Rat) ≠ ratOf neg m then flNX else 0), ovf := 0 }
    | e => { writes := writesD v (if fmtW (ffmt v) = 64 then 64 else 32) (encodeF (ffmt v) e), flags := inputFlags [x], ovf := 0 }) ∧
  Computes (.fscale f) f (fltLatency f) (fun _ v =>
    let x := inA v (ffmt v) false false
    let n := max (-4000) (min 4000 (BitVec.ofNat 32 (readB v 32)).toInt)
    delivered v (ffmt v) (ftz v) [x] (match x.val with | .fin neg m => .fin neg (m * 2 ^ n) | e => e) 0)

/-- R228, R229, R230, R231: conversions between formats and to and from integers, and the two-way dot product. -/
def Obligations.FloatConversions : Prop := ∀ f : Fields,
  Computes (.fcvt f) f 5 (fun _ v =>
    let x := inA v (fmtOf ((v.f.sub >>> 5).setWidth 2).toNat) false false
    delivered v (ffmt v) (ftz v) [x] x.val 0) ∧
  Computes (.fcvti f) f 5 (fun _ v =>
    let x := inA v (ffmt v) false false
    let t := topCode v
    let out (y : Int) (fl : BitVec 6) (c : Bool) : Eff :=
      { writes := writesD v (regWidth t) (image t y), flags := fl ||| (if x.fl != 0 then flDN else 0)
        ovf := if c = true ∧ ovc v = true then 1 else 0 }
    match x.val with
    | .nan => out 0 flNV false
    | .inf neg => out (if neg then least t else greatest t) flNV true
    | .fin neg m =>
      let y := toIntegral (mode v) (ratOf neg m)
      if clamped t y ≠ y then out (clamped t y) flNV true
      else out y (if (y : Rat) ≠ ratOf neg m then flNX else 0) false) ∧
  Computes (.icvtf f) f 5 (fun _ v =>
    let x := asInt (topCode v) (readA v (regWidth (topCode v)))
    delivered v (ffmt v) false [] (.fin (decide (x < 0)) (x.natAbs : Rat)) 0) ∧
  Computes (.fdot2 f) f 4 (fun _ v =>
    let half (x i : Nat) : FIn := readFloat (ffmt v) (ftz v) false false (x / 65536 ^ i % 65536)
    let x0 := half (readA v 32) 0
    let x1 := half (readA v 32) 1
    let y0 := half (readB v 32) 0
    let y1 := half (readB v 32) 1
    let z := inC v fp32 (subBit v 6)
    let neg (e : Ext) : Ext := if subBit v 5 then negE e else e
    let p0 := mulE (neg x0.val) y0.val
    let p1 := mulE (neg x1.val) y1.val
    let terms := [p0.1, p1.1, z.val]
    delivered v fp32 (ftz v) [x0, x1, y0, y1, z] (addE (zeroSign v) (addE (zeroSign v) p0.1 p1.1).1 z.val).1
      (nvIf (p0.2 || p1.2 || (terms.contains (.inf false) && terms.contains (.inf true)))))

/-- R80, R226: rounding to a multiple of 2^q gives one of the two multiples next to x, x itself where x is one; RNE the
nearest, the even one in a tie; RTZ, RUP and RDN the one on their side. -/
def Clauses.RoundingIsCorrect : Prop := ∀ (x : Rat) (q : Int) (m : Rm),
  let y := roundGrid x q m
  (∃ k : Int, y = k * (2 : Rat) ^ q) ∧ |y - x| < 2 ^ q ∧ ((∃ k : Int, x = k * (2 : Rat) ^ q) → y = x) ∧
  (m = .rne → ∀ k : Int, |y - x| ≤ |k * (2 : Rat) ^ q - x|) ∧
  (m = .rne → ∀ k : Int, k * (2 : Rat) ^ q ≠ y → |k * (2 : Rat) ^ q - x| = |y - x| → ∃ j : Int, y = 2 * j * (2 : Rat) ^ q) ∧
  (m = .rtz → |y| ≤ |x|) ∧ (m = .rup → x ≤ y) ∧ (m = .rdn → y ≤ x)

/-- R75: a pattern of a format that is no NaN is the pattern of its value. -/
def Clauses.FormatRoundTrip : Prop := ∀ fm ∈ [fp32, fp64, fp16, bf16], ∀ x < 2 ^ fmtW fm,
  fIsNan fm x = false → encodeF fm (decodeF fm x) = x

/-- R224: the special inputs and the exact results of the approximated functions. -/
def Clauses.ApproximatedSpecials : Prop := ∀ (fm wide : FloatFmt) (s : Bool),
  rsqFn fm wide (.fin s 0) = .exact (.inf s) flDZ ∧ rsqFn fm wide (.inf false) = .exact (.fin false 0) 0 ∧
  (∀ m : Rat, 0 < m → rsqFn fm wide (.fin true m) = .exact .nan flNV) ∧ rsqFn fm wide (.inf true) = .exact .nan flNV ∧
  (∀ k : Int, rsqFn fm wide (.fin false (4 ^ k)) = .exact (.fin false (2 ^ (-k))) 0) ∧
  exp2Fn fm wide (.inf true) = .exact (.fin false 0) 0 ∧ exp2Fn fm wide (.inf false) = .exact (.inf false) 0 ∧
  (∀ k : Int, fmtEmin wide ≤ k → k ≤ fmtBias wide →
    exp2Fn fm wide (.fin (decide (k < 0)) (k.natAbs : Rat)) = .near (2 ^ k) 0 false) ∧
  log2Fn fm wide (.fin s 0) = .exact (.inf true) flDZ ∧ log2Fn fm wide (.inf false) = .exact (.inf false) 0 ∧
  (∀ m : Rat, 0 < m → log2Fn fm wide (.fin true m) = .exact .nan flNV) ∧ log2Fn fm wide (.inf true) = .exact .nan flNV ∧
  (∀ k : Int, log2Fn fm wide (.fin false (2 ^ k)) = .exact (.fin (decide (k < 0)) (k.natAbs : Rat)) 0) ∧
  sinFn fm wide (.fin s 0) = .exact (.fin s 0) 0 ∧ cosFn fm wide (.fin s 0) = .exact (.fin false 1) 0 ∧
  sinFn fm wide (.inf s) = .exact .nan flNV ∧ cosFn fm wide (.inf s) = .exact .nan flNV ∧
  tanhFn fm wide (.fin s 0) = .exact (.fin s 0) 0 ∧ tanhFn fm wide (.inf s) = .exact (.fin s 1) 0 ∧
  (∀ m : Rat, 91 / 10 ≤ m → tanhFn fm wide (.fin s m) = .exact (.fin s 1) 0)

/-- R224, R225: the approximated functions, interlocked; the result and its flags are a function of the input pattern, the
format, FTZ and SAT, and a NaN operand gives NaN. A power of two that FEXP2 gives exactly and that the format holds as a normal is
written as it is, without a flag of its own. -/
def Clauses.ApproximatedFunctions : Prop := ∀ f : Fields,
  let run (code : Nat) (fn : FloatFmt → FloatFmt → Ext → Approx) (v : View) : Eff :=
    let x := inA v (ffmt v) false false
    approxEff v code x (if x.val = .nan then .exact .nan 0 else fn (ffmt v) (if fcode v = 1 then fp64 else fp32) x.val)
  Computes (.frsq f) f 0 (fun _ v => run 0 rsqFn v) ∧
  Computes (.fexp2 f) f 0 (fun _ v => run 1 exp2Fn v) ∧
  Computes (.flog2 f) f 0 (fun _ v => run 2 log2Fn v) ∧
  Computes (.fsin f) f 0 (fun _ v => run 3 sinFn v) ∧
  Computes (.fcos f) f 0 (fun _ v => run 4 cosFn v) ∧
  Computes (.ftanh f) f 0 (fun _ v => run 5 tanhFn v) ∧
  (∀ (v : View) (x : FIn) (k : Int), fmtEmin (ffmt v.f) ≤ k → k ≤ fmtBias (ffmt v.f) →
    approxEff v 1 x (.near (2 ^ k) 0 false) =
      { writes := writesD v (fmtRegW (ffmt v.f)) (encodeF (ffmt v.f) (.fin false (2 ^ k)))
        flags := x.fl ||| (if x.snan then flNV else 0), ovf := 0 })

namespace Sys2Proof.Rules

/-! ### Rows (R238, R240, R241) -/

/-- Segment size of LSEG. -/
def segment (v : View) : Nat := [32, 2, 4, 8, 16].getD (subPred v) 32

/-- The active lanes of an executor's row, in lane order. -/
def row (act : List View) (v : View) : List View :=
  act.filter fun u => slotV u = slotV v ∧ laneV u / segment v = laneV v / segment v

/-- First lane of the row, and the position in it. -/
def rowBase (v : View) : Nat := laneV v / segment v * segment v
def place (v : View) : Nat := laneV v % segment v

/-- A lane's predicate N (R243). -/
def vote (n : Nat) (inverted : Bool) (u : View) : Bool := if inverted then !readPred u n else readPred u n

/-- The mask of the lanes of a row that meet a test, bit k for lane k of the block (R241). -/
def mask (r : List View) (q : View → Bool) : BitVec 32 := byBit 32 fun k => r.any fun u => q u && laneV u % 32 == k

/-- A value moved between lanes, written by WriteInt (R242, R248). -/
def moved (v : View) (x : Nat) : Eff :=
  { writes := writesD v (regWidth (ty v)) (image (ty v) (asInt (ty v) x)), flags := 0, ovf := 0 }

/-- The value of a lane of the executor's slot at the register A names; zero where it is absent or has exited (R240). -/
def laneValue (v : View) (l : Nat) : Nat := laneA v l (regWidth (ty v))

/-- The left fold of R247 over the terms of some lanes, with the flags raised. -/
def folded (o : RedOp) (terms : List RTerm) : RTerm × BitVec 6 :=
  match terms with
  | [] => (redIdentity o, 0)
  | x :: r => r.foldl (fun a y => ((redCombine o a.1 y).1, a.2 ||| (redCombine o a.1 y).2)) (redFirst o x)

end Sys2Proof.Rules

/-! ### Cross-lane instructions -/

/-- R243, R244, R241: masks, votes and ranks of the active lanes of the row, and the mask of equal keys. -/
def Obligations.LaneVotes : Prop := ∀ f : Fields,
  Computes (.ballot f) f 0 (fun act v => pattern v (mask (row act v) (vote (f.a.setWidth 3).toNat (subBit v 6)))) ∧
  Computes (.vote f) f 0 (fun act v =>
    let q := (row act v).map (vote (f.a.setWidth 3).toNat false)
    predicate v (match topCode v / 2 with
      | 0 => q.all (· == true)
      | 1 => q.any (· == true)
      | _ => q.all fun a => q.all fun b => a == b)) ∧
  Computes (.lrank f) f 0 (fun act v =>
    let m := mask (row act v) (vote (f.a.setWidth 3).toNat (subBit v 6))
    pattern v (BitVec.ofNat 32 ((List.range (laneV v % 32)).countP m.getLsbD))) ∧
  Computes (.laneMatch f) f 0 (fun act v =>
    pattern v (mask (row act v) fun u => u.who == v.who ||
      (if subBit v 6 then eqE (decodeF (fmtOf (ty v)) (readA v (fmtW (fmtOf (ty v))))) (decodeF (fmtOf (ty v)) (readA u (fmtW (fmtOf (ty v)))))
       else readA v (width (ty v)) == readA u (width (ty v)))))

/-- R248, R249: values moved from lanes chosen by data, from the lowest or highest active lane, and packed to the low end
of the row. -/
def Obligations.LaneMoves : Prop := ∀ f : Fields,
  Computes (.lmov f) f 0 (fun _ v =>
    let j := readB v 32
    let k := place v
    let m := segment v
    moved v (laneValue v (match topCode v / 2 with
      | 0 => rowBase v + j % m
      | 1 => if j ≤ k then rowBase v + (k - j) else laneV v
      | 2 => if k + j < m then rowBase v + (k + j) else laneV v
      | _ => rowBase v + (k ^^^ (j % m))))) ∧
  Computes (.lbcast f) f 0 (fun act v =>
    moved v (laneValue v (rowBase v + ((row act v).head?.elim 0 fun u => readB u 32) % segment v))) ∧
  Computes (.lfirst f) f 0 (fun act v =>
    moved v ((if subBit v 6 then (row act v).getLast? else (row act v).head?).elim 0 fun u => readA u (regWidth (ty v)))) ∧
  Computes (.lcomp f) f 0 (fun act v =>
    let l := (row act v).filter (vote (f.c.setWidth 3).toNat (subBit v 6))
    if place v < l.length then moved v ((l[place v]?).elim 0 fun u => readA u (regWidth (ty v)))
    else if subBit v 7 then { writes := [], flags := 0, ovf := 0 } else moved v 0)

/-- R246, R247: a reduction is the left fold over the active lanes in lane order; a scan gives each lane the fold up to
its own term, or up to the one before it under EXCL, where the first lane gets the identity. -/
def Obligations.LaneReductions : Prop := ∀ f : Fields,
  Computes (.lred f) f 0 (fun act v => redEff (redOpOf f) v (folded (redOpOf f) ((row act v).map (redTerm (redOpOf f))))) ∧
  Computes (.lscan f) f 0 (fun act v =>
    let below := (row act v).takeWhile fun u => u.who ≠ v.who
    redEff (redOpOf f) v (folded (redOpOf f) ((if subBit v 6 then below else below ++ [v]).map (redTerm (redOpOf f)))))

namespace Sys2Proof.Rules

/-! ### The narrow family and addresses -/

/-- Format-table entry K of the context, and its narrow format (R86, R232). -/
def entryK (v : View) : FmtEntry := formatOf v.s v.g.ctx (v.f.sub.setWidth 6).toNat
def narrowK (v : View) : NarrowFmt :=
  match entryK v with
  | .narrow n => n
  | _ => { w := 0, sgn := false, e := 0, m := 0, bias := 0, pol := 0, step := 0 }

/-- The read of entry K meets no poison (R103). -/
def soundK (v : View) : Prop := formatPoisoned v.s v.g.ctx (v.f.sub.setWidth 6).toNat = false

/-- Entry K is read, and is a narrow format. -/
def narrowHere (v : View) : Prop := soundK v ∧ entryK v = .narrow (narrowK v)

/-- A code, read or written as its low bits; the element index of C; the scale of B (R232). -/
def element (v : View) : Nat := readC v 32 % 32
def scale (v : View) : Ext := scaleOf (BitVec.ofNat 32 (readB v 32)) (narrowK v).step (element v)

/-- NCVT's code for a value under a rounding (R233). -/
def quantised (v : View) (m : Rm) : Eff :=
  let x := readFloat fp32 false false false (fbitsA v fp32)
  let y := divE x.val (scale v)
  let r := encodeN (narrowK v) m (sat v) x.snan y.1
  { writes := writesD v 32 r.code, flags := r.fl ||| y.2, ovf := if r.counted = true ∧ ovc v = true then 1 else 0 }

/-- The address of LEA (R213). -/
def leaAddress (v : View) : W64 :=
  let index : W64 := if subBit v 7 then BitVec.ofNat 64 (readBI v 64) else (BitVec.ofNat 32 (readBI v 32)).signExtend 64
  BitVec.ofNat 64 (readAI v 64) + (index <<< subPred v) + v.f.w2.signExtend 64

/-- The reach register that CHK names, and the reach check (R213, R253). -/
def leaReach (v : View) : BitVec 8 := sget v.g.h (v.f.sub.setWidth 3).toNat
def reachPasses (v : View) (r : BitVec 8) : Prop := r.toNat < 0xF0 ∨ (r = 0xFE ∧ hasDebug v.s v.g.ctx = true)

end Sys2Proof.Rules

/-- R232-R236: the narrow instructions on a valid narrow entry; stochastic rounding steps the executor's generator once;
an invalid entry and a standard type trap ILLOP with 0x0A and 0x0B; a poisoned entry is fatal to the context, with FCAUSE 2
(R103, R106). -/
def Obligations.NarrowFormats : Prop := ∀ f : Fields,
  ComputesWhen (.ncvt f) f 5 (fun v => narrowHere v ∧ topCode v / 2 ≠ 2)
    (fun _ v => quantised v (if topCode v / 2 = 1 then .rtz else .rne)) ∧
  (∀ s v, Solo s f v → narrowHere v → topCode v / 2 = 2 →
    exec (.ncvt f) s = .next (issued s v fun u =>
      applyFixed (modThread u (vid v) fun t => { t with srstate := srStep v.t.srstate }) v 5
        (quantised v (.sr (srStep v.t.srstate).toNat)))) ∧
  ComputesWhen (.nexp f) f 5 narrowHere (fun _ v =>
    let d := decodeN (narrowK v) (readA v 32 % 2 ^ (narrowK v).w)
    let r := mulE (scale v) d
    let o := roundF fp32 { rm := .rne, ftz := false, sat := sat v, infIn := isInfE d } r.1
    { writes := writesD v 32 (encodeF fp32 o.val), flags := o.fl ||| nvIf r.2
      ovf := if o.clamped = true ∧ ovc v = true then 1 else 0 }) ∧
  ComputesWhen (.bscale f) f 5 narrowHere (fun _ v =>
    let r := blockScale (narrowK v) (readFloat fp32 false false true (fbitsA v fp32)).val
      (readFloat fp32 false false true (fbitsB v fp32)).val (element v)
    { writes := writesD v 32 r.1.toNat, flags := r.2, ovf := 0 }) ∧
  ComputesWhen (.npack f) f 5 narrowHere (fun _ v =>
    let p := (BitVec.ofNat 32 (readB v 32)).toInt
    pattern v (byBit 64 fun k =>
      if p ≤ (k : Int) ∧ (k : Int) < p + (narrowK v).w then (readA v 32).testBit ((k : Int) - p).toNat else (readC v 64).testBit k)) ∧
  ComputesWhen (.nunpk f) f 5 narrowHere (fun _ v =>
    let high := if v.who = .pilot ∧ v.f.c = 0 then 0 else readC v 64
    pattern v (byBit 32 fun j =>
      decide (j < (narrowK v).w) && (readA v 64 + 2 ^ 64 * high).testBit (readB v 32 + j))) ∧
  (∀ (i : Instr) (op : Nat), (i, op) ∈ [(Instr.ncvt f, 0x0D8), (.nexp f, 0x0D9), (.bscale f, 0x0DA), (.npack f, 0x0DB), (.nunpk f, 0x0DC)] →
    ∀ s v, Solo s f v →
      (soundK v → (∀ n, entryK v ≠ .narrow n) → exec i s = .next (issued s v fun u =>
        signalTrap u v causeIllop 0 (op * 256 + (if entryK v = .invalid then 0x0A else 0x0B)))) ∧
      (¬ soundK v → exec i s = .next (issued s v fun u =>
        raiseCtxFatal (modThread u (vid v) fun t => { t with pc := v.t.pc }) v.g.ctx 2)))

/-- R213, R253: LEA forms base + scaled index + offset modulo 2^64; under CHK an address whose reach fails the reach
check traps REACH with that address, and writes nothing. -/
def Clauses.LeaAddress : Prop := ∀ f : Fields,
  ComputesWhen (.lea f) f 3 (fun v => subBit v 6 = true → reachPasses v (leaReach v))
    (fun _ v => { writes := writesDI v 64 (leaAddress v).toNat, flags := 0, ovf := 0 }) ∧
  ∀ s v, Solo s f v → subBit v 6 = true → ¬ reachPasses v (leaReach v) →
    exec (.lea f) s = .next (issued s v fun u =>
      signalTrap u v causeReach (leaReach v ++ leaAddress v) (leaReach v).toNat)

/-- R17: the stack of an address and its place in the stack, in both modes; no two addresses share a place. -/
def Clauses.StackPlaces : Prop :=
  ∀ (s : State) (pa : Nat), pa < 12 * 2 ^ 36 →
    (s.modeDie = false → stackOf s pa = pa / 4096 % 12 ∧ stackOffset s pa = pa / 4096 / 12 * 4096 + pa % 4096) ∧
    (s.modeDie = true → let die := pa / (3 * 2 ^ 36)
      stackOf s pa = die * 3 + pa / 4096 % 3 ∧ stackOffset s pa = (pa - die * (3 * 2 ^ 36)) / 4096 / 3 * 4096 + pa % 4096) ∧
    stackOf s pa < 12 ∧ stackOffset s pa < 2 ^ 36 ∧
    ∀ other < 12 * 2 ^ 36, stackOf s other = stackOf s pa → stackOffset s other = stackOffset s pa → other = pa

namespace Sys2Proof.Rules

/-! ### One executor's instruction -/

/-- Nothing but event counters, interrupt causes and log records differs. -/
def Noted (s t : State) : Prop := t = { s with sessions := t.sessions, funcs := t.funcs, units := t.units, parts := t.parts }

/-- The instruction answers a next state that is `t`, but for event counters, interrupt causes and log records. -/
def Answers (i : Instr) (s t : State) : Prop := ∃ u, exec i s = .next u ∧ Noted t u

/-- The executor has gone on to the next instruction, before the effect. -/
def past (s : State) (v : View) : State := modThread s (vid v) fun t => { t with pc := nextPc v }

/-- A taken transfer: the executor goes to the target; where its kernel is REPLAY, the path signature takes the target, and a capsule in
a step keeps what the step has added (R176, R483, R486). -/
def jump (s : State) (v : View) (target : W64) : State :=
  let y : W64 := BitVec.ofNat 64 (target.toNat + strandIx v.who * 2 ^ 40) * 0x9E3779B97F4A7C15
  modThread (if replayKernel s v.g then
      modThread (modGroup s v.g.gid fun g => { g with path := g.path + y }) (vid v) fun t =>
        { t with caps := t.caps.map fun c => if c.mode = .inside then { c with path := c.path + y } else c }
    else s) (vid v) fun t => { t with pc := target }

/-- Displacement of BRA and CALL in words: C and B in the 64-bit form, word 2 in the 96-bit form (R39, R176). -/
def displacement (f : Fields) : W64 := if f.len = 1 then (f.c ++ f.b).signExtend 64 else f.w2.signExtend 64

/-- The register target of BRX, CALLX and RET, and its address under the code reach (R175, R177). -/
def regTarget (v : View) : W64 := BitVec.ofNat 64 (readA v 64)
def regTargetVa (v : View) : BitVec 72 := codeReachOf v.g v.t ++ regTarget v

/-- What the trap of an instruction saves, with TPC at the instruction (R192). -/
def trapAt (v : View) (cause : Nat) (addr : BitVec 72) (info : Nat) : TrapInfo :=
  { cause := BitVec.ofNat 64 cause, addr := addr, info := BitVec.ofNat 64 info, resume := v.t.pc }

/-- The instruction traps: it has no effect of its own, and the executor takes the trap (R152, R191). -/
def Traps (i : Instr) (f : Fields) (s : State) (v : View) (cause : Nat) (addr : BitVec 72) (info : Nat) : Prop :=
  exec i s = .next (issued s v fun u =>
    takeTrap (modThread u (vid v) fun t => { t with pc := v.t.pc }) (vid v) (trapAt v cause addr info))

/-- No strand of the group waits for a trap slot, and no halt is pending. -/
def Unhindered (g : Group) : Prop :=
  g.haltPend = false ∧ ∀ t ∈ g.strands, t.run ≠ .stalled .trapSlot

end Sys2Proof.Rules

/-! ### Control -/

/-- R176-R179, R190: branches and calls, with the link at latency 3; the register forms trap MISALIGN, pass the landing
check (RET has none) and then transfer, unless a response FAIL has reached the fetch of the target (R264); NOP and LAND in sequence have no effect. -/
def Clauses.Transfers : Prop := ∀ (f : Fields) (s : State) (v : View), Solo s f v →
  exec (.nop f) s = .next (issued s v id) ∧ exec (.land f) s = .next (issued s v id) ∧
  Answers (.bra f) s (issued s v fun u => jump u v (nextPc v + 4 * displacement f)) ∧
  Answers (.call f) s (issued s v fun u =>
    jump (applyEff u v 3 { effNone with writes := writesDI v 64 (nextPc v).toNat }) v (nextPc v + 4 * displacement f)) ∧
  (regTarget v &&& 3 ≠ 0 → ∀ i ∈ [Instr.brx f, .callx f, .ret f], Traps i f s v causeMisalign (regTargetVa v) 0) ∧
  (regTarget v &&& 3 = 0 → Answers (.ret f) s (issued s v fun u => jump u v (regTarget v))) ∧
  (regTarget v &&& 3 = 0 → ∀ l, refusedAt v.t.failed (regTargetVa v) .fetch = some l → ∀ i ∈ [Instr.brx f, .callx f],
    exec i s = .next (issued s v fun u => refuseAccess u v (regTargetVa v) .fetch l)) ∧
  (regTarget v &&& 3 = 0 → refusedAt v.t.failed (regTargetVa v) .fetch = none → ∀ u, landingCheck (past s v) v.g v.who (codeReachOf v.g v.t) (regTarget v) f.sub.toNat = (.pass, u) →
    Answers (.brx f) s (issued s v fun _ => jump u v (regTarget v)) ∧
    Answers (.callx f) s (issued s v fun _ =>
      jump (applyEff u v 3 { effNone with writes := writesD v 64 (nextPc v).toNat }) v (regTarget v))) ∧
  (regTarget v &&& 3 = 0 → refusedAt v.t.failed (regTargetVa v) .fetch = none → ∀ u info,
    landingCheck (past s v) v.g v.who (codeReachOf v.g v.t) (regTarget v) f.sub.toNat = (.mismatch info, u) →
    ∀ i ∈ [Instr.brx f, .callx f], exec i s = .next (issued s v fun _ =>
      takeTrap (modThread u (vid v) fun t => { t with pc := v.t.pc }) (vid v) (trapAt v causeLandtag (regTargetVa v) info)))

/-- R178: a landing check passes on a LAND of the executor's kind that carries the tag; any other word is a mismatch
whose information gives the two tags, or bit 16 where the word is no LAND. -/
def Clauses.LandingTags : Prop := ∀ (pilot : Bool) (w : W32) (tag : Nat), tag < 256 →
  (judgeLand pilot w tag = .pass ↔
    (w >>> 6).setWidth 9 = (6 : BitVec 9) ∧ w.getLsbD 31 = pilot ∧ ((w >>> 15).setWidth 8).toNat = tag) ∧
  ((w >>> 6).setWidth 9 = (6 : BitVec 9) → w.getLsbD 31 = pilot → ((w >>> 15).setWidth 8).toNat ≠ tag →
    judgeLand pilot w tag = .mismatch (((w >>> 15).setWidth 8).toNat * 256 + tag)) ∧
  (¬ ((w >>> 6).setWidth 9 = (6 : BitVec 9) ∧ w.getLsbD 31 = pilot) → judgeLand pilot w tag = .mismatch (0x10000 + tag))

/-- R180-R182: JOIN adds the lanes of the strands that issue it to the mask; the masks are read, set, joined and cleared;
after a change every open round is tested. -/
def Obligations.RejoinMasks : Prop := ∀ f : Fields,
  Computes (.jmaskGet f) f 0 (fun _ v =>
    { writes := writesD v 64 (sget v.g.j (f.a.setWidth 4).toNat).toNat, flags := 0, ovf := 0 }) ∧
  (∀ s vs, Issuing s f vs → ∃ t, exec (.join f) s = .next t ∧ ∀ v ∈ vs, ∃ g, getGroup t v.g.gid = some g ∧
    (∀ l, (sget g.j (f.d.setWidth 4).toNat).getLsbD l = true ↔ l < 64 ∧
      ((sget v.g.j (f.d.setWidth 4).toNat).getLsbD l = true ∨ ∃ u ∈ vs, acting u = true ∧ ∃ k, u.who = .strand k ∧ laneOf v.g k = l)) ∧
    (∀ n, n ≠ (f.d.setWidth 4).toNat → sget g.j n = sget v.g.j n)) ∧
  (∀ s v, Solo s f v →
    let n := (f.d.setWidth 4).toNat
    let b := BitVec.ofNat 64 (readB v 64)
    let put (h : W64 → W64) : State :=
      issued s v fun u => settleRounds (modGroup u v.g.gid fun g => { g with j := sset g.j n (h (sget g.j n)) }) v.g.gid
    exec (.jmaskSet f) s = .next (put fun _ => b) ∧
    exec (.jmaskOr f) s = .next (put fun m => m ||| b) ∧
    exec (.jmaskAndn f) s = .next (put fun m => m &&& ~~~b))

/-- R183, R184: a strand that arrives at WAITJ waits until every lane of its slot that the mask names has arrived or
exited; then it goes on with its predicate true. At the deadline a round that is not complete is released with false. -/
def Clauses.BoundedWait : Prop :=
  (∀ (f : Fields) (s : State) (v : View) (k : Nat), Solo s f v → v.who = .strand k → v.g.gst = .running →
    v.g.rounds.all (fun r => !roundDone v.g r) = true →
    let n := (f.a.setWidth 4).toNat
    let pd := (f.d.setWidth 3).toNat
    let arrived (l : Nat) : Bool := v.g.rounds.any fun r => r.n == n && r.slot == slotOf v.g k && r.lanes.contains l
    let complete : Prop := ∀ l < v.g.shape.w, (sget v.g.j n).getLsbD l = true →
      l = laneOf v.g k ∨ arrived l = true ∨
        (match v.g.strands[slotOf v.g k * v.g.shape.w + l]? with | some x => x.run = .exited | none => True)
    (v.g.rounds.map fun r => (r.n, r.slot)).Nodup →
    ∃ t, exec (.waitj f) s = .next t ∧ Holds t v fun g x =>
      (complete → x.run = .ready ∧ x.pc = nextPc v ∧ heldReg g x (.p pd) = 1) ∧
      (¬ complete → x.run = .joining n (slotOf v.g k) pd (nextPc v) ∧ x.pc = v.t.pc)) ∧
  (∀ (s : State) (gid : Nat) (g : Group) (r : Round) (d k : Nat) (x : Thread) (pd : Nat) (next : W64),
    getGroup s gid = some g → g.gst = .running → g.rounds.all (fun r => !roundDone g r) = true →
    r ∈ g.rounds → (g.rounds.map fun r => (r.n, r.slot)).Nodup →
    r.deadline = some d → d ≤ coreCycle s (g.cores.getD 0 0) →
    g.strands[k]? = some x → x.run = .joining r.n r.slot pd next → laneOf g k ∈ r.lanes →
    ∃ t h y, exec (.waitjExpiry gid r.n r.slot) s = .next t ∧ getGroup t gid = some h ∧ h.strands[k]? = some y ∧
      y.run = .ready ∧ y.pc = next ∧ (pd < 7 → heldReg h y (.p pd) = 0) ∧ r ∉ h.rounds)

/-- R187-R189: EXIT ends the strand and leaves its capsule, its trap slot and its barriers; YIELD leaves the partition;
NAP n parks for n to n + 64 cycles, NAP 0 acts as YIELD; the park ends once its time has come. -/
def Clauses.ExitYieldNap : Prop :=
  (∀ (f : Fields) (s : State) (v : View), Solo s f v →
    (∀ k, v.who = .strand k → exec (.exit f) s = .next (issued s v fun u =>
      afterExit (barExit (modThread (match v.t.caps with | some c => capStatus u v.g k c.record ostAbandoned false | none => u)
        (vid v) fun t => { t with run := .exited, fixed := endFixed t.fixed, pend := [], slot := none, caps := none }) v.g v.who) v.g.gid)) ∧
    exec (.yield f) s = .next (issued s v fun u => { u with leave := 2 }) ∧
    (f.w2 = 0 → exec (.nap f) s = .next (issued s v fun u => { u with leave := 2 })) ∧
    (f.w2 ≠ 0 → ∃ wake, s.cycle + f.w2.toNat ≤ wake ∧ wake ≤ s.cycle + f.w2.toNat + 64 ∧
      Answers (.nap f) s (issued s v fun u => modThread u (vid v) fun t =>
        { t with pc := v.t.pc, run := .parked (.nap wake (nextPc v)), fixed := endFixed t.fixed, since := now s }))) ∧
  (∀ (s : State) (id : ThreadId) (g : Group) (t : Thread) (wake : Nat) (next : W64),
    getGroup s id.gid = some g → getThread g id.who = some t → t.run = .parked (.nap wake next) →
    ∃ u, exec (.napWake id) s = .next u ∧ u = { s with groups := u.groups } ∧
      ∃ h x, getGroup u id.gid = some h ∧ getThread h id.who = some x ∧
        x = (if wake ≤ s.cycle then { t with run := .ready, pc := next } else t))

/-- R191, R193-R195, R152: TRAP saves the next instruction's address, BKPT its own; TRAPRET frees the handler and goes on
at TPC, and outside a handler traps ILLOP; a breakpoint under interception halts the group at it and is logged with the cause and the code
(R475; where the code stands is the model's choice, log entry 112). A return of the pilot keeps its trap registers (log entry 101). -/
def Obligations.TrapInstructions : Prop := ∀ (f : Fields) (s : State) (v : View), Solo s f v →
  exec (.trap f) s = .next (issued s v fun u => takeTrap u (vid v)
    { cause := BitVec.ofNat 64 causeTrapinstr, addr := 0, info := f.w2.setWidth 64, resume := nextPc v }) ∧
  (intercepts s v.g.ctx = false → Traps (.bkpt f) f s v causeBkpt 0 f.d.toNat) ∧
  (intercepts s v.g.ctx = true → exec (.bkpt f) s = .next (issued s v fun u =>
    haltGroup (modGroup (modThread (emitExec u v.g v.who evTrap v.g.lin.toNat (causeBkpt * 2 ^ 40 + f.d.toNat)) (vid v)
      fun t => { t with pc := v.t.pc }) v.g.gid fun g => { g with atBkpt := true }) v.g.gid true)) ∧
  (v.t.inh = false → Traps (.trapret f) f s v causeIllop 0 (0x00F * 256 + 0x0B)) ∧
  (v.t.inh = true → v.t.run = .ready → v.t.caps = none → Unhindered v.g → ∃ t, exec (.trapret f) s = .next t ∧ OnlyIssuers s t [v] ∧
    Holds t v fun _ x => x = match v.who with
      | .pilot => { v.t with inh := false, pc := v.t.tpc, fixed := (endFixed v.t.fixed).filter (keptFixed v.s.cycle)
                             issueAt := nextIssue v }
      | .strand _ => { v.t with inh := false, slot := none, tcause := 0, taddrlo := 0, taddrhi := 0, tinfo := 0, pc := v.t.tpc
                                fixed := (endFixed v.t.fixed).filter (keptFixed v.s.cycle), issueAt := nextIssue v })

/-- R152, R153, R191, R196: a trap outside a handler saves the cause, the address, the information and the pc, takes the
lowest free trap slot, and enters the handler; with no slot free the strand waits; inside a handler a strand becomes
TRAPPED, which may complete a pending halt, and a pilot faults its group. A capsule is suspended, and TPC is its step's start (R362). -/
def Clauses.TrapEntry : Prop := ∀ (s : State) (id : ThreadId) (g : Group) (t : Thread) (ti : TrapInfo),
  getGroup s id.gid = some g → getThread g id.who = some t →
  let resume (x : Thread) : W64 :=
    match x.caps with | some c => if c.mode = .inside then c.start else ti.resume | none => ti.resume
  let saved (slot : Option Nat) (x : Thread) : Thread :=
    { x with tcause := ti.cause, taddrlo := ti.addr.setWidth 64, taddrhi := (ti.addr >>> 64).setWidth 8, tinfo := ti.info,
             tpc := resume x, inh := true, slot := slot, ptrap := none, fixed := endFixed x.fixed,
             caps := x.caps.map fun c => { c with mode := .suspended, intents := [], path := 0 } }
  let entered (slot : Option Nat) : State := enterVector (emitExec (modThread s id (saved slot))
    (modThreadOf g id.who (saved slot)) id.who evTrap g.lin.toNat
      (ti.cause.toNat * 2 ^ 40 + ((resume t).setWidth 40).toNat)) id
  (t.inh = false → id.who = .pilot → takeTrap s id ti = entered none) ∧
  (t.inh = false → (∃ k, id.who = .strand k) → ∀ n < 32, (∀ x ∈ g.strands, x.slot ≠ some n) →
    (∀ m < n, ∃ x ∈ g.strands, x.slot = some m) → takeTrap s id ti = entered (some n)) ∧
  (t.inh = false → (∃ k, id.who = .strand k) → (∀ n < 32, ∃ x ∈ g.strands, x.slot = some n) →
    takeTrap s id ti = modThread s id fun x => { x with run := .stalled .trapSlot, ptrap := some ti, fixed := endFixed x.fixed }) ∧
  (t.inh = true → (∃ k, id.who = .strand k) → takeTrap s id ti =
    settleHalt (emitExec (modThread s id fun x =>
      { x with tcause := ti.cause, taddrlo := ti.addr.setWidth 64, taddrhi := (ti.addr >>> 64).setWidth 8, tinfo := ti.info,
               run := .trapped, fixed := endFixed x.fixed })
      g id.who evNestedTrap g.lin.toNat (ti.cause.toNat * 2 ^ 40 + (ti.addr.setWidth 40).toNat)) id.gid) ∧
  (t.inh = true → id.who = .pilot → takeTrap s id ti =
    groupFault (emitExec s g .pilot evNestedTrap g.lin.toNat (ti.cause.toNat * 2 ^ 40 + (ti.addr.setWidth 40).toNat)) id.gid 1)

/-- R191: the handler is entered at TVEC or PTVEC once the landing check passes there under TVREACH; a fetch
of the vector that a response FAIL has reached faults the group. -/
def Clauses.HandlerEntry : Prop := ∀ (s u : State) (id : ThreadId) (g : Group) (t : Thread),
  getGroup s id.gid = some g → getThread g id.who = some t →
  let vec := match id.who with | .pilot => g.vals.ptvec | .strand _ => g.vals.tvec
  (refusedAt t.failed (vaOf g.vals.tvreach vec) .fetch = none →
    landingCheck s g id.who g.vals.tvreach vec 0xFF = (.pass, u) →
    enterVector s id = modThread u id fun x => { x with pc := vec, run := .ready, failed := none }) ∧
  (refusedAt t.failed (vaOf g.vals.tvreach vec) .fetch ≠ none →
    enterVector s id = groupFault (emitGroup s g evTrapvecBad 0).2 id.gid 2)

namespace Sys2Proof.Rules

/-- An entry joins the decision queue: the pilot's earlier writes are released to the group, the value of A stands last, and
a strand parked in DQPOP issues again (R151, R167, R319). -/
def pushed (u : State) (v : View) : State :=
  wakePops (modGroup (pilotRelease u v.g) v.g.gid fun g =>
    { g with dq := g.dq ++ [BitVec.ofNat 64 (readA v 64)] }) v.g.gid 1

/-- An entry leaves the decision queue, an acquire of the strand that takes it: a pilot stalled on the full queue is READY again
(R167, R319). -/
def popped (u : State) (v : View) (rest : List W64) : State :=
  modGroup (groupAcquire u v.g v.who) v.g.gid fun g =>
    { g with dq := rest, dqHead := g.dqHead + 1,
             pilot := { g.pilot with run := if g.pilot.run = .stalled .decisionQueue then .ready else g.pilot.run } }

end Sys2Proof.Rules

/-- R165-R168: RELEASE starts the NEW strands of a range; pushes and pops of the decision queue, whose full and empty
states stall, park or write their predicate; a pop after PHALT gives all ones; PHALT with no NEW strand left. -/
def Obligations.PilotAndDecisionQueue : Prop := ∀ (f : Fields) (s : State) (v : View), Solo s f v →
  (let first := readA v 64 % 2 ^ 32
   exec (.release f) s = .next (issued s v fun u => modGroup (pilotRelease u v.g) v.g.gid fun g =>
     { g with strands := g.strands.mapIdx fun k x =>
         if first ≤ k ∧ k < first + readB v 32 ∧ x.run = .new then { x with run := .ready, pc := g.sentry } else x })) ∧
  (v.g.dq.length < 64 → exec (.dqpush f) s = .next (issued s v fun u => pushed u v)) ∧
  (64 ≤ v.g.dq.length → exec (.dqpush f) s = .next (issued s v fun u => stallAt u v .decisionQueue)) ∧
  (v.g.dq.length < 64 → exec (.dqpushNb f) s = .next (issued s v fun u =>
    pushed (applyPend u v { effNone with writes := [(.p (f.d.setWidth 3).toNat, 1)] } 0) v)) ∧
  (64 ≤ v.g.dq.length → exec (.dqpushNb f) s = .next (issued s v fun u =>
    applyPend u v { effNone with writes := [(.p (f.d.setWidth 3).toNat, 0)] } 0)) ∧
  (∀ x r, v.g.dq = x :: r →
    exec (.dqpop f) s = .next (issued s v fun u =>
      { applyPend (popped u v r) v { effNone with writes := writesD v 64 x.toNat } 0 with nextPark := s.nextPark + 1 }) ∧
    exec (.dqpopNb f) s = .next (issued s v fun u =>
      { applyPend (popped u v r) v { effNone with writes := writesD v 64 x.toNat ++ [(.p (f.a.setWidth 3).toNat, 1)] } 0
        with nextPark := s.nextPark + 1 })) ∧
  (v.g.dq = [] → exec (.dqpopNb f) s = .next (issued s v fun u =>
    { applyPend u v { effNone with writes := [(.p (f.a.setWidth 3).toNat, 0)] } 0 with nextPark := s.nextPark + 1 })) ∧
  (v.g.dq = [] → v.g.pilot.run = .exited → (∃ k, v.who = .strand k) → exec (.dqpop f) s = .next (issued s v fun u =>
    { applyPend u v { effNone with writes := writesD v 64 (2 ^ 64 - 1) } 0 with nextPark := s.nextPark + 1 })) ∧
  (v.g.dq = [] → v.g.pilot.run ≠ .exited → (∃ k, v.who = .strand k) → Answers (.dqpop f) s (issued s v fun u =>
    { modThread u (vid v) (fun t => { t with pc := v.t.pc, run := .parked (.dqpop s.nextPark), fixed := endFixed t.fixed, since := now s })
      with nextPark := s.nextPark + 1 })) ∧
  (v.who = .pilot → (∀ x ∈ v.g.strands, x.run ≠ .new) → exec (.phalt f) s = .next (issued s v fun u =>
    afterExit (wakePops (modThread u (vid v) fun t => { t with run := .exited, fixed := endFixed t.fixed, pend := [] })
      v.g.gid v.g.strands.length) v.g.gid))

namespace Sys2Proof.Rules

/-! ### System registers (R113-R117, R452) -/

/-- The register that SYSRD and SYSWR name, and the width they move (R115, R116). -/
def srn (v : View) : Nat := (v.f.c.setWidth 2 ++ v.f.b).toNat
def moveWidth (v : View) : Nat := if v.who = .pilot ∨ v.f.sub.getLsbD 0 = true then 64 else 32

/-- A register of the debug unit, which needs the debug right of the context (R474). -/
def debugOnly (s : State) (v : View) : Prop := 0x400 ≤ srn v ∧ srn v ≤ 0x408 ∧ hasDebug s v.g.ctx = false

/-- What a write leaves in a context register: the bits it has; LOTSTATE never holds zero, CTXFLAGS keeps bit 1, and the n of
FLTCFG and CAPSIZE keep what they hold where their tables do not list the value (R6, R113, R129, R263, R275). The last is the
model's choice (log entry 68). -/
def ctxKept (n : Nat) (old x : W64) : W64 :=
  let y := x &&& BitVec.ofNat 64 (ctxRegMask n)
  if n = 0x215 ∧ y = 0 then 1 else if n = 0x200 then y ||| (old &&& 2)
  else if n = 0x218 ∧ 12 < (y.setWidth 4).toNat then (y &&& 0x10) ||| (old &&& 0xF)
  else if n = 0x21D ∧ 65536 < y.toNat then old else y

/-- A context register has been written: it and its image in the context's area hold the value, and every other register
and every other byte of memory is as before (R105, R113). -/
def CtxRegWritten (s t : State) (ctx n : Nat) (y : W64) : Prop :=
  ∃ c, getCtx s ctx = some c ∧ (∀ m, ctxReg t ctx m = if m = n then y else ctxReg s ctx m) ∧
    (∀ m, m ≠ ctx → getCtx t m = getCtx s m) ∧
    (inMain (c.area + 0x800 + 8 * (n - 0x200)) 8 = true → ∀ a, sget t.mem a = if c.area + 0x800 + 8 * (n - 0x200) ≤ a ∧ a < c.area + 0x800 + 8 * (n - 0x200) + 8
      then (y >>> (8 * (a - (c.area + 0x800 + 8 * (n - 0x200))))).setWidth 8 else sget s.mem a)

/-- A register of range 0x200-0x2FF that code can write, other than FLTRESP (R113). -/
def writable (n : Nat) : Prop := 0x200 ≤ n ∧ n < 0x300 ∧ n ≠ 0x21B ∧ ctxRegMask n ≠ 0

/-- What a write of an executor's own register leaves (R83, R113). -/
def ownWritten (n : Nat) (x : W64) (t : Thread) : Thread :=
  if n = 0x100 then { t with tcause := x } else if n = 0x101 then { t with tpc := x }
  else if n = 0x102 then { t with taddrlo := x } else if n = 0x103 then { t with taddrhi := x.setWidth 8 }
  else if n = 0x104 then { t with tinfo := x } else if n = 0x110 then { t with flags := x.setWidth 6 }
  else if n = 0x111 then { t with ovfcnt := x.setWidth 32 }
  else if n = 0x112 then { t with srstate := if x.setWidth 32 = (0 : W32) then 1 else x.setWidth 32 }
  else if n = 0x113 then { t with stcres := x.setWidth 32 } else t

/-- An interlocked result of D. -/
def give (s : State) (v : View) (w x : Nat) : State := applyPend s v { effNone with writes := writesD v w x } 0

/-- The record that LOGEV makes (R461, R468). -/
def logevRecord (s : State) (v : View) (k n : Nat) (q : BitVec 25) : LogRec :=
  { stamp := s.chron.ns, cls := BitVec.ofNat 2 k, event := BitVec.ofNat 14 (0x3F00 + n),
    own := s.rank ++ BitVec.ofNat 11 (4 * coreOf v.g v.who) ++ q, cause := v.t.lastwake,
    obj := BitVec.ofNat 32 (readA v 32), payload := BitVec.ofNat 48 (readB v 64) }

end Sys2Proof.Rules

/-! ### System instructions -/

/-- R113, R115, R116, R474: SYSRD gives the register, low bits in strand code; a debug register without the debug right
traps PRIV; what the executor's own, the context's and the device's registers hold. -/
def Clauses.SystemRegisterReads : Prop :=
  (∀ (f : Fields) (s : State) (v : View), Solo s f v →
    (¬ debugOnly s v → exec (.sysrd f) s = .next (issued s v fun u =>
      give u v (moveWidth v) ((sysReg (past s v) v (srn v)).toNat % 2 ^ moveWidth v))) ∧
    (debugOnly s v → Traps (.sysrd f) f s v causePriv 0 (0x1F0 * 256 + 5))) ∧
  (∀ (s : State) (v : View),
    sysReg s v 0x100 = v.t.tcause ∧ sysReg s v 0x101 = v.t.tpc ∧ sysReg s v 0x102 = v.t.taddrlo ∧
    sysReg s v 0x103 = v.t.taddrhi.setWidth 64 ∧ sysReg s v 0x104 = v.t.tinfo ∧ sysReg s v 0x110 = v.t.flags.setWidth 64 ∧
    sysReg s v 0x111 = v.t.ovfcnt.setWidth 64 ∧ sysReg s v 0x112 = v.t.srstate.setWidth 64 ∧
    sysReg s v 0x113 = v.t.stcres.setWidth 64 ∧ sysReg s v 0x500 = s.chron.ns ∧ sysReg s v 0x502 = v.t.lastwake.setWidth 64 ∧
    sysReg s v 0x21B = 0 ∧ (∀ n, 0x200 ≤ n → n < 0x300 → n ≠ 0x21B → sysReg s v n = ctxReg s v.g.ctx n) ∧
    (∀ n, 0x506 ≤ n → sysReg s v n = 0))

/-- R113, R116, R117, R452: SYSWR and the host's context page write the executor's own registers, and the bits that a
context register has, with its image in the context's area; a read-only register ignores the write. -/
def Clauses.SystemRegisterWrites : Prop :=
  (∀ (f : Fields) (s : State) (v : View), Solo s f v → ¬ debugOnly s v →
    let x := BitVec.ofNat 64 (readA v (moveWidth v))
    (0x100 ≤ srn v → srn v < 0x200 →
      exec (.syswr f) s = .next (issued s v fun u => modThread u (vid v) (ownWritten (srn v) x))) ∧
    ((srn v ≤ 0xFF ∨ (0x200 ≤ srn v ∧ srn v < 0x300 ∧ srn v ≠ 0x21B ∧ ctxRegMask (srn v) = 0) ∨ srn v = 0x500 ∨ srn v = 0x502 ∨
        srn v = 0x504 ∨ srn v = 0x505 ∨ 0x506 ≤ srn v) →
      exec (.syswr f) s = .next (issued s v id)) ∧
    (writable (srn v) → ∀ c, getCtx s v.g.ctx = some c → swf c.sys = true → swf s.mem = true →
      ∃ t, exec (.syswr f) s = .next t ∧ CtxRegWritten s t v.g.ctx (srn v) (ctxKept (srn v) (ctxReg s v.g.ctx (srn v)) x))) ∧
  (∀ (f : Fields) (s : State) (v : View), Solo s f v → debugOnly s v → Traps (.syswr f) f s v causePriv 0 (0x1F1 * 256 + 5)) ∧
  (∀ (s : State) (func slot : Nat) (n : BitVec 8) (x : W64) (c : Context), slotCtx s func slot = some c →
    getCtx s c.num = some c → writable (0x200 + n.toNat) → swf c.sys = true → swf s.mem = true →
    ∃ t, exec (.hostCtxregWrite func slot n x) s = .next t ∧
      CtxRegWritten s t c.num (0x200 + n.toNat) (ctxKept (0x200 + n.toNat) (ctxReg s c.num (0x200 + n.toNat)) x))

/-- R458, R468: CHRON gives every executor of the issue the chronometer, CHRON.q its quality word; LOGEV emits a record of
class k and event 0x3F00 + n, unless the group's filter is above k. -/
def Clauses.ChronAndLog : Prop := ∀ f : Fields,
  Computes (.chron f) f 0 (fun _ v => { writes := writesD v 64 v.s.chron.ns.toNat, flags := 0, ovf := 0 }) ∧
  Computes (.chronQ f) f 0 (fun _ v =>
    { writes := writesD v 64 (v.s.chron.st.toNat * 2 ^ 62 + v.s.chron.src.toNat * 2 ^ 60 + v.s.chron.errb.toNat), flags := 0, ovf := 0 }) ∧
  (∀ s v, Solo s f v →
    let k := (f.sub.setWidth 2).toNat
    let n := (f.sub >>> 2).toNat
    let unit := 4 * coreOf v.g v.who
    (k < v.g.vals.logfilt.toNat → exec (.logev f) s = .next (issued s v id)) ∧
    (v.g.vals.logfilt.toNat ≤ k → (getUnit s unit).buf.length < 16 → (getUnit s unit).drops.all (· == 0) = true →
      ∃ t, exec (.logev f) s = .next t ∧ t = { issued s v id with units := t.units } ∧
        let q := nextSeq (getUnit s unit).seq
        getUnit t unit = { getUnit s unit with seq := q, buf := (getUnit s unit).buf ++ [(v.g.ctx + 1, logevRecord s v k n q)] } ∧
        ∀ m, m ≠ unit → getUnit t m = getUnit s m))

/-- R476, R480, R481: CNTRD gives a counter of the session that the context owns, zero without one; CNTCTL opens, closes
and sets up the session of the function, with a status for each refusal. -/
def Clauses.CounterSessions : Prop := ∀ (f : Fields) (s : State) (v : View), Solo s f v →
  let func := ctxFunc s v.g.ctx
  let b := readB v 32
  let c := readC v 64
  let w := if v.who = .pilot then 64 else 32
  let change (h : Session → Session) (u : State) : State :=
    { u with sessions := u.sessions.map fun e => if e.func = func then h e else e }
  let ends (i : Instr) (status : Nat) (h : State → State) : Prop :=
    exec i s = .next (issued s v fun u => give (h u) v w status)
  exec (.cntrd f) s = .next (issued s v fun u =>
    give u v 64 (counterValue (past s v) v.g.ctx (coreOf v.g v.who) b).toNat) ∧
  (ownSession s v.g.ctx = none → ∀ core sel, counterValue s v.g.ctx core sel = 0) ∧
  ((funcSession s func).isSome = true → ends (.cntctlOpen f) 1 id) ∧
  (funcSession s func = none → b = 0 → c % 4096 = 0 → inMain c 0x80000 = true → ends (.cntctlOpen f) 0 fun u =>
    let opened : Session :=
      { func := func, ctx := v.g.ctx, buf := BitVec.ofNat 64 c, run := 0, ovf := 0, ovfen := 0, sel := 0, xsel := 0,
        plans := [], loaded := true, counts := [], results := [], held := none, planned := false }
    { u with sessions := u.sessions ++ [opened] }) ∧
  (funcSession s func = none → (b ≠ 0 ∨ c % 4096 ≠ 0 ∨ inMain c 0x80000 = false) → ends (.cntctlOpen f) 4 id) ∧
  (ownSession s v.g.ctx = none → ∀ i ∈ [Instr.cntctlClose f, .cntctlSel f, .cntctlRun f, .cntctlClear f, .cntctlOvfen f, .cntctlPlan f],
    ends i 2 id) ∧
  ((ownSession s v.g.ctx).isSome = true →
    (b ≠ 0 ∨ c ≠ 0 → ends (.cntctlClose f) 4 id) ∧
    (b ≠ 0 ∨ 2 ^ 9 ≤ c → ends (.cntctlRun f) 4 id ∧ ends (.cntctlClear f) 4 id) ∧
    (b ≠ 0 ∨ 2 ^ 10 ≤ c → ends (.cntctlOvfen f) 4 id) ∧
    (16 ≤ b ∨ 2 ^ 48 ≤ c → ends (.cntctlPlan f) 4 id) ∧
    (b < 16 → c < 2 ^ 48 → (∃ k < 4, selOk k (c / 2 ^ (12 * k) % 2 ^ 12) = false) → ends (.cntctlPlan f) 3 id) ∧
    (b = 0 → c = 0 → ends (.cntctlClose f) 0 fun u => { u with sessions := u.sessions.filter fun e => e.ctx ≠ v.g.ctx }) ∧
    (8 ≤ b ∨ 2 ^ 12 ≤ c → ends (.cntctlSel f) 4 id) ∧
    (b < 8 → c < 2 ^ 12 → selOk b c = false → ends (.cntctlSel f) 3 id) ∧
    (b < 4 → c < 2 ^ 12 → selOk b c = true → ends (.cntctlSel f) 0 (change fun e => { e with sel := setFld e.sel (12 * b + 11) (12 * b) c })) ∧
    (4 ≤ b → b < 8 → c < 2 ^ 12 → selOk b c = true →
      ends (.cntctlSel f) 0 (change fun e => { e with xsel := setFld e.xsel (12 * (b - 4) + 11) (12 * (b - 4)) c })) ∧
    (b = 0 → c < 2 ^ 9 → ends (.cntctlRun f) 0 (change fun e => { e with run := BitVec.ofNat 9 c })) ∧
    (b = 0 → c < 2 ^ 9 → ends (.cntctlClear f) 0 (change fun e => { e with counts := e.counts.filter fun x => !c.testBit (maskBit x.1) })) ∧
    (b = 0 → c < 2 ^ 10 → ends (.cntctlOvfen f) 0 (change fun e => { e with ovfen := BitVec.ofNat 10 c })) ∧
    (b < 16 → c < 2 ^ 48 → (∀ k < 4, selOk k (c / 2 ^ (12 * k) % 2 ^ 12) = true) →
      ends (.cntctlPlan f) 0 (change fun e => { e with plans := sset e.plans b (BitVec.ofNat 48 c) })))

/-- R126, R132, R451: a trigger counter takes a saturating sum from QSIG and the ADD window, a value from TRIGARM and the
SET window; TRIGARM gives the value it replaced. The pilot's own queued stores leave first. -/
def Clauses.TriggerCounters : Prop :=
  (∀ (f : Fields) (s : State) (v : View), Solo s f v →
    let n := readB v 32 % 256
    let released (u : State) : State := writeBack u (coreOf v.g v.who) fun _ => true
    (ownQueued (past s v) v = true → ∀ i ∈ [Instr.qsig f, .trigarm f], exec i s = .next (issued s v fun u => stallAt u v .storeQueue)) ∧
    (ownQueued (past s v) v = false →
      exec (.qsig f) s = .next (issued s v fun u => trigOp (released u) v.g.ctx n fun a =>
        BitVec.ofNat 64 (min (a.toNat + readA v 64) (2 ^ 64 - 1))) ∧
      exec (.trigarm f) s = .next (issued s v fun u =>
        give (trigOp (released u) v.g.ctx n fun _ => BitVec.ofNat 64 (readA v 64)) v 64
          (match getCtx (released (past s v)) v.g.ctx with | some c => (sget c.trig n).toNat | none => 0)))) ∧
  (∀ (s : State) (func slot n : Nat) (x : W64) (c : Context), slotCtx s func slot = some c → n < 256 →
    exec (.triggerWindowAdd func slot n x) s = .next (trigOp s c.num n fun a => BitVec.ofNat 64 (min (a.toNat + x.toNat) (2 ^ 64 - 1))) ∧
    exec (.triggerWindowSet func slot n x) s = .next (trigOp s c.num n fun _ => x)) ∧
  (∀ (s : State) (ctx n : Nat) (c : Context) (h : W64 → W64), getCtx s ctx = some c → swf c.trig = true →
    s.kernels.all (fun k => !(k.ctx == ctx && k.pkt.trig && k.pkt.trigix == n)) = true →
    ∀ m, (match getCtx (trigOp s ctx n h) ctx with | some d => sget d.trig m | none => 0) =
      if m = n then h (sget c.trig n) else sget c.trig m)

/-- R131: LAUNCH checks the address, the queue's state, its privilege and its room in that order, and a refusal drops what a peer has
answered for the packet; a packet that is
accepted stands in the next slot of the ring, and WRIDX advances. -/
def Clauses.LaunchPacket : Prop := ∀ (f : Fields) (s : State) (v : View), Solo s f v →
  let off := BitVec.ofNat 64 (readA v 64)
  let va := sget v.g.h (f.sub.setWidth 3).toNat ++ off
  let q := readB v 32 % 256
  let x := queueOfCtx s v.g.ctx q
  let open_ : Prop := x.qst = .enabled ∨ x.qst = .suspended
  (off.toNat % 128 ≠ 0 → Traps (.launch f) f s v causeMisalign va 0) ∧
  (off.toNat % 128 = 0 → ¬ open_ → exec (.launch f) s = .next (issued s v fun u => give (takeRemote u v) v 64 2)) ∧
  (off.toNat % 128 = 0 → open_ → x.cfg.getLsbD 7 = true → v.g.priv = false →
    exec (.launch f) s = .next (issued s v fun u => give (takeRemote u v) v 64 4)) ∧
  (off.toNat % 128 = 0 → open_ → (x.cfg.getLsbD 7 = true → v.g.priv = true) → (x.wridx - x.rdidx).toNat = ringPackets x →
    exec (.launch f) s = .next (issued s v fun u => give (takeRemote u v) v 64 1)) ∧
  (off.toNat % 128 = 0 → open_ → (x.cfg.getLsbD 7 = true → v.g.priv = true) → (x.wridx - x.rdidx).toNat ≠ ringPackets x →
    ownQueued (past s v) v = false → ∀ l pa u, resolve (past s v) v va .read 128 = (.mem l pa, u) → placeOf u pa = .main →
    exec (.launch f) s = .next (issued s v fun _ =>
      let r := readMain u v l va pa 128 4 2
      let w := writeBack r.2 (coreOf v.g v.who) fun _ => true
      let y := queueOfCtx w v.g.ctx q
      let slot := ringBase y + 128 * (y.wridx.toNat % ringPackets y)
      let tagged := writeTag w (4 * coreOf v.g v.who) slot 128
      give (writeWridx (homeWrite tagged.2 none slot r.1 tagged.1) y (y.wridx + 1)) v 64 0))

namespace Sys2Proof.Rules

/-! ### Addresses and accesses (R252, R278-R280) -/

/-- The virtual address of a memory operand: reach register, base and offset, modulo 2^64. -/
def address (v : View) : BitVec 72 :=
  sget v.g.h (v.f.sub.setWidth 3).toNat ++ (BitVec.ofNat 64 (readAI v 64) + v.f.w2.signExtend 64)

/-- Bytes of an access, of an LDU or STU block, and the size code. -/
def size (v : View) : Nat := 2 ^ subPred v
def blockSize (v : View) : Nat := 8 * 2 ^ (topCode v / 2)

/-- The offset of an address is a multiple of n. -/
def alignedTo (va : BitVec 72) (n : Nat) : Prop := (va.setWidth 64).toNat % n = 0

/-- SCOPE, ORD and ATOP of the control field (R35). -/
def scope (v : View) : Nat := (v.f.c.setWidth 3).toNat
def ord (v : View) : Nat := ((v.f.c >>> 3).setWidth 2).toNat
def atop (v : View) : Nat := (v.f.c >>> 5).toNat

/-- The scope of an access as it stands for its group: group scope has the extent of quad scope in a spread group (R21, R303). -/
def scopeFor (g : Group) (sc : Nat) : Nat := if sc = 0 ∧ 1 < g.shape.spread then 2 else sc
def extent (v : View) : Nat := scopeFor v.g (scope v)

/-- The access passes its checks and meets main memory at `pa` under `leaf`; `u` is the state after the checks. -/
def Reaches (s : State) (v : View) (va : BitVec 72) (a : Acc) (n : Nat) (leaf : Leaf) (pa : Nat) (u : State) : Prop :=
  resolve (past s v) v va a n = (.mem leaf pa, u) ∧ pa < apertureBase

/-- A loaded value in the register group: zero- or sign-extended (R279, R288). -/
def loadWidth (v : View) (n : Nat) : Nat := if v.who = .pilot ∨ inCap v.t = true then max 64 (8 * n) else max 32 (8 * n)
def loadValue (v : View) (n : Nat) (sx : Bool) (bs : List Byte) : Nat :=
  let x := BitVec.ofNat (8 * n) (ofBytes bs)
  if sx then (x.signExtend (loadWidth v n)).toNat else ofBytes bs

/-- An interlocked result of an I-opcode's D. -/
def giveI (s : State) (v : View) (w x : Nat) : State := applyPend s v { effNone with writes := writesDI v w x } 0

/-- A store for the queue. -/
def queued (v : View) (scratch : Bool) (addr cpol : Nat) (bs : List Byte) : StoreOp :=
  { who := v.who, scratch := scratch, addr := addr, bytes := bs, red := none, scope := scope v, ord := ord v, cpol := cpol }

/-- The store queue of the executor's core has room, and an entry enters it (R287). -/
def roomy (v : View) : Prop := (v.g.stq.filter fun e => e.spreadIx == spreadIx v.g v.who).length < 64
def enter (s : State) (v : View) (ops : List StoreOp) : State :=
  modGroup s v.g.gid fun g => { g with stq := g.stq ++ [{ spreadIx := spreadIx v.g v.who, ops := ops }] }

/-- The scratch offset of LDS, STS, ARMW and WAITW, and the check of its banks (R284, R285). -/
def offset (v : View) : Nat := (BitVec.ofNat 32 (readAI v 64) + v.f.w2).toNat
def inScratch (g : Group) (o n : Nat) : Prop :=
  o + n ≤ g.modes.length * 98304 ∧ g.modes.getD (o / 98304) .scratch = .scratch

/-- The bytes of scratch that an executor reads with no store of its own queued. -/
def scratchBytes (g : Group) (ix o n : Nat) : List Byte := sgets g.scratch (ix * 2 ^ 32 + o) n

/-- The executor's own stores have all left the queue. -/
def drained (s : State) (v : View) : Prop := ownOps (past s v) v = []

/-- A narrow access performs in the core store, any other at the home slice (R305). -/
def narrowAccess (cpol sc o : Nat) : Prop := cpol = 0 ∧ (o = 0 ∨ sc ≤ 1)

/-- A byte of main memory once a core's dirty copy of it has been written back; a copy that a wider write has overtaken is
discarded (R305, R317). -/
def homeByte (s : State) (core a : Nat) : Byte :=
  let d := sget s.dirty (copyKey core a)
  if d ≠ 0 ∧ d.getLsbD 9 = false then d.setWidth 8 else sget s.mem a

/-- An address lies in the aligned 16-byte units that hold n bytes at `at_` (R281). -/
def inUnitsOf (at_ n a : Nat) : Prop := at_ / 16 ≤ a / 16 ∧ a / 16 ≤ (at_ + n - 1) / 16

/-- A store of n bytes of a core meets no dirty write of other bytes: the one that it would meet goes to its home slice first. Its parts
are of at most 16 bytes (R281, R305). -/
def undisturbed (s : State) (core at_ n : Nat) : Prop :=
  n ∈ [1, 2, 4, 8, 16, 32, 64] ∧ at_ % n = 0 ∧ ∀ i, 16 * i < n → ∀ e ∈ s.dirty, e.1 / 2 ^ 52 = core →
    extentMeets (at_ + 16 * i) (min n 16) e = true → extentOf e = (at_ + 16 * i, min n 16)

/-- A byte that a write of `bs` at `at_` leaves. -/
def overlaid (at_ : Nat) (bs : List Byte) (old : Nat → Byte) (a : Nat) : Byte :=
  if at_ ≤ a ∧ a < at_ + bs.length then bs.getD (a - at_) 0 else old a

end Sys2Proof.Rules

/-! ### Memory -/

/-- R278-R280, R289-R292: an aligned load that meets main memory gives its bytes to its register group; LD and LDE extend
them, LDU fills its block of registers; a misaligned one traps MISALIGN; a check that fails traps with its cause. Element
k of an expand-load row lies k elements above the base of its first lane. -/
def Clauses.Loads : Prop :=
  (∀ (f : Fields) (s : State) (v : View), Solo s f v →
    let va := address v
    (¬ alignedTo va (size v) → ∀ i ∈ [Instr.ld f, .lde f], Traps i f s v causeMisalign va (subPred v)) ∧
    (¬ alignedTo va (blockSize v) → Traps (.ldu f) f s v causeMisalign va (subPred v)) ∧
    (alignedTo va (size v) → ∀ leaf pa u, Reaches s v va .read (size v) leaf pa u → redOverlaps (ownOps u v) pa (size v) = false →
      let r := readMain u v leaf va pa (size v) (extent v) (ord v)
      exec (.ld f) s = .next (issued s v fun _ =>
        giveI r.2 v (loadWidth v (size v)) (loadValue v (size v) (subBit v 6) r.1)) ∧
      exec (.lde f) s = .next (issued s v fun _ =>
        giveI r.2 v (loadWidth v (size v)) (loadValue v (size v) false r.1))) ∧
    (alignedTo va (blockSize v) → ∀ leaf pa u, Reaches s v va .read (blockSize v) leaf pa u →
      redOverlaps (ownOps u v) pa (blockSize v) = false →
      let r := readMain u v leaf va pa (blockSize v) (extent v) (ord v)
      exec (.ldu f) s = .next (issued s v fun _ => giveI r.2 v (8 * blockSize v) (ofBytes r.1))) ∧
    (alignedTo va (size v) → ∀ cause info u, resolve (past s v) v va .read (size v) = (.trap cause info, u) →
      exec (.ld f) s = .next (issued s v fun _ =>
        takeTrap (modThread u (vid v) fun t => { t with pc := v.t.pc }) (vid v) (trapAt v cause va info)))) ∧
  (∀ (v : View) (row : List View) (n k : Nat),
    elemVa (v :: row) n k = (address v >>> 64).setWidth 8 ++ ((address v).setWidth 64 + BitVec.ofNat 64 (n * k)))

/-- R305, R287: what a load of a plain page reads: in the core store the core's own view of each byte, at the home slice
the bytes there once the core's own dirty bytes have been written back; the executor's own queued stores lie over it. A
narrow load leaves memory and every dirty byte as they were. -/
def Clauses.LoadedBytes : Prop := ∀ (s : State) (v : View) (leaf : Leaf) (va : BitVec 72) (pa n sc o : Nat),
  leafStow leaf.w0 = false → ownOps s v = [] →
  let r := readMain s v leaf va pa n sc o
  (narrowAccess (leafCpol leaf.w0) sc o →
    r.1 = (List.range n).map (fun i => coreByte s (coreOf v.g v.who) (pa + i)) ∧ r.2 = { s with clean := r.2.clean }) ∧
  (¬ narrowAccess (leafCpol leaf.w0) sc o → swf s.mem = true → swf s.dirty = true → pa + n ≤ mainTop →
    ∀ i < n, r.1.getD i 0 =
      homeByte s (coreOf v.g v.who) (pa + i))

/-- R287, R289, R290, R293: a store that passes its checks enters the queue of its group's core as one entry with its
address and bytes, and changes no byte of memory; a full queue stalls the issue; a misaligned one traps. -/
def Clauses.Stores : Prop := ∀ (f : Fields) (s : State) (v : View), Solo s f v → inCap v.t = false →
  let va := address v
  let data := toBytes (size v) (readDI v (8 * size v))
  (roomy v → ¬ alignedTo va (size v) → ∀ i ∈ [Instr.st f, .stc f], Traps i f s v causeMisalign va (0x100 + subPred v)) ∧
  (¬ roomy v → ∀ i ∈ [Instr.st f, .sts f, .stu f, .stc f], exec i s = .next (issued s v fun u => stallAt u v .storeQueue)) ∧
  (roomy v → alignedTo va (size v) → ∀ leaf pa u, Reaches s v va .write (size v) leaf pa u →
    let op := queued v false pa (leafCpol leaf.w0) data
    exec (.st f) s = .next (issued s v fun _ => enter u v [op]) ∧
    (v.who = .pilot → exec (.stc f) s = .next (issued s v fun _ => enter u v [op])) ∧
    ((∃ k, v.who = .strand k) → v.t.stcres = 0 → exec (.stc f) s = .next (issued s v fun _ =>
      enter (modThread u (vid v) fun t => { t with stcres := 0 }) v [op]))) ∧
  (roomy v → alignedTo va (blockSize v) → ∀ leaf pa u, Reaches s v va .write (blockSize v) leaf pa u →
    exec (.stu f) s = .next (issued s v fun _ => enter u v
      [queued v false pa (leafCpol leaf.w0) (toBytes (blockSize v) (readDI v (8 * blockSize v)))])) ∧
  (roomy v → offset v % size v = 0 → inScratch v.g (offset v) (size v) →
    exec (.sts f) s = .next (issued s v fun u => enter u v [queued v true (offset v) 0 data]))

/-- R287, R305, R281, R317: the oldest entry of a core's queue leaves; a narrow store is then seen by its own core and by no
other, and main memory is unchanged where the store meets no dirty write of other bytes; a wide one stands at the home slice, where the core's own dirty bytes of its 16-byte units
precede it; every other byte is as it was. -/
def Clauses.StoresPerformed : Prop := ∀ (s : State) (gid ix : Nat) (g : Group) (o : StoreOp) (rest : List StoreEntry),
  getGroup s gid = some g → g.stq = { spreadIx := ix, ops := [o] } :: rest → o.red = none →
  swf s.mem = true → swf s.dirty = true → swf s.clean = true → swf g.scratch = true →
  ∃ t, exec (.storeQueueDepart gid ix) s = .next t ∧
    (∃ h, getGroup t gid = some h ∧ h.stq = rest ∧
      ∀ a, sget h.scratch a = if o.scratch then overlaid (ix * 2 ^ 32 + o.addr) o.bytes (sget g.scratch) a else sget g.scratch a) ∧
    (o.scratch = true → t.mem = s.mem ∧ t.dirty = s.dirty ∧ t.clean = s.clean) ∧
    let sc := scopeFor g o.scope
    (o.scratch = false → o.addr + o.bytes.length ≤ mainTop → narrowAccess o.cpol sc o.ord → ¬ (o.ord = 2 ∧ 2 ≤ sc) →
      undisturbed s (g.cores.getD ix 0) o.addr o.bytes.length →
      t.mem = s.mem ∧ ∀ core a, a < 2 ^ 52 → coreByte t core a =
        if core = g.cores.getD ix 0 then overlaid o.addr o.bytes (coreByte s core) a else coreByte s core a) ∧
    (o.scratch = false → o.addr + o.bytes.length ≤ mainTop → ¬ narrowAccess o.cpol sc o.ord → ¬ (o.ord = 2 ∧ 2 ≤ sc) →
      ∀ a < mainTop, (inUnitsOf o.addr o.bytes.length a → sget t.mem a = overlaid o.addr o.bytes (homeByte s (g.cores.getD ix 0)) a) ∧
        (¬ inUnitsOf o.addr o.bytes.length a → sget t.mem a = sget s.mem a))

/-- R284, R285, R289: scratch loads, and the traps of scratch accesses. -/
def Obligations.ScratchAccesses : Prop := ∀ (f : Fields) (s : State) (v : View), Solo s f v →
  let va : BitVec 72 := BitVec.ofNat 72 (offset v)
  (offset v % size v ≠ 0 → Traps (.lds f) f s v causeMisalign va (subPred v)) ∧
  (offset v % size v = 0 → v.g.modes.length * 98304 < offset v + size v → Traps (.lds f) f s v causeBankmode va 1) ∧
  (offset v % size v = 0 → offset v + size v ≤ v.g.modes.length * 98304 →
    (v.g.modes.getD (offset v / 98304) .scratch = .fifo → Traps (.lds f) f s v causeBankmode va 2) ∧
    (v.g.modes.getD (offset v / 98304) .scratch = .cache → Traps (.lds f) f s v causeBankmode va 3)) ∧
  (offset v % size v = 0 → inScratch v.g (offset v) (size v) → drained s v →
    exec (.lds f) s = .next (issued s v fun u => giveI u v (loadWidth v (size v))
      (loadValue v (size v) (subBit v 6) (scratchBytes v.g (spreadIx v.g v.who) (offset v) (size v)))))

/-- R294, R295, R305, R268, R273, R303: prefetch and flush change no byte that an agent reads; a queued walk is served in
order; a core's dirty bytes of a line reach the home slice; the host's writes stand there. A prefetch acts on the translation
that its core holds, or asks for a walk, for which it waits while the queue of its die is full. -/
def Clauses.PrefetchAndWriteBack : Prop :=
  (∀ (f : Fields) (s : State) (v : View), Solo s f v →
    let core := coreOf v.g v.who
    let use : WalkUse := { core := core, ctx := v.g.ctx, va := address v, size := size v, l2 := subBit v 6 }
    let legal : Prop := (address v >>> 64).toNat < 0xF0 ∧ alignedTo (address v) (size v)
    let waiting := (s.walkQ.filter fun q => q.die == dieOf core).length
    (¬ legal → exec (.pref f) s = .next (issued s v id)) ∧
    (legal → ∀ leaf, tlbFind s core v.g.ctx (address v) = some leaf →
      exec (.pref f) s = .next (issued s v fun u => prefetch u use leaf)) ∧
    (legal → tlbFind s core v.g.ctx (address v) = none → waiting < 512 →
      exec (.pref f) s = .next (issued s v fun u => queueWalk u use)) ∧
    (legal → tlbFind s core v.g.ctx (address v) = none → 512 ≤ waiting →
      exec (.pref f) s = .next (issued s v fun u => stallAt u v .walkQueue))) ∧
  (∀ (s : State) (u : WalkUse) (leaf : Leaf), prefetch s u leaf =
    { s with clean := (prefetch s u leaf).clean, contexts := (prefetch s u leaf).contexts,
             sessions := (prefetch s u leaf).sessions, funcs := (prefetch s u leaf).funcs, units := (prefetch s u leaf).units,
             parts := (prefetch s u leaf).parts }) ∧
  (∀ (s : State) (u : WalkUse), queueWalk s u = { s with walkQ := (queueWalk s u).walkQ } ∧
    ∃ q ∈ (queueWalk s u).walkQ, q.die = dieOf u.core ∧ u ∈ q.uses) ∧
  (∀ (f : Fields) (s : State) (v : View), Solo s f v → drained s v →
    (scope v ≤ 1 ∨ 0xF0 ≤ (address v >>> 64).toNat ∨ ¬ alignedTo (address v) (size v) → exec (.cflush f) s = .next (issued s v id)) ∧
    (2 ≤ scope v → (address v >>> 64).toNat < 0xF0 → alignedTo (address v) (size v) → ∀ leaf u,
      translate (past s v) (some (coreOf v.g v.who)) v.g.ctx (address v) = (.leaf leaf, u) →
      (leaf.w0.getLsbD 8 = true ∨ leaf.w0.getLsbD 3 = false → exec (.cflush f) s = .next (issued s v fun _ => u)) ∧
      (leaf.w0.getLsbD 8 = false → leaf.w0.getLsbD 3 = true → leafStow leaf.w0 = false →
        let pa := leaf.pa + (address v).toNat % 2 ^ leaf.bits
        let line (a : Nat) : Bool := decide (pa / 128 ≤ a / 128 ∧ a / 128 ≤ (pa + size v - 1) / 128)
        exec (.cflush f) s = .next (issued s v fun _ =>
          let w := writeBack u (coreOf v.g v.who) line
          if subBit v 6 then { w with clean := skeep w.clean fun k => !(k / 2 ^ 52 == coreOf v.g v.who && line (k % 2 ^ 52)) } else w)))) ∧
  (∀ (s : State) (die : Nat) (before rest : List WalkReq) (q : WalkReq), s.walkQ = before ++ q :: rest →
    (∀ x ∈ before, x.die ≠ die) → q.die = die →
    exec (.pageWalk die) s = .next (readyWalks (q.uses.foldl (fun t u => match walk t u.ctx u.va with
      | .leaf l => prefetch (tlbFill t u.core u.ctx u.va l) u l
      | _ => t) { s with walkQ := before ++ rest }) die)) ∧
  (∀ (s : State) (core line : Nat), swf s.mem = true → swf s.dirty = true → ∃ t, exec (.cacheWriteBack core line) s = .next t ∧
    (∀ a < mainTop, sget t.mem a = if a / 128 = line then homeByte s core a else sget s.mem a) ∧
    ∀ c a, a < 2 ^ 52 → sget t.dirty (copyKey c a) = if c = core ∧ a / 128 = line then 0 else sget s.dirty (copyKey c a)) ∧
  (∀ (s : State) (pa : Nat) (bs : List Byte), pa + bs.length ≤ mainTop → swf s.mem = true →
    ∃ t, exec (.hostMemoryWrite pa bs) s = .next t ∧ ∀ a, sget t.mem a = overlaid pa bs (sget s.mem) a) ∧
  (∀ (s : State) (ctx : Nat) (va : BitVec 72) (leaf : Leaf) (c : Context) (tile : List Byte), walk s ctx va = .leaf leaf →
    leafStow leaf.w0 = true → getCtx s ctx = some c → c.decoded.find? (fun d => d.va == tileVa va) = none →
    decodeTile s c.area ((leaf.w1 >>> 8).setWidth 8).toNat (indexBlock leaf.w0) (tileIndex leaf va) = .ok tile →
    ∃ t, exec (.stowDecode ctx va) s = .next t ∧ t.mem = s.mem ∧
      ∃ d, getCtx t ctx = some d ∧ d.decoded = c.decoded ++
        [{ va := tileVa va, slice := homeSlice s (indexBlock leaf.w0), span := leaf.w0.getLsbD 2, tile := tile }])

namespace Sys2Proof.Rules

/-- What an atomic leaves in an n-bit word m under operand x (R297). -/
def atomicNew (op n : Nat) (b6 : Bool) (m x : BitVec n) : BitVec n :=
  if op = 1 then m + x
  else if op = 2 then (if (if b6 then x.slt m else x.ult m) then x else m)
  else if op = 3 then (if (if b6 then m.slt x else m.ult x) then x else m)
  else if op = 4 then m &&& x else if op = 5 then m ||| x else if op = 6 then m ^^^ x else if op = 7 then x
  else if op = 8 then (if x.toNat ≤ m.toNat then 0 else m + 1)
  else if m = 0 ∨ x.toNat < m.toNat then x else m - 1

/-- The old value of an atomic reaches D; a REPLAY kernel's path signature takes it (R297, R486). -/
def giveOld (s : State) (v : View) (old : Nat) : State :=
  giveI (if replayKernel s v.g then pathStep s v old else s) v (loadWidth v (size v)) old

/-- The operand of an atomic: a bit pattern; an inline immediate of a floating operation is converted (R33, R297). -/
def atomicOperand (v : View) : Nat :=
  if 10 ≤ atop v then specVal v (some v.t) v.f.b (8 * size v) (inlF (atomFmt (8 * size v) (subBit v 6))) else readBI v (8 * size v)

end Sys2Proof.Rules

/-- R297: the new value of each atomic operation on integers, at its width. -/
def Clauses.AtomicOperations : Prop := ∀ (op n : Nat) (b6 : Bool) (m x : BitVec n), 1 ≤ op → op ≤ 9 → 1 < n →
  atomStep op n b6 m.toNat x.toNat = (atomicNew op n b6 m x).toNat

/-- R298, R96: lanes of one gang at one address act one at a time in lane order, each receiving the value before its own
step; a floating sum adds the lanes' left fold once, and rebuilds the old values from the prefix sums. -/
def Clauses.AtomicsCombine : Prop :=
  (∀ (op n : Nat) (b6 : Bool) (xs : List Nat) (m : Nat), op ≠ 10 →
    (atomSet op n b6 xs m).1 = xs.foldl (atomStep op n b6) m ∧ (atomSet op n b6 xs m).2.length = xs.length ∧
    ∀ i < xs.length, (atomSet op n b6 xs m).2[i]? = some ((xs.take i).foldl (atomStep op n b6) m)) ∧
  (∀ (n : Nat) (b6 : Bool) (x : Nat) (xs : List Nat) (m : Nat),
    let add := atomFadd (atomFmt n b6)
    (atomSet 10 n b6 (x :: xs) m).1 = add m (xs.foldl add x) ∧
    (atomSet 10 n b6 (x :: xs) m).2 = m :: (List.range xs.length).map fun i => add m ((xs.take i).foldl add x)) ∧
  (∀ (xs : List (Nat × Nat)) (m : Nat),
    let step (m : Nat) (x : Nat × Nat) : Nat := if m = x.1 then x.2 else m
    (casSet xs m).1 = xs.foldl step m ∧ ∀ i < xs.length, (casSet xs m).2[i]? = some ((xs.take i).foldl step m))

/-- R296, R297, R287: a read-modify-write that meets main memory performs at its point of performance and gives the old
value; CAS and CAS2 write only where the expected value stands; RED leaves through the store queue, whose full state stalls it;
a misaligned one traps; ATOM, CAS and CAS2 wait for the executor's queued stores. -/
def Clauses.ReadModifyWrites : Prop := ∀ (f : Fields) (s : State) (v : View), Solo s f v →
  let va := address v
  let unit := 4 * coreOf v.g v.who
  let n := size v
  (¬ alignedTo va n → ∀ i ∈ [Instr.atom f, .cas f, .cas2 f], Traps i f s v causeMisalign va (0x200 + subPred v)) ∧
  (alignedTo va n → ¬ drained s v → ∀ i ∈ [Instr.atom f, .cas f, .cas2 f],
    exec i s = .next (issued s v fun u => stallAt u v .storeQueue)) ∧
  (alignedTo va n → drained s v → ∀ leaf pa u, Reaches s v va .rmw n leaf pa u →
    let at_ (put : Bool) (h : Nat → Nat) := rmwAt u (coreOf v.g v.who) unit (leafCpol leaf.w0) (extent v) (ord v) pa n put fun m => (h m, [m])
    (exec (.atom f) s = .next (issued s v fun _ =>
      let r := at_ true fun m => (atomSet (atop v) (8 * n) (subBit v 6) [atomicOperand v] m).1
      giveOld r.2 v (r.1.headD 0))) ∧
    ∀ i ∈ [Instr.cas f, .cas2 f], exec i s = .next (issued s v fun _ =>
      let r := at_ false fun m => if m = readBI v (8 * n) then readDI v (8 * n) else m
      giveOld r.2 v (r.1.headD 0))) ∧
  (¬ alignedTo va n → roomy v → Traps (.red f) f s v causeMisalign va (0x200 + subPred v)) ∧
  (¬ roomy v → exec (.red f) s = .next (issued s v fun u => stallAt u v .storeQueue)) ∧
  (alignedTo va n → roomy v → ∀ leaf pa u, Reaches s v va .rmw n leaf pa u →
    exec (.red f) s = .next (issued s v fun _ => enter u v
      [{ queued v false pa (leafCpol leaf.w0) (toBytes n 0) with
         red := some (BitVec.ofNat 5 (atop v), subBit v 6, [BitVec.ofNat 64 (atomicOperand v)]) }]))

/-- R296, R305: a read-modify-write in the core store that meets no dirty write of other bytes changes the core's own view of its bytes
and nothing else; at the
home slice it changes those bytes of main memory and no other, where the core held none of their 16-byte units dirty. -/
def Clauses.ReadModifyWritePlaces : Prop := ∀ (s : State) (core unit cpol sc o pa n : Nat) (h : Nat → Nat),
  swf s.mem = true → swf s.dirty = true → swf s.clean = true → pa + n ≤ mainTop → ¬ (3 ≤ o ∧ 2 ≤ sc) →
  let r := rmwAt s core unit cpol sc o pa n true fun m => (h m, [m])
  (cpol = 0 → sc ≤ 1 → undisturbed s core pa n →
    let old := ofBytes ((List.range n).map fun i => coreByte s core (pa + i))
    r.1 = [old] ∧ r.2.mem = s.mem ∧
    ∀ c a, a < 2 ^ 52 → coreByte r.2 c a = if c = core then overlaid pa (toBytes n (h old)) (coreByte s c) a else coreByte s c a) ∧
  (¬ (cpol = 0 ∧ sc ≤ 1) → (∀ a, inUnitsOf pa n a → sget s.dirty (copyKey core a) = 0) →
    r.1 = [ofBytes (memGet s pa n)] ∧
    ∀ a, sget r.2.mem a = overlaid pa (toBytes n (h (ofBytes (memGet s pa n)))) (sget s.mem) a)

/-- R299-R301: WAITA gives a value that meets its condition, or parks, watched in the core store where its access performs there; a
wake or a reread makes it try again. ARMW arms an
arrival word and gives its generation, WAITW parks while the generation stands, and then acquires; an arrival counts its bytes and steps the
generation once for each target reached. -/
def Obligations.Waits : Prop :=
  (∀ (f : Fields) (s : State) (v : View), Solo s f v → drained s v →
    let va := address v
    let n := size v
    let met (m : Nat) : Prop :=
      if topCode v / 2 = 0 then m = readBI v (8 * n) else if topCode v / 2 = 1 then m ≠ readBI v (8 * n)
      else if topCode v / 2 = 2 then readBI v (8 * n) ≤ m
      else (BitVec.ofNat (8 * n) (readBI v (8 * n))).toInt ≤ (BitVec.ofNat (8 * n) m).toInt
    (¬ alignedTo va n → Traps (.waita f) f s v causeMisalign va (subPred v)) ∧
    (alignedTo va n → ∀ leaf pa u, Reaches s v va .read n leaf pa u → redOverlaps (ownOps u v) pa n = false →
      let r := readMain u v leaf va pa n (extent v) (ord v)
      (met (ofBytes r.1) → exec (.waita f) s = .next (issued s v fun _ => giveI r.2 v (loadWidth v n) (ofBytes r.1))) ∧
      (¬ met (ofBytes r.1) → ∃ seen, (seen = .core ↔ leafCpol leaf.w0 = 0 ∧ extent v ≤ 1) ∧ Answers (.waita f) s (issued s v fun _ => modThread r.2 (vid v) fun t =>
        { t with pc := v.t.pc, run := .parked (.waita va pa seen), fixed := endFixed t.fixed, since := now s }))) ∧
    (offset v % 8 = 0 → inScratch v.g (offset v) 8 →
      let w := BitVec.ofNat 64 (ofBytes (scratchBytes v.g (spreadIx v.g v.who) (offset v) 8))
      exec (.armw f) s = .next (issued s v fun u =>
        giveI (scratchWrite u (4 * coreOf v.g v.who) v.g.gid (spreadIx v.g v.who) (offset v)
          (toBytes 8 ((w >>> 48).setWidth 16 ++ (0 : BitVec 24) ++ BitVec.ofNat 24 (readBI v 32)).toNat)) v
          (if v.who = .pilot then 64 else 32) (w >>> 48).toNat) ∧
      ((w >>> 48).toNat ≠ readBI v 32 % 2 ^ 16 → exec (.waitw f) s = .next (issued s v fun u =>
        giveI (dropClean u (coreOf v.g v.who)) v 64 w.toNat)) ∧
      ((w >>> 48).toNat = readBI v 32 % 2 ^ 16 → Answers (.waitw f) s (issued s v fun u => modThread u (vid v) fun t =>
        { t with pc := v.t.pc, run := .parked (.waitw (offset v)), fixed := endFixed t.fixed, since := now s })))) ∧
  (∀ (s : State) (id : ThreadId) (g : Group) (t : Thread) (va : BitVec 72) (pa : Nat) (seen : Watch),
    getGroup s id.gid = some g → getThread g id.who = some t → t.run = .parked (.waita va pa seen) →
    ∀ i ∈ [Instr.waitaWake id, .waitaReread id], ∃ u, exec i s = .next u ∧ u = { s with groups := u.groups } ∧
      ∃ h, getGroup u id.gid = some h ∧ getThread h id.who = some { t with run := .ready }) ∧
  (∀ (s : State) (gid off n : Nat) (g : Group), getGroup s gid = some g → inScratch g off 8 → off % 8 = 0 →
    exec (.arrivalWordStep gid off n) s = .next (scratchWrite s (unitEngine (g.cores.getD 0 0) .copy) gid 0 off
      (toBytes 8 (arrivalStep (BitVec.ofNat 64 (ofBytes (scratchBytes g 0 off 8))) n).toNat))) ∧
  (∀ (w : W64) (n : Nat),
    let gen := (w >>> 48).toNat
    let count := ((w >>> 24).setWidth 24).toNat
    let target := (w.setWidth 24).toNat
    let x := arrivalStep w n
    (x.setWidth 24).toNat = target ∧
    (target = 0 → (x >>> 48).toNat = gen ∧ ((x >>> 24).setWidth 24).toNat = min (count + n) 0xFFFFFF) ∧
    (target ≠ 0 → ((x >>> 24).setWidth 24).toNat = (count + n) % target ∧ (x >>> 48).toNat = (gen + (count + n) / target) % 65536))

/-- R286, R314, R315, R276, R277: bank switches and their refusals; fences wait for the executor's stores, write back what
a release orders and drop what an acquire must not see; TLBINV drops the entries, the queued walks and the decoded tiles
it names, and has outstanding faults retried. -/
def Clauses.BanksFencesInvalidation : Prop := ∀ (f : Fields) (s : State) (v : View), Solo s f v →
  let core := coreOf v.g v.who
  let banks := (List.range v.g.modes.length).filter (readB v 32).testBit
  let mode := if v.f.sub.setWidth 2 = (0 : BitVec 2) then BankMode.cache else if v.f.sub.setWidth 2 = (1 : BitVec 2) then .scratch else .fifo
  let bankctl := match (kernelOf v).bind (·.desc) with | some d => d.kflags.getLsbD 3 | none => false
  let bound : Prop := mode ≠ .fifo ∧ ∃ i ∈ banks, v.g.modes.getD i .scratch = .fifo ∧ chanBank v.g i = true
  let busy := s.engineQ.any fun o => o.gid == v.g.gid && o.started && banks.any (opBank (past s v) v.g o)
  let late := v.g.stq.any fun e => e.ops.any fun o => o.scratch && banks.contains (o.addr / 98304)
  (bankctl = false → Traps (.banksw f) f s v causeBankmode 0 4) ∧
  (bankctl = true → 2 ^ v.g.modes.length ≤ readB v 32 → Traps (.banksw f) f s v causeBankmode 0 5) ∧
  (bankctl = true → readB v 32 < 2 ^ v.g.modes.length → bound → exec (.banksw f) s = .next (issued s v fun u => give u v 64 1)) ∧
  (bankctl = true → readB v 32 < 2 ^ v.g.modes.length → ¬ bound → (busy = true ∨ late = true ∨ ¬ drained s v) →
    exec (.banksw f) s = .next (issued s v fun u => stallAt u v (.bankSwitch banks))) ∧
  (bankctl = true → readB v 32 < 2 ^ v.g.modes.length → ¬ bound → busy = false → late = false → drained s v →
    exec (.banksw f) s = .next (issued s v fun u =>
      let w := if ∃ i ∈ banks, v.g.modes.getD i .scratch = .cache
        then v.g.cores.foldl (fun u c => writeBack u c fun _ => true) u else u
      let r := wakeTagOf w v.g.gid (4 * core) fun g _ t =>
        banks.any fun i => g.modes.getD i .scratch == .scratch && mode != .scratch && awaitsBank i t
      give (modGroup r.2 v.g.gid fun g => banks.foldl (fun g i => switchBank g i mode r.1) g) v 64 0)) ∧
  (ord v ≠ 0 → ¬ drained s v → exec (.fence f) s = .next (issued s v fun u => stallAt u v (.fence (nextPc v)))) ∧
  ((ord v = 0 ∨ drained s v) → exec (.fence f) s = .next (issued s v fun u =>
    let w := if ord v ≠ 0 ∧ 2 ≤ extent v then writeBack u core fun _ => true else u
    if ord v ≠ 1 ∧ 2 ≤ extent v then dropClean w core else w)) ∧
  let reach := sget v.g.h ((v.f.sub >>> 2).setWidth 3).toNat
  let va := reach ++ BitVec.ofNat 64 (readA v 64)
  let page (base : BitVec 72) (bits : Nat) : Bool := base.toNat / 2 ^ bits == va.toNat / 2 ^ bits
  let out (u : State) : List W32 := (u.remotes.filter fun r => r.ctx == v.g.ctx).map (·.tag)
  let acts (i : Instr) (hit : BitVec 72 → Nat → Bool) : Prop :=
    (¬ drained s v → exec i s = .next (issued s v fun u => stallAt u v .storeQueue)) ∧
    (drained s v → exec i s = .next (issued s v fun u =>
      let w := invalidate u v hit
      if out w = [] then retryAll w v.g.ctx else stallAt w v (.tlbinv (out w) (nextPc v))))
  acts (.tlbinvCtx f) (fun _ _ => true) ∧
  (¬ reachPasses v reach → ∀ i ∈ [Instr.tlbinvPage f, .tlbinvRange f],
    exec i s = .next (issued s v fun u => signalTrap u v causeReach va reach.toNat)) ∧
  (reachPasses v reach → acts (.tlbinvPage f) page ∧
    (readB v 32 ≠ 0 → acts (.tlbinvRange f) (rangeHits va (readB v 32))) ∧
    (readB v 32 = 0 → exec (.tlbinvRange f) s = .next (issued s v id)))

/-- R277: an invalidation drops the entries whose pages it names, the queued walks for such pages and the tiles decoded from
them, and leaves the others, once the core's dirty bytes have been written back. -/
def Clauses.InvalidationDrops : Prop := ∀ (s : State) (v : View) (c : Context) (hit : BitVec 72 → Nat → Bool),
  getCtx s v.g.ctx = some c →
  let ctx := v.g.ctx
  let t := dropCovered s ctx hit
  let used (u : WalkUse) : Prop := u.ctx = ctx ∧ hit (granuleOf u.va) 16 = true
  (∀ e, e ∈ t.tlb ↔ e ∈ s.tlb ∧ ¬ (e.ctx = ctx ∧ hit (pageBase e) (pageBits e) = true)) ∧
  (∀ q ∈ t.walkQ, q.uses ≠ [] ∧ ∀ u ∈ q.uses, ¬ used u) ∧
  (∀ q ∈ s.walkQ, ∀ u ∈ q.uses, ¬ used u → ∃ x ∈ t.walkQ, x.die = q.die ∧ x.entry = q.entry ∧ u ∈ x.uses) ∧
  (∃ d, getCtx t ctx = some d ∧ ∀ x, x ∈ d.decoded ↔ x ∈ c.decoded ∧
    (if x.span then hit (BitVec.ofNat 72 (x.va.toNat / 2 ^ 21 * 2 ^ 21)) 21 else hit (granuleOf x.va) 16) = false) ∧
  t.mem = s.mem ∧ t.groups = s.groups ∧
  ((∀ g ∈ s.groups, g.stq = []) →
    invalidate s v hit = dropCovered (writeBack s (coreOf v.g v.who) fun _ => true) ctx hit)

namespace Sys2Proof.Rules

/-- What an executor waits for: registers that a result writes, and that no other result on its way writes any more (R46). -/
def waitedFor (t : Thread) (p : Pend) (left : List Pend) : Bool :=
  match t.run with
  | .stalled (.result _ on) =>
    (on.isEmpty || p.dst.any fun e => on.contains e.1) && !(left.any fun q => q.dst.any fun e => on.contains e.1)
  | _ => false

end Sys2Proof.Rules

/-- R46, R460, R264: an interlocked result is written when it arrives, with its flags and count; what waited for it alone, its
executor or, for a result of the pilot, a strand, goes on with its cause tag; a held fault's ring entry is written once the ring has
room. -/
def Obligations.ResultDelivery : Prop :=
  (∀ (s : State) (id : ThreadId) (g : Group) (t : Thread) (p : Pend) (rest : List Pend), getGroup s id.gid = some g →
    getThread g id.who = some t → t.pend = p :: rest → (p.dst.map (·.1)).Nodup → g.wf = true →
    ((∃ k, id.who = .strand k) → ∀ n, RegId.s n ∉ p.dst.map (·.1)) →
    let woken (b : Bool) (y : Thread) : Thread := if b then { y with run := .ready, lastwake := p.cause } else y
    ∃ u, exec (.interlockedResult id) s = .next u ∧ u = { s with groups := u.groups } ∧
      (∀ n, n ≠ id.gid → getGroup u n = getGroup s n) ∧ ∃ h x, getGroup u id.gid = some h ∧ getThread h id.who = some x ∧
        (∀ r, heldReg h x r = match p.dst.lookup r with | some y => kept t r y | none => heldReg g t r) ∧
        x = woken (waitedFor t p (if id.who = .pilot then rest else rest ++ g.pilot.pend))
          { t with regs := x.regs, preds := x.preds, caps := x.caps, pend := rest, flags := t.flags ||| p.flags,
                   ovfcnt := BitVec.ofNat 32 (min (t.ovfcnt.toNat + p.ovf) 0xFFFFFFFF) } ∧
        ∀ w y, w ≠ id.who → getThread g w = some y →
          getThread h w = some (woken (id.who == .pilot && waitedFor y p (y.pend ++ rest)) y)) ∧
  (∀ (s : State) (ctx : Nat) (c : Context) (x : OutFault), getCtx s ctx = some c → c.faults.find? (fun f => !f.inRing) = some x →
    (ringRoom s ctx = true → exec (.faultEntryDelayed ctx) s = .next (writeRing s ctx x)) ∧
    (ringRoom s ctx = false → exec (.faultEntryDelayed ctx) s = .next s))

namespace Sys2Proof.Rules

/-! ### Barriers and semaphores (R323-R339) -/

/-- Objects and parties of a level (R323). -/
def objectsOf (l : Nat) : Nat := if l = 0 then 16 else if l = 2 then 64 else if l = 3 then 256 else 1024
def partiesAt (l : Nat) : Nat :=
  if l = 0 then 1 else if l = 2 then 256 else if l = 3 then 2048 else if l = 4 then 8192 else 65535

/-- A handle that names an object (R324, R325). -/
def legalHandle (h : W64) : Prop :=
  let l := (h.setWidth 3).toNat
  h >>> 48 = 0 ∧ (h >>> 14).setWidth 22 = (0 : BitVec 22) ∧ (l = 0 ∨ l = 2 ∨ l = 3 ∨ l = 4 ∨ l = 5) ∧
    ((h >>> 4).setWidth 10).toNat < objectsOf l ∧ (l ≠ 5 → (h >>> 36).setWidth 12 = (0 : BitVec 12))

/-- A configuration that BARINIT accepts at a level (R332). -/
def legalConfig (l : Nat) (c : W64) : Prop :=
  (c >>> 17).setWidth 7 = (0 : BitVec 7) ∧ 1 ≤ (c.setWidth 16).toNat ∧ (c.setWidth 16).toNat ≤ partiesAt l

/-- Handle, configuration and token of a barrier instruction. -/
def handle (v : View) : W64 := BitVec.ofNat 64 (readB v 64)
def config (v : View) : W64 := BitVec.ofNat 64 (readC v 64)
def token (v : View) : BitVec 16 := BitVec.ofNat 16 (readA v 32)

/-- The object that the executor's handle names, and the executor as one of its members. -/
def object (v : View) : BarKey := keyOf v.g v.who (handle v)
def isMe (s : State) (v : View) (m : Member) : Bool :=
  decide (m.rank = s.rank ∧ m.gid = v.g.gid ∧ m.who = v.who)

/-- The five barrier instructions, with their opcodes. -/
def barrierOps (f : Fields) : List (Nat × Instr) :=
  [(0x1C0, .barinit f), (0x1C1, .bara f), (0x1C2, .barw f), (0x1C3, .bart f), (0x1C4, .bardrop f)]

/-- The kernel of the executor's group has GRIDSYNC. -/
def hasGridsync (v : View) : Prop := ∃ k d, kernelOf v = some k ∧ k.desc = some d ∧ d.kflags.getLsbD 0 = true

/-- A barrier's result: D, and the predicate N of SUB. -/
def predN (v : View) : Nat := (v.f.sub.setWidth 3).toNat
def setN (n : Nat) (b : Bool) : List (RegId × W64) := [(.p n, if b then 1 else 0)]
def givePhase (s : State) (v : View) (x : Nat) (b : Bool) : State :=
  applyPend s v { effNone with writes := writesD v (if v.who = .pilot then 64 else 32) x ++ setN (predN v) b } 0
def giveBit (s : State) (v : View) (n : Nat) (b : Bool) : State := applyPend s v { effNone with writes := setN n b } 0

/-- A release and an acquire of a scope, which group scope is for a spread group at quad scope (R21, R319, R336). -/
def releasing (s : State) (v : View) (sc : Nat) : State :=
  if 2 ≤ scopeFor v.g sc then writeBack s (coreOf v.g v.who) fun _ => true else s
def acquiring (s : State) (v : View) (sc : Nat) : State :=
  if 2 ≤ scopeFor v.g sc then dropClean s (coreOf v.g v.who) else s

/-- The tag that an executor's unit takes for its request, and the state after it (R460). -/
def tagOf (s : State) (v : View) : BitVec 48 := (takeTag s (4 * coreOf v.g v.who)).1
def tagged (s : State) (v : View) : State := (takeTag s (4 * coreOf v.g v.who)).2

/-- The party of the executor's group in an object (R326). -/
def isMine (s : State) (v : View) (p : Party) : Bool := decide (p.rank = s.rank ∧ p.gid = v.g.gid ∧ p.lin = v.g.lin)

/-- The executor has joined an object (R326, R332). -/
def joined (s : State) (v : View) (b : Barrier) (tag : BitVec 48) : Barrier :=
  { b with
    members := b.members ++ [{ rank := s.rank, gid := v.g.gid, lin := v.g.lin, who := v.who, arrived := false, waiter := false, exited := false }]
    parties := if b.parties.any (isMine s v) then b.parties.map fun p => if isMine s v p then { p with wake := tag } else p
      else b.parties ++ [{ rank := s.rank, gid := v.g.gid, lin := v.g.lin, core := BitVec.ofNat 7 (v.g.cores.getD 0 0),
                           stamp := s.chron.ns, lphase := 0, wake := tag, desched := false }] }

/-- A new object (R332). -/
def newObject (s : State) (v : View) : Barrier :=
  { key := object v, kid := none, cfg := config v, bst := .collecting, phase := 0, wpend := 0, opened := s.chron.ns,
    members := [], parties := [], lateLogged := false, made := s.nextMade, lost := false, remoteHome := false }

/-- A registration would be the 33rd object in which the group has a party (R326, R332). -/
def partiesFull (s : State) (v : View) : Prop :=
  ∃ c, getCtx s v.g.ctx = some c ∧ 32 ≤ (c.barriers.filter fun b => b.parties.any fun p => p.rank == s.rank && p.gid == v.g.gid).length

/-- The executor's group has a party in the object. -/
def hasParty (s : State) (v : View) (b : Barrier) : Prop := b.parties.any (isMine s v) = true

/-- The object has as many parties as a phase takes, and every one has arrived with every member (R326, R327). -/
def complete (b : Barrier) : Prop :=
  b.parties.length = (b.cfg.setWidth 16).toNat ∧
  ∀ p ∈ b.parties, ∀ m ∈ b.members, m.rank = p.rank → m.gid = p.gid → m.lin = p.lin → m.arrived = true ∧ m.exited = false

/-- The executor has arrived at an object (R333). -/
def arrived (s : State) (v : View) (b : Barrier) (tag : BitVec 48) : Barrier :=
  { b with
    members := b.members.map fun m => if isMe s v m then { m with arrived := true } else m
    parties := b.parties.map fun p => if isMine s v p then { p with lphase := b.phase, wake := tag } else p }

/-- Every member of this device that an object of its group has, has the group's linear index. -/
def ownMembers (s : State) (v : View) (b : Barrier) : Prop :=
  ∀ m ∈ b.members, m.rank = s.rank → m.gid = v.g.gid → m.lin = v.g.lin

/-- A phase has passed (R334). -/
def passed (phase tok : BitVec 16) : Prop := 1 ≤ (phase - tok).toNat ∧ (phase - tok).toNat ≤ 32767

/-- The executor, registered as a waiter, has observed the phase (R328). -/
def observed (s : State) (v : View) (b : Barrier) : Barrier :=
  { b with wpend := b.wpend - 1
           bst := if b.bst = .releasing ∧ b.wpend ≤ 1 then .collecting else b.bst
           members := b.members.map fun m => if isMe s v m then { m with waiter := false } else m }

/-- The executor has been dropped from an object: its party takes the tag of the drop, or goes where it has no other member, and
PARTIES then counts it no more (R335, R491). -/
def dropped (s : State) (v : View) (b : Barrier) (tag : BitVec 48) : Barrier :=
  let members := b.members.filter fun m => !isMe s v m
  let parties := b.parties.filter fun p => members.any fun m => decide (m.rank = p.rank ∧ m.gid = p.gid ∧ m.lin = p.lin)
  { b with members := members, parties := parties.map fun p => if isMine s v p then { p with wake := tag } else p
           cfg := (b.cfg &&& ~~~0xFFFF) ||| BitVec.ofNat 64 ((b.cfg.setWidth 16).toNat - (b.parties.length - parties.length)) }

/-! ### Semaphores -/

/-- A whole packet for this device comes in at a port that works (R440-R443). -/
def Delivered (s : State) (port : Nat) (p : Packet) : Prop :=
  (∃ q, getPort s port = some q ∧ (q.lst = .up ∨ q.lst = .degraded ∨ q.lst = .replay ∨ q.lst = .draining)) ∧ p.bad = none ∧
    (p.type = .slotOnly ∨ p.drank = s.rank)

/-- What every received packet does to the port (R441, R449). -/
def landed (s : State) (port : Nat) (p : Packet) : State := (receive s port p).2

/-- Address, predicate and scope of SEMP and SEMV (R338). -/
def semAddress (v : View) : BitVec 72 := sget v.g.h (v.f.sub.setWidth 3).toNat ++ BitVec.ofNat 64 (readB v 64)
def semScope (v : View) : Nat := ((v.f.sub >>> 3).setWidth 3).toNat
def semPred (v : View) : Nat := (v.f.d.setWidth 3).toNat

/-- The semaphore record at a word of the context. -/
def semAt (s : State) (ctx pa : Nat) : Option Sem := (getCtx s ctx).bind fun c => c.sems.find? fun m => m.pa == pa

/-- The executor as a waiter. -/
def waiter (s : State) (v : View) (units : Nat) (tag : BitVec 48) : SemWaiter :=
  { rank := s.rank, t := vid v, lin := v.g.lin, core := BitVec.ofNat 7 (v.g.cores.getD 0 0), units := BitVec.ofNat 64 units,
    stamp := s.chron.ns, tag := tag }
def isWaiter (s : State) (v : View) (y : SemWaiter) : Bool := decide (y.rank = s.rank ∧ y.t = vid v)

/-- Every entry of the executor's party takes the tag of its request (R343). -/
def retagged (s : State) (v : View) (tag : BitVec 48) (l : List SemWaiter) : List SemWaiter :=
  l.map fun y => if y.rank = s.rank ∧ y.t.gid = v.g.gid then { y with tag := tag } else y

/-- SEMP parks at its instruction. -/
def semParked (s : State) (v : View) (pa : Nat) : State :=
  modThread s (vid v) fun t => { t with pc := v.t.pc, run := .parked (.semp pa), fixed := endFixed t.fixed, since := s.chron.ns }

end Sys2Proof.Rules

/-! ### Barriers and semaphores -/

/-- R324, R325, R330: a handle that names no object traps ILLOP; the grid barrier's misuses trap GRIDBAR. -/
def Clauses.BarrierHandles : Prop := ∀ (f : Fields) (s : State) (v : View), Solo s f v → ∀ e ∈ Rules.barrierOps f,
  let h := handle v
  let grid : Prop := legalHandle h ∧ h.getLsbD 3 = true
  (¬ legalHandle h → Traps e.2 f s v causeIllop 0 (e.1 * 256 + 0x0C)) ∧
  (grid → ¬ hasGridsync v → Traps e.2 f s v causeGridbar 0 1) ∧
  (grid → hasGridsync v → v.who ≠ .pilot → Traps e.2 f s v causeGridbar 0 2) ∧
  (grid → hasGridsync v → v.who = .pilot → (e.1 = 0x1C0 ∨ e.1 = 0x1C4) → Traps e.2 f s v causeGridbar 0 3) ∧
  (grid → hasGridsync v → v.who = .pilot → e.1 ≠ 0x1C0 → e.1 ≠ 0x1C4 →
    ((h.setWidth 3).toNat ≠ 4 ∨ (h >>> 4).setWidth 10 ≠ (0 : BitVec 10)) → Traps e.2 f s v causeGridbar 0 4)

/-- R332-R336: registration, arrival, wait, test and drop at an object of this device. -/
def Clauses.BarrierInstructions : Prop := ∀ (f : Fields) (s : State) (v : View), Solo s f v →
  legalHandle (handle v) → (handle v).getLsbD 3 = false →
  ((handle v).setWidth 3 = (5 : BitVec 3) → ((handle v) >>> 36).setWidth 12 = s.rank) →
  let k := object v
  let l := ((handle v).setWidth 3).toNat
  let ctx := v.g.ctx
  let w := if v.who = .pilot then 64 else 32
  let x := findBar s ctx k
  let status (n : Nat) : Prop := Answers (.barinit f) s (issued s v fun u => give u v w n)
  (¬ legalConfig l (config v) → status 2) ∧
  (legalConfig l (config v) →
    (x = none → partiesFull s v → Traps (.barinit f) f s v causeIllop 0 (0x1C0 * 256 + 0x0D)) ∧
    (x = none → ¬ partiesFull s v → Answers (.barinit f) s (issued s v fun u =>
      give (putBar { tagged u v with nextMade := s.nextMade + 1 } ctx (joined s v (newObject s v) (tagOf u v))) v w 0)) ∧
    (∀ b, x = some b → b.bst = .failed → status 4) ∧
    (∀ b, x = some b → b.bst ≠ .failed → b.cfg >>> 16 ≠ config v >>> 16 → status 2) ∧
    (∀ b, x = some b → b.bst ≠ .failed → b.cfg >>> 16 = config v >>> 16 →
      (b.members.any (isMe s v) = true → status 1) ∧
      (b.members.any (isMe s v) = false → ¬ hasParty s v b → b.parties.length = (b.cfg.setWidth 16).toNat → status 3) ∧
      (b.members.any (isMe s v) = false → ¬ hasParty s v b → b.parties.length ≠ (b.cfg.setWidth 16).toNat → partiesFull s v →
        Traps (.barinit f) f s v causeIllop 0 (0x1C0 * 256 + 0x0D)) ∧
      (b.members.any (isMe s v) = false →
        hasParty s v b ∨ (b.parties.length ≠ (b.cfg.setWidth 16).toNat ∧ ¬ partiesFull s v) →
        Answers (.barinit f) s (issued s v fun u => give (putBar (tagged u v) ctx (joined s v b (tagOf u v))) v w 1)))) ∧
  ((x = none ∨ ∃ b, x = some b ∧ b.members.any (isMe s v) = false) →
    (ownQueued (past s v) v = false → Answers (.bara f) s (issued s v fun u => givePhase u v 0xFFFFFFFF false)) ∧
    exec (.barw f) s = .next (issued s v fun u => giveBit u v (predN v) false) ∧
    exec (.bart f) s = .next (issued s v fun u => giveBit u v (predN v) false) ∧
    exec (.bardrop f) s = .next (issued s v fun u => giveBit u v (predN v) false)) ∧
  (ownQueued (past s v) v = true → exec (.bara f) s = .next (issued s v fun u => stallAt u v .storeQueue)) ∧
  (∀ b m, x = some b → b.key = k → ownMembers s v b → b.members.filter (isMe s v) = [m] →
    (ownQueued (past s v) v = false → (b.bst ≠ .collecting ∨ m.arrived = true) →
      Answers (.bara f) s (issued s v fun u => givePhase u v 0xFFFFFFFF false)) ∧
    (ownQueued (past s v) v = false → b.bst = .collecting → m.arrived = false →
      (¬ complete (arrived s v b 0) → Answers (.bara f) s (issued s v fun u =>
        givePhase (releasing (putBar (tagged u v) ctx (arrived s v b (tagOf u v))) v l) v b.phase.toNat true)) ∧
      (complete (arrived s v b 0) → Answers (.bara f) s (issued s v fun u =>
        givePhase (releasing (completeBar (putBar (tagged u v) ctx (arrived s v b (tagOf u v))) ctx
          (arrived s v b (tagOf u v)) (tagOf u v)) v l) v b.phase.toNat true))) ∧
    (passed b.phase (token v) →
      exec (.bart f) s = .next (issued s v fun u => giveBit (acquiring u v l) v (predN v) true) ∧
      (m.waiter = false → exec (.barw f) s = .next (issued s v fun u => giveBit (acquiring u v l) v (predN v) true)) ∧
      (m.waiter = true → Answers (.barw f) s (issued s v fun u =>
        giveBit (acquiring (putBar u ctx (observed s v b)) v l) v (predN v) true))) ∧
    (¬ passed b.phase (token v) →
      exec (.bart f) s = .next (issued s v fun u => giveBit u v (predN v) false) ∧
      (b.bst ≠ .collecting ∨ token v ≠ b.phase →
        exec (.barw f) s = .next (issued s v fun u => giveBit u v (predN v) false)) ∧
      (b.bst = .collecting → token v = b.phase → m.waiter = false →
        Answers (.barw f) s (issued s v fun u =>
          modThread (putBar u ctx { b with
            wpend := b.wpend + 1
            members := b.members.map fun y => if isMe s v y then { y with waiter := true } else y }) (vid v) fun t =>
          { t with pc := v.t.pc, run := .parked (.barw k), fixed := endFixed t.fixed, since := s.chron.ns }))) ∧
    (b.remoteHome = false → m.waiter = false → (b.bst = .releasing → 0 < b.wpend) →
      let d (u : State) : Barrier := dropped s v b (tagOf u v)
      (((d s).cfg.setWidth 16).toNat = 0 → Answers (.bardrop f) s (issued s v fun u =>
        giveBit (tellState (logBar (wakeBar (delBar (tagged u v) ctx k) ctx k (tagOf u v)) ctx k 0 b.phase) ctx (d u) 0
          (otherRanks s b) (tagOf u v)) v (predN v) true)) ∧
      (((d s).cfg.setWidth 16).toNat ≠ 0 → ¬ (b.bst = .collecting ∧ complete (d s)) → Answers (.bardrop f) s (issued s v fun u =>
        giveBit (putBar (tagged u v) ctx (d u)) v (predN v) true)) ∧
      (((d s).cfg.setWidth 16).toNat ≠ 0 → b.bst = .collecting → complete (d s) → Answers (.bardrop f) s (issued s v fun u =>
        giveBit (completeBar (putBar (tagged u v) ctx (d u)) ctx (d u) (tagOf u v)) v (predN v) true))))

/-- R327, R328: the completion of a phase steps PHASE, clears the arrived bits, restamps the parties, leads to RELEASING
where waiters are registered, and makes every executor that is parked on the object READY. -/
def Clauses.BarrierPhases : Prop := ∀ (s : State) (ctx : Nat) (c : Context) (b : Barrier) (tag : BitVec 48),
  getCtx s ctx = some c → (∀ p ∈ b.parties, p.rank = s.rank) →
  let t := completeBar s ctx b tag
  findBar t ctx b.key = some { b with
    phase := b.phase + 1, opened := s.chron.ns, lateLogged := false
    bst := if 0 < b.wpend then .releasing else .collecting
    members := b.members.map fun m => { m with arrived := false }
    parties := b.parties.map fun p => { p with stamp := s.chron.ns } } ∧
  (∀ k, k ≠ b.key → findBar t ctx k = findBar s ctx k) ∧
  (∀ gid who g x, getGroup s gid = some g → getThread g who = some x → ∃ h, getGroup t gid = some h ∧
    getThread h who = some (if g.ctx = ctx ∧ x.run = .parked (.barw b.key) then { x with run := .ready, lastwake := tag } else x)) ∧
  t.mem = s.mem ∧ t.contexts.length = s.contexts.length ∧ t.sentPkts = s.sentPkts

/-- R323, R329, R344, R341: a request of another device acts at the object here as BARINIT, BARA and BARDROP do, and its answer
is sent back under the request's tag (R440); what the home tells reaches the device's own copy, which goes where the object is
FREE and fails where it has FAILED; the watchdog logs a late party once for the phase and changes nothing else of the object;
the records' image is written. The words of these packets are the model's (log entry 33). -/
def Clauses.BarrierEvents : Prop :=
  (∀ (s : State) (p : BarrierPacket),
    (takesPackets s p.ctx = false → exec (.barrierPacket p) s = .next (barAnswer s p 1 0)) ∧
    (takesPackets s p.ctx = true →
      (∀ cfg full, p.ask = .register cfg full → findBar s p.ctx p.key = none → legalConfig p.key.level cfg →
        (full = true → exec (.barrierPacket p) s = .next (barAnswer s p 0 5)) ∧
        (full = false →
          ∃ t b, exec (.barrierPacket p) s = .next (barAnswer t p 0 0) ∧ Noted (putBar { s with nextMade := s.nextMade + 1 } p.ctx b) t ∧
            b.key = p.key ∧ b.cfg = cfg ∧ b.bst = .collecting ∧ b.phase = 0 ∧
            b.members = [{ rank := p.rank, gid := p.gid, lin := p.group, who := p.who, arrived := false, waiter := false,
                           exited := false }])) ∧
      (p.ask = .arrive → (findBar s p.ctx p.key = none ∨ ∃ b, findBar s p.ctx p.key = some b ∧ b.bst ≠ .collecting) →
        exec (.barrierPacket p) s = .next (barAnswer s p 0 0xFFFFFFFF)) ∧
      (p.ask = .drop → findBar s p.ctx p.key = none → exec (.barrierPacket p) s = .next (barAnswer s p 0 0)) ∧
      (∀ b, findBar s p.ctx p.key = some b → b.key = p.key →
        let ours (m : Member) : Bool := decide (m.rank = p.rank ∧ m.gid = p.gid)
        let me (m : Member) : Bool := ours m && decide (m.who = p.who)
        let party (q : Party) : Bool := decide (q.rank = p.rank ∧ q.gid = p.gid)
        let there (b : Barrier) : Barrier :=
          { b with members := b.members.map fun m => if me m then { m with arrived := true } else m
                   parties := b.parties.map fun q =>
                     if q.rank = p.rank ∧ q.gid = p.gid ∧ q.lin = p.group then { q with lphase := b.phase, wake := p.wake } else q }
        (p.ask = .arrive → b.bst = .collecting →
          (∃ m, b.members.find? me = some m ∧ m.arrived = false ∧ m.lin = p.group) →
          let t := putBar s p.ctx (there b)
          (complete (there b) → exec (.barrierPacket p) s = .next (barAnswer (completeBar t p.ctx (there b) p.wake) p 0 b.phase.toNat)) ∧
          (¬ complete (there b) → exec (.barrierPacket p) s = .next (barAnswer t p 0 b.phase.toNat))) ∧
        (p.ask = .drop → b.members.any me = true →
          exec (.barrierPacket p) s = .next (barAnswer (dropMembers s p.ctx p.key me p.wake) p 0 1)) ∧
        (∀ tok m, p.ask = .wait tok ∨ p.ask = .test tok → b.members.find? me = some m → m.waiter = false →
          (passed b.phase tok → exec (.barrierPacket p) s = .next (barAnswer s p 0 1)) ∧
          (¬ passed b.phase tok → p.ask = .test tok ∨ b.bst ≠ .collecting ∨ tok ≠ b.phase →
            exec (.barrierPacket p) s = .next (barAnswer s p 0 0)) ∧
          (¬ passed b.phase tok → p.ask = .wait tok → b.bst = .collecting → tok = b.phase →
            exec (.barrierPacket p) s = .next (barAnswer (putBar s p.ctx { b with
              wpend := b.wpend + 1, members := b.members.map fun y => if me y then { y with waiter := true } else y }) p 0 2))) ∧
        (p.ask = .exit → b.cfg.getLsbD 16 = false → exec (.barrierPacket p) s = .next (putBar s p.ctx
          { b with members := b.members.map fun m => if me m then { m with exited := true } else m })) ∧
        (p.ask = .exit → b.cfg.getLsbD 16 = true →
          exec (.barrierPacket p) s = .next (dropMembers s p.ctx p.key me p.wake)) ∧
        (p.ask = .flush → exec (.barrierPacket p) s = .next (dropMembers s p.ctx p.key ours p.wake)) ∧
        (p.ask = .fault → b.parties.any party = true → exec (.barrierPacket p) s = .next (failBar s p.ctx b)) ∧
        (p.ask = .saved → exec (.barrierPacket p) s = .next (putBar s p.ctx { b with
          parties := b.parties.map fun q => if party q then { q with desched := true, wake := p.wake } else q })) ∧
        (p.ask = .placed → exec (.barrierPacket p) s = .next (putBar s p.ctx { b with
          parties := b.parties.map fun q => if party q then { q with desched := false, wake := p.wake, core := p.core } else q })))) ∧
    (∀ st x, p.rank ≠ s.rank → p.tag ≠ postedTag → 
      let r := takeTag s (barUnit s p.key)
      barAnswer s p st x = sendPacket r.2 { pkt0 r.2 p.rank .barCtl 3 p.ctx r.1 with
      stat := BitVec.ofNat 8 st, tag := p.tag, aux := BitVec.ofNat 64 (p.key.inst * 2 ^ 36 + keyHandle p.key),
      opinfo := BitVec.ofNat 32 (2 ^ 16), payload := toBytes 8 x })) ∧
  (∀ (s : State) (port : Nat) (p : Packet) (b : Barrier), Delivered s port p →
    let u := landed s port p
    let k : BarKey := { level := 5, num := ((p.aux >>> 4).setWidth 10).toNat, inst := ((p.aux >>> 36).setWidth 12).toNat, grid := false }
    let code := ((p.opnd >>> 16).setWidth 2).toNat
    findBar s p.ctx k = some b → b.remoteHome = true →
    (code = 0 → exec (.barrierCompletionReceive port p) s = .next (wakeBar (delBar u p.ctx k) p.ctx k p.wake)) ∧
    (code = 3 → exec (.barrierCompletionReceive port p) s = .next (failBar u p.ctx b)) ∧
    (code = 1 ∨ code = 2 → exec (.barrierCompletionReceive port p) s = .next (wakeBar (putBar u p.ctx
      { b with phase := p.opnd.setWidth 16, opened := u.chron.ns }) p.ctx k p.wake))) ∧
  (∀ (s : State) (ctx : Nat) (k : BarKey) (b : Barrier) (p : Party), s.mgmt.autofix = false → findBar s ctx k = some b → b.bst ≠ .failed →
    b.cfg >>> 24 ≠ 0 → b.lateLogged = false → b.remoteHome = false → b.parties = [p] → (b.cfg.setWidth 16).toNat = 1 →
    partyArrived b p = false → b.opened.toNat + (b.cfg >>> 24).toNat ≤ s.chron.ns.toNat →
    p.stamp.toNat + (b.cfg >>> 24).toNat ≤ s.chron.ns.toNat →
    ∃ t, exec (.barrierLate ctx k) s = .next t ∧ Noted (putBar s ctx { b with lateLogged := true }) t) ∧
  (∀ (s : State) (ctx : Nat) (c : Context), getCtx s ctx = some c → (ctxReg s ctx 0x220).setWidth 24 ≠ (0 : BitVec 24) →
    bearLost s c = [] → exec (.bearingUpdate ctx) s =
      .next ((bearBytes s c).foldl (fun u e => memPut u e.1 e.2) s))

/-- R338, R339: SEMP takes its units where the word holds them and no other waiter is ahead, else answers false under TRY,
else queues once at the tail and parks; SEMV adds its units and saturates; both act on 8 aligned bytes at the home slice;
a write to the word makes a parked waiter try again. -/
def Obligations.Semaphores : Prop :=
  (∀ (f : Fields) (s : State) (v : View), Solo s f v →
    let va := semAddress v
    let n := readC v 64
    let core := coreOf v.g v.who
    (ownQueued (past s v) v = true → ∀ i ∈ [Instr.semp f, .semv f], exec i s = .next (issued s v fun u => stallAt u v .storeQueue)) ∧
    (ownQueued (past s v) v = false → ¬ alignedTo va 8 → Traps (.semp f) f s v causeMisalign va 0x203 ∧
      exec (.semv f) s = .next (issued s v fun u => signalTrap (releasing u v (semScope v)) v causeMisalign va 0x203)) ∧
    (ownQueued (past s v) v = false → alignedTo va 8 → ∀ leaf pa u, Reaches s v va .rmw 8 leaf pa u →
      let r := wideRead (tagged u v) core pa 8
      let m := ofBytes r.1
      let me := waiter s v n (tagOf u v)
      let taken (w : State) : State := homeWrite w (some core) pa (toBytes 8 (m - n)) (tagOf u v)
      let done (w : State) : State := giveBit (acquiring (taken w) v (semScope v)) v (semPred v) true
      let ahead : Prop := ∃ x head rest, semAt u v.g.ctx pa = some x ∧ x.waiters = head :: rest ∧ isWaiter s v head = false
      (semAt u v.g.ctx pa = none → n ≤ m → exec (.semp f) s = .next (issued s v fun _ => done r.2)) ∧
      (m < n ∨ ahead → v.f.sub.getLsbD 6 = true → exec (.semp f) s = .next (issued s v fun _ => giveBit r.2 v (semPred v) false)) ∧
      (semAt u v.g.ctx pa = none → m < n → v.f.sub.getLsbD 6 = false → Answers (.semp f) s (issued s v fun _ =>
        semParked (putSem { r.2 with nextMade := u.nextMade + 1 } v.g.ctx
          { pa := pa, va := va, waiters := [me], holders := [], drops := 0, opened := s.chron.ns, made := u.nextMade, lost := false }) v pa)) ∧
      (∀ x, semAt u v.g.ctx pa = some x →
        (∀ head rest, x.waiters = head :: rest → isWaiter s v head = true → (∀ y ∈ rest, isWaiter s v y = false) → n ≤ m →
          (rest ≠ [] → ∃ h d, exec (.semp f) s = .next (issued s v fun _ =>
            done (putSem r.2 v.g.ctx { x with waiters := retagged s v (tagOf u v) rest, holders := h, drops := d }))) ∧
          (rest = [] → exec (.semp f) s = .next (issued s v fun _ =>
            done (modCtx r.2 v.g.ctx fun c => { c with sems := c.sems.filter fun y => y.pa ≠ pa })))) ∧
        (x.waiters ≠ [] → (∀ y ∈ x.waiters, isWaiter s v y = false) → v.f.sub.getLsbD 6 = false → ∃ h d, Answers (.semp f) s (issued s v fun _ =>
          semParked (putSem r.2 v.g.ctx { x with drops := d, holders := h, waiters := retagged s v (tagOf u v) (x.waiters ++ [me]) }) v pa)) ∧
        (x.waiters.any (isWaiter s v) = true → m < n ∨ ahead → v.f.sub.getLsbD 6 = false → ∃ h, Answers (.semp f) s (issued s v fun _ =>
          semParked (putSem r.2 v.g.ctx { x with holders := h, waiters := retagged s v (tagOf u v) x.waiters }) v pa)))) ∧
    (ownQueued (past s v) v = false → alignedTo va 8 → ∀ leaf pa u,
      resolve (releasing (past s v) v (semScope v)) v va .rmw 8 = (.mem leaf pa, u) → pa < apertureBase →
      let r := wideRead (tagged u v) core pa 8
      let added (w : State) : State := homeWrite w (some core) pa (toBytes 8 (min (ofBytes r.1 + n) (2 ^ 64 - 1))) (tagOf u v)
      (semAt u v.g.ctx pa = none → exec (.semv f) s = .next (issued s v fun _ => added r.2)) ∧
      (∀ x, semAt u v.g.ctx pa = some x → ∃ h d, exec (.semv f) s = .next (issued s v fun _ =>
        added (putSem r.2 v.g.ctx { x with waiters := retagged s v (tagOf u v) x.waiters, holders := h, drops := d }))))) ∧
  (∀ (s : State) (id : ThreadId) (g : Group) (t : Thread) (pa : Nat), getGroup s id.gid = some g → getThread g id.who = some t →
    t.run = .parked (.semp pa) → ∃ u, exec (.sempWake id) s = .next u ∧ u = { s with groups := u.groups } ∧
      (∀ n, n ≠ id.gid → getGroup u n = getGroup s n) ∧
      ∃ h, getGroup u id.gid = some h ∧ getThread h id.who = some { t with run := .ready } ∧
        ∀ w, w ≠ id.who → getThread h w = getThread g w)

namespace Sys2Proof.Rules

/-! ### Capsules (R345-R362) -/

/-- The bit field hi:lo of a word. -/
def bits {n : Nat} (x : BitVec n) (hi lo : Nat) : Nat := x.toNat / 2 ^ lo % 2 ^ (hi + 1 - lo)

/-- Address h[K] with an offset, and N of the capsule instructions (R354). -/
def capAddress (v : View) (off : Nat) : BitVec 72 := sget v.g.h (v.f.sub.setWidth 3).toNat ++ BitVec.ofNat 64 off
def capN (v : View) : Nat := ((v.f.sub >>> 3).setWidth 3).toNat

/-- The access of a record or a mailbox reaches main memory at pa; u is the state after the checks. -/
def CapReaches (s : State) (v : View) (va : BitVec 72) (n pa : Nat) (u : State) : Prop :=
  alignedTo va n ∧ inMain pa n = true ∧ ∃ leaf, resolve s v va .rmw n = (.mem leaf pa, u)

/-- The record or mailbox as the capsule unit meets it: the executor's own dirty bytes of it stand at their home slices
(R305, R345). -/
def atHome (s : State) (v : View) (pa n : Nat) : State := evictUnits s (coreOf v.g v.who) pa n

/-- A record that the capsule unit rejects (R348). -/
def rejected (s : State) (pa : Nat) : Prop :=
  let w (i : Nat) : W64 := recWord s pa i
  bits (w 1) 63 62 = 3 ∨ 8 < bits (w 1) 59 56 ∨ bits (w 1) 55 55 ≠ 0 ∨ bits (w 4) 55 52 ≠ 0 ∨ bits (w 4) 3 0 ≠ 0 ∨
  bits (w 6) 44 32 ≠ 0 ∨ (∃ i < 4, bits (w (16 + 2 * i)) 62 54 ≠ 0) ∨ (∃ i < 8, w (24 + i) ≠ 0) ∨
  (bits (w 1) 63 62 ≠ 0 ∧ w 0 = 0)

/-- A record that a contender may adopt (R350). -/
def adoptable (s : State) (pa : Nat) : Prop :=
  bits (recWord s pa 1) 61 60 ≠ 0 ∨ (recWord s pa 5 ≠ 0 ∧ (recWord s pa 5).toNat < s.chron.ns.toNat)

/-- Token, holder word and lease of strand k (R346, R350). -/
def token_ (v : View) (k : Nat) : W64 := BitVec.ofNat 64 (v.g.saveRec / 4096 * 2 ^ 24 + k % 2 ^ 14 * 2 ^ 10 + v.g.ctx % 2 ^ 10)
def holder (s : State) (v : View) : W64 :=
  BitVec.ofNat 64 (s.rank.toNat * 2 ^ 52 + coreOf v.g v.who % 128 * 2 ^ 45 + v.g.lin.toNat)
def lease (s : State) (v : View) : W64 := if v.g.vals.caplease = 0 then 0 else s.chron.ns + v.g.vals.caplease.setWidth 64

/-- The strand's own token is the record's OWNER (R346). -/
def owns (s : State) (v : View) (k pa : Nat) : Prop := recWord s pa 0 = token_ v k ∧ bits (recWord s pa 1) 63 62 ≠ 0

/-- p0-p6 with pN set, and with p(N+1) cleared besides. -/
def withSet (p : BitVec 7) (n : Nat) : BitVec 7 := p ||| ((1 : BitVec 7) <<< n)
def withPair (p : BitVec 7) (n : Nat) : BitVec 7 := withSet p n &&& ~~~((1 : BitVec 7) <<< (n + 1))

/-- A word of a record built from STATE, OSTAT, STEP, PIMG, GEN, ADOPTS and MGEN (R346). -/
def word1 (state ostat step pimg gen adopts mgen : Nat) : W64 :=
  BitVec.ofNat 64 (state * 2 ^ 62 + ostat * 2 ^ 60 + step * 2 ^ 56 + pimg * 2 ^ 48 + gen * 2 ^ 32 + adopts * 2 ^ 16 + mgen)

/-- Two predicates, N and N + 1. -/
def givePair (s : State) (v : View) (n : Nat) (a b : Bool) : State :=
  applyPend s v { effNone with writes := setN n a ++ setN (n + 1) b } 0

/-- The strand is in capsule mode at the start of a step (R351). -/
def inside (s : State) (v : View) (va : BitVec 72) (pa : Nat) (xs : List W64) (step : Nat) (start : W64) : State :=
  modThread s (vid v) fun t =>
    { t with caps := some { record := pa, va := va, mode := .inside, x := xs, step := step, start := start, count := 0, stores := 0,
                            intents := [], path := 0 } }

/-- The words of four intents (R347). -/
def intentArea (l : List Intent) : List (Nat × W64) :=
  (List.range 4).flatMap fun j =>
    match l[j]? with
    | some i => [(16 + 2 * j, BitVec.ofNat 64 (2 ^ 63 + i.size.toNat * 2 ^ 52 + i.pa % 2 ^ 52)), (17 + 2 * j, i.val)]
    | none => [(16 + 2 * j, 0), (17 + 2 * j, 0)]

/-- The strand leaves capsule mode. -/
def leaving (s : State) (v : View) : State := modThread s (vid v) fun t => { t with caps := none }

end Sys2Proof.Rules

/-! ### Capsules -/

/-- R348, R350, R354, R355, R357: CAPOPEN acquires a free record, else says whether it is adoptable; CAPADOPT takes over an
adoptable one and goes on at its next step; both acquire whatever they answer, and wait for the strand's queued stores; a record that the unit rejects traps CAPSTATE. -/
def Clauses.CapsuleAcquisition : Prop := ∀ (f : Fields) (s : State) (v : View) (k : Nat), Solo s f v → v.who = .strand k →
  let va := capAddress v (readA v 64)
  let mb := capAddress v (readB v 64)
  let n := capN v
  let room : Prop := (v.g.strands.filter fun t => t.caps.isSome).length < 64
  let target := v.t.pc + 8 + 4 * (f.c ++ f.b).signExtend 64
  (¬ alignedTo va 256 → ∀ i ∈ [Instr.capopen f, .capadopt f], Traps i f s v causeMisalign va 0x207) ∧
  (∀ pa u pm w, CapReaches (past s v) v va 256 pa u → CapReaches u v mb 16 pm w →
    (ownQueued w v = true → exec (.capopen f) s = .next (issued s v fun _ => stallAt w v .storeQueue)) ∧
    (ownQueued w v = false →
    let w := atHome (atHome w v pa 256) v pm 16
    let w1 := recWord w pa 1
    let gen := (bits w1 47 32 + 1) % 2 ^ 16
    let image : List W64 := (List.range 8).map fun i => BitVec.ofNat 64 (vGroup v.s v.g v.t (f.d.toNat + 2 * i) 2)
    let ends (h : State → State) : Prop := exec (.capopen f) s = .next (issued s v fun _ => h w)
    (¬ room → ends fun w => takeTrap (modThread w (vid v) fun t => { t with pc := v.t.pc }) (vid v) (trapAt v causeCaplimit va (0x1C8 * 256 + 8))) ∧
    (room → rejected w pa →
      ends fun w => takeTrap (modThread w (vid v) fun t => { t with pc := v.t.pc }) (vid v) (trapAt v causeCapstate va 1)) ∧
    (room → ¬ rejected w pa → bits w1 63 62 ≠ 0 → (adoptable w pa → ends fun w => givePair (acquiring w v 4) v n false true) ∧
      (¬ adoptable w pa → ends fun w => givePair (acquiring w v 4) v n false false)) ∧
    (room → ¬ rejected w pa → bits w1 63 62 = 0 → n ≤ 5 → ends fun w =>
      let r := setRecWords w pa ([(0, token_ v k), (1, word1 1 0 0 (withPair (predsRead v) n).toNat gen (bits w1 31 16) gen),
        (2, nextPc v), (3, nextPc v), (4, BitVec.ofNat 64 ((codeReachOf v.g v.t).toNat * 2 ^ 56 + pm / 16 * 16)), (5, lease s v),
        (6, holder s v), (7, s.chron.ns)] ++ ((List.range 8).zip image).map (fun e => (8 + e.1, e.2)) ++
        (List.range 8).map fun i => (16 + i, 0))
      givePair (acquiring (inside (homeWrite r none pm (toBytes 8 0 ++ toBytes 8 gen) 0) v va pa image 0 (nextPc v)) v 4) v n true false))) ∧
  (∀ pa u, CapReaches (past s v) v va 256 pa u → room → swf u.mem = true →
    (ownQueued u v = true → exec (.capadopt f) s = .next (issued s v fun _ => stallAt u v .storeQueue)) ∧
    (ownQueued u v = false →
    let u := atHome u v pa 256
    let w1 := recWord u pa 1
    let gen := (bits w1 47 32 + 1) % 2 ^ 16
    let ends (h : State → State) : Prop := Answers (.capadopt f) s (issued s v fun _ => h u)
    (rejected u pa → ends fun u =>
      takeTrap (modThread u (vid v) fun t => { t with pc := v.t.pc }) (vid v) (trapAt v causeCapstate va 1)) ∧
    (¬ rejected u pa → (bits w1 63 62 = 0 ∨ ¬ adoptable u pa) → ends fun u => giveBit (acquiring u v 4) v n false) ∧
    (¬ rejected u pa → bits w1 63 62 ≠ 0 → adoptable u pa →
      (recWord u pa 2 ≠ target ∨ bits (recWord u pa 4) 63 56 ≠ (codeReachOf v.g v.t).toNat) →
      ends fun u => takeTrap (modThread u (vid v) fun t => { t with pc := v.t.pc }) (vid v) (trapAt v causeCapstate va 2)) ∧
    (¬ rejected u pa → bits w1 63 62 ≠ 0 → adoptable u pa → recWord u pa 2 = target →
      bits (recWord u pa 4) 63 56 = (codeReachOf v.g v.t).toNat → ends fun u =>
      let r := setRecWords u pa [(0, token_ v k), (1, word1 2 0 (bits w1 59 56) (bits w1 54 48) gen (min (bits w1 31 16 + 1) 0xFFFF) (bits w1 15 0)),
        (5, lease s v), (6, holder s v), (7, s.chron.ns)]
      modThread (inside (acquiring r v 4) v va pa ((List.range 8).map fun i => recWord u pa (8 + i)) (bits w1 59 56) (recWord u pa 3)) (vid v)
        fun t => { t with preds := BitVec.ofNat 7 (bits w1 54 48), pc := recWord u pa 3 })))

/-- R356, R358, R359, R361: CAPSTEP commits the owner's step once, with its intents, and tells a displaced strand so;
CAPCLOSE frees the owner's record and delivers an adopted holding's result to the mailbox; both wait for the strand's queued
stores, which they release; CAPRES takes a full one. -/
def Clauses.CapsuleSteps : Prop := ∀ (f : Fields) (s : State) (v : View),
  let n := capN v
  (∀ k, Solo s f v → v.who = .strand k → v.t.caps = none →
    exec (.capstep f) s = .next (issued s v fun u => giveBit u v n false) ∧
    exec (.capclose f) s = .next (issued s v fun u => givePair u v n false false)) ∧
  (viewsOf s f = some [v] → v.g.wf = true → guardTrue v = true → ∀ k c, v.who = .strand k → v.t.caps = some c → c.mode = .skip →
    Answers (.capstep f) s (issued s v fun u => giveBit (leaving u v) v n false) ∧
    Answers (.capclose f) s (issued s v fun u => givePair (leaving u v) v n false false)) ∧
  (∀ k, Solo s f v → v.who = .strand k → ∀ c, v.t.caps = some c → c.mode = .inside →
    let pa := c.record
    let w1 := recWord s pa 1
    let late := ownQueued (past s v) v
    (8 ≤ c.step → Traps (.capstep f) f s v causeCaplimit c.va (0x1C9 * 256 + 5)) ∧
    (c.step < 8 → late = true → exec (.capstep f) s = .next (issued s v fun u => stallAt u v .storeQueue)) ∧
    (c.count ≤ 1 → c.step ≠ 0 → late = true → exec (.capclose f) s = .next (issued s v fun u => stallAt u v .storeQueue)) ∧
    (c.step < 8 → late = false → (¬ owns s v k pa ∨ bits w1 59 56 ≠ c.step) → Answers (.capstep f) s (issued s v fun u => giveBit (leaving u v) v n false)) ∧
    (c.step < 8 → late = false → owns s v k pa → bits w1 59 56 = c.step → bits w1 55 55 = 0 → n ≤ 6 →
      exec (.capstep f) s = .next (issued s v fun u =>
        let r := setRecWords u pa ([(1, word1 (bits w1 63 62) (bits w1 61 60) (c.step + 1) (withSet (predsRead v) n).toNat (bits w1 47 32) (bits w1 31 16)
            (bits w1 15 0)), (3, v.t.pc + 8), (5, lease s v), (7, s.chron.ns)] ++
          ((List.range 8).map fun i => (8 + i, xRead v i)) ++ intentArea c.intents)
        giveBit (modThread (acquiring (applyIntents (releasing r v 4) (4 * coreOf v.g v.who) c.intents) v 4) (vid v) fun t =>
          { t with caps := some { c with step := c.step + 1, start := nextPc v, count := 0, stores := 0, intents := [], path := 0 } }) v n true)) ∧
    ((1 < c.count ∨ c.step = 0) → Traps (.capclose f) f s v causeCaplimit c.va (0x1CA * 256 + 7)) ∧
    (c.count ≤ 1 → c.step ≠ 0 → late = false → ¬ owns s v k pa →
      exec (.capclose f) s = .next (issued s v fun u => givePair (leaving u v) v n false false)) ∧
    (c.count ≤ 1 → c.step ≠ 0 → late = false → owns s v k pa →
      let x0 := xRead v 0
      let mbox := bits (recWord s pa 4) 51 4 * 16
      let mgen := bits w1 15 0
      let freed (u : State) : State := setRecWords u pa [(0, 0), (1, BitVec.ofNat 64 (bits w1 59 0)), (5, 0), (7, s.chron.ns)]
      let closed (adopted : Bool) (u : State) : State := applyPend (leaving (freed u) v) v
        { effNone with writes := destWrites false f.d.toNat 64 x0.toNat ++ setN n true ++ setN (n + 1) adopted } 0
      let lost := poisoned (releasing (past s v) v 4) mbox 16
      (bits w1 63 62 ≠ 2 → exec (.capclose f) s = .next (issued s v fun u => closed false (releasing u v 4))) ∧
      (bits w1 63 62 = 2 → lost = false → Answers (.capclose f) s (issued s v fun u =>
        closed true (homeWrite (releasing u v 4) none mbox (toBytes 8 x0.toNat ++ toBytes 8 (2 ^ 63 + mgen)) 0))) ∧
      (bits w1 63 62 = 2 → lost = true → Answers (.capclose f) s (issued s v fun u => closed true (releasing u v 4))))) ∧
  (Solo s f v → ∀ pa u, CapReaches (past s v) v (capAddress v (readA v 64)) 16 pa u →
    let r := wideRead u (coreOf v.g v.who) pa 16
    let w0 := ofBytes (r.1.take 8)
    let w1 := ofBytes (r.1.drop 8)
    (w1 < 2 ^ 63 → exec (.capres f) s = .next (issued s v fun _ => giveBit (acquiring r.2 v 4) v n false)) ∧
    (2 ^ 63 ≤ w1 → exec (.capres f) s = .next (issued s v fun _ =>
      applyPend (acquiring (homeWrite r.2 none (pa + 8) (toBytes 8 (w1 % 2 ^ 63)) 0) v 4) v
        { effNone with writes := writesD v 64 w0 ++ setN n true } 0)))

namespace Sys2Proof.Rules

/-! ### Engines (R371-R416) -/

/-- One operation as its instruction gives it at issue: the instruction, its engine, its opcode, its parameter block, the
format-table entries that its checks read, the tiles and channels that it names, and the checks of its block (R371, R374). -/
structure Case where
  instr : Instr
  eng : Engine
  op : Nat
  blk : List W64
  fmts : List Nat
  tiles : List Nat
  chans : List Nat
  checks : List BlkCheck

/-- The operations whose issue changes nothing but their engine and queue. -/
def cases (f : Fields) (s : State) (v : View) : List Case :=
  let b8 := blockOf v 8
  let b4 := blockOf v 4
  let x := mmaBlk b8
  let a := accBlk b4
  let t := copyBlk b8
  let mma (i : Instr) (op : Nat) (sparse : Bool) : Case :=
    { instr := i, eng := .matrix, op := op, blk := b8,
      fmts := (if x.akind = 0 then [] else [x.afmt]) ++ (if x.bkind = 0 then [] else [x.bfmt]), tiles := [x.acc],
      chans := kindChan x.akind (br b8 0) ++ kindChan x.bkind (br b8 1), checks := mmaChecks v.g (tableOf s v.g) sparse x }
  let acc (i : Instr) (op : Nat) (store : Bool) : Case :=
    { instr := i, eng := .matrix, op := op, blk := b4, fmts := [a.fmt], tiles := [a.acc], chans := kindChan a.kind (br b4 0),
      checks := accChecks v.g (tableOf s v.g) store a }
  [mma (.mma f) 0x1E0 false, mma (.mmas f) 0x1E1 true, acc (.accst f) 0x1E5 true, acc (.accld f) 0x1E6 false,
   { instr := .mspz f, eng := .copy, op := 0x1E2, blk := b4, fmts := [(spzBlk b4).fmt], tiles := [], chans := [],
     checks := spzChecks v.g (tableOf s v.g) (spzBlk b4) }] ++
  (if t.coll then [] else
    [{ instr := .tcopy f, eng := .copy, op := 0x1E8, blk := b8, fmts := [], tiles := [],
       chans := kindChan t.skind (br b8 0) ++ kindChan t.dkind (br b8 1), checks := copyChecks v.g t }])

/-- SCAN and CARRYBAR of a group whose kernel has no convoy that waits for its first use (R409, R411, R414). -/
def reckonerCases (f : Fields) (s : State) (v : View) : List Case :=
  let b8 := blockOf v 8
  let x := scanBlk b8
  [{ instr := .scan f, eng := .reckoner, op := 0x1EB, blk := b8, fmts := [], tiles := [],
     chans := (if x.form = 0 then [] else kindChan x.akind (br b8 0)) ++ kindChan x.bkind (br b8 1) ++ kindChan x.hkind (br b8 2),
     checks := scanChecks v.g (isConvoy s v.g.kid) x },
   { instr := .carrybar f, eng := .reckoner, op := 0x1EE, blk := [], fmts := [], tiles := [], chans := [], checks := [] }]

/-- Number of an engine in tokens (R373). -/
def engNum (e : Engine) : Nat := match e with | .matrix => 1 | .copy => 2 | .reckoner => 3

/-- A tile that the group holds in program order (R374, R389). -/
def holdsTile (g : Group) (t : Nat) : Bool := g.accMap.any (fun a => a.logical == t) && !g.accGone.contains t

/-- The operation enters its queue: the group's sequence count steps, the pilot core's dirty bytes go to their slices, and
sD receives the token (R372, R373, R383). -/
def entered (u : State) (v : View) (e : Engine) (op : Nat) (blk : List W64) : State :=
  let seq := (getEng v.g e).seq + 1
  let w := writeBack (modGroup u v.g.gid fun g => setEng g e { getEng v.g e with seq := seq }) (v.g.cores.getD 0 0) fun _ => true
  give { w with engineQ := w.engineQ ++ [{ gid := v.g.gid, eng := e, op := BitVec.ofNat 9 op, seq := seq, blk := blk, started := false,
                                           stall := none, failed := none, carry := none, sent := false, since := u.chron.ns }] }
    v 64 (engNum e * 2 ^ 32 + seq.toNat)

/-- The first operation of a group on an engine. -/
def atHead (s : State) (gid : Nat) (e : Engine) (o : EngineOp) : Prop := s.engineQ.find? (fun o => o.gid == gid && o.eng == e) = some o

end Sys2Proof.Rules

/-! ### Engines -/

/-- R372-R374, R383: an operation of a pilot whose tiles are allocated, whose channels are configured and whose block passes its
checks enters its queue and returns its token; a tile or channel that is missing traps; a bad block returns a rejected
token and changes no engine state; a full queue stalls; a poisoned entry of the format table that the checks read is fatal to
the context (R103, R106). -/
def Clauses.EngineIssue : Prop :=
  (∀ (f : Fields) (s : State) (v : View), Solo s f v → v.who = .pilot →
    ∀ e, (e ∈ cases f s v ∨ (e ∈ reckonerCases f s v ∧ ∀ c ∈ s.convoys, c.kid = v.g.kid → c.cvst ≠ .sealed)) →
    let sound : Prop := ∀ k ∈ e.fmts, formatPoisoned s v.g.ctx k = false
    let tilesOk : Prop := ∀ t ∈ e.tiles, holdsTile v.g t = true
    let chansOk : Prop := ∀ c ∈ e.chans, ∃ x ∈ v.g.chans, x.1 = c
    (¬ sound → exec e.instr s = .next (issued s v fun u =>
      raiseCtxFatal (modThread u (vid v) fun t => { t with pc := v.t.pc }) v.g.ctx 2)) ∧
    (sound → ∀ t, e.tiles = [t] → holdsTile v.g t = false → Traps e.instr f s v causeAccrange 0 (1 + t * 2 ^ 16)) ∧
    (sound → tilesOk → ∀ c rest, e.chans = c :: rest → (∀ x ∈ v.g.chans, x.1 ≠ c) →
      Traps e.instr f s v causeChnstate 0 (1 + c * 2 ^ 16)) ∧
    (sound → tilesOk → chansOk → ∀ st det, firstReject e.checks = some (st, det) →
      exec e.instr s = .next (issued s v fun u => give u v 64 (2 ^ 63 + engNum e.eng * 2 ^ 32 + det * 2 ^ 8 + st))) ∧
    (sound → tilesOk → chansOk → firstReject e.checks = none →
      (ownQueued (past s v) v = true → exec e.instr s = .next (issued s v fun u => stallAt u v .storeQueue)) ∧
      (ownQueued (past s v) v = false → 32 ≤ (engQueue (past s v) (v.g.cores.getD 0 0) e.eng).length →
        exec e.instr s = .next (issued s v fun u => stallAt u v .engineQueue)) ∧
      (ownQueued (past s v) v = false → (engQueue (past s v) (v.g.cores.getD 0 0) e.eng).length < 32 →
        exec e.instr s = .next (issued s v fun u => entered u v e.eng e.op e.blk)))) ∧
  (∀ l : List BlkCheck, (∀ c ∈ l, c.2.2.1 < 8) →
    (firstReject l = none ↔ ∀ c ∈ l, c.1 = false) ∧
    (∀ st det, firstReject l = some (st, det) → ∃ c ∈ l, c.1 = true ∧ st = c.2.2.2 ∧ det = (if c.2.1 then 0x80 else 0) + c.2.2.1 ∧
      ∀ d ∈ l, d.1 = true → (c.2.1 = false ∧ d.2.1 = true) ∨ (c.2.1 = d.2.1 ∧ c.2.2.1 ≤ d.2.2.1)))

/-- R376, R386: ENGWAIT returns a rejected token's failure at once, waits or answers false while the operation has not
retired, then gives and clears the engine's first failure and flags; CHNCFG configures, frees and reads a channel. -/
def Clauses.EngineWaitsAndChannels : Prop := ∀ (f : Fields) (s : State) (v : View), Solo s f v → v.who = .pilot →
  let tok := BitVec.ofNat 64 (readA v 64)
  let nb := f.sub.getLsbD 0
  let n := ((f.sub >>> 1).setWidth 3).toNat
  let ends (x : Nat) (u : State) : State :=
    applyPend u v { effNone with writes := writesD v 64 x ++ if nb then setN n true else [] } 0
  let eng (k : Nat) : Engine := if k = 1 then .matrix else if k = 2 then .copy else .reckoner
  let k := bits tok 33 32
  let x := getEng v.g (eng k)
  let waited := tok.setWidth 32
  let ch := readB v 32 % 16
  let cfg := BitVec.ofNat 64 (readA v 64)
  let slots := bits cfg 47 32
  let sbytes := bits cfg 31 8
  let bank := bits cfg 4 0
  let banks := (64 + sbytes * slots + 98303) / 98304
  let legal : Prop := bits cfg 63 48 = 0 ∧ bits cfg 7 5 = 0 ∧ 0 < sbytes ∧ sbytes % 64 = 0 ∧ 0 < slots ∧ bank + banks ≤ v.g.modes.length ∧
    ∀ i, bank ≤ i → i < bank + banks → v.g.modes[i]? = some .fifo
  (tok.getLsbD 63 = true → exec (.engwait f) s = .next (issued s v (ends (bits tok 15 0)))) ∧
  (tok.getLsbD 63 = false → k = 0 → Traps (.engwait f) f s v causeIllop 0 (0x1EF * 256 + 3)) ∧
  (tok.getLsbD 63 = false → k ≠ 0 →
    (2 ^ 31 ≤ (x.retired - waited).toNat →
      (nb = true → exec (.engwait f) s = .next (issued s v fun u => giveBit u v n false)) ∧
      (nb = false → Answers (.engwait f) s (issued s v fun u => modThread u (vid v) fun t =>
        { t with pc := v.t.pc, run := .parked (.engwait (eng k) waited), fixed := endFixed t.fixed, since := s.chron.ns }))) ∧
    ((x.retired - waited).toNat < 2 ^ 31 →
      ((∀ q, x.first = some q → 2 ^ 31 ≤ (waited - q.seq).toNat) → exec (.engwait f) s = .next (issued s v fun u =>
        ends (x.flags.toNat * 2 ^ 16) (dropClean (modGroup u v.g.gid fun g => setEng g (eng k) { x with flags := 0 }) (v.g.cores.getD 0 0)))) ∧
      (∀ q, x.first = some q → (waited - q.seq).toNat < 2 ^ 31 → exec (.engwait f) s = .next (issued s v fun u =>
        ends (q.seq.toNat * 2 ^ 32 + x.flags.toNat * 2 ^ 16 + q.detail.toNat * 2 ^ 8 + q.status.toNat)
          (dropClean (modGroup u v.g.gid fun g => setEng g (eng k) { x with first := none, flags := 0 }) (v.g.cores.getD 0 0)))))) ∧
  ((∃ c ∈ v.g.chans, c.1 = ch) → Traps (.chncfgSet f) f s v causeChnstate 0 (3 + ch * 2 ^ 16)) ∧
  ((∀ c ∈ v.g.chans, c.1 ≠ ch) →
    (¬ legal → Traps (.chncfgSet f) f s v causeChnstate 0 (2 + ch * 2 ^ 16)) ∧
    (legal → (∃ i, bank ≤ i ∧ i < bank + banks ∧ chanBank v.g i = true) → Traps (.chncfgSet f) f s v causeChnstate 0 (4 + ch * 2 ^ 16)) ∧
    (legal → (∀ i, bank ≤ i → i < bank + banks → chanBank v.g i = false) → exec (.chncfgSet f) s = .next (issued s v fun u =>
      give (modGroup (scratchWrite u (4 * coreOf v.g v.who) v.g.gid 0 (bank * 98304) (toBytes 16 0 ++ toBytes 4 sbytes ++ toBytes 4 slots ++ toBytes 40 0)) v.g.gid
        fun g => { g with chans := g.chans ++ [(ch, cfg)] }) v 64 0)) ∧
    Traps (.chncfgGet f) f s v causeChnstate 0 (1 + ch * 2 ^ 16)) ∧
  (chanBusy s v.g.gid ch = true → exec (.chncfgReset f) s = .next (issued s v fun u => stallAt u v .engineDrain)) ∧
  (chanBusy s v.g.gid ch = false → exec (.chncfgReset f) s = .next (issued s v fun u =>
    give (modGroup u v.g.gid fun g => { g with chans := g.chans.filter fun c => c.1 ≠ ch }) v 64 0)) ∧
  ((∃ c ∈ v.g.chans, c.1 = ch) → exec (.chncfgGet f) s = .next (issued s v fun u =>
    give u v 64 (chanIndex v.g ch true * 2 ^ 32 + chanIndex v.g ch false)))

/-- R387-R389: ACCALLOC binds the tiles that the group does not hold yet, quota before pool, each reading as zero; without
room it answers, yields to an older waiting group or waits; ACCFREE enters the matrix queue, and at its head frees its tiles. -/
def Obligations.AccumulatorTiles : Prop :=
  (∀ (f : Fields) (s : State) (v : View), Solo s f v → v.who = .pilot →
    let mask := readB v 32 % 2 ^ 32
    let held (t : Nat) : Bool := v.g.accMap.any fun a => a.logical == t
    let want := (List.range 32).filter fun t => mask.testBit t && !held t
    let need := want.length - (v.g.shape.acc - (v.g.accMap.filter fun a => !a.pool).length)
    let core := v.g.cores.getD 0 0
    let waits (h : Group) : Bool := match h.pilot.run with | .parked (.accalloc _ _ _) => true | _ => false
    let olderWaits := (engGroups (past s v) core).any fun h => older (past s v) h v.g && waits h
    let nothingQueued : Prop := v.g.accGone = [] ∧ ∀ o ∈ s.engineQ, o.gid = v.g.gid → o.op ≠ 0x1E4
    let bound (add : List AccTile) (u : State) : State := modGroup u v.g.gid fun g =>
      { g with accMap := g.accMap ++ add, acc := skeep g.acc fun k => !want.contains (k / 65536) }
    (¬ nothingQueued → exec (.accalloc f) s = .next (issued s v fun u => stallAt u v .engineDrain)) ∧
    (nothingQueued → need = 0 → ∃ add : List AccTile, add.map (·.logical) = want ∧ (∀ a ∈ add, a.pool = false) ∧
      exec (.accalloc f) s = .next (issued s v fun u => give (bound add u) v 64 0)) ∧
    (nothingQueued → 0 < need → v.g.ext = none → allocSave (past s v) v.g.ctx ((32 - v.g.shape.acc) * 65536) = none →
      Answers (.accalloc f) s (issued s v fun u => give u v 64 3)) ∧
    (nothingQueued → 0 < need → v.g.ext = none → need ≤ freePool (past s v) core → olderWaits = false → ∀ at_ w,
      allocSave (past s v) v.g.ctx ((32 - v.g.shape.acc) * 65536) = some (at_, w) →
      ∃ add : List AccTile, add.map (·.logical) = want ∧ (add.filter (·.pool)).length = need ∧ exec (.accalloc f) s =
        .next (issued s v fun _ => give (bound add (modGroup w v.g.gid fun g => { g with ext := some at_ })) v 64 0)) ∧
    (nothingQueued → 0 < need → v.g.ext ≠ none → need ≤ freePool (past s v) core → olderWaits = false →
      ∃ add : List AccTile, add.map (·.logical) = want ∧ (add.filter (·.pool)).length = need ∧
        exec (.accalloc f) s = .next (issued s v fun u => give (bound add u) v 64 0)) ∧
    (nothingQueued → 0 < need → v.g.ext ≠ none → (freePool (past s v) core < need ∨ olderWaits = true) →
      (f.sub.getLsbD 0 = true → exec (.accalloc f) s = .next (issued s v fun u => give u v 64 1)) ∧
      (f.sub.getLsbD 0 = false → v.g.accMap ≠ [] → olderWaits = true → exec (.accalloc f) s = .next (issued s v fun u => give u v 64 2)) ∧
      (f.sub.getLsbD 0 = false → (v.g.accMap = [] ∨ olderWaits = false) → Answers (.accalloc f) s (issued s v fun u =>
        serveAcc (modThread u (vid v) fun t => { t with pc := v.t.pc, run := .parked (.accalloc (BitVec.ofNat 32 mask) (nD f) (nextPc v)),
                                                        fixed := endFixed t.fixed, since := s.chron.ns }) core))) ∧
    (ownQueued (past s v) v = false → (engQueue (past s v) core .matrix).length < 32 → exec (.accfree f) s = .next (issued s v fun u =>
      let w := modGroup u v.g.gid fun g => { g with accGone :=
        (g.accGone ++ (List.range 32).filter fun t => mask.testBit t && g.accMap.any fun a => a.logical == t).dedup }
      { w with engineQ := w.engineQ ++ [{ gid := v.g.gid, eng := .matrix, op := 0x1E4, seq := 0, blk := [BitVec.ofNat 64 mask], started := false,
                                          stall := none, failed := none, carry := none, sent := false, since := s.chron.ns }] }))) ∧
  (∀ (s : State) (gid : Nat) (g : Group) (o : EngineOp) (m : W32), getGroup s gid = some g → atHead s gid .matrix o → o.op = 0x1E4 →
    o.blk = [m.setWidth 64] → g.gst = .running → exec (.accfreePerform gid) s = .next
      (serveAcc (readyEngine (modGroup { s with engineQ := s.engineQ.eraseP fun o => o.gid == gid && o.eng == .matrix } gid fun g =>
        { g with accMap := g.accMap.filter fun a => !(decide (a.logical < 32) && m.getLsbD a.logical)
                 acc := skeep g.acc fun k => !(decide (k / 65536 < 32) && m.getLsbD (k / 65536))
                 accGone := g.accGone.filter fun t => !(decide (t < 32) && m.getLsbD t) }) (g.cores.getD 0 0)) (g.cores.getD 0 0)))

/-- R376, R385, R286: the operation at the head of its group's order starts once its channels have their slots and no BANKSW
waits for its banks, and ends: what it
has written stands, the count of retired operations takes its number, a failure is kept as the first, the operation leaves
the queue, and an ENGWAIT on it goes on. -/
def Clauses.EngineOperations : Prop :=
  (∀ (s : State) (gid : Nat) (e : Engine) (g : Group) (o : EngineOp), getGroup s gid = some g → atHead s gid e o → g.gst = .running →
    o.op ≠ 0x1E4 → o.op ≠ 0x1EB → o.op ≠ 0x1EE →
    let switching : Prop := ∃ banks, g.pilot.run = .stalled (.bankSwitch banks) ∧ banks.any (opBank s g o) = true
    (o.started = false → ¬ switching → (∀ c ∈ (opChans o).1, chanFull g c = true) → (∀ c ∈ (opChans o).2, chanFree g c = true) →
      exec (.operationFire gid e) s = .next { s with engineQ := s.engineQ.map fun x => if x = o then { x with started := true, carry := none } else x }) ∧
    (o.started = false → (switching ∨ (∃ c ∈ (opChans o).1, chanFull g c = false) ∨ ∃ c ∈ (opChans o).2, chanFree g c = false) →
      exec (.operationFire gid e) s = .next s) ∧
    (o.started = true → o.stall = none →
      (∀ fl u, runOp s g o = (.ok fl, u) → exec (.engineRetire gid e) s = .next (retireOp u g o (compOf u g o) 0 0 0 fl)) ∧
      (∀ st det a u, runOp s g o = (.error (.fail st det a), u) →
        exec (.engineRetire gid e) s = .next (retireOp u g o (compOf u g o) st det a 0)))) ∧
  (∀ (s : State) (g : Group) (o : EngineOp) (c : Completion) (st det a : Nat) (fl : BitVec 6), getGroup s g.gid = some g →
    c.arrive = none → c.ins = [] → c.outs = [] → atHead s g.gid o.eng o →
    let t := retireOp s g o c st det a fl
    ∃ h, getGroup t g.gid = some h ∧
      getEng h o.eng = { seq := (getEng g o.eng).seq, retired := o.seq, flags := (getEng g o.eng).flags ||| fl
                         first := match (getEng g o.eng).first with
                           | some q => some q
                           | none => if st = 0 then none else some { status := BitVec.ofNat 8 st, detail := BitVec.ofNat 8 det, seq := o.seq } } ∧
      (∀ e, e ≠ o.eng → getEng h e = getEng g e) ∧
      (g.pilot.run = .parked (.engwait o.eng o.seq) → h.pilot.run = .ready) ∧
      t.engineQ = s.engineQ.eraseP (fun x => x.gid == g.gid && x.eng == o.eng) ∧ t.mem = s.mem ∧ h.scratch = g.scratch ∧ h.acc = g.acc)

/-- The number that a finite value is. -/
def Rules.number (e : Ext) : Rat := match e with | .fin s m => if s then -m else m | _ => 0

/-- R94, R390: without scales, an element of the result takes one dot group after another in increasing k: the exact sum of
the value so far and of the group's products, rounded once to nearest even. -/
def Clauses.MatrixProducts : Prop := ∀ (c : MClass) (a b : MRow) (acc : Ext) (snan : Bool) (n : Nat),
  let g := (classG c).getD 1
  let fm := if c = .f64 then fp64 else fp32
  let finite (r : MRow) (d : Nat) : Prop := ∃ s m, r.elems.getD d none = some { v := .fin s m, snan := false }
  let val (r : MRow) (d : Nat) : Rat := match r.elems.getD d none with | some x => Rules.number x.v | none => 0
  let before := (mmaElem c 0 0 (n * g) a b acc snan).1
  let e := Rules.number before + ((List.range g).map fun j => val a (n * g + j) * val b (n * g + j)).sum
  (∃ s m, before = .fin s m) → (∀ d, n * g ≤ d → d < (n + 1) * g → finite a d ∧ finite b d) → e ≠ 0 →
  (mmaElem c 0 0 ((n + 1) * g) a b acc snan).1 = (roundF fm { rm := .rne, ftz := false, sat := false, infIn := true } (.fin (decide (e < 0)) |e|)).val

/-- R406, R410-R412, R414: the carry network: CARRYPUT sends a packet to the next position, CARRYGET takes the oldest one of
the member's segment, packets move while the buffer has room, CARRYBAR's completion takes every member to its next
segment, and a convoy whose members that have not ended are all placed is sealed. -/
def Obligations.CarryNetwork : Prop :=
  (∀ (f : Fields) (s : State) (v : View), Solo s f v → v.who = .pilot →
    let n := ((f.sub >>> 1).setWidth 3).toNat
    let nb := f.sub.getLsbD 0
    let kid := v.g.kid
    ((∃ o ∈ s.engineQ, o.gid = v.g.gid ∧ o.op = 0x1EE) →
      ∀ i ∈ [Instr.carryput f, .carryget f], exec i s = .next (issued s v fun u => stallAt u v .carry)) ∧
    ((∀ o ∈ s.engineQ, o.gid = v.g.gid → o.op ≠ 0x1EE) →
    (convoyOfKernel s v.g.kid = none → ∀ i ∈ [Instr.carryput f, .carryget f], exec i s = .next (issued s v fun u => giveBit u v n false)) ∧
    (∀ c m, convoyOfKernel s kid = some c → c.members.find? (fun m => m.gid == v.g.gid) = some m →
      (convoyDead c = true → ∀ i ∈ [Instr.carryput f, .carryget f], exec i s = .next (issued s v fun u => giveBit u v n false)) ∧
      (convoyDead c = false →
        (carryRoom c ((m.pos + 1) % max 1 c.len) true 1 = false →
          (nb = true → exec (.carryput f) s = .next (issued s v fun u => giveBit (useConvoy u kid) v n false)) ∧
          (nb = false → exec (.carryput f) s = .next (issued s v fun u => stallAt (useConvoy u kid) v .carry))) ∧
        (carryRoom c ((m.pos + 1) % max 1 c.len) true 1 = true → ownQueued (past s v) v = true →
          exec (.carryput f) s = .next (issued s v fun u => stallAt (useConvoy u kid) v .storeQueue)) ∧
        (carryRoom c ((m.pos + 1) % max 1 c.len) true 1 = true → ownQueued (past s v) v = false → exec (.carryput f) s = .next (issued s v fun u =>
          giveBit (modMember (releasing (useConvoy u kid) v 4) kid m.pos fun x =>
            { x with out := x.out ++ [(true, { seg := m.seg, failed := false, size := 64, data := blockOf v 8 })] }) v n true)) ∧
        (m.softBuf.find? (fun p => p.seg == m.seg) = none →
          (nb = true → exec (.carryget f) s = .next (issued s v fun u => giveBit (useConvoy u kid) v n false)) ∧
          (nb = false → Answers (.carryget f) s (issued s v fun u => modThread (useConvoy u kid) (vid v) fun t =>
            { t with pc := v.t.pc, run := .parked .carryget, fixed := endFixed t.fixed, since := s.chron.ns }))) ∧
        (∀ p, m.softBuf.find? (fun p => p.seg == m.seg) = some p → exec (.carryget f) s = .next (issued s v fun u =>
          applyPend (readyCarry (acquiring (modMember (useConvoy u kid) kid m.pos fun m => { m with softBuf := m.softBuf.erase p }) v 4) kid 0 false) v
            { effNone with writes := (List.range 8).map (fun i => (.s (nD f + i), p.data.getD i 0)) ++ setN n true } 0)))))) ∧
  (∀ (s : State) (kid : Nat) (c : Convoy), convoyOfKernel s kid = some c →
    convoyOfKernel (useConvoy s kid) kid = some { c with cvst := if c.cvst = .sealed then .running else c.cvst }) ∧
  (∀ (s : State) (kid : Nat) (c : Convoy), convoyOfKernel s kid = some c → c.cvst ≠ .broken → c.cvst ≠ .closed → c.members.length = c.len →
    (∃ m ∈ c.members, m.ended = false) →
    (∀ m ∈ c.members, m.barArr = true) → (c.members.map (·.pos)).Nodup → (c.members.map (·.gid)).Nodup →
    ∃ t, exec (.carrybarComplete kid) s = .next t ∧ convoyOfKernel t kid = some { c with members := c.members.map fun m =>
      { m with seg := m.seg + 1, barArr := false, scanBuf := m.scanBuf.filter fun p => p.seg ≠ m.seg,
               softBuf := m.softBuf.filter fun p => p.seg ≠ m.seg } } ∧
      ∀ m ∈ c.members, ∀ g o, getGroup s m.gid = some g → atHead s m.gid .reckoner o →
        ∃ h, getGroup t m.gid = some h ∧ (getEng h .reckoner).retired = o.seq ∧
          t.engineQ.filter (fun x => x.gid == m.gid && x.eng == .reckoner) = (s.engineQ.filter fun x => x.gid == m.gid && x.eng == .reckoner).tail) ∧
  (∀ (s : State) (kid pos : Nat) (soft : Bool) (c : Convoy) (m d : ConvoyMember) (p : CarryPkt), convoyOfKernel s kid = some c →
    (c.members.map (·.pos)).Nodup → m ∈ c.members → m.pos = pos → d ∈ c.members → d.pos = (pos + 1) % c.len → 0 < c.len →
    m.out.find? (fun o => o.1 == soft) = some (soft, p) → (if soft then d.softBuf.length < 4 else d.scanBuf.length < 8) →
    ∃ t, exec (.carryDelivery kid pos soft) s = .next t ∧ (convoyOfKernel t kid = some { c with members := c.members.map fun x =>
      let y := if x.pos = pos then { x with out := x.out.eraseP fun o => o.1 == soft } else x
      if x.pos = d.pos then (if soft then { y with softBuf := y.softBuf ++ [p] } else { y with scanBuf := y.scanBuf ++ [p] }) else y }) ∧
      ∀ g, getGroup s d.gid = some g → g.pilot.run = .parked .carryget →
        ∃ h, getGroup t d.gid = some h ∧ (h.pilot.run = .ready ↔ soft = true ∧ p.seg = d.seg)) ∧
  (∀ (s : State) (kid : Nat) (c : Convoy), convoyOfKernel s kid = some c → c.cvst = .forming → c.back ≠ .forming → c.members.length = c.len →
    (∀ m ∈ c.members, m.ended = true ∨ ∃ g, getGroup s m.gid = some g ∧ onCore g = true) →
    ∃ t, exec (.convoySealed kid) s = .next t ∧ convoyOfKernel t kid = some { c with cvst := c.back } ∧
      t = { s with convoys := t.convoys, units := t.units, parts := t.parts })

namespace Sys2Proof.Rules

/-! ### Faults, replay and contexts -/

/-- No thread of the context waits for the vector of a trap under a fault tag, or without one. -/
def noVector (s : State) (tag : W32) : Prop :=
  ∀ g ∈ s.groups, ∀ x ∈ g.pilot :: g.strands, x.run ≠ .stalled (.vector 0) ∧ x.run ≠ .stalled (.vector tag)

/-- A context area that CREATE accepts (R102, R106): its alignment and place, SAVESIZE, the fields that must be zero, no
poison in its control block, PTROOT aligned, no bit of the image that its register does not have, and in FLTCFG and CAPSIZE no value
that their tables do not list (log entry 68: the model's choice). -/
def goodArea (s : State) (a : Nat) : Prop :=
  let size := memGetNat s (a + 8) 8
  a % 65536 = 0 ∧ inMain a 65536 = true ∧ size ≠ 0 ∧ size % 65536 = 0 ∧ inMain a (65536 + size) = true ∧
  memGetNat s a 8 = 0 ∧ (∀ b ∈ memGet s (a + 0x10) 0x7F0, b = 0) ∧ poisoned s a 4096 = false ∧
  memGetNat s (a + 0x898) 8 % 32768 = 0 ∧ memGetNat s (a + 0x8C0) 8 % 16 ≤ 12 ∧ memGetNat s (a + 0x8E8) 8 % 131072 ≤ 65536 ∧
  ∀ i < 256, BitVec.ofNat 64 (memGetNat s (a + 0x800 + 8 * i) 8) &&& ~~~(BitVec.ofNat 64 (if i = 0x13 then 2 ^ 64 - 1 else ctxRegMask (0x200 + i))) = 0

/-- What a function sees in CTXSTAT: the result of its command, with the context (R453). -/
def Stat (t : State) (by_ : Commander) (ctx res : Nat) : Prop :=
  ∀ v, by_ = .func v → v < 16 → (getFunc t v).ctxstat = BitVec.ofNat 64 (ctx % 1024 * 2 ^ 16 + res)

/-- A command that is refused changes nothing but CTXSTAT, and a BADSTATE is logged (R100, R104, R453). -/
def Refused (i : Instr) (s : State) (by_ : Commander) (ctx res : Nat) : Prop :=
  ∃ t, exec i s = .next t ∧ Noted s t ∧ Stat t by_ ctx res

/-- Every function of the device has its registers, once, and no command of the commander is in progress. -/
def commands (s : State) (by_ : Commander) : Prop :=
  s.funcs.map (·.num) = List.range 16 ∧ ∀ v, by_ = .func v → v < 16 ∧ (getFunc s v).ctxstat.getLsbD 7 = false

/-- The function whose slots a commander names. -/
def slotFunc (b : Commander) : Nat := match b with | .func v => v | .management => 0

end Sys2Proof.Rules

/-! ### Faults and replay -/

/-- R264: a RETRY or FAIL of an outstanding tag makes what waits on it try again, the latter with the mark that the access of that
page and kind is refused; the fault is no longer outstanding. Any other tag is ignored. R275, R267, R274: a finished capture copy has
the granule's 64 KiB in its snapshot slot, with what the cores held dirty of it, and its record; CAPT is set in the page's leaf,
CAPCOUNT counts the granule, and the writers go on. R484: a REPLAY kernel's pass is followed by the next one, with the same
groups to place and the seeds of pass 0 (R83), or by the kernel's end. R173: an entry that has waited 4,096 slots is starving. -/
def Obligations.FaultsAndReplay : Prop :=
  (∀ (s : State) (ctx : Nat) (tag : W32) (c : Context), getCtx s ctx = some c → (∀ f ∈ c.faults, f.tag ≠ tag) →
    ∀ i ∈ [Instr.fltrespRetry ctx tag, .fltrespFail ctx tag], exec i s = .next s) ∧
  (∀ (s : State) (ctx : Nat) (tag : W32) (c : Context), getCtx s ctx = some c → (∃ x ∈ c.faults, x.tag = tag) →
    exec (.fltrespRetry ctx tag) s = .next (resumeFault s ctx tag false) ∧
    exec (.fltrespFail ctx tag) s = .next (resumeFault s ctx tag true)) ∧
  (∀ (s : State) (ctx : Nat) (tag : W32) (c : Context) (x : OutFault), getCtx s ctx = some c → c.faults.find? (fun f => f.tag == tag) = some x →
    c.views = [] → c.held = [] → noVector s tag →
    let mark (fail : Bool) (old : Option Refused) : Option Refused :=
      if fail then some { granule := x.granule, write := x.write, level := x.level } else old
    ∀ e ∈ [(Instr.fltrespRetry ctx tag, false), (Instr.fltrespFail ctx tag, true)], ∃ t, exec e.1 s = .next t ∧
      (∀ gid who g x, getGroup s gid = some g → getThread g who = some x → ∃ h, getGroup t gid = some h ∧
        getThread h who = some (if g.ctx = ctx ∧ x.run = .stalled (.fault tag) then { x with run := .ready, failed := mark e.2 x.failed } else x)) ∧
      t.engineQ = s.engineQ.map (fun o => if o.stall = some tag ∧ (getGroup s o.gid).any (fun g => g.ctx == ctx) = true
        then { o with stall := none, failed := mark e.2 o.failed } else o) ∧
      (∃ d, getCtx t ctx = some d ∧ d.faults = c.faults.filter fun f => f.tag ≠ tag) ∧ t.mem = s.mem ∧ t.queues = s.queues) ∧
  (∀ (s : State) (ctx : Nat) (granule : BitVec 72) (c : Context) (l : Leaf), getCtx s ctx = some c → granule ∈ c.capturing →
    walk s ctx granule = .leaf l →
    let pa := l.pa + granule.toNat % 2 ^ l.bits
    let n := bits (ctxReg s ctx 0x21E) 16 0
    let snap := (ctxReg s ctx 0x21C).toNat
    let w := (List.range 128).foldl (fun u c => writeBack u c fun a => decide (pa ≤ a ∧ a < pa + 65536))
      (modCtx s ctx fun c => { c with capturing := c.capturing.filter (· ≠ granule) })
    let copied := copyGranule w ctx pa (snap + 0x100000 + 0x10000 * n)
    let recorded := memPutNat (memPutNat copied (snap + 16 * n) 8 (bits granule 63 0)) (snap + 16 * n + 8) 8 (bits granule 71 64)
    ∃ t, Noted (ctxRegWrite (setCapt recorded ctx granule true) ctx 0x21E (BitVec.ofNat 64 (n + 1))) t ∧
      exec (.captureCopyDone ctx granule) s = .next (endCapture t ctx)) ∧
  (∀ (s : State) (ctx src dst : Nat), swf s.mem = true → src + 65536 ≤ mainTop → dst + 65536 ≤ mainTop →
    ∀ a, sget (copyGranule s ctx src dst).mem a = if dst ≤ a ∧ a < dst + 65536 then sget s.mem (src + (a - dst)) else sget s.mem a) ∧
  (∀ (s : State) (ctx : Nat) (va : BitVec 72) (l : Leaf), swf s.mem = true → walk s ctx va = .leaf l → l.ea + 8 ≤ mainTop →
    let t := setCapt s ctx va true
    (∀ a, sget t.mem a = if a = l.ea then sget s.mem a ||| 0x80 else sget s.mem a) ∧ ∀ x ∈ t.tlb, x.ea ≠ l.ea) ∧
  (∀ (s : State) (ctx : Nat) (granule : BitVec 72) (c : Context) (pa : Nat), getCtx s ctx = some c → granule ∈ c.capturing → c.views = [] →
    c.held = [] → noVector s 0 → frameOf s ctx granule = some pa → swf c.sys = true →
    let n := bits (ctxReg s ctx 0x21E) 16 0
    ∃ t d, exec (.captureCopyDone ctx granule) s = .next t ∧ getCtx t ctx = some d ∧ (∀ g, g ∈ d.capturing ↔ g ∈ c.capturing ∧ g ≠ granule) ∧
      ctxReg t ctx 0x21E = BitVec.ofNat 64 (n + 1) ∧
      ∀ gid who g x, getGroup s gid = some g → getThread g who = some x → g.ctx = ctx → x.run = .stalled .capture →
        ∃ h, getGroup t gid = some h ∧ getThread h who = some { x with run := .ready }) ∧
  (∀ (s : State) (kid : Nat) (k : Kernel) (d : Desc), getKernel s kid = some k → k.kid = kid → passOver s k = true → k.desc = some d →
    ctxReg s k.ctx 0x308 = 0 →
    (d.passes ≤ k.pass + 1 → exec (.replayPassEnd kid) s = .next (finishKernel (clearCapt (planEnd s k k.pass) k.ctx) kid 0 0)) ∧
    (k.pass + 1 < d.passes → ∀ u, restoreWrites (planEnd s k k.pass) k.ctx = (true, u) → (∃ y, getKernel u kid = some y) →
      ∃ t y z, exec (.replayPassEnd kid) s = .next t ∧ getKernel u kid = some y ∧ getKernel t kid = some z ∧
        z = { y with pass := y.pass + 1, dealt := 0, ended := 0, cohort := false, holdSince := z.holdSince, seeds := z.seeds } ∧
        (k.pass ≠ 0 → z.seeds = k.seeds) ∧
        (k.pass = 0 → ∀ g ∈ u.groups, g.kid = kid → g.gst = .retired → (∀ h ∈ u.groups, h.kid = kid → h.gst = .retired → h.lin = g.lin → h = g) →
          (sget z.seeds g.lin.toNat).getLsbD 32 = true ∧ (sget z.seeds g.lin.toNat).setWidth 32 = g.vals.srseed) ∧
        ∀ g ∈ t.groups, ¬ (g.kid = kid ∧ g.gst = .retired)) ∧
    (k.pass + 1 < d.passes → ∀ u, restoreWrites (planEnd s k k.pass) k.ctx = (false, u) →
      exec (.replayPassEnd kid) s = .next (finishKernel u kid 4 0))) ∧
  (∀ (s : State) (core part : Nat) (th : ThreadId) (p : PartSched), s.gangs.find? (fun p => p.unit == core * 16 + part) = some p →
    ((∃ n, (th, n) ∈ p.waits ∧ 4096 ≤ n) → (core, part, th) ∉ s.starving →
      exec (.starvationGuard core part th) s = .next { s with starving := s.starving ++ [(core, part, th)] }) ∧
    ((∀ n, (th, n) ∈ p.waits → n < 4096) ∨ (core, part, th) ∈ s.starving → exec (.starvationGuard core part th) s = .next s))

/-! ### Contexts -/

/-- R100-R102, R104, R106, R107, R453: CREATE binds a context that is not there yet, with its registers from the image of its area;
ACTIVATE makes a CREATED one ACTIVE; TEARDOWN frees its groups at once, and the context is gone when nothing of it is in
flight; what a commander may not do, or a state does not accept, is refused. -/
def Clauses.ContextCommands : Prop :=
  (∀ (s : State) (by_ : Commander) (slot n : Nat) (area : W64) (debug : Bool), commands s by_ → slot < 64 → n < 1024 →
    let func := slotFunc by_
    let a := area.toNat
    let granted := debug = true ∧ func = 0
    ((∃ v, by_ = .func (v + 1)) ∨ (by_ = .func 0 ∧ n = 0) → Refused (.ctxCreate by_ slot (some n) area debug) s by_ 0 1) ∧
    ((by_ = .management ∨ (by_ = .func 0 ∧ n ≠ 0)) →
      ((getCtx s n).isSome = true ∨ (n ≠ 0 ∧ (slotCtx s func slot).isSome = true) → Refused (.ctxCreate by_ slot (some n) area debug) s by_ n 3) ∧
      (getCtx s n = none → (n = 0 ∨ slotCtx s func slot = none) → ¬ goodArea s a → Refused (.ctxCreate by_ slot (some n) area debug) s by_ n 2) ∧
      (getCtx s n = none → (n = 0 ∨ slotCtx s func slot = none) → goodArea s a → swf s.mem = true →
        ∃ t d, exec (.ctxCreate by_ slot (some n) area debug) s = .next t ∧ getCtx t n = some d ∧ d.cst = .created ∧ d.func = func ∧
          d.slot = (if n = 0 then none else some slot) ∧ d.area = a ∧ d.savesize = memGetNat s (a + 8) 8 ∧ (d.debug = true ↔ granted) ∧
          (∀ m, m ≠ n → getCtx t m = getCtx s m) ∧ Stat t by_ n 0 ∧
          memGetNat t a 8 = n * 2 ^ 16 + func % 16 * 2 ^ 8 + 1 ∧ memGetNat t (a + 0x10) 8 = n + 1 ∧
          (∀ i < 256, i ≠ 0 → i ≠ 0x14 → i ≠ 0x15 → ctxReg t n (0x200 + i) = BitVec.ofNat 64 (memGetNat s (a + 0x800 + 8 * i) 8)) ∧
          ctxReg t n 0x214 = BitVec.ofNat 64 func ∧ ctxReg t n 0x215 ≠ 0))) ∧
  (∀ (s : State) (by_ : Commander) (slot n : Nat) (c : Context), commands s by_ → (by_ = .management ∨ (by_ = .func 0 ∧ n ≠ 0)) →
    getCtx s n = some c →
    (c.cst = .created → ∃ t, exec (.ctxActivate by_ slot (some n)) s = .next t ∧ getCtx t n = some { c with cst := .active } ∧
      Stat t by_ n 0 ∧ t.groups = s.groups ∧ ∀ m, m ≠ n → getCtx t m = getCtx s m) ∧
    (c.cst ≠ .created → Refused (.ctxActivate by_ slot (some n)) s by_ n 3) ∧
    (c.cst = .teardown → Refused (.ctxTeardown by_ slot (some n)) s by_ n 3) ∧
    (c.cst ≠ .teardown → ∃ t d, exec (.ctxTeardown by_ slot (some n)) s = .next t ∧ getCtx t n = some d ∧ d.cst = .teardown ∧
      (∀ g ∈ t.groups, g.ctx ≠ n) ∧ d.faults = [] ∧ d.capturing = [])) ∧
  (∀ (s : State) (by_ : Commander) (slot n : Nat), commands s by_ →
    ((∃ v, by_ = .func (v + 1)) ∨ (by_ = .func 0 ∧ n = 0) →
      Refused (.ctxActivate by_ slot (some n)) s by_ n 1 ∧ Refused (.ctxTeardown by_ slot (some n)) s by_ n 1) ∧
    ((by_ = .management ∨ (by_ = .func 0 ∧ n ≠ 0)) → getCtx s n = none →
      Refused (.ctxActivate by_ slot (some n)) s by_ n 3 ∧ Refused (.ctxTeardown by_ slot (some n)) s by_ n 3)) ∧
  (∀ (s : State) (by_ : Commander) (slot : Nat), commands s by_ → slotCtx s (slotFunc by_) slot = none →
    Refused (.ctxActivate by_ slot none) s by_ 0 4 ∧ Refused (.ctxTeardown by_ slot none) s by_ 0 4) ∧
  (∀ (s : State) (ctx : Nat) (c : Context), getCtx s ctx = some c → tornDown s c = true →
    ∃ t, exec (.teardownComplete ctx) s = .next t ∧ getCtx t ctx = none ∧ (∀ m, m ≠ ctx → getCtx t m = getCtx s m) ∧
      (∀ e ∈ t.tlb, e.ctx ≠ ctx) ∧ (∀ q ∈ t.queues, q.ctx ≠ ctx) ∧ (∀ k ∈ t.kernels, k.ctx ≠ ctx) ∧ (∀ g ∈ t.groups, g.ctx ≠ ctx) ∧
      (∀ e ∈ t.sessions, e.ctx ≠ ctx) ∧ (∀ g, g ∈ t.groups ↔ g ∈ s.groups ∧ g.ctx ≠ ctx))

/-- R103, R104, R110, R111, R399: a fatal event takes the context to FAULTED with its cause, and every group of it to FAULTED, and no
operation of an engine is left of it; a TEARDOWN already accepted stands. The slice of a function renews or ends; its contexts go out once nothing of them is on a core;
the next function's come in. -/
def Clauses.FatalEventsAndWorlds : Prop :=
  (∀ (s : State) (ctx : Nat) (cause : BitVec 8) (c : Context), getCtx s ctx = some c →
    ((c.cst = .teardown ∨ c.cst = .faulted) → exec (.contextFault ctx cause) s = .next s) ∧
    (c.cst ≠ .teardown → c.cst ≠ .faulted → (s.groups.map (·.gid)).Nodup → ∃ t d, exec (.contextFault ctx cause) s = .next t ∧
      getCtx t ctx = some d ∧ d.cst = .faulted ∧ d.fcause = cause ∧
      (∀ g ∈ t.groups, g.ctx = ctx → g.gst = .faulted ∨ g.gst = .retired) ∧
      (∀ o ∈ t.engineQ, ∀ g ∈ s.groups, g.gid = o.gid → g.ctx ≠ ctx) ∧
      (c.func < 16 → s.funcs.map (·.num) = List.range 16 → (getFunc t c.func).intcause.getLsbD 4 = true))) ∧
  (∀ s : State, s.outgoing = false →
    (nextFunc s = none → exec .sliceEnd s = .next s) ∧
    (nextFunc s = some s.turnOf → exec .sliceEnd s = .next { s with sliceEnd := s.chron.ns.toNat + sliceNs s s.turnOf }) ∧
    (∀ f, nextFunc s = some f → f ≠ s.turnOf →
      (∀ g ∈ s.groups, ∀ c ∈ s.contexts, c.num = g.ctx → c.func ≠ s.turnOf ∨ c.cst ≠ .active) →
      exec .sliceEnd s = .next { s with outgoing := true })) ∧
  (∀ (s : State) (ctx : Nat) (c : Context), s.outgoing = true → getCtx s ctx = some c → c.func = s.turnOf → c.cst = .active → exclusive s c.func = false →
    (∀ g ∈ s.groups, g.ctx = ctx → onCore g = false ∧ g.gst ≠ .placing ∧ g.gst ≠ .flushing) →
    ∃ t d, exec (.switchOutComplete ctx) s = .next t ∧ getCtx t ctx = some d ∧ d.cst = .switchedOut ∧ t.groups = s.groups) ∧
  (∀ (s : State) (func : Nat) (c : Context), s.outgoing = true → exclusive s func = false → func < 16 →
    (∀ d ∈ s.contexts, d.func = s.turnOf → d.cst = .active → exclusive s d.func = true) → c ∈ s.contexts → c.func = func → c.cst = .switchedOut →
    (s.contexts.map (·.num)).Nodup →
    ∃ t d, exec (.switchIn func) s = .next t ∧ t.outgoing = false ∧ t.turnOf = func ∧ t.sliceEnd = s.chron.ns.toNat + sliceNs s func ∧
      getCtx t c.num = some d ∧ d.cst = .active ∧ t.groups = s.groups)

namespace Sys2Proof.Rules

/-! ### Queues and kernels (R118-R129, R136, R141) -/

/-- A configuration that ENABLE accepts: its class, its ring's size and place, and tickets where it is a LOTTERY queue (R118, R120). -/
def goodQueue (x : Queue) : Prop :=
  bits x.cfg 5 4 < 2 ∧ bits x.cfg 11 8 ≤ 12 ∧ inMain (4096 * bits x.cfg 51 12) (128 * 2 ^ (bits x.cfg 11 8 + 4)) = true ∧
    (bits x.cfg 5 4 = 1 → x.tickets ≠ 0)

/-- A packet that breaks no rule of R121 and R122 in a queue with or without PRIV, of a class. -/
def goodPacket (priv lottery : Bool) (b : List Byte) : Prop :=
  let at_ (o n : Nat) : Nat := ofBytes ((b.drop o).take n)
  (at_ 0 1 = 1 ∧ at_ 8 8 % 256 = 0 ∧ 1 ≤ at_ 16 4 ∧ 1 ≤ at_ 20 2 ∧ 1 ≤ at_ 22 2 ∧ at_ 16 4 * at_ 20 2 * at_ 22 2 ≤ 2 ^ 32 ∨
    at_ 0 1 = 2 ∧ at_ 8 8 = 0 ∧ at_ 16 8 = 0 ∧ at_ 24 8 = 0) ∧
  at_ 1 1 < 16 ∧ at_ 2 1 ≤ 4 ∧ at_ 5 3 = 0 ∧
  (∀ i < 4, if i < at_ 2 1 then at_ (32 + 16 * i) 8 % 8 = 0 ∧ at_ (40 + 16 * i) 8 < 2 ^ 63 else at_ (32 + 16 * i) 16 = 0) ∧
  ((at_ 1 1).testBit 2 = false → at_ 96 8 = 0) ∧ (lottery = true → at_ 104 8 = 0) ∧ at_ 112 8 % 8 = 0 ∧ at_ 120 8 < 2 ^ 63 ∧
  ((at_ 1 1).testBit 0 = true → priv = true)

/-- A queue in ERROR with a status and an index. -/
def inError (x : Queue) (code : BitVec 8) (ix : W32) : Queue := { x with qst := .error, err := code, errix := ix, guard := 0 }

/-- Every dependence of a kernel but i is met, and its trigger where it has one. -/
def restMet (k : Kernel) (i : Nat) : Prop :=
  (∀ j < k.pkt.deps.length, j ≠ i → j ∈ k.met) ∧ (k.pkt.trig = true → k.fired = true)

/-- The end state's byte of a status (R141): late and chain drops are DROPPED, every other failure is ABORTED. -/
def endState (status : Nat) : KState := if status = 0 then .done else if status = 6 ∨ status = 7 then .dropped else .aborted

/-- A kernel that ends, and of which no group is left, is gone. -/
def KernelGone (t : State) (kid : Nat) : Prop := ∀ k ∈ t.kernels, k.kid ≠ kid

/-- Order of the EDF class: the smaller deadline, then the lower context, the lower queue, the earlier intake (R127). -/
def earlier (a b : Kernel) : Prop :=
  a.pkt.deadline.toNat < b.pkt.deadline.toNat ∨ a.pkt.deadline = b.pkt.deadline ∧
    (a.ctx < b.ctx ∨ a.ctx = b.ctx ∧ (a.q < b.q ∨ a.q = b.q ∧ a.kid < b.kid))

/-- The lottery queue that a draw takes (R129): the first whose running sum of tickets passes x. -/
def drawn (l : List Queue) (x : Nat) (w : Queue) : Prop :=
  ∃ a b, l = a ++ w :: b ∧ (a.map (·.tickets.toNat)).sum ≤ x ∧ x < (a.map (·.tickets.toNat)).sum + w.tickets.toNat

end Sys2Proof.Rules

/-! ### Queues -/

/-- R119, R120: what each command does to a queue in each state, WRIDX beyond the ring's size, and the ends of DRAINING and of RESET
(WRIDX in ERROR, what RESET and ENABLE clear, the guard in DRAINING: log entry 95). -/
def Clauses.QueueStates : Prop :=
  ∀ (s : State) (ctx q : Nat) (v : W32), (getCtx s ctx).isSome = true → q < 256 →
    let x := queueOfCtx s ctx q
    let same (i : Instr) : Prop := Answers i s s
    let becomes (i : Instr) (y : Queue) : Prop := Answers i s (putQueue s y)
    (x.qst = .disabled → goodQueue x → becomes (.queueEnable ctx q) { x with qst := .enabled, err := 0, errix := 0 }) ∧
    (x.qst = .disabled → ¬ goodQueue x → becomes (.queueEnable ctx q) { x with err := 1, errix := 0 }) ∧
    (x.qst ≠ .disabled → same (.queueEnable ctx q)) ∧
    (x.qst = .enabled → becomes (.queueSuspend ctx q) { x with qst := .suspended, guard := 0 }) ∧
    (x.qst ≠ .enabled → same (.queueSuspend ctx q)) ∧
    (x.qst = .suspended → becomes (.queueResume ctx q) { x with qst := .enabled }) ∧
    (x.qst ≠ .suspended → same (.queueResume ctx q)) ∧
    (x.qst = .enabled ∨ x.qst = .suspended → becomes (.queueDrain ctx q) { x with qst := .draining, drainTo := x.wridx }) ∧
    (¬ (x.qst = .enabled ∨ x.qst = .suspended) → same (.queueDrain ctx q) ∧ same (.queueDisable ctx q)) ∧
    (x.qst = .enabled ∨ x.qst = .suspended →
      Answers (.queueDisable ctx q) s (putQueue (abortUndispatched s ctx q) { x with qst := .disabled, guard := 0 })) ∧
    (x.qst = .error → exec (.queueReset ctx q) s = .next (abortUndispatched (putQueue s { x with resetting := true }) ctx q)) ∧
    (x.qst ≠ .error → same (.queueReset ctx q)) ∧
    (takenOf s ctx q = [] →
      (x.qst = .draining → x.rdidx = x.drainTo → becomes (.queueDrainEnd ctx q) { x with qst := .disabled, guard := 0 }) ∧
      (x.resetting = true → becomes (.queueResetEnd ctx q)
        { x with qst := .disabled, guard := 0, resetting := false, rdidx := 0, wridx := 0, err := 0, errix := 0 })) ∧
    (takenOf s ctx q ≠ [] → same (.queueDrainEnd ctx q) ∧ same (.queueResetEnd ctx q)) ∧
    (if x.qst ≠ .error ∧ 2 ^ (bits x.cfg 11 8 + 4) < (v - x.rdidx).toNat
     then becomes (.wridxWrite ctx q v) (inError { x with wridx := v } 3 v)
     else exec (.wridxWrite ctx q v) s = .next (putQueue s { x with wridx := v }))

/-- R121-R125: intake of a packet, poisoned, bad, or good; the test of a dependence; the completion signal; R127: a late kernel.
Premises that the model's own fields need: no kernel has the number of the next one. -/
def Clauses.PacketsAndDependences : Prop :=
  (∀ (s : State) (ctx q : Nat) (c : Context), getCtx s ctx = some c → q < 256 →
    let x := queueOfCtx s ctx q
    let at_ := 4096 * bits x.cfg 51 12 + 128 * (x.rdidx.toNat % 2 ^ (bits x.cfg 11 8 + 4))
    let b := memGet s at_ 128
    let p := packetOf b
    x.qst = .enabled → x.rdidx ≠ x.wridx → ((takenOf s ctx q).filter undispatched).length < 16 →
    ((b.getD 1 0).getLsbD 1 = true → takenOf s ctx q = []) → (∀ k ∈ s.kernels, k.kid ≠ s.nextKid) →
      (poisoned s at_ 128 = true → Answers (.packetIntake ctx q) s (putQueue s (inError x 4 x.rdidx))) ∧
      (poisoned s at_ 128 = false → ¬ goodPacket (x.cfg.getLsbD 7) (decide (bits x.cfg 5 4 = 1)) b →
        Answers (.packetIntake ctx q) s (putQueue s (inError x 2 x.rdidx))) ∧
      (poisoned s at_ 128 = false → goodPacket (x.cfg.getLsbD 7) (decide (bits x.cfg 5 4 = 1)) b → p.deps = [] →
        let reached := decide (p.trigth.toNat ≤ (sget c.trig p.trigix).toNat)
        let taken (k : KState) : State :=
          putQueue { s with nextKid := s.nextKid + 1
                            kernels := s.kernels ++ [{ kernelFresh s.nextKid ctx q x.rdidx p with kst := k, fired := p.trig && reached }] }
            { x with rdidx := x.rdidx + 1 }
        (p.trig = true → reached = false → exec (.packetIntake ctx q) s = .next (taken .waiting)) ∧
        ((p.trig = false ∨ reached = true) → p.marker = false → exec (.packetIntake ctx q) s = .next (taken .armed)) ∧
        ((p.trig = false ∨ reached = true) → p.marker = true →
          exec (.packetIntake ctx q) s = .next (finishKernel (taken .queued) s.nextKid 0 0)))) ∧
  (∀ (s u : State) (kid i pa : Nat) (k : Kernel) (a target : W64) (bs : List Byte), getKernel s kid = some k → k.kid = kid →
    (k.kst = .queued ∨ k.kst = .waiting) → k.pkt.deps[i]? = some (a, target) → i ∉ k.met → (∀ e ∈ k.depStall, e.1 ≠ i) →
    launchAccess s k a .read 8 = (.ok pa bs, u) → u.kernels = s.kernels →
    ∀ e ∈ [Instr.dependenceWrite kid i, Instr.hostDependenceReread kid i],
      (ofBytes bs % 2 ^ 63 < target.toNat % 2 ^ 63 → exec e s = .next u) ∧
      (target.toNat % 2 ^ 63 ≤ ofBytes bs % 2 ^ 63 → k.pkt.chain = false → restMet k i → k.depStall = [] →
        (k.pkt.marker = false → exec e s = .next (modKernel u kid fun y => { y with met := y.met ++ [i], kst := .armed })) ∧
        (k.pkt.marker = true → exec e s = .next (finishKernel (modKernel u kid fun y => { y with met := y.met ++ [i] }) kid 0 0))) ∧
      (target.toNat % 2 ^ 63 ≤ ofBytes bs % 2 ^ 63 → (¬ restMet k i ∨ k.depStall ≠ []) →
        exec e s = .next (modKernel u kid fun y => { y with met := y.met ++ [i], kst := .waiting }))) ∧
  (∀ (s : State) (kid : Nat) (k : Kernel), getKernel s kid = some k → k.kid = kid → k.kst = .completing → k.stall = none → k.signal = none →
    (∀ g ∈ s.groups, g.kid ≠ kid) →
    (k.pkt.doneaddr = 0 → ∃ t, exec (.kernelCompleting kid) s = .next t ∧ KernelGone t kid ∧ t.mem = s.mem ∧ t.queues = s.queues ∧
      t.contexts = s.contexts ∧ ∀ y ∈ s.kernels, y.kid ≠ kid → y ∈ t.kernels) ∧
    (k.pkt.doneaddr ≠ 0 → ∀ u pa bs, launchAccess ((List.range 128).foldl (fun u c => writeBack u c fun _ => true) s) k k.pkt.doneaddr .rmw 8
        = (.ok pa bs, u) → u.kernels = s.kernels → u.groups = s.groups → pa + 8 ≤ apertureBase →
      let failed := endState k.status.toNat ≠ .done ∨ 2 ^ 63 ≤ ofBytes bs
      let word := (ofBytes bs + k.pkt.doneval.toNat) % 2 ^ 63
      ∃ t, exec (.kernelCompleting kid) s = .next t ∧ KernelGone t kid ∧
        ((failed → t.mem = (memPutNat u pa 8 (word + 2 ^ 63)).mem) ∧ (¬ failed → t.mem = (memPutNat u pa 8 word).mem)))) ∧
  (∀ (s : State) (kid : Nat) (k : Kernel), getKernel s kid = some k → k.kid = kid →
    let x := queueOfCtx s k.ctx k.q
    let late := modKernel s kid fun k => { k with late := true }
    (s.chron.ns.toNat ≤ k.pkt.deadline.toNat ∨ k.late = true ∨ bits x.cfg 5 4 = 1 → exec (.deadlineMiss kid) s = .next s) ∧
    (k.pkt.deadline.toNat < s.chron.ns.toNat → k.late = false → bits x.cfg 5 4 ≠ 1 → k.pkt.marker = false → ctxActive s k.ctx = true →
      (k.kst = .dispatching ∨ k.kst = .running → Answers (.deadlineMiss kid) s late) ∧
      (k.kst = .queued ∨ k.kst = .waiting ∨ k.kst = .armed →
        (x.cfg.getLsbD 6 = false → Answers (.deadlineMiss kid) s late) ∧
        (x.cfg.getLsbD 6 = true → ∃ t y, exec (.deadlineMiss kid) s = .next t ∧ getKernel t kid = some y ∧ y.kst = .completing ∧
          y.status = 6 ∧ y.late = true))))

namespace Sys2Proof.Rules

/-! ### Launcher, placement and pre-emption (R127-R161) -/

/-- The number and status of the first check of R135 that a descriptor of a kernel fails. -/
def failedCheck (s : State) (k : Kernel) (b : List Byte) : Option (Nat × Nat) :=
  let at_ (o n : Nat) : Nat := ofBytes ((b.drop o).take n)
  let regs := if at_ 4 1 = 255 then 256 else at_ 4 1
  let fits (sp : Nat) : Prop := ceilDiv (at_ 6 2) sp * regs ≤ 1024
  let sh := shapeOfDesc (descOf b)
  if at_ 0 2 ≠ 1 ∨ 32 ≤ at_ 2 1 ∨ 16 ≤ at_ 33 1 ∨ at_ 34 2 ≠ 0 ∨ at_ 48 80 ≠ 0 then some (2, 1)
  else if at_ 5 1 ∉ [8, 16, 32, 64] ∨ at_ 6 2 = 0 ∨ 256 < at_ 6 2 ∨ ¬ (at_ 4 1 = 255 ∨ (at_ 4 1 ≠ 0 ∧ at_ 4 1 % 8 = 0)) then some (3, 1)
  else if at_ 16 4 % 4 ≠ 0 ∨ at_ 20 4 % 4 ≠ 0 ∨ at_ 40 8 ≤ at_ 16 4 ∨ at_ 40 8 ≤ at_ 20 4 ∨ at_ 8 8 % 256 ≠ 0 then some (4, 1)
  else if 32 < at_ 32 1 ∨ 32 < ceilDiv (at_ 24 4) 98304 + ceilDiv (at_ 28 4) 98304 then some (5, 1)
  else if at_ 33 1 ≠ 0 ∧ (at_ 2 1).testBit 4 = false then some (6, 1)
  else if ¬ (fits 1 ∨ fits 2 ∨ fits 4) then some (7, 1)
  else if (at_ 2 1).testBit 1 = true ∧ (¬ fits 1 ∨ 128 < k.pkt.gridx * k.pkt.gridy * k.pkt.gridz) then some (8, 2)
  else if ((at_ 2 1).testBit 0 = true ∨ (at_ 2 1).testBit 1 = true) ∧
      cohortFits s (ctxFunc s k.ctx) sh ((at_ 2 1).testBit 1) (k.pkt.gridx * k.pkt.gridy * k.pkt.gridz) = false then some (9, 2)
  else none

/-- An EDF and a lottery kernel that may be selected. -/
def edfReady (s : State) (k : Kernel) : Prop := k ∈ s.kernels ∧ selectable s k = true ∧ edfKernel s k = true
def lotReady (s : State) (k : Kernel) : Prop := k ∈ s.kernels ∧ selectable s k = true ∧ edfKernel s k = false

/-- A queue of a context that a lottery opportunity may take. -/
def eligibleQ (s : State) (ctx q : Nat) : Bool :=
  s.kernels.any fun k => selectable s k && !edfKernel s k && k.ctx == ctx && k.q == q

/-- No EDF kernel has passed its deadline unseen (R127). -/
def noneLate (s : State) : Prop :=
  ∀ k ∈ s.kernels, k.pkt.deadline.toNat < s.chron.ns.toNat → k.late = true ∨ edfKernel s k = false ∨ k.pkt.marker = true ∨
    kernelOver k = true ∨ k.kst = .completing ∨ ctxActive s k.ctx = false

/-- Tickets of the eligible queues of a context below a number. -/
def ticketsBelow (s : State) (ctx n : Nat) : Nat :=
  (((List.range n).filter (eligibleQ s ctx)).map fun q => (queueOfCtx s ctx q).tickets.toNat).sum

/-- Latency and cost of a method in nanoseconds (R156). -/
def latencyNs (s : State) (g : Group) (m : Method) : Rat :=
  match m with
  | .drain => (drainBound s g : Rat) / (7 / 4)
  | .save => (recordSize g.shape : Rat) / 112
  | .flush => 250
def costNs (s : State) (g : Group) (m : Method) : Rat := match m with | .flush => (ranTime s g : Rat) | _ => latencyNs s g m

/-- Order of methods on a tie (R156). -/
def tieRank (m : Method) : Nat := match m with | .drain => 0 | .save => 1 | .flush => 2

/-- The method that R156 takes for a group under a bound, 0 for none. -/
def taken (s : State) (g : Group) (bound : Nat) (m : Method) : Prop :=
  let within (x : Method) : Prop := bound = 0 ∨ latencyNs s g x ≤ bound
  let best (p : Method → Prop) : Prop := p m ∧ ∀ x, p x → costNs s g m < costNs s g x ∨ costNs s g m = costNs s g x ∧ tieRank m ≤ tieRank x
  (best fun x => eligible s g x = true ∧ within x) ∨
    (¬ ∃ x, eligible s g x = true ∧ within x) ∧ best fun x => eligible s g x = true

def groupIn (m : Method) : GState := match m with | .drain => .draining | .save => .saving | .flush => .flushing

/-- SRSTATE of an executor at its creation (R83). -/
def seeded (seed : W32) (i : Nat) : W32 := if BitVec.ofNat 32 i ^^^ seed = 0 then 1 else BitVec.ofNat 32 i ^^^ seed

/-- A group record that no core has started (R138). -/
def recordOnly (g : Group) : Prop :=
  g = { groupFresh g.gid g.kid g.ctx g.lin g.shape g.vals with
        die := g.die, pcore := g.pcore, core0 := g.core0, victimOf := g.victimOf, haltPend := g.haltPend }

/-- Where an executor stands that was saved at a park or a join: it issues its instruction again (R158). -/
def reissued (r : Run) : Run := match r with | .reissue _ => .ready | r => r

/-- A group right after its placement (R83, R147). -/
def asPlaced (s : State) (g h : Group) (k : Kernel) (d : Desc) : Prop :=
  let seed : W32 := if 0 < k.pass ∧ (sget k.seeds g.lin.toNat).getLsbD 32 = true then (sget k.seeds g.lin.toNat).setWidth 32
    else (ctxReg s g.ctx 0x212).setWidth 32
  h.gst = .placing ∧ sget h.sregs 0 = k.pkt.args ∧ sget h.sregs 1 = k.pkt.reach.zeroExtend 64 ∧ sget h.sregs 2 = g.lin.zeroExtend 64 ∧
    (∀ n, 3 ≤ n → sget h.sregs n = 0) ∧ (∀ i < 8, sget h.h i = (ctxReg s g.ctx (0x208 + i)).setWidth 8) ∧ h.j = [] ∧ h.dq = [] ∧
    h.codeReach = d.codeReach ∧ h.sentry = d.codebase + BitVec.ofNat 64 d.sentry ∧
    h.pilot = { Thread.fresh with run := .ready, pc := d.codebase + BitVec.ofNat 64 d.pentry, srstate := seeded seed 65536 } ∧
    h.strands.length = g.shape.w * g.shape.d ∧
    (∀ i x, h.strands[i]? = some x → x = { Thread.fresh with srstate := seeded seed i }) ∧
    h.vals.tvec = ctxReg s g.ctx 0x210 ∧ h.vals.ptvec = ctxReg s g.ctx 0x216

end Sys2Proof.Rules

/-! ### Launcher -/

/-- R127-R129, R135: the kernel that a placement opportunity takes, EDF or lottery, and what the checks of its descriptor do; a kernel
that is late by then is dropped first where its queue has DROPLATE. -/
def Clauses.Arbitration : Prop :=
  (∀ (s u : State) (k : Kernel) (pa : Nat) (b : List Byte), s.kernels.find? unchecked = some k →
    launchAccess s k k.pkt.kdesc .read 256 = (.ok pa b, u) → b.length = 256 →
    (∀ n st, failedCheck u k b = some (n, st) → exec .placementOpportunity s = .next (finishKernel u k.kid st n)) ∧
    (failedCheck u k b = none → (b.getD 2 0).getLsbD 4 = false → exec .placementOpportunity s =
      .next (modKernel u k.kid fun k => { k with desc := some (descOf b), holdSince := u.chron.ns.toNat }))) ∧
  (∀ (s : State) (e : Kernel), s.kernels.find? unchecked = none → launcherRequest s = none → opportunity s = true → noneLate s → edfReady s e →
    (∀ k, edfReady s k → k ≠ e → Rules.earlier e k) → ((∀ k, ¬ lotReady s k) ∨ s.edfRun < 7) →
    exec .placementOpportunity s = .next (selectKernel { s with edfRun := min 7 (s.edfRun + 1) } e)) ∧
  (∀ (s u : State) (k : Kernel), s.kernels.find? unchecked = none → launcherRequest s = none → opportunity s = true → noneLate s →
    pickLottery s = some (k, u) → ((∀ e, ¬ edfReady s e) ∨ 7 ≤ s.edfRun) →
    exec .placementOpportunity s = .next (selectKernel { u with edfRun := 0 } k)) ∧
  (∀ (s : State) (k : Kernel), s.kernels.find? unchecked = none → launcherRequest s = none → opportunity s = true →
    (s.kernels.map (·.kid)).Nodup → k ∈ s.kernels → k.pkt.deadline.toNat < s.chron.ns.toNat → k.late = false → k.pkt.marker = false →
    edfKernel s k = true → ctxActive s k.ctx = true → (queueOfCtx s k.ctx k.q).cfg.getLsbD 6 = true →
    (k.kst = .queued ∨ k.kst = .waiting ∨ k.kst = .armed) →
    ∃ t y, exec .placementOpportunity s = .next t ∧ getKernel t k.kid = some y ∧ y.kst = .completing ∧ y.status = 6 ∧ y.late = true) ∧
  (∀ (s u : State) (k : Kernel), pickLottery s = some (k, u) → (∀ y ∈ s.kernels, y.q < 256) → (∀ c ∈ s.contexts, swf c.sys = true) →
    let ctx := k.ctx
    let x (q : Nat) : Queue := queueOfCtx s ctx q
    let step := lotStep ((ctxReg s ctx 0x215).setWidth 32)
    let total := ticketsBelow s ctx 256
    let kept := ctxReg u ctx 0x215 = ctxReg s ctx 0x215
    lotReady s k ∧ (∀ y, lotReady s y → y.ctx = ctx → y.q = k.q → k.kid ≤ y.kid) ∧ u.lotCtx = ctx ∧
      (∀ y, lotReady s y → s.lotCtx < y.ctx → s.lotCtx < ctx ∧ ctx ≤ y.ctx) ∧
      ((∀ y, lotReady s y → y.ctx ≤ s.lotCtx) → ∀ y, lotReady s y → ctx ≤ y.ctx) ∧
      (∀ q < 256, eligibleQ s ctx q = true → (queueOfCtx u ctx q).guard = if q = k.q then 0 else (x q).guard + 1) ∧
      ((∃ q < 256, eligibleQ s ctx q = true ∧ 65536 ≤ (x q).guard) →
        kept ∧ 65536 ≤ (x k.q).guard ∧ ∀ q < 256, eligibleQ s ctx q = true → 65536 ≤ (x q).guard → k.q ≤ q) ∧
      ((∀ q < 256, eligibleQ s ctx q = true → (x q).guard < 65536) →
        (total = 0 → kept ∧ ∀ q < 256, eligibleQ s ctx q = true → (x q).guard < (x k.q).guard ∨ (x q).guard = (x k.q).guard ∧ k.q ≤ q) ∧
        (total ≠ 0 → ctxReg u ctx 0x215 = step.zeroExtend 64 ∧ ticketsBelow s ctx k.q ≤ step.toNat % total ∧
          step.toNat % total < ticketsBelow s ctx k.q + (x k.q).tickets.toNat)))

/-- R138-R140: a die takes the next record of the kernel selected first, or passes its oldest on to a core of it; a core with an
empty list takes the younger half of the longest list of its die; a cohort's room, its save records among it, is reserved in one step, and
its groups start at once, all or none (R103, R108). -/
def Clauses.Dealing : Prop :=
  (∀ (s : State) (die : Nat) (g : Group) (l : List Group), die < 4 →
    sortBy (older s) ((dieHeld s die).filter fun g => ctxPlaces s g.ctx) = g :: l → dealCores s die ≠ [] →
    ∃ c ∈ dealCores s die, exec (.recordDeal die) s =
      .next { modGroup s g.gid (fun g => { g with pcore := some c }) with free := s.free + 1, asked := s.asked.filter (· ≠ c) }) ∧
  (∀ (s : State) (die : Nat) (k : Kernel) (d : Desc), die < 4 →
    ((∀ g ∈ dieHeld s die, ctxPlaces s g.ctx = false) ∨ dealCores s die = []) →
    dealable s die = some k → k.desc = some d → (dieHeld s die).length < 32 →
    ∃ g : Group, g = { groupFresh s.nextGid k.kid k.ctx (BitVec.ofNat 32 k.dealt) (shapeOfDesc d) g.vals with die := some die } ∧
      exec (.recordDeal die) s = .next (modKernel { s with nextGid := s.nextGid + 1, groups := s.groups ++ [g] } k.kid
        fun k => { k with dealt := k.dealt + 1 })) ∧
  (∀ (s : State) (core v : Nat), coreUsable s core = true → pendingList s core = [] → (s.groups.map (·.gid)).Nodup →
    v / 32 = core / 32 → (∀ c, c / 32 = core / 32 → (pendingList s c).length < (pendingList s v).length ∨
      (pendingList s c).length = (pendingList s v).length ∧ v ≤ c) → pendingList s v ≠ [] →
    let l := pendingList s v
    ∃ t, exec (.stealRequest core) s = .next t ∧ t = { s with groups := t.groups, asked := s.asked.filter (· ≠ core) ++ [core] } ∧
      ∀ gid g, getGroup s gid = some g → getGroup t gid =
        some (if g ∈ l.drop (l.length / 2) then { g with pcore := some core } else g)) ∧
  (∀ (s : State) (core : Nat), (∀ c, c / 32 = core / 32 → pendingList s c = []) →
    exec (.stealRequest core) s = .next { s with asked := s.asked.filter (· ≠ core) ++ [core] }) ∧
  (∀ (s : State) (kid : Nat) (k : Kernel) (d : Desc), getKernel s kid = some k → k.kid = kid → cohortWaits k = true → k.desc = some d →
    (ctxPlaces s k.ctx = false ∨ cohortPlan s k = none → exec (.cohortReservation kid) s = .next s) ∧
    (∀ l, ctxPlaces s k.ctx = true → cohortPlan s k = some l → (∀ g ∈ s.groups, g.kid ≠ kid ∧ g.gid < s.nextGid) →
      (controlPoisoned s k.ctx = true → exec (.cohortReservation kid) s = .next (raiseCtxFatal s k.ctx 1)) ∧
      (controlPoisoned s k.ctx = false → reserveCohort s k l = none → Answers (.cohortReservation kid) s
        (if k.spaceLogged then s else modKernel s kid fun k => { k with spaceLogged := true })) ∧
      (controlPoisoned s k.ctx = false → ∀ t, reserveCohort s k l = some t → exec (.cohortReservation kid) s = .next t ∧
        ∃ y, getKernel t kid = some y ∧ y.cohort = true ∧ (k.kst = .dispatching → l ≠ [] → y.kst = .running) ∧
        y.dealt = k.pkt.gridx * k.pkt.gridy * k.pkt.gridz ∧ (t.groups.filter fun g => g.kid == kid).length = y.dealt ∧
        ∀ i e, l[i]? = some e → ∃ g ∈ t.groups, g.kid = kid ∧ g.gid = s.nextGid + i ∧ g.lin = BitVec.ofNat 32 i ∧ g.gst = .placing ∧
          g.cores = e.2 ∧ g.part = e.1.part ∧ g.lane0 = e.1.lane0 ∧ g.regbase = e.1.base)) ∧
    (k.waitLogged = false → k.holdSince + 1000000 ≤ s.chron.ns.toNat →
      Answers (.cohortWait kid) s (modKernel s kid fun k => { k with waitLogged := true })) ∧
    (k.waitLogged = true ∨ s.chron.ns.toNat < k.holdSince + 1000000 → exec (.cohortWait kid) s = .next s))

/-! ### Groups -/

/-- R108, R147-R149, R159, R160, R500: a record starts, a saved group comes back, a placed group runs or, where its die is hot, is
pre-empted, a group that has ended retires, a flushed one is a record again. -/
def Clauses.GroupLives : Prop :=
  (∀ (s u : State) (core gid r : Nat) (g : Group) (k : Kernel) (d : Desc) (p : Pos) (cs : List Nat), getGroup s gid = some g →
    recordOnly g → g.gid = gid → (pendingList s core).find? (fun g => ctxPlaces s g.ctx) = some g → canStart s g core = true →
    startAt s g core = some (p, cs) → controlPoisoned s g.ctx = false → getKernel s g.kid = some k → k.desc = some d → convoyOfKernel s g.kid = none → allocSave s g.ctx (recordSize g.shape) = some (r, u) →
    ∃ t h y, exec (.recordStart core gid) s = .next t ∧ getGroup t gid = some h ∧ asPlaced s g h k d ∧ h.cores = cs ∧ h.part = p.part ∧
      h.lane0 = p.lane0 ∧ h.regbase = p.base ∧ h.saveRec = r ∧ getKernel t g.kid = some y ∧
      y.kst = (if k.kst = .dispatching then .running else k.kst)) ∧
  (∀ (s : State) (core gid : Nat) (g : Group) (k : Kernel) (p : Pos) (cs : List Nat), getGroup s gid = some g →
    g.gid = gid → (pendingList s core).find? (fun g => ctxPlaces s g.ctx) = some g → canStart s g core = true →
    startAt s g core = some (p, cs) → g.cores = [] → g.gst = .pending → getKernel s g.kid = some k → k.desc.isSome = true → k.kid = g.kid →
    (controlPoisoned s g.ctx = true → exec (.recordStart core gid) s = .next (raiseCtxFatal s g.ctx 1)) ∧
    (controlPoisoned s g.ctx = false → allocSave s g.ctx (recordSize g.shape) = none → Answers (.recordStart core gid) s (if k.spaceLogged then s else modKernel s g.kid fun k => { k with spaceLogged := true }))) ∧
  (∀ (s : State) (core gid : Nat) (g : Group) (p : Pos) (cs : List Nat), getGroup s gid = some g → g.gid = gid → g.gst = .descheduled →
    ctxPlaces s g.ctx = true → convoyOfKernel s g.kid = none → g.accMap = [] →
    (List.range 128).findSome? (fun c => roomAt s g c) = some (p, cs) →
    (∀ w, 8 * w < tailOff g.shape → memGet s (g.saveRec + 8 * w) 8 = imageLive s g (8 * w) 8) →
    ∃ t, exec (.recordStart core gid) s = .next t ∧ t.mem = s.mem ∧ t.kernels = s.kernels ∧ getGroup t gid = some
      { g with gst := .placing, cores := cs, die := cs.head?.map (· / 32), part := p.part, lane0 := p.lane0, regbase := p.base,
               ranSince := s.chron.ns.toNat, victimOf := none }) ∧
  (∀ (s : State) (gid : Nat) (g : Group), getGroup s gid = some g → g.gid = gid → g.gst = .placing → convoyOfKernel s g.kid = none →
    g.saved = false → (∀ c ∈ g.cores, c / 32 ∉ s.mgmt.hotDies) → (∀ h ∈ s.groups, h.kid = g.kid → h.gst ≠ .saving) →
    ∃ t, exec (.placementReady gid) s = .next t ∧ getGroup t gid = some
      { g with gst := if g.haltPend then .halted else .running, haltPend := false
               pilot := { g.pilot with stopped := g.haltPend, run := reissued g.pilot.run }
               strands := g.strands.map fun x => { x with stopped := g.haltPend, run := reissued x.run } } ∧
      ∀ d ∈ t.gated, d ∈ s.gated ∧ ∀ c ∈ g.cores, c / 32 ≠ d) ∧
  (∀ (s : State) (gid : Nat) (g : Group) (k : Kernel), getGroup s gid = some g → g.gid = gid → g.gst = .placing →
    convoyOfKernel s g.kid = none → g.saved = false → g.haltPend = false → getKernel s g.kid = some k → isCohort k = false →
    (∃ c ∈ g.cores, c / 32 ∈ s.mgmt.hotDies) →
    ∃ t h, exec (.placementReady gid) s = .next t ∧ getGroup t gid = some h ∧ h.gst = .saving ∧ h.cores = g.cores) ∧
  (∀ (s : State) (gid : Nat) (g : Group) (k : Kernel), getGroup s gid = some g → g.gid = gid → getKernel s g.kid = some k →
    convoyOfKernel s g.kid = none → (g.gst = .running ∨ g.gst = .draining ∨ g.gst = .saving) →
    let done := g.pilot.run = .exited ∧ (∀ x ∈ g.strands, x.run = .exited) ∧ g.stq = [] ∧ ∀ o ∈ s.engineQ, o.gid ≠ gid
    (done → ∃ t h y, exec (.groupRetire gid) s = .next t ∧ getGroup t gid = some h ∧ h.gst = .retired ∧ h.strands = [] ∧ h.cores = [] ∧
      getKernel t g.kid = some y ∧ y.ended = k.ended + 1 ∧ y.faulted = k.faulted) ∧
    (¬ done → exec (.groupRetire gid) s = .next s)) ∧
  (∀ (s : State) (gid : Nat) (g : Group), getGroup s gid = some g → g.gid = gid →
    (g.gst ≠ .flushing → exec (.flushComplete gid) s = .next s) ∧
    (g.gst = .flushing → ∃ t, exec (.flushComplete gid) s = .next t ∧ (∀ o ∈ t.engineQ, o.gid ≠ gid) ∧ getGroup t gid = some
      { groupFresh g.gid g.kid g.ctx g.lin g.shape g.vals with
        die := g.die, core0 := g.cores.headD g.core0, victimOf := g.victimOf, haltPend := g.haltPend }))

/-- R155-R158, R265: the method that a request takes; the ends of a drain and of a save. -/
def Clauses.Preemption : Prop :=
  (∀ (s : State) (gid bound : Nat) (launcher : Bool) (g : Group) (k : Kernel), getGroup s gid = some g → g.gid = gid →
    getKernel s g.kid = some k → isCohort k = false → (s.groups.map (·.gid)).Nodup →
    (g.gst = .running → ∃ m, Rules.taken s g bound m ∧ Answers (.preemptRequest gid bound launcher) s (modGroup s gid fun g =>
      { g with gst := groupIn m, ranNs := ranTime s g, preempt := some (s.chron.ns.toNat, bound), victimOf := none })) ∧
    (g.gst = .halted → Answers (.preemptRequest gid bound launcher) s (modGroup s gid fun g =>
      { g with gst := .saving, haltPend := true, ranNs := ranTime s g, preempt := some (s.chron.ns.toNat, bound), victimOf := none })) ∧
    (g.gst = .draining → ¬ Rules.taken s g bound .save → Answers (.preemptRequest gid bound launcher) s s) ∧
    (g.gst = .draining → Rules.taken s g bound .save → Answers (.preemptRequest gid bound launcher) s (modGroup s gid fun g =>
      { g with gst := .saving, ranNs := ranTime s g, preempt := some (s.chron.ns.toNat, bound), victimOf := none })) ∧
    (g.gst ∉ [.running, .halted, .draining] → exec (.preemptRequest gid bound launcher) s = .next s)) ∧
  (∀ (s : State) (gid : Nat) (g : Group) (at_ bound : Nat), getGroup s gid = some g → g.gid = gid → g.preempt = some (at_, bound) →
    (s.groups.map (·.gid)).Nodup →
    (g.gst = .draining → (drainBound s g : Rat) / (7 / 4) ≤ ((s.chron.ns.toNat - at_ : Nat) : Rat) →
      Answers (.drainOverrun gid) s (modGroup s gid fun g => { g with gst := .saving })) ∧
    ((g.gst ≠ .draining ∨ ((s.chron.ns.toNat - at_ : Nat) : Rat) < (drainBound s g : Rat) / (7 / 4)) → exec (.drainOverrun gid) s = .next s) ∧
    (g.gst = .saving → bound ≠ 0 → at_ + bound < s.chron.ns.toNat → (∃ o ∈ s.engineQ, o.gid = gid ∧ o.stall.isSome = true) →
      Answers (.boundMissed gid) s (modGroup s gid fun g => { g with preempt := some (at_, 0) })) ∧
    ((g.gst ≠ .saving ∨ bound = 0 ∨ s.chron.ns.toNat ≤ at_ + bound) → exec (.boundMissed gid) s = .next s)) ∧
  (∀ (s : State) (gid : Nat) (g : Group), getGroup s gid = some g → g.gid = gid → g.gst = .saving → quiet s g = true →
    convoyOfKernel s g.kid = none →
    (exec (.saveComplete gid false) s = .next { s with agenda := .event (.contextFault g.ctx 5) :: s.agenda }) ∧
    ((∀ x ∈ g.strands, x.caps = none) →
      ∃ t h, exec (.saveComplete gid true) s = .next t ∧ getGroup t gid = some h ∧ h.gst = .descheduled ∧ h.cores = [] ∧
        h.saved = true ∧ h.sregs = g.sregs ∧ h.scratch = g.scratch ∧ h.acc = g.acc ∧
        (∀ (i : Nat) (x y : Thread), g.strands[i]? = some x → h.strands[i]? = some y → y.regs = x.regs ∧ y.preds = x.preds ∧ y.flags = x.flags ∧
          (∀ c, x.run = .parked c → y.run = .reissue false) ∧
          (∀ n, x.run = .stalled (.fence n) → y.pc = n ∧ y.run = .ready) ∧ ((∀ n, x.run ≠ .stalled (.fence n)) → y.pc = x.pc)))) ∧
  (∀ (s : State) (gid : Nat) (written : Bool) (g : Group), getGroup s gid = some g → (g.gst ≠ .saving ∨ quiet s g = false) →
    exec (.saveComplete gid written) s = .next s)

namespace Sys2Proof.Rules

/-! ### Collectives (R419-R437, R504) -/

/-- Id, generation and chunk that a packet names. -/
def useId (p : Packet) : Nat := bits p.aux 9 0
def useGen (p : Packet) : BitVec 16 := BitVec.ofNat 16 (bits p.aux 31 16)
def useChunk (p : Packet) : Nat := bits p.aux 47 32

/-- This device's own generation of an id. -/
def genOf (u : State) (ctx id : Nat) : BitVec 16 := match getView u ctx id with | some v => v.gen | none => 0

/-- A packet that answers another under a tag of the port: it carries this device's generation, and the other's beside it (R422). -/
def replyTo (u : State) (port : Nat) (p : Packet) (msg : CollMsg) : Packet :=
  let o := takeTag u (1040 + port)
  { pkt0 o.2 p.srank .collCtl 3 p.ctx o.1 with
    aux := setFld p.aux 31 16 (genOf u p.ctx (useId p)).toNat, msg := msg, opnd := (useGen p).setWidth 128 }

/-- The delivery acknowledgement of a packet leaves (R504). -/
def confirming (u : State) (port : Nat) (p : Packet) : State :=
  sendPacket (takeTag u (1040 + port)).2 (replyTo u port p .confirm)

/-- The answer to a probe leaves, as a packet that is itself confirmed (R434, R504). -/
def answering (u : State) (port : Nat) (p : Packet) : State :=
  sendPacket (modView (takeTag u (1040 + port)).2 p.ctx (useId p) fun v => { v with unconf := v.unconf ++ [p.srank] })
    (replyTo u port p .probeAnswer)

/-- A packet is kept: one of a newer use without its slots, another with them (R423, R428). -/
def keeping (u : State) (port : Nat) (p : Packet) (slots : Bool) : State :=
  modCtx u p.ctx fun c => { c with held := c.held ++ [(port, slots, p)] }

/-- One target of the contribution with a tag has acknowledged it: ACKED counts a contribution once every target of it has (R431). -/
def acknowledged (x wake : BitVec 48) (c : Chunk) : Chunk :=
  match c.awaiting.find? fun e => e.1 == x with
  | none => { c with wake := wake }
  | some e =>
    let a := if e.2 ≤ 1 then c.acked + 1 else c.acked
    { c with awaiting := if e.2 ≤ 1 then c.awaiting.erase e else c.awaiting.map fun y => if y.1 == x then (y.1, y.2 - 1) else y
             acked := a, wake := wake, status := if a = c.sent ∧ c.status = 1 then 2 else c.status }

/-- A packet arrives for this device, whose context takes it, and no packet is held there. -/
def Arrives (s : State) (port : Nat) (p : Packet) : Prop :=
  Delivered s port p ∧ ∃ c, getCtx s p.ctx = some c ∧ (c.cst = .created ∨ c.cst = .active ∨ c.cst = .switchedOut) ∧ c.held = []

/-- The packet belongs to the present use of a view that accepts contributions and waits on nothing. -/
def Current (u : State) (p : Packet) (v : CollView) : Prop :=
  getView u p.ctx (useId p) = some v ∧ v.gen = useGen p ∧ (v.vst = .opened ∨ v.vst = .active) ∧ v.stall = none

/-- The view has FAILED: its open records are resolved, and no step and no held packet of the use is left (R435). -/
def HasFailed (t : State) (ctx id : Nat) (v : CollView) : Prop :=
  (∃ w, getView t ctx id = some w ∧ w.vst = .failed ∧ w.members = v.members ∧ w.chunks.length = v.chunks.length ∧
    ∀ (i : Nat) (c d : Chunk), v.chunks[i]? = some c → w.chunks[i]? = some d →
      d = (if 8 ≤ c.status.toNat then c else { c with status := if c.sent ≠ 0 ∧ c.acked = c.sent then 9 else 10, wake := d.wake })) ∧
  (∀ r ∈ t.redQ, ¬ (r.ctx = ctx ∧ r.id = id)) ∧
  ∀ c, getCtx t ctx = some c → ∀ h ∈ c.held, ¬ (useId h.2.2 = id ∧ useGen h.2.2 = v.gen)

/-- The step at the head of a stack's queue is gone. -/
def stepGone (u : State) (stack : Nat) : State := { u with redQ := u.redQ.eraseP fun q => q.stack == stack }

/-- What one part of a step leaves in its chunk besides the buffer: the bitmap's bit at a contribution's first step, the flags, the
mark of a failed contribution, and the elements that hold a result now (R429). -/
def stepped (r : RedStep) (q : RedPart) (fl : BitVec 6) (x : Chunk) : Chunk :=
  { x with begun := if r.first = true ∧ ∀ e ∈ x.begun, e.1 ≠ r.ordinal then x.begun ++ [(r.ordinal, r.wake)] else x.begun
           flags := x.flags ||| fl, error := x.error || r.failed
           touched := x.touched ++ ((List.range q.codes.length).map (q.elem + ·)).filter fun e => !x.touched.contains e }

/-- A step of one part has combined its elements with the buffer at a place, under the tag of its stack; a record whose flags have changed is
written (R428-R430). -/
def combined (u : State) (r : RedStep) (v : CollView) (c : Chunk) (q : RedPart) (pa : Nat) : State :=
  let o := takeTag (stepGone u r.stack) (1024 + r.stack)
  let z := combinePart o.2 (fmtEntry r.fmt) q v.desc c pa
  flushView (modView (homeWrite o.2 none pa z.1 o.1) r.ctx r.id fun w =>
    let w := { w with chunks := modNth w.chunks r.chunk (stepped r q z.2) }
    if c.flags ||| z.2 = c.flags then w else mark w [r.chunk]) r.ctx r.id

/-- The operators of R429 on integers: sum, maximum, minimum, or, and. -/
def reduced (op w acc x : Nat) : Nat :=
  let si (y : Nat) : Int := (BitVec.ofNat w y).toInt
  (match op with
  | 1 => BitVec.ofNat w acc + BitVec.ofNat w x
  | 2 => BitVec.ofInt w (max (si acc) (si x))
  | 3 => BitVec.ofInt w (min (si acc) (si x))
  | 4 => BitVec.ofNat w acc ||| BitVec.ofNat w x
  | _ => BitVec.ofNat w acc &&& BitVec.ofNat w x).toNat

/-- The silence of a member device: no route, or no answer for half the budget (R434). -/
def silent (s : State) (v : CollView) (r : BitVec 12) : Prop :=
  reachable s r = false ∨ (cBudget v.desc ≠ 0 ∧ ∃ e, v.heard.find? (fun e => e.1 == r) = some e ∧
    e.2.toNat + cBudget v.desc / 2 ≤ s.chron.ns.toNat)

end Sys2Proof.Rules

/-! ### Collectives -/

/-- R421, R425, R426: what COLLOPEN and COLLCLOSE answer, and what they leave. -/
def Clauses.CollectiveUse : Prop :=
  ∀ (f : Fields) (s : State) (v : View), Solo s f v → v.who = .pilot →
    let d := blockOf v 8
    let id := bits (d.getD 4 0) 9 0
    let w := getView s v.g.ctx id
    let gen := match w with | some w => w.gen.toNat | none => 0
    let tells (st : Nat) : Prop := exec (.collopen f) s = .next (issued s v fun u => give u v 64 (gen * 2 ^ 16 + st))
    let sound : Prop := bits (d.getD 4 0) 25 24 = 0 → formatPoisoned (past s v) v.g.ctx (bits (d.getD 4 0) 21 16) = false
    let bad := malformed (past s v) v.g.ctx d
    (¬ sound → exec (.collopen f) s = .next (issued s v fun u =>
      raiseCtxFatal (modThread u (vid v) fun t => { t with pc := v.t.pc }) v.g.ctx 2)) ∧
    (sound → bad = true → tells 3) ∧
    (∀ x : CollView, sound → bad = false → w = some x →
      (x.vst = .draining → tells 2) ∧ (x.vst = .failed → tells 5) ∧
      ((x.vst = .opened ∨ x.vst = .active) →
        (x.desc ≠ descKey d ∨ ∃ m ∈ x.members, m.rank = s.rank ∧ m.midx = bits (d.getD 3 0) 34 32 ∧ m.mst ≠ 0) → tells 4)) ∧
    (∀ u, sound → bad = false → (w = none ∨ ∃ x : CollView, w = some x ∧ x.vst = .closed) → recordArea (past s v) v d = (true, u) →
      let old := (getView u v.g.ctx id).getD (viewFresh id)
      let t := putView u v.g.ctx (viewOpened u old d)
      let o := setView t v.g.ctx id .opened 0
      let z := releaseHeld (flushView (joinUse o.2 v.g id (bits (d.getD 3 0) 34 32) d o.1) v.g.ctx id) v.g.ctx
      exec (.collopen f) s = .next (issued s v fun _ =>
        give z v 64 ((match getView z v.g.ctx id with | some x => x.gen.toNat | none => 0) * 2 ^ 16))) ∧
    (∀ (x : CollView) u, sound → bad = false → w = some x → (x.vst = .opened ∨ x.vst = .active) → x.desc = descKey d →
      (∀ m ∈ x.members, m.rank = s.rank → m.midx = bits (d.getD 3 0) 34 32 → m.mst = 0) → recordArea (past s v) v d = (true, u) →
      getView u v.g.ctx id = some x →
      let o := setView u v.g.ctx id x.vst 0
      exec (.collopen f) s = .next (issued s v fun _ =>
        give (flushView (joinUse o.2 v.g id (bits (d.getD 3 0) 34 32) d o.1) v.g.ctx id) v 64
          ((match getView (flushView (joinUse o.2 v.g id (bits (d.getD 3 0) 34 32) d o.1) v.g.ctx id) v.g.ctx id with
            | some x => x.gen.toNat | none => 0) * 2 ^ 16 + 1))) ∧
    let n := readB v 32 % 1024
    let y := getView s v.g.ctx n
    ((y = none ∨ ∃ x : CollView, y = some x ∧ (x.vst = .closed ∨ x.vst = .draining ∨ ∀ m ∈ x.members, m.gid ≠ some v.g.gid ∨ m.mst ≠ 1)) →
      exec (.collclose f) s = .next (issued s v fun u => give u v 64 2)) ∧
    (∀ x : CollView, y = some x → (x.vst = .opened ∨ x.vst = .active ∨ x.vst = .failed) →
      let mine := x.members.filter fun m => m.gid == some v.g.gid && m.mst == 1
      mine ≠ [] →
      let ended (u : State) : State := if ∀ c ∈ x.chunks, 8 ≤ c.status.toNat then u else collFail u v.g.ctx n 4 s.rank 0
      let left (u : State) : State := modView (ended u) v.g.ctx n fun y =>
        { mine.foldl (fun y m => modMember_ y m.ordinal fun m => { m with mst := 2 }) y with sentBy := y.sentBy.filter fun g => g ≠ v.g.gid }
      let drained (u : State) : State := match getView (left u) v.g.ctx n with
        | some y => if ∀ m ∈ y.members, ¬ (m.gid.isSome = true ∧ m.mst = 1) then dropHeld (setView (left u) v.g.ctx n .draining 0).2 v.g.ctx n else left u
        | none => left u
      exec (.collclose f) s = .next (issued s v fun u => give (settleDrain (flushView (drained u) v.g.ctx n) v.g.ctx n 0) v 64
        (if x.vst = .failed ∨ ∃ c ∈ x.chunks, c.status.toNat < 8 then 1 else 0)))

/-- R422, R423, R425, R430, R431, R434, R504: what a packet of the present use does when it arrives, before it is confirmed: JOIN, ACK,
completion notice, FAIL and CLOSE; the confirmation, the probe and its answer; what becomes of a packet of another generation. -/
def Clauses.CollectivePackets : Prop :=
  ∀ (s : State) (port : Nat) (p : Packet), Arrives s port p → p.type = .collCtl →
    let u := landed s port p
    (∀ v, Current s p v →
      (p.msg = .fail → ∃ t, exec (.failNoticeReceive port p) s = .next t ∧ HasFailed t p.ctx v.id v) ∧
      (p.msg = .join →
        let midx := p.opnd.toNat % 8
        let desc := (wordsOf 8 p.payload).map (BitVec.ofNat 64)
        (desc ≠ v.desc ∨ p.srank ∉ cRanks v.desc ∨ cGpr v.desc ≤ midx → ∃ t, exec (.joinReceive port p) s = .next t ∧ HasFailed t p.ctx v.id v) ∧
        (desc = v.desc → p.srank ∈ cRanks v.desc → midx < cGpr v.desc → exec (.joinReceive port p) s = .next
          (confirming (flushView (modView u p.ctx v.id fun x => modMember_ x ((cRanks x.desc).idxOf p.srank * cGpr x.desc + midx) fun m =>
            { m with mst := 1, group := BitVec.ofNat 32 (p.opnd.toNat / 2 ^ 32), jstamp := u.chron.ns, wake := p.wake }) p.ctx v.id) port p))) ∧
      (p.msg = .ack → exec (.addAckReceive port p) s = .next
        (confirming (flushView (modView u p.ctx v.id fun x =>
          modChunk x (useChunk p) (acknowledged (p.opnd.setWidth 48) p.wake)) p.ctx v.id) port p)) ∧
      (p.msg = .notice → ∀ c, v.chunks[useChunk p]? = some c →
        (8 ≤ c.status.toNat → exec (.completionNoticeReceive port p) s = .next (confirming u port p)) ∧
        (c.status.toNat < 8 → p.payload = [] → p.opinfo.getLsbD 19 = true → exec (.completionNoticeReceive port p) s = .next
          (confirming (flushView (modView u p.ctx v.id fun x => modChunk x (useChunk p) fun c =>
            { c with contrib := p.opnd.setWidth 16, flags := (p.opnd >>> 16).setWidth 6, status := (p.opnd >>> 24).setWidth 4
                     wake := p.wake }) p.ctx v.id) port p)))) ∧
    (∀ v, getView s p.ctx (useId p) = some v → v.gen = useGen p →
      p.msg = .close → exec (.closeNoticeReceive port p) s = .next
        (confirming (settleDrain (modView u p.ctx v.id fun v => { v with closedBy := v.closedBy ++ [p.srank] }) p.ctx v.id p.wake) port p)) ∧
    (∀ v, getView s p.ctx (useId p) = some v → v.gen ≠ useGen p → p.msg = .fail →
      ((useGen p - v.gen).toNat < 2 ^ 15 → exec (.failNoticeReceive port p) s = .next (confirming (keeping u port p false) port p)) ∧
      (2 ^ 15 ≤ (useGen p - v.gen).toNat → ∃ t, exec (.failNoticeReceive port p) s = .next (confirming t port p) ∧ Noted u t)) ∧
    (∀ v, getView s p.ctx (useId p) = some v → exec (.deliveryAckReceive port p) s = .next
      (if v.gen = p.opnd.setWidth 16 then
        settleDrain (modView u p.ctx v.id fun v => { v with unconf := v.unconf.erase p.srank }) p.ctx v.id p.wake
      else u)) ∧
    (p.msg = .probe → exec (.probeReceive port p) s = .next (confirming (answering u port p) port p)) ∧
    (∀ v, p.msg = .probeAnswer → getView s p.ctx (useId p) = some v → exec (.probeReceive port p) s = .next
      (confirming (if v.gen = p.opnd.setWidth 16 then modView u p.ctx v.id fun v =>
        { v with heard := upsert (fun e => e.1 == p.srank) (p.srank, u.chron.ns) v.heard } else u) port p))

/-- R423, R428-R431: a contribution's packet becomes steps, at most one in each stack's queue, or waits while a queue is full; a second
contribution of a member and chunk is discarded. A queue's oldest step combines its elements with the buffer; one of a use that is over goes;
a fault holds it or fails the use, and a poisoned buffer is fatal to the context, under a cause that the spec does not give (log entry 12).
The last step counts its contribution. -/
def Clauses.Reduction : Prop :=
  (∀ (s : State) (port : Nat) (p : Packet) (v : CollView) (c : Chunk), Arrives s port p → p.type = .collData → Current s p v →
    v.vst = .active → v.chunks[useChunk p]? = some c → p.srank ∈ cRanks v.desc → bits p.opinfo 18 16 < cGpr v.desc →
    (cRedop v.desc ≠ 0 → cHome v.desc (useChunk p) = s.rank) →
    let u := landed s port p
    let o := (cRanks v.desc).idxOf p.srank * cGpr v.desc + bits p.opinfo 18 16
    let spent : Prop := 8 ≤ c.status.toNat ∨ ∃ e ∈ c.begun, e.1 = o ∧ e.2 ≠ p.wake
    let room : Prop := ∀ r ∈ packetSteps u v p,
      (u.redQ.filter fun q => q.stack == r.stack).length + ((packetSteps u v p).filter fun q => q.stack == r.stack).length ≤ 256
    ((packetSteps u v p).map (·.stack)).Nodup ∧
    (spent → ∃ t, exec (.colldataReceive port p) s = .next (confirming (freeKept t port p) port p) ∧ Noted u t) ∧
    (¬ spent → room → exec (.colldataReceive port p) s = .next
      (confirming (freeKept { u with redQ := u.redQ ++ packetSteps u v p } port p) port p)) ∧
    (¬ spent → ¬ room → exec (.colldataReceive port p) s = .next (confirming (keeping u port p true) port p))) ∧
  (∀ (s : State) (stack : Nat), (s.redQ.find? fun q => q.stack == stack) = none → exec (.reductionStep stack) s = .next s) ∧
  (∀ (s : State) (r : RedStep), (s.redQ.find? fun q => q.stack == r.stack) = some r →
    (r.stall.isSome = true → exec (.reductionStep r.stack) s = .next (releaseAll s)) ∧
    (r.stall = none →
      (getView s r.ctx r.id = none → exec (.reductionStep r.stack) s = .next (releaseAll (stepGone s r.stack))) ∧
      ∀ v, getView s r.ctx r.id = some v →
        (v.stall.isSome = true → exec (.reductionStep r.stack) s = .next (releaseAll s)) ∧
        (v.stall = none → (v.gen ≠ r.gen ∨ (v.vst ≠ .opened ∧ v.vst ≠ .active) ∨ v.chunks[r.chunk]? = none) →
          exec (.reductionStep r.stack) s = .next (releaseAll (stepGone s r.stack))) ∧
        ∀ c, v.stall = none → v.gen = r.gen → (v.vst = .opened ∨ v.vst = .active) → v.chunks[r.chunk]? = some c →
          (8 ≤ c.status.toNat ∨ acceptedTag s c r ≠ r.wake →
            ∃ t, exec (.reductionStep r.stack) s = .next (releaseAll t) ∧ Noted (stepGone s r.stack) t) ∧
          ∀ (q : RedPart) (a : DevRes) (u : State), c.status.toNat < 8 → acceptedTag s c r = r.wake → r.parts = [q] → cRedop v.desc ≠ 0 →
            r.ordinal ∉ c.ending → (r.last = true → c.contrib.toNat + 1 < cExpect v.desc) →
            let rs := if bits (v.desc.getD 4 0) 25 24 = 2 then 8 else 4
            checkRange s r.ctx (1024 + r.stack) r.refused (viewCapt s v) (cBreach v.desc) (bits (chunkVa v.desc r.chunk 0) 63 0 + rs * q.elem)
              (rs * q.codes.length) = (a, u) →
            (∀ tag, a = .hold tag → exec (.reductionStep r.stack) s = .next
              (releaseAll { u with redQ := replaceIf (fun q => q == r) (fun q => { q with stall := some tag }) u.redQ })) ∧
            (a = .bad → exec (.reductionStep r.stack) s = .next (releaseAll (collFail (stepGone u r.stack) r.ctx r.id 7 u.rank 0))) ∧
            (∀ pa, a = .ok pa → poisoned u pa (rs * q.codes.length) = true → ∃ x,
              exec (.reductionStep r.stack) s = .next (releaseAll (raiseCtxFatal (stepGone (tickFree u) r.stack) r.ctx x))) ∧
            (∀ pa, a = .ok pa → poisoned u pa (rs * q.codes.length) = false →
              (r.last = false → exec (.reductionStep r.stack) s = .next (releaseAll (combined u r v c q pa))) ∧
              (r.last = true → (s.redQ.filter (sameContribution r)).length = 1 → exec (.reductionStep r.stack) s = .next
                (releaseAll (countContribution (combined u r v c q pa) r (takeTag (stepGone u r.stack) (1024 + r.stack)).1))) ∧
              (r.last = true → (s.redQ.filter (sameContribution r)).length ≠ 1 → exec (.reductionStep r.stack) s = .next
                (releaseAll (modView (combined u r v c q pa) r.ctx r.id fun v =>
                  { v with chunks := modNth v.chunks r.chunk fun c => { c with ending := c.ending ++ [r.ordinal] } })))))) ∧
  (∀ (d : List W64) (e : FmtEntry) (acc x : Nat), bits (d.getD 4 0) 25 24 ≠ 0 → 1 ≤ bits (d.getD 4 0) 15 12 →
    acc < 2 ^ (if bits (d.getD 4 0) 25 24 = 2 then 64 else 32) →
    combineElem d e acc x none =
      (reduced (bits (d.getD 4 0) 15 12) (if bits (d.getD 4 0) 25 24 = 2 then 64 else 32) acc x, 0)) ∧
  (∀ (s : State) (r : RedStep) (tag : BitVec 48) (v : CollView) (c : Chunk), getView s r.ctx r.id = some v → (v.vst = .opened ∨ v.vst = .active) →
    v.chunks[r.chunk]? = some c →
    let t := countContribution s r tag
    ∃ w d, getView t r.ctx r.id = some w ∧ w.chunks[r.chunk]? = some d ∧ d.contrib = c.contrib + 1 ∧ r.ordinal ∈ d.added ∧
      (cExpect v.desc ≤ (c.contrib + 1).toNat → d.status = if c.error then 11 else 8) ∧
      ∀ (i : Nat) (m : CollMember), v.members[i]? = some m → ∃ n, w.members[i]? = some n ∧
        n = if i = r.ordinal ∧ cHome v.desc r.chunk = s.rank then { m with cdone := m.cdone + 1 } else m)

/-- R434, R437, R504: probes, the silence of a member device, the watchdog of contributions, and the CLOSE of a drained use. -/
def Clauses.CollectiveWatch : Prop :=
  ∀ (s : State) (ctx id : Nat),
    (getView s ctx id = none → exec (.livenessProbe ctx id) s = .next s ∧ exec (.collLate ctx id) s = .next s ∧
      exec (.closeNoticeSend ctx id) s = .next s ∧ ∀ r, exec (.probeTimeout ctx id r) s = .next s) ∧
    (∀ v, getView s ctx id = some v → v.id = id →
      let live := v.vst = .opened ∨ v.vst = .active
      let due := live ∧ cBudget v.desc ≠ 0 ∧ v.probed.toNat + cBudget v.desc / 4 ≤ s.chron.ns.toNat
      (¬ due → exec (.livenessProbe ctx id) s = .next s) ∧
      (due → ∃ t, exec (.livenessProbe ctx id) s = .next t ∧ getView t ctx id = some
        { v with probed := s.chron.ns, unconf := v.unconf ++ (cRanks v.desc).filter fun r => r != s.rank && !v.dead.contains r } ∧
        t.mem = s.mem ∧ t.groups = s.groups) ∧
      (∀ r, (r = s.rank ∨ r ∈ v.dead ∨ r ∉ cRanks v.desc ∨ ¬ silent s v r) → exec (.probeTimeout ctx id r) s = .next s) ∧
      (∀ r, r ≠ s.rank → r ∉ v.dead → r ∈ cRanks v.desc → live → silent s v r → (∀ (i : Nat) (m : CollMember), v.members[i]? = some m → m.ordinal = i) →
        ∃ t x, exec (.probeTimeout ctx id r) s = .next t ∧ getView t ctx id = some x ∧ x.vst = .failed ∧ x.dead = v.dead ++ [r] ∧
          (∀ (i : Nat) (m : CollMember), v.members[i]? = some m → x.members[i]? = some (if m.rank = r then { m with mst := 3 } else m)) ∧
          (∀ c ∈ x.chunks, 8 ≤ c.status.toNat) ∧ (∀ q ∈ t.redQ, ¬ (q.ctx = ctx ∧ q.id = id)) ∧
          ∀ c, getCtx t ctx = some c → ∀ h ∈ c.held, ¬ (useId h.2.2 = id ∧ useGen h.2.2 = v.gen)) ∧
      (∀ r, r ≠ s.rank → r ∉ v.dead → r ∈ cRanks v.desc → (v.vst = .draining ∨ v.vst = .failed) → reachable s r = false →
        ∃ t x, exec (.probeTimeout ctx id r) s = .next t ∧ getView t ctx id = some x ∧ x.dead = v.dead ++ [r]) ∧
      (latest s v = none → exec (.collLate ctx id) s = .next s) ∧
      ((cBudget v.desc = 0 ∨ v.lateLogged = true ∨ ¬ live) → exec (.collLate ctx id) s = .next s) ∧
      (∀ k m, s.mgmt.autofix = false → latest s v = some k → v.members[k.getD 5 0]? = some m →
        Answers (.collLate ctx id) s (modView s ctx id fun v => { v with lateLogged := true })) ∧
      ((v.vst ≠ .draining ∨ v.closeSent = true ∨ ∃ r ∈ v.unconf, r ∉ v.dead) → exec (.closeNoticeSend ctx id) s = .next s) ∧
      (v.vst = .draining → v.closeSent = false → (∀ r ∈ v.unconf, r ∈ v.dead) → ∃ t x, exec (.closeNoticeSend ctx id) s = .next t ∧
        getView t ctx id = some x ∧ x.closeSent = true ∧ (x.vst = .draining ∨ x.vst = .closed) ∧ t.mem = s.mem))

namespace Sys2Proof.Rules

/-! ### Links (R439-R450) -/

/-- A port that works, and one that does not go back to DOWN by losing its signal. -/
def works (q : Port) : Prop := q.lst = .up ∨ q.lst = .degraded ∨ q.lst = .replay

/-- Slots that a virtual channel has at a receiver (R441). -/
def slotsOf (vc : Nat) : Nat := if vc = 2 then 2048 else if vc = 3 then 128 else 512

/-- No barrier object here is the copy of one homed on another device. -/
def noMirror (s : State) : Prop := ∀ c ∈ s.contexts, ∀ b ∈ c.barriers, b.remoteHome = false

/-- The instruction answers a next state that keeps memory, contexts, groups and kernels, in which the port is as said. -/
def PortAfter (i : Instr) (s : State) (port : Nat) (q : Port) : Prop :=
  ∃ t, exec i s = .next t ∧ getPort t port = some q ∧ t.mem = s.mem ∧ t.contexts = s.contexts ∧ t.groups = s.groups ∧
    t.kernels = s.kernels ∧ (s.ports.map (·.num)).length = t.ports.length

/-- A port that has lost its link: nothing is kept for it, and it has no credit. A port that is DOWN trains again 100 ms later (R444). -/
def emptied (s : State) (q : Port) (st : LinkState) : Port :=
  { q with lst := st, downAt := if st = .down then s.chron.ns.toNat else q.downAt, retry := [], waiting := [], credits := [0, 0, 0, 0], returns := [0, 0, 0, 0], withheld := 0, lanes := 0 }

/-- A response to a remote request (R448). -/
def answered (u : State) (p : Packet) (st : Nat) (data : List Byte) : State :=
  let x := takeTag u (512 + homeSlice u p.addr.toNat)
  sendPacket x.2 { pkt0 x.2 p.srank (if p.type = .read then .rdata else .adata) 1 p.ctx x.1 with
    stat := BitVec.ofNat 8 st, tag := p.tag, payload := data }

/-- No TLBINV waits for a request (R277). -/
def noneInvalidates (s : State) (tag : W32) : Prop :=
  ∀ g ∈ s.groups, ∀ t ∈ g.pilot :: g.strands, ∀ l n, t.run = .stalled (.tlbinv l n) → tag ∉ l

/-- A request has ended: it is outstanding no longer, and a kernel whose completion signal it carried has its answer (R125). -/
def requestEnds (u : State) (tag : W32) (st : BitVec 8) : State :=
  { u with
    remotes := u.remotes.filter fun r => r.tag ≠ tag
    kernels := u.kernels.map fun k =>
      if u.remotes.any fun r => r.tag == tag && r.t == .inr k.kid then { k with signal := some (some st) } else k }

/-- The target accepts n bytes at a packet's address (R448): its context takes packets, and the bytes lie in its peer window. -/
def inWindow (u : State) (p : Packet) (n : Nat) : Prop :=
  (∃ c, getCtx u p.ctx = some c ∧ (c.cst = .created ∨ c.cst = .active ∨ c.cst = .switchedOut)) ∧
    65536 * bits (ctxReg u p.ctx 0x223) 51 16 ≤ p.addr.toNat ∧ inMain p.addr.toNat n = true ∧
    p.addr.toNat + n ≤ 65536 * bits (ctxReg u p.ctx 0x223) 51 16 + (ctxReg u p.ctx 0x224).toNat / 65536 * 65536

end Sys2Proof.Rules

/-! ### Links -/

/-- R125, R441, R448: what a received header, request or response does, and a request without response (the formats of semaphore
requests and completion signals: log entry 34). -/
def Clauses.RemoteTraffic : Prop :=
  (∀ (s : State) (port : Nat) (q : Port) (p : Packet), getPort s port = some q → q.lst = .up → q.waiting = [] → s.turning = [] →
    s.recctl = 0 → p.type = .slotOnly → (∀ n ∈ q.returns, n < 63) → plenOf p = 0 → (s.ports.map (·.num)).Nodup →
    ∃ t x, exec (.slotonlyReceive port p) s = .next t ∧ getPort t port = some x ∧ x.rcvd = q.rcvd + 1 ∧ x.lst = .up ∧
      (∀ v < 4, x.credits.getD v 0 = min (q.credits.getD v 0 + (p.sret.getD v 0).toNat) (slotsOf v)) ∧
      x.returns = modNth q.returns p.vc.toNat (· + 1) ∧ Noted { s with ports := t.ports } t) ∧
  (∀ (s : State) (port : Nat) (p : Packet), Delivered s port p →
    let u := landed s port p
    (p.type = .write →
      (inWindow u p p.payload.length → exec (.remoteRequestReceive port p) s = .next (homeWrite u none p.addr.toNat p.payload p.wake)) ∧
      (¬ inWindow u p p.payload.length → Answers (.remoteRequestReceive port p) s u)) ∧
    (p.type = .read → p.tag ≠ 0xFFFFFFFF →
      let n := 2 ^ bits p.opinfo 5 0
      ((¬ inWindow u p n ∨ 4096 < n) → exec (.remoteRequestReceive port p) s = .next (answered u p 1 [])) ∧
      (inWindow u p n → n ≤ 4096 → poisoned u p.addr.toNat n = true → exec (.remoteRequestReceive port p) s = .next (answered u p 2 [])) ∧
      (inWindow u p n → n ≤ 4096 → poisoned u p.addr.toNat n = false →
        exec (.remoteRequestReceive port p) s = .next (answered u p 0 (memGet u p.addr.toNat n)))) ∧
    (p.type = .atom → p.tag ≠ 0xFFFFFFFF →
      let n := 2 ^ bits p.opinfo 5 0
      let m := memGetNat u p.addr.toNat n
      let kind := bits p.opinfo 23 20
      let word (o k : Nat) : Nat := ofBytes ((p.payload.drop o).take k)
      ((¬ inWindow u p n ∨ 16 < n) → exec (.remoteRequestReceive port p) s = .next (answered u p 1 [])) ∧
      (inWindow u p n → n ≤ 16 → poisoned u p.addr.toNat n = true → exec (.remoteRequestReceive port p) s = .next (answered u p 2 [])) ∧
      (inWindow u p n → n ≤ 16 → poisoned u p.addr.toNat n = false →
        (kind = 0 → exec (.remoteRequestReceive port p) s = .next
          (answered (homeWrite u none p.addr.toNat (toBytes n (atomOf p n m).1) p.wake) p 0 ((atomOf p n m).2.flatMap (toBytes n)))) ∧
        (4 ≤ kind → exec (.remoteRequestReceive port p) s = .next (
          let old := memGetNat u p.addr.toNat 8
          let bad : Bool := decide (2 ^ 63 ≤ old) || word 21 1 == 1
          answered (homeWrite u none p.addr.toNat (toBytes 8 ((old % 2 ^ 63 + word 0 8 % 2 ^ 63) % 2 ^ 63 + (if bad then 2 ^ 63 else 0))) p.wake)
            p 0 (toBytes 8 old))))) ∧
    ((∀ r ∈ s.remotes, r.tag ≠ p.tag) → exec (.remoteResponseReceive port p) s = .next u) ∧
    (∀ w, (∃ r ∈ s.remotes, r.tag = p.tag) → waitersOf u p.tag = [w] → noneInvalidates s p.tag → exec (.remoteResponseReceive port p) s = .next
      (modThread (requestEnds u p.tag p.stat) w fun t =>
        { t with run := .ready, remote := some (p.stat, p.payload), lastwake := p.wake })) ∧
    ((∃ r ∈ s.remotes, r.tag = p.tag) → waitersOf u p.tag = [] → noneInvalidates s p.tag →
      exec (.remoteResponseReceive port p) s = .next (requestEnds u p.tag p.stat))) ∧
  (∀ (s : State) (tag : W32) (r : RemoteReq), s.remotes.find? (fun r => r.tag == tag) = some r →
    (s.chron.ns.toNat - r.since.toNat < 4000000 → exec (.remoteTimeout tag) s = .next s) ∧
    (4000000 ≤ s.chron.ns.toNat - r.since.toNat → (s.groups.map (·.gid)).Nodup → noneInvalidates s tag →
      ∃ t, exec (.remoteTimeout tag) s = .next t ∧ t.remotes = s.remotes.filter (fun r => r.tag ≠ tag) ∧ t.mem = s.mem ∧
        t.kernels = (requestEnds s tag 4).kernels ∧
        ∀ gid who g x, getGroup s gid = some g → getThread g who = some x → ∃ h, getGroup t gid = some h ∧
          getThread h who = some (if x.run = .stalled (.remote tag) then { x with run := .ready, remote := some (4, []), lastwake := 0 } else x)))

/-- R439, R444-R446: the states that a link passes through, the retries of its flits, and the fencing of a lane. -/
def Clauses.LinkStates : Prop :=
  ∀ (s : State) (port : Nat) (q : Port), getPort s port = some q → (s.ports.map (·.num)).Nodup → noMirror s →
    let same (i : Instr) : Prop := exec i s = .next s
    (q.lst = .down → q.trainOff = false → PortAfter (.trainingAttempt port) s port { q with lst := .training }) ∧
    ((q.lst ≠ .down ∨ q.trainOff = true) → same (.trainingAttempt port)) ∧
    ((q.lst = .up ∨ q.lst = .degraded ∨ q.lst = .training ∨ q.lst = .draining) → s.turning = [] → PortAfter (.lossOfSignal port) s port (emptied s q .down)) ∧
    ((q.lst = .down ∨ q.lst = .fenced ∨ q.lst = .replay) → same (.lossOfSignal port)) ∧
    (q.lst = .down → q.trainOff = false → q.downAt + 100000000 ≤ s.chron.ns.toNat → (dueTraining s).isSome = true) ∧
    (q.lst = .draining → q.retry = [] → q.waiting = [] → s.turning = [] → PortAfter (.linkDrainEnd port) s port (emptied s q .down)) ∧
    ((q.lst ≠ .draining ∨ q.retry ≠ [] ∨ q.waiting ≠ []) → same (.linkDrainEnd port)) ∧
    (∀ lanes peer, q.lst ≠ .training → same (.trainingComplete port lanes peer)) ∧
    (∀ lanes peer, q.lst = .training →
      let n := min lanes (8 - q.fencedLanes.length)
      (peer ≠ neighbour s.rank (port % 6) ∨ routeDir s peer ≠ some (port % 6) ∨ n < 4 → s.turning = [] →
        ∃ t, exec (.trainingComplete port lanes peer) s = .next t ∧ getPort t port = some (emptied s q .fenced) ∧ t.mgmt.service = true) ∧
      (peer = neighbour s.rank (port % 6) → routeDir s peer = some (port % 6) → 4 ≤ n → q.waiting = [] → ∃ x, PortAfter (.trainingComplete port lanes peer) s port x ∧
        x = { q with lst := if n = 8 then .up else .degraded, lanes := n, credits := x.credits } ∧
        (q.retry = [] → x.credits = [512, 512, 2048, 128]))) ∧
    (∀ lane, (¬ (works q ∨ q.lst = .draining) ∨ 8 ≤ lane) → same (.flitError port lane)) ∧
    let at_ := s.chron.ns.toNat
    let recent := q.laneRetries.filter fun e => decide (at_ < e.2 + 1000000)
    let fenced (x : Port) (lane : Nat) : Port :=
      { x with fencedLanes := q.fencedLanes ++ [lane], lanes := if q.lanes = 0 then 0 else 8 - (q.fencedLanes.length + 1)
               laneRetries := x.laneRetries.filter fun e => e.1 != lane, lst := if q.lst = .up ∨ q.lst = .degraded then .training else q.lst }
    let fences (i : Instr) (x : Port) (lane : Nat) : Prop := ∃ t, exec i s = .next t ∧ t.mgmt.fences = s.mgmt.fences ++ [.lane port lane] ∧
      t.mgmt.service = true ∧ getPort t port = some (fenced x lane)
    (∀ lane < 8, works q ∨ q.lst = .draining →
      let n := (recent.filter fun e => e.1 == lane).length + 1
      let x := { q with
        laneRetries := recent ++ [(lane, at_)]
        retryLogged := if (∃ m, q.retryLogged = some m ∧ at_ < m + 1000000) then q.retryLogged else some at_ }
      (n < 16 ∨ lane ∈ q.fencedLanes → Answers (.flitError port lane) s (modPort s port fun _ => x)) ∧
      (16 ≤ n → lane ∉ q.fencedLanes → fences (.flitError port lane) x lane)) ∧
    (∀ lane, let n := (recent.filter fun e => e.1 == lane).length
      ((lane ∈ q.fencedLanes ∨ n < 16) → same (.laneFence port lane)) ∧
      (lane ∉ q.fencedLanes → 16 ≤ n → fences (.laneFence port lane) q lane)) ∧
    (nextArrival s q = none → same (.replayDeliver port)) ∧
    (∀ r, nextArrival s q = some r → swf s.replayPos = true →
      let at_ := 4096 * bits s.recbase 51 12 + 64 * bits r.payload 31 0
      let p := parsePacket (memGet s at_ 64) (memGet s (at_ + 64) (64 * bits r.obj 6 0))
      ∃ t, exec (.replayDeliver port) s = .next t ∧ t.agenda = (packetEvents s port p).map Turn.event ++ s.agenda ∧
        t = { s with replayPos := t.replayPos, agenda := t.agenda } ∧ sget t.replayPos (2 * port + 1) = sget s.replayPos (2 * port + 1) + 1)

/-! ### Host port and chronometer -/

/-- R118, R126, R451-R454: what a read of a host page gives; a page of a slot without a context reads zero; where the pages lie. -/
def Clauses.HostReads : Prop :=
  ∀ (s : State) (func : Nat), func < 16 →
    (∀ slot, slotCtx s func slot = none → ∀ o q, pageRead s func (.trigger slot) o = 0 ∧ pageRead s func (.context slot) o = 0 ∧
      pageRead s func (.queue slot q) o = 0) ∧
    (∀ slot c, slotCtx s func slot = some c →
      (∀ n < 256, pageRead s func (.trigger slot) (8 * n) = sget c.trig n ∧ pageRead s func (.trigger slot) (0x800 + 8 * n) = sget c.trig n) ∧
      (∀ n < 256, n ≠ 0x1B → pageRead s func (.context slot) (8 * n) = ctxReg s c.num (0x200 + n)) ∧
      pageRead s func (.context slot) 0x0D8 = 0 ∧
      (∀ q < 256,
        let x := queueOfCtx s c.num q
        pageRead s func (.queue slot q) 0x000 = x.cfg ∧ pageRead s func (.queue slot q) 0x008 = x.tickets.setWidth 64 ∧
        pageRead s func (.queue slot q) 0x010 = x.wridx.setWidth 64 ∧ pageRead s func (.queue slot q) 0x018 = x.rdidx.setWidth 64 ∧
        bits (pageRead s func (.queue slot q) 0x020) 2 0 =
          (match x.qst with | .disabled => 0 | .enabled => 1 | .suspended => 2 | .draining => 3 | .error => 4) ∧
        ∀ o, 0x028 ≤ o → pageRead s func (.queue slot q) o = 0)) ∧
    (func ≠ 0 → ∀ o, pageRead s func .control o = 0) ∧
    (s.mgmt.recovery = true → ∀ o, pageRead s func .function o = 0) ∧
    (s.mgmt.recovery = false → pageRead s func .function 0x008 = (getFunc s func).ctxarg ∧
      pageRead s func .function 0x018 = (getFunc s func).intcause.setWidth 64 ∧ pageRead s func .function 0x000 = 0) ∧
    pageRead s 0 .control 0x820 = s.rank.setWidth 64 ∧ pageRead s 0 .control 0x828 = 0 ∧
    pageRead s 0 .control 0x830 = s.mgmt.powcap.setWidth 64 ∧ pageRead s 0 .control 0x010 = 0 ∧ pageRead s 0 .control 0x018 = 3 ∧
    pageRead s 0 .control 0x818 = (s.repctl ||| BitVec.ofNat 64 ((s.ports.filter fun q => q.lst == .replay).map fun q => 2 ^ q.num).sum) ∧
    ∀ o < 0x1000,
      let at_ (a : Nat) (page : HostPage) : Prop :=
        barRead s func (a + o) = pageRead s func page o ∧ ∀ v, barWrite func (a + o) v s = exec (.registerWrite func page o v) s
      at_ 0 .function ∧ at_ 0x1000 .control ∧
      ∀ slot < 64, at_ (0x10000 + 0x1000 * slot) (.trigger slot) ∧ at_ (0x100000 + 0x1000 * slot) (.context slot) ∧
        ∀ q < 256, at_ (0x4000000 + 0x100000 * slot + 0x1000 * q) (.queue slot q)

/-- R118, R451, R453, R454: the writes of the host, each the event that its place names; R455-R457: what a message of a time source does to
the chronometer (conventions: log entries 68, 79). -/
def Clauses.HostWritesAndChronometer : Prop :=
  (∀ (s : State) (func : Nat) (v : W64), exec (.intcauseClear func v) s =
    .next (modFunc s func fun f => { f with intcause := f.intcause &&& ~~~(v.setWidth 5) })) ∧
  (∀ (s : State) (vf : Nat) (v : W64),
    (vf = 0 ∨ 16 ≤ vf → exec (.vfdiesWrite vf v) s = .next s) ∧
    (1 ≤ vf → vf < 16 → (∃ c ∈ s.contexts, c.func = vf ∧ c.cst = .active) → Answers (.vfdiesWrite vf v) s s) ∧
    (1 ≤ vf → vf < 16 → (¬ ∃ c ∈ s.contexts, c.func = vf ∧ c.cst = .active) →
      exec (.vfdiesWrite vf v) s = .next (modFunc s vf fun f => { f with dies := v.setWidth 4 }))) ∧
  (∀ (s : State) (v : W64), exec (.powcapWrite v) s =
    .next { s with mgmt := { s.mgmt with powcap := BitVec.ofNat 12 (max 1200 (min 2800 (bits v 11 0))) } }) ∧
  (∀ (s : State) (v : W64), bits v 15 0 ≠ 0x5752 → exec (.resetreqWrite v) s = .next s) ∧
  (∀ (s : State) (v : W64), bits v 15 0 = 0x5752 → exec (.resetreqWrite v) s = exec .warmReset s) ∧
  (∀ (s : State) (func offset : Nat) (v : W64) (page : HostPage), 16 ≤ func → exec (.registerWrite func page offset v) s = .next s) ∧
  (∀ (s : State) (func : Nat) (v : W64), func < 16 →
    exec (.registerWrite func .function 0x008 v) s =
      .next (modFunc s func fun f => { f with ctxarg := v &&& BitVec.ofNat 64 (2 ^ 52 - 2 ^ 16 + 1) }) ∧
    exec (.registerWrite func .function 0x018 v) s = exec (.intcauseClear func v) s ∧
    (let num := if v.getLsbD 31 then some (bits v 25 16) else none
     let arg := (getFunc s func).ctxarg
     (bits v 2 0 = 1 → exec (.registerWrite func .function 0x000 v) s =
       exec (.ctxCreate (.func func) (bits v 13 8) num (arg &&& BitVec.ofNat 64 (2 ^ 52 - 2 ^ 16)) (arg.getLsbD 0)) s) ∧
     (bits v 2 0 = 2 → exec (.registerWrite func .function 0x000 v) s = exec (.ctxActivate (.func func) (bits v 13 8) num) s) ∧
     (bits v 2 0 = 3 → exec (.registerWrite func .function 0x000 v) s = exec (.ctxTeardown (.func func) (bits v 13 8) num) s) ∧
     (bits v 2 0 ∉ [1, 2, 3] → exec (.registerWrite func .function 0x000 v) s = .next s)) ∧
    (∀ o, o ∉ [0x000, 0x008, 0x018] → exec (.registerWrite func .function o v) s = .next s) ∧
    (∀ o, func ≠ 0 → exec (.registerWrite func .control o v) s = .next s)) ∧
  (∀ (s : State) (f : Nat) (v : W64), f < 16 →
    exec (.registerWrite 0 .control (0x40 * f) v) s = .next (modFunc s f fun x => { x with slice := v.setWidth 32 }) ∧
    exec (.registerWrite 0 .control (0x40 * f + 8) v) s = .next (modFunc s f fun x => { x with bound := v.setWidth 32 }) ∧
    exec (.registerWrite 0 .control (0x40 * f + 0x10) v) s = exec (.vfdiesWrite f v) s ∧
    exec (.registerWrite 0 .control 0x828 v) s = exec (.resetreqWrite v) s ∧ exec (.registerWrite 0 .control 0x830 v) s = exec (.powcapWrite v) s ∧
    (f ≠ 0 → exec (.registerWrite 0 .control (0x40 * f + 0x18) v) s = .next (modFunc s f fun x => { x with vfflags := v.setWidth 2 }))) ∧
  (∀ (s : State) (v : W64), ∃ t, exec (.registerWrite 0 .control 0x818 v) s = .next t ∧ ∀ n < 18, ∀ q, getPort s n = some q →
    ∃ x, getPort t n = some x ∧ x.lst =
      if v.getLsbD n = true ∧ (q.lst = .down ∨ q.lst = .fenced) then .replay else if v.getLsbD n = false ∧ q.lst = .replay then .down else q.lst) ∧
  (∀ (s : State) (func slot q : Nat) (v : W64) (c : Context), func < 16 → slotCtx s func slot = some c → q < 256 →
    let x := queueOfCtx s c.num q
    let kept := v &&& BitVec.ofNat 64 (2 ^ 52 - 2 ^ 4)
    exec (.registerWrite func (.queue slot q) 0x008 v) s = .next (putQueue s { x with tickets := v.setWidth 16 }) ∧
    (x.qst ≠ .disabled → exec (.registerWrite func (.queue slot q) 0x000 v) s = .next s) ∧
    (x.qst = .disabled → func = 0 → exec (.registerWrite func (.queue slot q) 0x000 v) s = .next (putQueue s { x with cfg := kept })) ∧
    (x.qst = .disabled → func ≠ 0 → ∃ y, exec (.registerWrite func (.queue slot q) 0x000 v) s = .next (putQueue s { x with cfg := y }) ∧
      ∀ i < 64, y.getLsbD i = if i = 7 then x.cfg.getLsbD 7 else kept.getLsbD i) ∧
    exec (.registerWrite func (.queue slot q) 0x010 v) s = exec (.wridxWrite c.num q (v.setWidth 32)) s ∧
    (∀ e ∈ ([(1, .queueEnable c.num q), (2, .queueSuspend c.num q), (3, .queueResume c.num q), (4, .queueDrain c.num q),
      (5, .queueDisable c.num q), (6, .queueReset c.num q)] : List (Nat × Instr)), bits v 2 0 = e.1 →
      exec (.registerWrite func (.queue slot q) 0x028 v) s = exec e.2 s) ∧
    (bits v 2 0 ∈ [0, 7] → exec (.registerWrite func (.queue slot q) 0x028 v) s = .next s)) ∧
  (∀ (s : State) (func ctx q : Nat) (v : W64), func < 16 → (getCtx s ctx).isSome = true → q < 256 →
    let x := queueOfCtx s ctx q
    exec (.registerWrite func (.managed ctx q) 0x008 v) s = .next (putQueue s { x with tickets := v.setWidth 16 }) ∧
    exec (.registerWrite func (.managed ctx q) 0x000 v) s =
      .next (if x.qst = .disabled then putQueue s { x with cfg := v &&& BitVec.ofNat 64 (2 ^ 52 - 2 ^ 4) } else s)) ∧
  (∀ (s : State) (func slot : Nat) (v : W64) (o : Nat), func < 16 →
    (∀ n < 256, exec (.registerWrite func (.trigger slot) (8 * n) v) s = exec (.triggerWindowAdd func slot n v) s ∧
      exec (.registerWrite func (.trigger slot) (0x800 + 8 * n) v) s = exec (.triggerWindowSet func slot n v) s ∧
      exec (.registerWrite func (.context slot) (8 * n) v) s = exec (.hostCtxregWrite func slot (BitVec.ofNat 8 n) v) s) ∧
    (o % 8 ≠ 0 ∨ 0x1000 ≤ o → exec (.registerWrite func (.trigger slot) o v) s = .next s) ∧
    (o % 8 ≠ 0 ∨ 0x800 ≤ o → exec (.registerWrite func (.context slot) o v) s = .next s)) ∧
  (∀ (c : Chron) (d : Nat),
    let x := advanceChron c d
    x.ns = BitVec.ofInt 64 (c.ns.toNat + d + (c.slew - x.slew)) ∧ (c.slew - x.slew).natAbs ≤ (c.rest + d) / 5000 ∧
    (c.slew.natAbs ≤ (c.rest + d) / 5000 → x.slew = 0) ∧ x.rest = (c.rest + d) % 5000) ∧
  (∀ (s : State) (time : W64) (err : W32),
    (s.chron.ptp = false → exec (.ptpMessage time err) s = .next s) ∧ (s.chron.pps = false → exec (.ppsPulse time err) s = .next s) ∧
    ∀ e ∈ [(Instr.ptpMessage time err, s.chron.ptp, (1 : BitVec 2)), (Instr.ppsPulse time err, s.chron.pps, 2)], e.2.1 = true →
      ∃ t, exec e.1 s = .next t ∧ t.chron.src = s.chron.src ||| e.2.2 ∧ t.chron.errb = err ∧ t.mem = s.mem ∧ t.groups = s.groups ∧
        (s.chron.st = 0 → t.chron.st = 1 ∧ t.chron.ns = s.chron.ns) ∧ (s.chron.st ≠ 0 → t.chron.st = 2) ∧
        (s.chron.st = 1 → (∀ c ∈ s.contexts, c.cst ≠ .active ∧ c.cst ≠ .switchedOut) → t.chron.ns = time ∧ t.chron.slew = 0) ∧
        ((2 ≤ s.chron.st.toNat ∨ (s.chron.st = 1 ∧ ∃ c ∈ s.contexts, c.cst = .active ∨ c.cst = .switchedOut)) →
          t.chron.ns = s.chron.ns ∧ t.chron.slew = (time.toNat : Int) - s.chron.ns.toNat)) ∧
  (∀ s : State,
    (s.chron.st = 2 → s.chron.lastSrc.toNat + 2000000000 ≤ s.chron.ns.toNat →
      ∃ t, exec .holdoverEntry s = .next t ∧ t.chron.st = 3 ∧ t.chron.src = 0 ∧ t.chron.ns = s.chron.ns) ∧
    ((s.chron.st ≠ 2 ∨ s.chron.ns.toNat < s.chron.lastSrc.toNat + 2000000000) → exec .holdoverEntry s = .next s))

namespace Sys2Proof.Rules

/-! ### Management, resets, debug (R471-R475, R493-R501) -/

/-- A reply has been sent, after those of the reads of memory that were under way, and nothing else has changed. -/
def replied (s : State) (st : BitVec 8) (data : List Byte) : State :=
  { s with mgmt := { s.mgmt with
    reads := []
    replies := s.mgmt.replies ++ s.mgmt.reads.map (fun e => { status := 0, data := memGet s e.1 e.2 }) ++ [{ status := st, data := data }] } }

/-- Every command that needs a session; `late`: only those that recovery does not answer (R495, R497, R498). -/
def EachCommand (late : Bool) (p : Instr → Prop) : Prop :=
  ∀ (n k j : Nat) (a b : Bool) (bs : List Byte),
    (∀ i ∈ ([.takeFix n a, .physrd n k, .coldrst, .warmrst, .dierst n, .portDrain n, .portFence n, .portUnfence n, .portReplay n,
      .portReplayclr n, .portTrainoff n, .portTrainon n, .routewr n bs, .mgmtPowcap n, .chroncfg a b 0] : List Instr), p i) ∧
    (late = false → ∀ i ∈ ([.loghdr n, .logrd n k j, .fixrd n k j, .fwload n k bs a] : List Instr), p i)

/-- A command in a session, out of recovery. -/
def Open (s : State) : Prop := s.mgmt.session = true ∧ s.mgmt.recovery = false

/-- A part is on the fence list, and service is requested. -/
def fenced_ (s : State) (p : Part) : Mgmt := { s.mgmt with fences := s.mgmt.fences ++ [p], service := true }

/-- What levels 0 to 2 of a reset leave of contexts, queues, kernels, groups and caches: nothing (R494). -/
def Emptied (t : State) : Prop :=
  t.contexts = [] ∧ t.queues = [] ∧ t.kernels = [] ∧ t.groups = [] ∧ t.engineQ = [] ∧ t.tlb = [] ∧ t.dirty = [] ∧ t.clean = [] ∧
    t.sessions = [] ∧ t.agenda = [] ∧ t.funcs.map (·.intcause &&& 0x17) = List.replicate 16 0

/-- The RESETS count of the device's own partition has gone up (R464). -/
def ResetCounted (s t : State) : Prop := (getPart t 0).resets = (getPart s 0).resets + 1

/-- The reads of memory that a reset met have ended with an error; its status is the model's choice (log entry 74). -/
def ReadsFailed (s t : State) : Prop :=
  t.mgmt.reads = [] ∧ t.mgmt.replies = s.mgmt.replies ++ s.mgmt.reads.map fun _ => { status := 2, data := [] }

/-- The group that a debug slot of a context names, which the context may command (R474, R475). -/
def Commands (s : State) (ctx slot : Nat) (g : Group) : Prop :=
  slot < 4 ∧ (∃ c, getCtx s ctx = some c ∧ c.debug = true) ∧ debugTarget s (ctxReg s ctx (0x400 + slot)) = some g ∧ getGroup s g.gid = some g ∧
    (ctxFunc s ctx = 0 ∨ ctxFunc s ctx = ctxFunc s g.ctx)

/-- A debug command's result, in DBGSTAT bits 15:8. -/
def Result (t : State) (ctx slot r : Nat) : Prop := ctxReg t ctx (0x405 + slot) = BitVec.ofNat 64 (r * 256)

end Sys2Proof.Rules

/-! ### Management -/

/-- R471, R495-R498: which commands the port answers, and their replies. -/
def Clauses.ManagementCommands : Prop :=
  ∀ s : State,
    exec .chronrd s = .next (replied s 0 (toBytes 8 s.chron.ns.toNat ++
      toBytes 8 (s.chron.st.toNat * 2 ^ 62 + s.chron.src.toNat * 2 ^ 60 + s.chron.errb.toNat))) ∧
    (s.mgmt.session = false → EachCommand false fun i => exec i s = .next (replied s 1 [])) ∧
    (s.mgmt.session = true → s.mgmt.recovery = true → EachCommand true fun i => exec i s = .next (replied s 1 [])) ∧
    (s.mgmt.session = true →
      (∀ part, exec (.loghdr part) s = .next (if 1024 < part then replied s 3 [] else replied s 0 (partBytes (getPart s part)))) ∧
      (∀ part k n, (1024 < part ∨ 128 < n) → exec (.logrd part k n) s = .next (replied s 3 [])) ∧
      (∀ part k n, part ≤ 1024 → n ≤ 128 → exec (.logrd part k n) s = .next (replied s 0 (toBytes 8 (getPart s part).wridx.toNat ++
        ((List.range n).flatMap fun i => recAt s part ((k + i) % partCap part)) ++ toBytes 8 (getPart s part).wridx.toNat))) ∧
      (∀ slot o n, exec (.fixrd slot o n) s = .next (if 4 ≤ slot ∨ 65536 < n ∨ 2 ^ 26 < o + n then replied s 3 []
        else replied s 0 (sgets s.mgmt.fixMem (slot * 2 ^ 26 + o) n))) ∧
      (∀ bank o bs fin, (2 ≤ bank ∨ 65536 < bs.length) → exec (.fwload bank o bs fin) s = .next (replied s 3 [])) ∧
      (∀ bank o bs, bank < 2 → bs.length ≤ 65536 → o + bs.length ≤ 2 ^ 40 → exec (.fwload bank o bs false) s =
        .next (replied { s with mgmt := { s.mgmt with flash := ssets s.mgmt.flash (bank * 2 ^ 40 + o) bs } } 0 []))) ∧
    (Open s →
      (∀ pa n, exec (.physrd pa n) s = .next (if 65536 < n ∨ inMain pa n = false then replied s 3 []
        else { s with mgmt := { s.mgmt with reads := s.mgmt.reads ++ [(pa, n)] } })) ∧
      (∀ w, exec (.mgmtPowcap w) s = .next (if w < 1200 ∨ 2800 < w then replied s 3 []
        else replied { s with mgmt := { s.mgmt with powcap := BitVec.ofNat 12 w } } 0 [])) ∧
      (∀ ptp pps dom, exec (.chroncfg ptp pps dom) s = .next (replied { s with chron := { s.chron with
        ptp := ptp, pps := pps, domain := dom, src := s.chron.src &&& ((if ptp then 1 else 0) ||| (if pps then 2 else 0)) } } 0 [])) ∧
      (∀ k bs, (4096 < k + bs.length ∨ ∃ d ∈ bs, 6 ≤ d.toNat ∧ d ≠ 0xFF) → exec (.routewr k bs) s = .next (replied s 3 [])) ∧
      (∀ k bs, k + bs.length ≤ 4096 → (∀ d ∈ bs, d.toNat < 6 ∨ d = 0xFF) → ∃ t, exec (.routewr k bs) s = .next t ∧
        t.routes = ssets s.routes k (bs.map fun d => if d = 0xFF then 7 else d + 1) ∧
        t.mgmt.replies = (replied s 0 []).mgmt.replies ∧
        (noMirror s → t = replied { s with routes := t.routes } 0 [])) ∧
      (∀ age auto, ∃ t, exec (.takeFix age auto) s = .next t ∧ t.mgmt.fixno = s.mgmt.fixno + 1 ∧ t.mgmt.fixage = age ∧ t.mgmt.autofix = auto ∧
        t.mem = s.mem ∧ t.groups = s.groups ∧
        t.mgmt.replies = (replied s 0 (toBytes 4 (s.mgmt.fixno + 1).toNat)).mgmt.replies)) ∧
    (∀ sig, exec (.sessionChallenge sig) s = .next
      (let u := { s with mgmt := { s.mgmt with challenge := s.mgmt.challenge + 1 } }
       if Config.verifies 1 (Config.shake256 (Config.challenge s.mgmt.challenge)) sig
       then replied { u with mgmt := { u.mgmt with session := true } } 0 [] else replied u 1 [])) ∧
    (∀ nonce f, s.mgmt.recovery = false → nonce.length ≠ 32 → exec (.attest nonce f) s = .next (replied s 3 [])) ∧
    (∀ nonce f, s.mgmt.recovery = false → nonce.length = 32 → ∃ body, exec (.attest nonce f) s =
      .next (replied s 0 (nonce ++ body ++ Config.signature (nonce ++ body))))

/-- R444, R498: the commands on a port. -/
def Clauses.PortCommands : Prop :=
  ∀ (s : State) (port : Nat), Open s →
    let all : List Instr := [.portDrain port, .portFence port, .portUnfence port, .portReplay port, .portReplayclr port, .portTrainoff port, .portTrainon port]
    (getPort s port = none → ∀ i ∈ all, exec i s = .next (replied s 3 [])) ∧
    ∀ q, getPort s port = some q → (s.ports.map (·.num)).Nodup → s.turning = [] → noMirror s →
      let goes (i : Instr) (x : Port) : Prop := ∃ t, exec i s = .next t ∧ getPort t port = some x ∧ t.mem = s.mem ∧ t.groups = s.groups ∧
        t.contexts = s.contexts ∧ t.mgmt.replies = (replied s 0 []).mgmt.replies
      let turned (i : Instr) : Prop := Answers i s (replied s 2 [])
      ((q.lst = .up ∨ q.lst = .degraded) → goes (.portDrain port) { q with lst := .draining }) ∧
      (¬ (q.lst = .up ∨ q.lst = .degraded) → turned (.portDrain port)) ∧
      (q.lst ≠ .fenced → goes (.portFence port) (emptied s q .fenced)) ∧ (q.lst = .fenced → goes (.portFence port) q) ∧
      (q.lst = .fenced → goes (.portUnfence port) { q with lst := .down, downAt := s.chron.ns.toNat }) ∧ (q.lst ≠ .fenced → turned (.portUnfence port)) ∧
      (q.lst = .down ∨ q.lst = .fenced → goes (.portReplay port) { q with lst := .replay, sent := 0, rcvd := 0 }) ∧
      (¬ (q.lst = .down ∨ q.lst = .fenced) → turned (.portReplay port)) ∧
      (q.lst = .replay → goes (.portReplayclr port) (emptied s q .down)) ∧ (q.lst ≠ .replay → turned (.portReplayclr port)) ∧
      goes (.portTrainoff port) { q with trainOff := true } ∧ goes (.portTrainon port) { q with trainOff := false }

/-- R493, R494: what each level of reset leaves, and which are refused. -/
def Obligations.Resets : Prop :=
  (∀ s : State, Open s →
    (∃ t, exec .coldrst s = .next t ∧ Emptied t ∧ t.mgmt.replies = (replied s 0 []).mgmt.replies) ∧
    (∃ t, exec .warmrst s = .next t ∧ Emptied t ∧ t.mem = s.mem ∧ t.mgmt.replies = (replied s 0 []).mgmt.replies) ∧
    (∀ die, 4 ≤ die → exec (.dierst die) s = .next (replied s 3 [])) ∧
    (∀ die < 4, dieBusy s die = true → Answers (.dierst die) s (replied s 2 [])) ∧
    (∀ die < 4, dieBusy s die = false → ∃ t, exec (.dierst die) s = .next t ∧ t.mem = s.mem ∧
      t.mgmt.replies = (replied s 0 []).mgmt.replies ∧ t.contexts.map (·.num) = s.contexts.map (·.num))) ∧
  (∀ s : State,
    (∃ t, exec .powerReset s = .next t ∧ Emptied t ∧ t.mem = [] ∧ t.mgmt.flash = s.mgmt.flash ∧ ((∀ img, Config.imageIsService img = false) → t.mgmt.fences = s.mgmt.fences) ∧
      t.chron = Chron.fresh ∧ t.logs = [] ∧ t.rank = s.rank) ∧
    (∀ th, ∃ t, exec (.coldReset th) s = .next t ∧ Emptied t ∧ t.mem = [] ∧ t.mgmt.flash = s.mgmt.flash ∧
      ((∀ img, Config.imageIsService img = false) → t.mgmt.fences = s.mgmt.fences) ∧ ReadsFailed s t ∧ t.mgmt.fixMem = s.mgmt.fixMem ∧ t.chron = s.chron ∧ t.logs = s.logs ∧ t.routes = [] ∧ t.rank = s.rank ∧ ResetCounted s t ∧
      ∀ q ∈ t.ports, q.lst = .down ∧ ∀ n, .lane q.num n ∈ t.mgmt.fences → n ∈ q.fencedLanes) ∧
    (∃ t, exec .warmReset s = .next t ∧ Emptied t ∧ ReadsFailed s t ∧ t.mem = s.mem ∧ t.poison = s.poison ∧ t.mgmt.fences = s.mgmt.fences ∧ t.chron = s.chron ∧
      t.logs = s.logs ∧ t.routes = s.routes ∧ t.modeDie = s.modeDie ∧ ResetCounted s t ∧ t.ports.map (·.lst) = s.ports.map (·.lst))) ∧
  (∀ (s : State) (die : Nat),
    ((4 ≤ die ∨ dieBusy s die = true) → exec (.dieReset die) s = .next s) ∧
    (die < 4 → dieBusy s die = false → ∃ t, exec (.dieReset die) s = .next t ∧ t.mem = s.mem ∧ t.kernels = s.kernels ∧ t.queues = s.queues ∧
      t.chron = s.chron ∧ t.logs = s.logs ∧ t.ports = s.ports ∧ ResetCounted s t ∧ (∀ e ∈ t.tlb, e.die ≠ die) ∧
      t.tlb = (s.tlb.filter fun e => e.die ≠ die) ∧ ∀ c ∈ t.contexts, ∀ d ∈ c.decoded, d.slice / 128 ≠ die)) ∧
  (∀ (s : State) (vf : Nat),
    ((vf = 0 ∨ 16 ≤ vf) → exec (.functionReset vf) s = .next s) ∧
    (1 ≤ vf → vf < 16 → (∀ c ∈ s.contexts, c.func = vf → c.cst = .teardown) → ∃ t, exec (.functionReset vf) s = .next t ∧
      t.contexts = s.contexts ∧ t.groups = s.groups ∧ t.mem = s.mem ∧ ResetCounted s t) ∧
    (1 ≤ vf → vf < 16 → (s.contexts.map (·.num)).Nodup → ∃ t, exec (.functionReset vf) s = .next t ∧ ResetCounted s t ∧
      ∀ c ∈ t.contexts, c.func = vf → c.cst = .teardown))

/-- R19, R462, R499-R501: pacing, temperature, the fencing of parts, re-stitching (a second request while one waits: log entry 97). -/
def Obligations.PowerAndFencing : Prop :=
  ∀ s : State,
    (∀ level, s.mgmt.pacing = level → exec (.pacingChange level) s = .next s) ∧
    (∀ level, s.mgmt.pacing ≠ level → Answers (.pacingChange level) s { s with mgmt := { s.mgmt with pacing := level } }) ∧
    (∀ die, (s.mgmt.pacing ≠ 15 ∨ 4 ≤ die ∨ die ∈ s.mgmt.hotDies) → exec (.thermalLimit die) s = .next s) ∧
    (∀ die < 4, s.mgmt.pacing = 15 → die ∉ s.mgmt.hotDies → (s.groups.map (·.gid)).Nodup → ∃ t, exec (.thermalLimit die) s = .next t ∧
      t.mgmt = { s.mgmt with hotDies := s.mgmt.hotDies ++ [die], service := true } ∧
      ∀ gid g, getGroup s gid = some g → ∃ h, getGroup t gid = some h ∧
        (g.gst ∈ [.running, .halted, .draining] → (∃ c ∈ g.cores, c / 32 = die) → h.gst = .saving) ∧
        ((g.gst ∉ [.running, .halted, .draining] ∨ ∀ c ∈ g.cores, c / 32 ≠ die) → h = g)) ∧
    (∀ die, exec (.thermalRecover die) s = .next { s with mgmt := { s.mgmt with hotDies := s.mgmt.hotDies.filter (· ≠ die) } }) ∧
    (∀ die < 4, exec (.thermalShutdown die) s = exec (.coldReset true) s) ∧ (∀ die, 4 ≤ die → exec (.thermalShutdown die) s = .next s) ∧
    (∀ n, (128 ≤ n ∨ n ∈ s.vacant ∨ n ∈ s.fencedCores) → exec (.partFence (.core n)) s = .next s) ∧
    (∀ n < 128, n ∉ s.vacant → n ∉ s.fencedCores → (s.groups.map (·.gid)).Nodup → ∃ t, exec (.partFence (.core n)) s = .next t ∧ t.fencedCores = s.fencedCores ++ [n] ∧
      t.mgmt = fenced_ s (.core (physOfCore s n)) ∧ ∀ g ∈ t.groups, holdsPlace t g = true → n ∈ g.cores → g.gst = .faulted) ∧
    (∀ n, (136 ≤ n ∨ .core n ∈ s.mgmt.fences) → exec (.partFence (.spare n)) s = .next s) ∧
    (∀ n < 136, .core n ∉ s.mgmt.fences → (∀ c < 128, c ∉ s.vacant → physOfCore s c ≠ n) →
      Answers (.partFence (.spare n)) s { s with mgmt := fenced_ s (.core n) }) ∧
    (∀ n, (512 ≤ n ∨ .slice n ∈ s.mgmt.fences) → exec (.partFence (.slice n)) s = .next s) ∧
    (∀ n < 512, .slice n ∉ s.mgmt.fences → Answers (.partFence (.slice n)) s { s with mgmt := fenced_ s (.slice n) }) ∧
    (∀ port lane q, getPort s port = some q → lane < 8 → lane ∉ q.fencedLanes → noMirror s → ∃ t, exec (.partFence (.lane port lane)) s = .next t ∧
      t.mgmt = fenced_ s (.lane port lane) ∧ getPort t port = some { q with
        fencedLanes := q.fencedLanes ++ [lane]
        lanes := if q.lanes = 0 then 0 else 8 - (q.fencedLanes.length + 1)
        lst := if q.lst = .up ∨ q.lst = .degraded then .training else q.lst }) ∧
    (∀ n units leaves, 12 ≤ n → exec (.partFence (.stack n units leaves)) s = .next s) ∧
    (∀ n units, n < 12 → ∃ t, exec (.partFence (.stack n units [])) s = .next t ∧
      t.mgmt = fenced_ s (.stack n (units.filter fun u => stackOf s (16 * u) == n) []) ∧ t.mem = s.mem ∧
      ∀ u, u ∈ t.poison ↔ u ∈ s.poison ∨ (u ∈ units ∧ stackOf s (16 * u) = n)) ∧
    (∀ region shape, (s.restitch = none ∨ s.restitch = some (region, shape)) →
      (regionEmpty s region = false → exec (.restitch region shape) s = .next { s with restitch := some (region, shape) }) ∧
      (regionEmpty s region = true → ∃ t, exec (.restitch region shape) s = .next t ∧ t.restitch = none ∧ (region, shape) ∈ t.stitched ∧
        t.groups = s.groups)) ∧
    (∀ region shape other, s.restitch = some other → other ≠ (region, shape) → exec (.restitch region shape) s = .next s)

/-! ### Debug, counters and log -/

/-- R154, R474, R475: halt, resume and breakpoint commands; R464-R466: how a record comes into its partition, and the counts of what was
discarded; R477: a counter wraps modulo 2^48, sets its CNTOVF bit and, where it is enabled, INTCAUSE bit 2. -/
def Obligations.DebugCountersLog : Prop :=
  (∀ (s : State) (ctx slot : Nat),
    let all : List Instr := [.debugHalt ctx slot, .debugHaltf ctx slot, .debugResume ctx slot, .debugBkpton ctx slot, .debugBkptoff ctx slot]
    ((getCtx s ctx = none ∨ (∃ c, getCtx s ctx = some c ∧ c.debug = false) ∨ 4 ≤ slot) → ∀ i ∈ all, exec i s = .next s) ∧
    (slot < 4 → (∃ c, getCtx s ctx = some c ∧ c.debug = true) → debugTarget s (ctxReg s ctx (0x400 + slot)) = none → ∀ i ∈ all,
      exec i s = .next (modCtxReg s ctx (0x405 + slot) (BitVec.ofNat 64 256))) ∧
    (∀ g, Commands s ctx slot g → (s.groups.map (·.gid)).Nodup →
      (∀ e ∈ [(Instr.debugBkpton ctx slot, true), (Instr.debugBkptoff ctx slot, false)], ∃ t c, exec e.1 s = .next t ∧ t.groups = s.groups ∧
        ((getCtx s g.ctx).isSome = true → getCtx t g.ctx = some c ∧ c.bkpt = e.2)) ∧
      (∀ e ∈ [(Instr.debugHalt ctx slot, false), (Instr.debugHaltf ctx slot, true)],
        (g.gst ∈ [.pending, .placing, .saving, .descheduled] → ∃ t, exec e.1 s = .next t ∧ getGroup t g.gid = some { g with haltPend := true }) ∧
        (g.gst ∈ [.halted, .faulted, .flushing] → ∃ t, exec e.1 s = .next t ∧ t.groups = s.groups) ∧
        (g.gst = .retired → exec e.1 s = .next (modCtxReg s ctx (0x405 + slot) (BitVec.ofNat 64 768))) ∧
        (g.gst = .running → ∃ t h, exec e.1 s = .next t ∧ getGroup t g.gid = some h ∧
          (∀ who x, getThread g who = some x → ∃ y, getThread h who = some y ∧ y.pc = x.pc ∧ y.regs = x.regs ∧
            ((e.2 = true ∨ (x.inh = false ∧ x.ptrap = none)) → y.stopped = true)) ∧
          ((e.2 = true ∨ ∀ x ∈ g.pilot :: g.strands, x.inh = false ∧ x.ptrap = none) → h.gst = .halted ∧ h.haltPend = false))) ∧
      (g.gst ≠ .halted → (g.gst ≠ .descheduled ∨ g.haltPend = false) →
        exec (.debugResume ctx slot) s = .next (modCtxReg s ctx (0x405 + slot) (BitVec.ofNat 64 768))) ∧
      (g.gst = .descheduled → g.haltPend = true → ∃ t, exec (.debugResume ctx slot) s = .next t ∧
        getGroup t g.gid = some { g with haltPend := false, atBkpt := false }) ∧
      (g.gst = .halted → g.rounds = [] → (∀ x ∈ g.strands, x.run = .ready ∧ x.stateWr = none ∧ x.caps = none) → ∃ t h, exec (.debugResume ctx slot) s = .next t ∧
        getGroup t g.gid = some h ∧ h.gst = .running ∧ h.strands = g.strands.map (fun x => { x with stopped := false }) ∧
        h.pilot = { g.pilot with stopped := false, stateWr := none }))) ∧
  (∀ (s : State) (unit : Nat), (getUnit s unit).buf = [] → exec (.logHeadWrite unit) s = .next s) ∧
  (∀ (s : State) (unit part : Nat) (r : LogRec) (rest : List (Nat × LogRec)), (getUnit s unit).buf = (part, r) :: rest →
    ∃ t, exec (.logHeadWrite unit) s = .next t ∧ (getUnit t unit).buf = rest ∧ (getPart t part).wridx = (getPart s part).wridx + 1 ∧
      recAt t part ((getPart s part).wridx.toNat % partCap part) = recBytes r ∧ t.mem = s.mem ∧
      ∀ k, k ≠ (getPart s part).wridx.toNat % partCap part → recAt t part k = recAt s part k) ∧
  (∀ (s : State) (unit : Nat),
    (((∀ n ∈ (getUnit s unit).drops, n = 0) ∨ 16 ≤ (getUnit s unit).buf.length) → exec (.dropEmit unit) s = .next s) ∧
    (¬ (∀ n ∈ (getUnit s unit).drops, n = 0) → (getUnit s unit).buf.length < 16 → ∃ t r, exec (.dropEmit unit) s = .next t ∧
      (getUnit t unit).buf = (getUnit s unit).buf ++ [(0, r)] ∧ (getUnit t unit).drops = [0, 0, 0, 0] ∧ r.cls = 3 ∧ r.event = 2 ∧
      r.cause = (getUnit s unit).dropTag ∧ r.stamp = s.chron.ns)) ∧
  (∀ (s : State) (func item : Nat), aboutToWrap s func item = false → exec (.counterWrap func item) s = .next s) ∧
  (∀ (s : State) (func item : Nat), aboutToWrap s func item = true → ∃ t, exec (.counterWrap func item) s = .next t ∧
    t.cycle = s.cycle + (if item = 8 ∨ item = 9 then 1 else 0) ∧ t.mem = s.mem ∧ t.groups = s.groups) ∧
  (∀ (s : State) (func item k : Nat) (e : Session), funcSession s func = some e → (s.sessions.map (·.func)).Nodup → swf e.counts = true →
    k ∈ fullCounters e item → (item = 4 ∨ item = 5 ∨ (item = 8 ∧ ∃ c ∈ openCores s func, k = 2 ^ 24 + c * 2 ^ 12 + 4)) →
    ∃ t x, exec (.counterWrap func item) s = .next t ∧ funcSession t func = some x ∧ sget x.counts k = 0 ∧ x.ovf.getLsbD item = true ∧
      (e.ovfen.getLsbD item = true → (∃ f ∈ s.funcs, f.num = func) → (getFunc t func).intcause.getLsbD 2 = true)) ∧
  (∀ (s : State) (func k item n : Nat) (e : Session), funcSession s func = some e → item < 10 →
    let t := bumpCounter s func k item n
    let wraps : Prop := 2 ^ 48 ≤ (sget e.counts k).toNat + n
    ∃ x, funcSession t func = some x ∧ (swf e.counts = true → (sget x.counts k).toNat = ((sget e.counts k).toNat + n) % 2 ^ 48) ∧
      (¬ wraps → x.ovf = e.ovf ∧ t.funcs = s.funcs) ∧
      (wraps → ∀ i < 10, x.ovf.getLsbD i = if i = item then true else e.ovf.getLsbD i))

namespace Sys2Proof.Rules

/-! ### Words, steps and reset -/

/-- Fields of a two-word instruction. -/
def twoWords (x : Bool) (a d : BitVec 8) (stall : BitVec 3) (sub : BitVec 8) (pnum : BitVec 3) (c b : BitVec 10) : Fields :=
  { x := x, a := a, d := d, yld := false, stall := stall, len := 1, sub := sub, neg := false, pnum := pnum, c := c, b := b, w2 := 0, lit := 0 }

/-- Fields of a one-word instruction. -/
def oneWord (x : Bool) (a d : BitVec 8) : Fields :=
  { x := x, a := a, d := d, yld := false, stall := 0, len := 0, sub := 0, neg := false, pnum := 7, c := 0, b := 0, w2 := 0, lit := 0 }

/-- The next thing that the state does is an issue, at a unit; the state in which it begins, in which the parts of the gang that belong
to other groups stand on the agenda (R146). -/
def Next (s b : State) (u : Nat) (iss : Issuer) : Prop :=
  (∃ r, s.agenda = .issue iss :: r ∧ b = { s with agenda := r } ∧ u = issuerUnit s iss ∧ hadTurn s u = false) ∨
    (s.agenda = [] ∧ dueEvent s = none ∧ ∃ more, pickIssuer s = some (u, iss, more) ∧ b = { s with agenda := more.map Turn.joint })

/-- The step is exec of an instruction at a state, with what the issue leaves beside it. -/
def StepRuns (s m : State) (after : State → State) (i : Instr) : Prop :=
  (∀ t, exec i m = .next t → step s = .next (after t)) ∧ (∀ e, exec i m = .fault e → step s = .fault e) ∧
    (∀ e, exec i m = .refused e → step s = .refused e)

/-- The state in which the meaning of a fetched instruction begins: a capsule's count has gone up (R351). -/
def begun (u : State) (id : ThreadId) (iss : Issuer) (leave : Nat) : State :=
  { (modThread u id fun t => { t with caps := t.caps.map fun c => if c.mode = .suspended then c else { c with count := c.count + 1 } }) with
    cur := some iss, leave := leave }

/-- An executor that issues undisturbed: READY, not stopped, no capsule, no result on its way, no response FAIL reached its access. -/
def issues (t : Thread) : Prop := t.run = .ready ∧ t.stopped = false ∧ t.caps = none ∧ t.pend = [] ∧ t.failed = none

end Sys2Proof.Rules

/-! ### Encoding -/

/-- Every well-formed instruction decodes from the words that encode it, with every operand at every value that the encoding admits. -/
def Obligations.DecodeEncodeRoundTrip : Prop :=
  ∀ i : Instr, i.wellFormed = true → ∀ op f, i.enc = some (op, f) → decodeWords f.x true false (encode i) = .ok i

/-- Words that the spec's examples write out bit by bit decode to the instructions that they stand for (R204, R209, R219, R236, R239, R250,
R286 and the examples of the chapters on the page, the matrix engine, the logbook and the system registers). -/
def Obligations.DecodeWords : Prop :=
  decodeWords false false false [0x03021349, 0x89700008] = .ok (.iadc (twoWords false 6 4 2 0x89 7 0 0x008)) ∧
  decodeWords false false false [0x02821002, 0x07700008, 0x0C000000] =
    .ok (.iadd { twoWords false 5 4 0 7 7 0 8 with len := 2, w2 := 0x0C000000 }) ∧
  decodeWords false false false [0x028230CD, 0x64701C06] = .ok (.ffma (twoWords false 5 4 3 0x64 7 7 6)) ∧
  decodeWords false false false [0x0485B691, 0x057C000A] = .ok (.bscale (twoWords false 9 11 4 5 7 0x300 0x00A)) ∧
  decodeWords false false false [0x02055141, 0x19201B02] = .ok (.lred (twoWords false 4 10 0 0x19 2 6 0x302)) ∧
  decodeWords false false false [0x0082D041, 0x18700000] = .ok (.ballot (twoWords false 1 5 0 0x18 7 0 0)) ∧
  decodeWords false false false [0x001E0180] = .ok (.land (oneWord false 0 0x3C)) ∧
  decodeWords false false false [0x04000081, 0x3C700000] = .ok (.brx (twoWords false 8 0 0 0x3C 7 0 0)) ∧
  decodeWords true false false [0x82000401, 0x00700398] = .ok (.release (twoWords true 4 0 0 0 7 0 0x398)) ∧
  decodeWords true false false [0x83800440] = .ok (.dqpush (oneWord true 7 0)) ∧
  decodeWords true false false [0x86000541, 0x00700385] = .ok (.qsig (twoWords true 12 0 0 0 7 0 0x385)) ∧
  decodeWords false false false [0x00046001, 0x28700000] = .ok (.ld (twoWords false 0 8 0 0x28 7 0 0)) ∧
  decodeWords false false false [0x080261C1, 0x10100000] = .ok (.stc (twoWords false 16 4 0 0x10 1 0 0)) ∧
  decodeWords false false false [0x050419C1, 0x10700302] = .ok (.lea (twoWords false 10 8 0 0x10 7 0 0x302)) ∧
  decodeWords false false false [0x000063C1, 0x00703000] = .ok (.fence (twoWords false 0 0 0 0 7 0x00C 0)) ∧
  decodeWords true false false [0x8004E481, 0x0270038C] = .ok (.banksw (twoWords true 0 9 0 2 7 0 0x38C)) ∧
  decodeWords true true false [0x8A0064C1, 0x057003A0] = .ok (.tlbinvRange (twoWords true 20 0 0 5 7 0 0x3A0)) ∧
  decodeWords true false false [0x8005F001, 0x007433B2] = .ok (.barinit (twoWords true 0 11 0 0 7 0x10C 0x3B2)) ∧
  decodeWords false false false [0x04087201, 0x0970000A] = .ok (.capopen (twoWords false 8 16 0 9 7 0 0x00A)) ∧
  decodeWords false false true [0x00027281, 0x18700000] = .ok (.capclose (twoWords false 0 4 0 0x18 7 0 0)) ∧
  decodeWords true false false [0x98147801, 0x00700000] = .ok (.mma (twoWords true 48 40 0 0 7 0 0)) ∧
  decodeWords true false false [0x801578C1, 0x00700381] = .ok (.accalloc (twoWords true 0 42 0 0 7 0 0x381)) ∧
  decodeWords false false false [0x00027C01, 0x00700110] = .ok (.sysrd (twoWords false 0 4 0 0 7 0 0x110)) ∧
  decodeWords true false false [0x8A007C81, 0x15700115] = .ok (.logev (twoWords true 20 0 0 0x15 7 0 0x115)) ∧
  decodeWords true true false [0x800A7D41, 0x06745781] = .ok (.cntctlPlan (twoWords true 0 20 0 6 7 0x115 0x381)) ∧
  decodeWords false false false [0x0383300E, 0x00700008, 0x00000981] =
    .ok (.fadd { twoWords false 7 6 3 0 7 0 8 with len := 2, w2 := 0x00000981 }) ∧
  decodeWords true false false [0x8383300E, 0x00700008, 0x00000981] = .error (.trap causeIllop 7) ∧
  decodeWords false false false [0x8383300E, 0x00700008, 0x00000981] = .error (.trap causePriv 1)

/-! ### Steps and reset -/

/-- A step that begins an issue runs the instruction that decodes at the program counter of its executor, at the state that the fetch
leaves, and so does a step of a further group of a gang (R146); a step that begins an event runs that event; R14: with nothing to do, or
where the unit has had its turn, a cycle passes. -/
def Obligations.StepRunsDecoded : Prop :=
  (∀ (s : State) (i : Instr) (r : List Turn), s.agenda = .event i :: r →
    let b := { s with agenda := r }
    (∀ t, exec i b = .next t → step s = .next (afterEvent i b t)) ∧ (∀ e, exec i b = .fault e → step s = .fault e) ∧
      (∀ e, exec i b = .refused e → step s = .refused e)) ∧
  (∀ (s b u' : State) (u gid : Nat) (g : Group) (ws : List W32) (i : Instr), Next s b u (.pilot gid) →
    getGroup b gid = some g → (g.gst = .running ∨ g.gst = .draining) → issues g.pilot → g.vals.chksb = false →
    (∀ e ∈ g.pilot.fixed, ∀ n, e.reg = .s n → e.ripe + spreadLag g ≤ s.cycle) →
    fetchInstr b g (coreOf g .pilot) (codeReachOf g g.pilot) g.pilot.pc = (.words ws, u') →
    decodeWords true g.priv false ws = .ok i →
    let m := begun u' { gid := gid, who := .pilot } (.pilot gid) 0
    StepRuns s m (afterIssue m u (.pilot gid) (issueEntry b (.pilot gid)) i) i) ∧
  (∀ (s b u' : State) (u gid k : Nat) (g : Group) (t : Thread) (ws : List W32) (op : BitVec 9) (f : Fields) (i : Instr),
    Next s b u (.gang gid [k]) → getGroup b gid = some g → g.strands[k]? = some t → (g.gst = .running ∨ g.gst = .draining) →
    issues t → g.pilot.pend = [] → g.vals.chksb = false →
    fetchInstr b g (coreOf g (.strand k)) (codeReachOf g t) t.pc = (.words ws, u') → splitRaw ws = some (op, f) →
    ((shapeOf op.toNat false f).bind fun sh => rowSeg op.toNat sh f) = none → decodeWords false g.priv false ws = .ok i →
    let m := begun u' { gid := gid, who := .strand k } (.gang gid [k]) (if f.yld then 1 else 0)
    StepRuns s m (afterIssue m u (.gang gid [k]) (issueEntry b (.gang gid [k])) i) i) ∧
  (∀ (s u' : State) (gid k : Nat) (r : List Turn) (g : Group) (t : Thread) (ws : List W32) (op : BitVec 9) (f : Fields) (i : Instr),
    s.agenda = .joint (.gang gid [k]) :: r →
    let b := { s with agenda := r }
    getGroup b gid = some g → g.strands[k]? = some t → (g.gst = .running ∨ g.gst = .draining) →
    issues t → g.pilot.pend = [] → g.vals.chksb = false →
    fetchInstr b g (coreOf g (.strand k)) (codeReachOf g t) t.pc = (.words ws, u') → splitRaw ws = some (op, f) →
    ((shapeOf op.toNat false f).bind fun sh => rowSeg op.toNat sh f) = none → decodeWords false g.priv false ws = .ok i →
    let m := begun u' { gid := gid, who := .strand k } (.gang gid [k]) (if f.yld then 1 else 0)
    StepRuns s m (afterJoint m (issuerUnit s (.gang gid [k])) (.gang gid [k]) (issueEntry b (.gang gid [k])) i) i) ∧
  (∀ (s : State) (i : Instr), s.agenda = [] → dueEvent s = some i → StepRuns s s (afterEvent i s) i) ∧
  (∀ (s : State) (c n : Nat) (r : List Turn), s.agenda = .pass c n :: r → step s = .next (passTime { s with agenda := r } c n)) ∧
  (∀ (s : State) (iss : Issuer) (r : List Turn), s.agenda = .issue iss :: r → hadTurn s (issuerUnit s iss) = true → dueEvent s = none →
    step s = .next (passTime s 1 0)) ∧
  (∀ s : State, s.agenda = [] → dueEvent s = none → pickIssuer s = none → step s = .next (passTime s 1 0))

/-- What a device holds right after reset (R444, R453, R454, R456, R457): no context, ports DOWN, the chronometer in FREERUN at 0 with
unknown error, POWCAP 2,800 W; its memories are in canonical form. The rest of the reset state is the model's choice (log entry 1). -/
def Obligations.ResetLeaves : Prop :=
  State.reset.wf = true ∧ State.reset.contexts = [] ∧ State.reset.groups = [] ∧ State.reset.kernels = [] ∧ State.reset.queues = [] ∧
  (∀ q ∈ State.reset.ports, q.lst = .down ∧ q.credits = [0, 0, 0, 0]) ∧ State.reset.ports.length = 18 ∧ State.reset.recctl = 0 ∧
  State.reset.chron.ns = 0 ∧ State.reset.chron.st = 0 ∧ State.reset.chron.errb = 0xFFFFFFFF ∧ State.reset.mgmt.powcap = 2800 ∧
  State.reset.mgmt.service = false ∧ (∀ f ∈ State.reset.funcs, f.intcause = 0) ∧ ∀ a, memGetNat State.reset a 8 = 0

/-- Main memory and host memory keep their canonical form (addresses strictly rising, no listed byte zero) in every step, from every
state in which they have it. -/
def Obligations.StepKeepsMemory : Prop :=
  ∀ s t : State, s.memWf = true → step s = .next t → t.memWf = true

/-! ### Statements of two parts -/

/-- R201, R202, R74: the wide multiply-add wraps modulo 2^64; division rounds towards zero, and a divisor of zero gives all ones and the
dividend, without a clamp. R204: sums and differences of naturals that take their carry from a predicate and leave it there. -/
def Obligations.WideDivisionAndCarries : Prop :=
  Clauses.WideProductAndDivision ∧ Clauses.CarryChains

/-- R205: bitwise functions; LOP3 takes its result for each position from the function word, minterm 0 at bit 7. R206: shifts by the whole
amount; SHL alone reads the signedness and takes SAT. -/
def Obligations.LogicAndShifts : Prop :=
  Clauses.BitwiseLogic ∧ Clauses.ShiftsAndRotates

/-- R207: set bits, zero bits above the highest and below the lowest set bit, and the reversed order. R208, R209: fields at a position and
of a length, cut at the top bit; bytes chosen from a pool of eight. -/
def Obligations.BitOperations : Prop :=
  Clauses.BitCounts ∧ Clauses.BitFields

/-- R75: a pattern of a format that is no NaN is the pattern of its value. R80, R226: rounding to a multiple of 2^q gives one of the two
multiples next to x, x itself where x is one; RNE the nearest, the even one in a tie; RTZ, RUP and RDN the one on their side. -/
def Obligations.FormatsAndRounding : Prop :=
  Clauses.FormatRoundTrip ∧ Clauses.RoundingIsCorrect

/-- R224: the special inputs and the exact results of the approximated functions. R224, R225: the approximated functions, interlocked; the
result and its flags are a function of the input pattern, the format, FTZ and SAT, and a NaN operand gives NaN. A power of two that FEXP2
gives exactly and that the format holds as a normal is written as it is, without a flag of its own. -/
def Obligations.Approximations : Prop :=
  Clauses.ApproximatedSpecials ∧ Clauses.ApproximatedFunctions

/-- R176-R179, R190: branches and calls, with the link at latency 3; the register forms trap MISALIGN, pass the landing check (RET has
none) and then transfer, unless a response FAIL has reached the fetch of the target (R264); NOP and LAND in sequence have no effect. R178:
a landing check passes on a LAND of the executor's kind that carries the tag; any other word is a mismatch whose information gives the two
tags, or bit 16 where the word is no LAND. -/
def Obligations.TransfersLand : Prop :=
  Clauses.Transfers ∧ Clauses.LandingTags

/-- R152, R153, R191, R196: a trap outside a handler saves the cause, the address, the information and the pc, takes the lowest free trap
slot, and enters the handler; with no slot free the strand waits; inside a handler a strand becomes TRAPPED, which may complete a pending
halt, and a pilot faults its group. A capsule is suspended, and TPC is its step's start (R362). R191: the handler is entered at TVEC or
PTVEC once the landing check passes there under TVREACH; a fetch of the vector that a response FAIL has reached faults the group. -/
def Obligations.TrapsAndHandlers : Prop :=
  Clauses.TrapEntry ∧ Clauses.HandlerEntry

/-- R183, R184: a strand that arrives at WAITJ waits until every lane of its slot that the mask names has arrived or exited; then it goes on
with its predicate true. At the deadline a round that is not complete is released with false. R187-R189: EXIT ends the strand and leaves
its capsule, its trap slot and its barriers; YIELD leaves the partition; NAP n parks for n to n + 64 cycles, NAP 0 acts as YIELD; the
park ends once its time has come. -/
def Obligations.WaitsAndExits : Prop :=
  Clauses.BoundedWait ∧ Clauses.ExitYieldNap

/-- R113, R115, R116, R474: SYSRD gives the register, low bits in strand code; a debug register without the debug right traps PRIV; what the
executor's own, the context's and the device's registers hold. R113, R116, R117, R452: SYSWR and the host's context page write the
executor's own registers, and the bits that a context register has, with its image in the context's area; a read-only register ignores
the write. -/
def Obligations.SystemRegisters : Prop :=
  Clauses.SystemRegisterReads ∧ Clauses.SystemRegisterWrites

/-- R278-R280, R289-R292: an aligned load that meets main memory gives its bytes to its register group; LD and LDE extend them, LDU fills
its block of registers; a misaligned one traps MISALIGN; a check that fails traps with its cause. Element k of an expand-load row lies k
elements above the base of its first lane. R305, R287: what a load of a plain page reads: in the core store the core's own view of each
byte, at the home slice the bytes there once the core's own dirty bytes have been written back; the executor's own queued stores lie
over it. A narrow load leaves memory and every dirty byte as they were. -/
def Obligations.LoadsAndBytes : Prop :=
  Clauses.Loads ∧ Clauses.LoadedBytes

/-- R287, R289, R290, R293: a store that passes its checks enters the queue of its group's core as one entry with its address and bytes,
and changes no byte of memory; a full queue stalls the issue; a misaligned one traps. R287, R305, R281, R317: the oldest entry of a core's
queue leaves; a narrow store is then seen by its own core and by no other, and main memory is unchanged where the store meets no dirty
write of other bytes; a wide one stands at the home slice, where the core's own dirty bytes of its 16-byte units precede it; every other
byte is as it was. -/
def Obligations.StoresAndBytes : Prop :=
  Clauses.Stores ∧ Clauses.StoresPerformed

/-- R297: the new value of each atomic operation on integers, at its width. R298, R96: lanes of one gang at one address act one at a time in
lane order, each receiving the value before its own step; a floating sum adds the lanes' left fold once, and rebuilds the old values
from the prefix sums. -/
def Obligations.AtomicsAndSemaphoreWords : Prop :=
  Clauses.AtomicOperations ∧ Clauses.AtomicsCombine

/-- R296, R297, R287: a read-modify-write that meets main memory performs at its point of performance and gives the old value; CAS and
CAS2 write only where the expected value stands; RED leaves through the store queue, whose full state stalls it; a misaligned one traps;
ATOM, CAS and CAS2 wait for the executor's queued stores. R296, R305: a read-modify-write in the core store that meets no dirty write of
other bytes changes the core's own view of its bytes and nothing else; at the home slice it changes those bytes of main memory and no
other, where the core held none of their 16-byte units dirty. -/
def Obligations.ReadModifyWriteAccesses : Prop :=
  Clauses.ReadModifyWrites ∧ Clauses.ReadModifyWritePlaces

/-- R286, R314, R315, R276, R277: bank switches and their refusals; fences wait for the executor's stores, write back what a release
orders and drop what an acquire must not see; TLBINV drops the entries, the queued walks and the decoded tiles it names, and has
outstanding faults retried. R277: an invalidation drops the entries whose pages it names, the queued walks for such pages and the tiles
decoded from them, and leaves the others, once the core's dirty bytes have been written back. -/
def Obligations.BanksFencesAndInvalidation : Prop :=
  Clauses.BanksFencesInvalidation ∧ Clauses.InvalidationDrops

/-- R324, R325, R330: a handle that names no object traps ILLOP; the grid barrier's misuses trap GRIDBAR. R332-R336: registration, arrival,
wait, test and drop at an object of this device. -/
def Obligations.Barriers : Prop :=
  Clauses.BarrierHandles ∧ Clauses.BarrierInstructions

/-- R327, R328: the completion of a phase steps PHASE, clears the arrived bits, restamps the parties, leads to RELEASING where waiters are
registered, and makes every executor that is parked on the object READY. R323, R329, R344, R341: a request of another device acts at the
object here as BARINIT, BARA and BARDROP do, and its answer is sent back under the request's tag (R440); what the home tells reaches the
device's own copy, which goes where the object is FREE and fails where it has FAILED; the watchdog logs a late party once for the phase
and changes nothing else of the object; the records' image is written. The words of these packets are the model's (log entry 33). -/
def Obligations.BarrierLife : Prop :=
  Clauses.BarrierPhases ∧ Clauses.BarrierEvents

/-- R348, R350, R354, R355, R357: CAPOPEN acquires a free record, else says whether it is adoptable; CAPADOPT takes over an adoptable one
and goes on at its next step; both acquire whatever they answer, and wait for the strand's queued stores; a record that the unit rejects
traps CAPSTATE. R356, R358, R359, R361: CAPSTEP commits the owner's step once, with its intents, and tells a displaced strand so; CAPCLOSE
frees the owner's record and delivers an adopted holding's result to the mailbox; both wait for the strand's queued stores, which they
release; CAPRES takes a full one. -/
def Obligations.Capsules : Prop :=
  Clauses.CapsuleAcquisition ∧ Clauses.CapsuleSteps

/-- R94, R390: without scales, an element of the result takes one dot group after another in increasing k: the exact sum of the value so
far and of the group's products, rounded once to nearest even. R376, R385, R286: the operation at the head of its group's order starts
once its channels have their slots and no BANKSW waits for its banks, and ends: what it has written stands, the count of retired
operations takes its number, a failure is kept as the first, the operation leaves the queue, and an ENGWAIT on it goes on. -/
def Obligations.MatrixEngine : Prop :=
  Clauses.MatrixProducts ∧ Clauses.EngineOperations

/-- R126, R132, R451: a trigger counter takes a saturating sum from QSIG and the ADD window, a value from TRIGARM and the SET window;
TRIGARM gives the value it replaced. The pilot's own queued stores leave first. R131: LAUNCH checks the address, the queue's state, its
privilege and its room in that order, and a refusal drops what a peer has answered for the packet; a packet that is accepted stands in the
next slot of the ring, and WRIDX advances. -/
def Obligations.CountersAndLaunches : Prop :=
  Clauses.TriggerCounters ∧ Clauses.LaunchPacket

/-- R213, R253: LEA forms base + scaled index + offset modulo 2^64; under CHK an address whose reach fails the reach check traps REACH
with that address, and writes nothing. R17: the stack of an address and its place in the stack, in both modes; no two addresses share a
place. R294, R295, R305, R268, R273, R303: prefetch and flush change no byte that an agent reads; a queued walk is served in order; a
core's dirty bytes of a line reach the home slice; the host's writes stand there. A prefetch acts on the translation that its core holds,
or asks for a walk, for which it waits while the queue of its die is full. -/
def Obligations.AddressesAndCaches : Prop :=
  Clauses.LeaAddress ∧ Clauses.StackPlaces ∧ Clauses.PrefetchAndWriteBack

/-- R372-R374, R383: an operation of a pilot whose tiles are allocated, whose channels are configured and whose block passes its checks
enters its queue and returns its token; a tile or channel that is missing traps; a bad block returns a rejected token and changes no
engine state; a full queue stalls; a poisoned entry of the format table that the checks read is fatal to the context (R103, R106). R376,
R386: ENGWAIT returns a rejected token's failure at once, waits or answers false while the operation has not retired, then gives and
clears the engine's first failure and flags; CHNCFG configures, frees and reads a channel. -/
def Obligations.EnginesAndChannels : Prop :=
  Clauses.EngineIssue ∧ Clauses.EngineWaitsAndChannels

/-- R458, R468: CHRON gives every executor of the issue the chronometer, CHRON.q its quality word; LOGEV emits a record of class k and event
0x3F00 + n, unless the group's filter is above k. R476, R480, R481: CNTRD gives a counter of the session that the context owns, zero
without one; CNTCTL opens, closes and sets up the session of the function, with a status for each refusal. -/
def Obligations.ClockLogAndSessions : Prop :=
  Clauses.ChronAndLog ∧ Clauses.CounterSessions

/-- R118, R126, R451-R454: what a read of a host page gives; a page of a slot without a context reads zero; where the pages lie. R118,
R451, R453, R454: the writes of the host, each the event that its place names; R455-R457: what a message of a time source does to the
chronometer (conventions: log entries 68, 79). -/
def Obligations.HostPortAndChronometer : Prop :=
  Clauses.HostReads ∧ Clauses.HostWritesAndChronometer

/-- R471, R495-R498: which commands the port answers, and their replies. R444, R498: the commands on a port. -/
def Obligations.ManagementAndPorts : Prop :=
  Clauses.ManagementCommands ∧ Clauses.PortCommands

/-- R125, R441, R448: what a received header, request or response does, and a request without response (the formats of semaphore requests
and completion signals: log entry 34). R439, R444-R446: the states that a link
passes through, the retries of its flits, and the fencing of a lane. -/
def Obligations.Links : Prop :=
  Clauses.RemoteTraffic ∧ Clauses.LinkStates

/-- R127-R129, R135: the kernel that a placement opportunity takes, EDF or lottery, and what the checks of its descriptor do; a kernel
that is late by then is dropped first where its queue has DROPLATE. R138-R140: a die takes the next record of the kernel selected first,
or passes its oldest on to a core of it; a core with an empty list takes the younger half of the longest list of its die; a cohort's room,
its save records among it, is reserved in one step, and its groups start at once, all or none (R103, R108). -/
def Obligations.ArbitrationAndDealing : Prop :=
  Clauses.Arbitration ∧ Clauses.Dealing

/-- R119, R120: what each command does to a queue in each state, WRIDX beyond the ring's size, and the ends of DRAINING and of RESET
(WRIDX in ERROR, what RESET and ENABLE clear, the guard in DRAINING: log entry 95). R121-R125: intake of a packet, poisoned, bad, or good;
the test of a dependence; the completion signal; R127: a late kernel. Premises that the model's own fields need: no kernel has the number
of the next one. -/
def Obligations.QueuesAndPackets : Prop :=
  Clauses.QueueStates ∧ Clauses.PacketsAndDependences

/-- R108, R147-R149, R159, R160, R500: a record starts, a saved group comes back, a placed group runs or, where its die is hot, is
pre-empted, a group that has ended retires, a flushed one is a record again. R155-R158, R265: the method that a request takes; the ends of
a drain and of a save. -/
def Obligations.GroupsAndPreemption : Prop :=
  Clauses.GroupLives ∧ Clauses.Preemption

/-- R421, R425, R426: what COLLOPEN and COLLCLOSE answer, and what they leave. R422, R423, R425, R430, R431, R434, R504: what a packet of
the present use does when it arrives, before it is confirmed: JOIN, ACK, completion notice, FAIL and CLOSE; the confirmation, the probe
and its answer; what becomes of a packet of another generation. -/
def Obligations.Collectives : Prop :=
  Clauses.CollectiveUse ∧ Clauses.CollectivePackets

/-- R423, R428-R431: a contribution's packet becomes steps, at most one in each stack's queue, or waits while a queue is full; a second
contribution of a member and chunk is discarded. A queue's oldest step combines its elements with the buffer; one of a use that is over
goes; a fault holds it or fails the use, and a poisoned buffer is fatal to the context, under a cause that the spec does not give (log
entry 12). The last step counts its contribution. R434, R437, R504: probes, the silence of a member device, the watchdog of contributions,
and the CLOSE of a drained use. -/
def Obligations.ReductionAndWatch : Prop :=
  Clauses.Reduction ∧ Clauses.CollectiveWatch

/-- R100-R102, R104, R106, R107, R453: CREATE binds a context that is not there yet, with its registers from the image of its area;
ACTIVATE makes a CREATED one ACTIVE; TEARDOWN frees its groups at once, and the context is gone when nothing of it is in flight; what a
commander may not do, or a state does not accept, is refused. R103, R104, R110, R111, R399: a fatal event takes the context to FAULTED
with its cause, and every group of it to FAULTED, and no operation of an engine is left of it; a TEARDOWN already accepted stands. The
slice of a function renews or ends; its contexts go out once nothing of them is on a core; the next function's come in. -/
def Obligations.ContextsAndWorlds : Prop :=
  Clauses.ContextCommands ∧ Clauses.FatalEventsAndWorlds
end

