-- ==== Sys2Proof/Laws/State.lean ====
section
/-! SUPPORT. What each update of State leaves alone: one lemma per field. -/

namespace Sys2Proof.Machine

open Sys2Proof

@[simp] theorem modGroup_rank (s : State) (n : Nat) (h : Group → Group) : (modGroup s n h).rank = s.rank := rfl
@[simp] theorem modGroup_modeDie (s : State) (n : Nat) (h : Group → Group) : (modGroup s n h).modeDie = s.modeDie := rfl
@[simp] theorem modGroup_cycle (s : State) (n : Nat) (h : Group → Group) : (modGroup s n h).cycle = s.cycle := rfl
@[simp] theorem modGroup_dieStart (s : State) (n : Nat) (h : Group → Group) : (modGroup s n h).dieStart = s.dieStart := rfl
@[simp] theorem modGroup_cur (s : State) (n : Nat) (h : Group → Group) : (modGroup s n h).cur = s.cur := rfl
@[simp] theorem modGroup_agenda (s : State) (n : Nat) (h : Group → Group) : (modGroup s n h).agenda = s.agenda := rfl
@[simp] theorem modGroup_free (s : State) (n : Nat) (h : Group → Group) : (modGroup s n h).free = s.free := rfl
@[simp] theorem modGroup_unitsDone (s : State) (n : Nat) (h : Group → Group) : (modGroup s n h).unitsDone = s.unitsDone := rfl
@[simp] theorem modGroup_gangs (s : State) (n : Nat) (h : Group → Group) : (modGroup s n h).gangs = s.gangs := rfl
@[simp] theorem modGroup_leave (s : State) (n : Nat) (h : Group → Group) : (modGroup s n h).leave = s.leave := rfl
@[simp] theorem modGroup_starving (s : State) (n : Nat) (h : Group → Group) : (modGroup s n h).starving = s.starving := rfl
@[simp] theorem modGroup_asked (s : State) (n : Nat) (h : Group → Group) : (modGroup s n h).asked = s.asked := rfl
@[simp] theorem modGroup_mem (s : State) (n : Nat) (h : Group → Group) : (modGroup s n h).mem = s.mem := rfl
@[simp] theorem modGroup_hostMem (s : State) (n : Nat) (h : Group → Group) : (modGroup s n h).hostMem = s.hostMem := rfl
@[simp] theorem modGroup_poison (s : State) (n : Nat) (h : Group → Group) : (modGroup s n h).poison = s.poison := rfl
@[simp] theorem modGroup_dirty (s : State) (n : Nat) (h : Group → Group) : (modGroup s n h).dirty = s.dirty := rfl
@[simp] theorem modGroup_clean (s : State) (n : Nat) (h : Group → Group) : (modGroup s n h).clean = s.clean := rfl
@[simp] theorem modGroup_tlb (s : State) (n : Nat) (h : Group → Group) : (modGroup s n h).tlb = s.tlb := rfl
@[simp] theorem modGroup_walkQ (s : State) (n : Nat) (h : Group → Group) : (modGroup s n h).walkQ = s.walkQ := rfl
@[simp] theorem modGroup_contexts (s : State) (n : Nat) (h : Group → Group) : (modGroup s n h).contexts = s.contexts := rfl
@[simp] theorem modGroup_queues (s : State) (n : Nat) (h : Group → Group) : (modGroup s n h).queues = s.queues := rfl
@[simp] theorem modGroup_kernels (s : State) (n : Nat) (h : Group → Group) : (modGroup s n h).kernels = s.kernels := rfl
@[simp] theorem modGroup_engineQ (s : State) (n : Nat) (h : Group → Group) : (modGroup s n h).engineQ = s.engineQ := rfl
@[simp] theorem modGroup_convoys (s : State) (n : Nat) (h : Group → Group) : (modGroup s n h).convoys = s.convoys := rfl
@[simp] theorem modGroup_redQ (s : State) (n : Nat) (h : Group → Group) : (modGroup s n h).redQ = s.redQ := rfl
@[simp] theorem modGroup_ports (s : State) (n : Nat) (h : Group → Group) : (modGroup s n h).ports = s.ports := rfl
@[simp] theorem modGroup_routes (s : State) (n : Nat) (h : Group → Group) : (modGroup s n h).routes = s.routes := rfl
@[simp] theorem modGroup_sentPkts (s : State) (n : Nat) (h : Group → Group) : (modGroup s n h).sentPkts = s.sentPkts := rfl
@[simp] theorem modGroup_turning (s : State) (n : Nat) (h : Group → Group) : (modGroup s n h).turning = s.turning := rfl
@[simp] theorem modGroup_droppedTo (s : State) (n : Nat) (h : Group → Group) : (modGroup s n h).droppedTo = s.droppedTo := rfl
@[simp] theorem modGroup_remotes (s : State) (n : Nat) (h : Group → Group) : (modGroup s n h).remotes = s.remotes := rfl
@[simp] theorem modGroup_nextTag (s : State) (n : Nat) (h : Group → Group) : (modGroup s n h).nextTag = s.nextTag := rfl
@[simp] theorem modGroup_sessions (s : State) (n : Nat) (h : Group → Group) : (modGroup s n h).sessions = s.sessions := rfl
@[simp] theorem modGroup_funcs (s : State) (n : Nat) (h : Group → Group) : (modGroup s n h).funcs = s.funcs := rfl
@[simp] theorem modGroup_recbase (s : State) (n : Nat) (h : Group → Group) : (modGroup s n h).recbase = s.recbase := rfl
@[simp] theorem modGroup_recsize (s : State) (n : Nat) (h : Group → Group) : (modGroup s n h).recsize = s.recsize := rfl
@[simp] theorem modGroup_recctl (s : State) (n : Nat) (h : Group → Group) : (modGroup s n h).recctl = s.recctl := rfl
@[simp] theorem modGroup_repctl (s : State) (n : Nat) (h : Group → Group) : (modGroup s n h).repctl = s.repctl := rfl
@[simp] theorem modGroup_recpos (s : State) (n : Nat) (h : Group → Group) : (modGroup s n h).recpos = s.recpos := rfl
@[simp] theorem modGroup_replayPos (s : State) (n : Nat) (h : Group → Group) : (modGroup s n h).replayPos = s.replayPos := rfl
@[simp] theorem modGroup_chron (s : State) (n : Nat) (h : Group → Group) : (modGroup s n h).chron = s.chron := rfl
@[simp] theorem modGroup_mgmt (s : State) (n : Nat) (h : Group → Group) : (modGroup s n h).mgmt = s.mgmt := rfl
@[simp] theorem modGroup_units (s : State) (n : Nat) (h : Group → Group) : (modGroup s n h).units = s.units := rfl
@[simp] theorem modGroup_parts (s : State) (n : Nat) (h : Group → Group) : (modGroup s n h).parts = s.parts := rfl
@[simp] theorem modGroup_logs (s : State) (n : Nat) (h : Group → Group) : (modGroup s n h).logs = s.logs := rfl
@[simp] theorem modGroup_turnOf (s : State) (n : Nat) (h : Group → Group) : (modGroup s n h).turnOf = s.turnOf := rfl
@[simp] theorem modGroup_sliceEnd (s : State) (n : Nat) (h : Group → Group) : (modGroup s n h).sliceEnd = s.sliceEnd := rfl
@[simp] theorem modGroup_outgoing (s : State) (n : Nat) (h : Group → Group) : (modGroup s n h).outgoing = s.outgoing := rfl
@[simp] theorem modGroup_edfRun (s : State) (n : Nat) (h : Group → Group) : (modGroup s n h).edfRun = s.edfRun := rfl
@[simp] theorem modGroup_lotCtx (s : State) (n : Nat) (h : Group → Group) : (modGroup s n h).lotCtx = s.lotCtx := rfl
@[simp] theorem modGroup_nextGid (s : State) (n : Nat) (h : Group → Group) : (modGroup s n h).nextGid = s.nextGid := rfl
@[simp] theorem modGroup_nextKid (s : State) (n : Nat) (h : Group → Group) : (modGroup s n h).nextKid = s.nextKid := rfl
@[simp] theorem modGroup_nextSel (s : State) (n : Nat) (h : Group → Group) : (modGroup s n h).nextSel = s.nextSel := rfl
@[simp] theorem modGroup_nextPark (s : State) (n : Nat) (h : Group → Group) : (modGroup s n h).nextPark = s.nextPark := rfl
@[simp] theorem modGroup_nextMade (s : State) (n : Nat) (h : Group → Group) : (modGroup s n h).nextMade = s.nextMade := rfl
@[simp] theorem modGroup_vacant (s : State) (n : Nat) (h : Group → Group) : (modGroup s n h).vacant = s.vacant := rfl
@[simp] theorem modGroup_coreMap (s : State) (n : Nat) (h : Group → Group) : (modGroup s n h).coreMap = s.coreMap := rfl
@[simp] theorem modGroup_fencedCores (s : State) (n : Nat) (h : Group → Group) : (modGroup s n h).fencedCores = s.fencedCores := rfl
@[simp] theorem modGroup_fencedSlices (s : State) (n : Nat) (h : Group → Group) : (modGroup s n h).fencedSlices = s.fencedSlices := rfl
@[simp] theorem modGroup_issued (s : State) (n : Nat) (h : Group → Group) : (modGroup s n h).issued = s.issued := rfl
@[simp] theorem modGroup_restitch (s : State) (n : Nat) (h : Group → Group) : (modGroup s n h).restitch = s.restitch := rfl
@[simp] theorem modGroup_stitched (s : State) (n : Nat) (h : Group → Group) : (modGroup s n h).stitched = s.stitched := rfl
@[simp] theorem modGroup_gated (s : State) (n : Nat) (h : Group → Group) : (modGroup s n h).gated = s.gated := rfl

@[simp] theorem modThread_rank (s : State) (i : ThreadId) (h : Thread → Thread) : (modThread s i h).rank = s.rank := rfl
@[simp] theorem modThread_modeDie (s : State) (i : ThreadId) (h : Thread → Thread) : (modThread s i h).modeDie = s.modeDie := rfl
@[simp] theorem modThread_cycle (s : State) (i : ThreadId) (h : Thread → Thread) : (modThread s i h).cycle = s.cycle := rfl
@[simp] theorem modThread_dieStart (s : State) (i : ThreadId) (h : Thread → Thread) : (modThread s i h).dieStart = s.dieStart := rfl
@[simp] theorem modThread_cur (s : State) (i : ThreadId) (h : Thread → Thread) : (modThread s i h).cur = s.cur := rfl
@[simp] theorem modThread_agenda (s : State) (i : ThreadId) (h : Thread → Thread) : (modThread s i h).agenda = s.agenda := rfl
@[simp] theorem modThread_free (s : State) (i : ThreadId) (h : Thread → Thread) : (modThread s i h).free = s.free := rfl
@[simp] theorem modThread_unitsDone (s : State) (i : ThreadId) (h : Thread → Thread) : (modThread s i h).unitsDone = s.unitsDone := rfl
@[simp] theorem modThread_gangs (s : State) (i : ThreadId) (h : Thread → Thread) : (modThread s i h).gangs = s.gangs := rfl
@[simp] theorem modThread_leave (s : State) (i : ThreadId) (h : Thread → Thread) : (modThread s i h).leave = s.leave := rfl
@[simp] theorem modThread_starving (s : State) (i : ThreadId) (h : Thread → Thread) : (modThread s i h).starving = s.starving := rfl
@[simp] theorem modThread_asked (s : State) (i : ThreadId) (h : Thread → Thread) : (modThread s i h).asked = s.asked := rfl
@[simp] theorem modThread_mem (s : State) (i : ThreadId) (h : Thread → Thread) : (modThread s i h).mem = s.mem := rfl
@[simp] theorem modThread_hostMem (s : State) (i : ThreadId) (h : Thread → Thread) : (modThread s i h).hostMem = s.hostMem := rfl
@[simp] theorem modThread_poison (s : State) (i : ThreadId) (h : Thread → Thread) : (modThread s i h).poison = s.poison := rfl
@[simp] theorem modThread_dirty (s : State) (i : ThreadId) (h : Thread → Thread) : (modThread s i h).dirty = s.dirty := rfl
@[simp] theorem modThread_clean (s : State) (i : ThreadId) (h : Thread → Thread) : (modThread s i h).clean = s.clean := rfl
@[simp] theorem modThread_tlb (s : State) (i : ThreadId) (h : Thread → Thread) : (modThread s i h).tlb = s.tlb := rfl
@[simp] theorem modThread_walkQ (s : State) (i : ThreadId) (h : Thread → Thread) : (modThread s i h).walkQ = s.walkQ := rfl
@[simp] theorem modThread_contexts (s : State) (i : ThreadId) (h : Thread → Thread) : (modThread s i h).contexts = s.contexts := rfl
@[simp] theorem modThread_queues (s : State) (i : ThreadId) (h : Thread → Thread) : (modThread s i h).queues = s.queues := rfl
@[simp] theorem modThread_kernels (s : State) (i : ThreadId) (h : Thread → Thread) : (modThread s i h).kernels = s.kernels := rfl
@[simp] theorem modThread_engineQ (s : State) (i : ThreadId) (h : Thread → Thread) : (modThread s i h).engineQ = s.engineQ := rfl
@[simp] theorem modThread_convoys (s : State) (i : ThreadId) (h : Thread → Thread) : (modThread s i h).convoys = s.convoys := rfl
@[simp] theorem modThread_redQ (s : State) (i : ThreadId) (h : Thread → Thread) : (modThread s i h).redQ = s.redQ := rfl
@[simp] theorem modThread_ports (s : State) (i : ThreadId) (h : Thread → Thread) : (modThread s i h).ports = s.ports := rfl
@[simp] theorem modThread_routes (s : State) (i : ThreadId) (h : Thread → Thread) : (modThread s i h).routes = s.routes := rfl
@[simp] theorem modThread_sentPkts (s : State) (i : ThreadId) (h : Thread → Thread) : (modThread s i h).sentPkts = s.sentPkts := rfl
@[simp] theorem modThread_turning (s : State) (i : ThreadId) (h : Thread → Thread) : (modThread s i h).turning = s.turning := rfl
@[simp] theorem modThread_droppedTo (s : State) (i : ThreadId) (h : Thread → Thread) : (modThread s i h).droppedTo = s.droppedTo := rfl
@[simp] theorem modThread_remotes (s : State) (i : ThreadId) (h : Thread → Thread) : (modThread s i h).remotes = s.remotes := rfl
@[simp] theorem modThread_nextTag (s : State) (i : ThreadId) (h : Thread → Thread) : (modThread s i h).nextTag = s.nextTag := rfl
@[simp] theorem modThread_sessions (s : State) (i : ThreadId) (h : Thread → Thread) : (modThread s i h).sessions = s.sessions := rfl
@[simp] theorem modThread_funcs (s : State) (i : ThreadId) (h : Thread → Thread) : (modThread s i h).funcs = s.funcs := rfl
@[simp] theorem modThread_recbase (s : State) (i : ThreadId) (h : Thread → Thread) : (modThread s i h).recbase = s.recbase := rfl
@[simp] theorem modThread_recsize (s : State) (i : ThreadId) (h : Thread → Thread) : (modThread s i h).recsize = s.recsize := rfl
@[simp] theorem modThread_recctl (s : State) (i : ThreadId) (h : Thread → Thread) : (modThread s i h).recctl = s.recctl := rfl
@[simp] theorem modThread_repctl (s : State) (i : ThreadId) (h : Thread → Thread) : (modThread s i h).repctl = s.repctl := rfl
@[simp] theorem modThread_recpos (s : State) (i : ThreadId) (h : Thread → Thread) : (modThread s i h).recpos = s.recpos := rfl
@[simp] theorem modThread_replayPos (s : State) (i : ThreadId) (h : Thread → Thread) : (modThread s i h).replayPos = s.replayPos := rfl
@[simp] theorem modThread_chron (s : State) (i : ThreadId) (h : Thread → Thread) : (modThread s i h).chron = s.chron := rfl
@[simp] theorem modThread_mgmt (s : State) (i : ThreadId) (h : Thread → Thread) : (modThread s i h).mgmt = s.mgmt := rfl
@[simp] theorem modThread_units (s : State) (i : ThreadId) (h : Thread → Thread) : (modThread s i h).units = s.units := rfl
@[simp] theorem modThread_parts (s : State) (i : ThreadId) (h : Thread → Thread) : (modThread s i h).parts = s.parts := rfl
@[simp] theorem modThread_logs (s : State) (i : ThreadId) (h : Thread → Thread) : (modThread s i h).logs = s.logs := rfl
@[simp] theorem modThread_turnOf (s : State) (i : ThreadId) (h : Thread → Thread) : (modThread s i h).turnOf = s.turnOf := rfl
@[simp] theorem modThread_sliceEnd (s : State) (i : ThreadId) (h : Thread → Thread) : (modThread s i h).sliceEnd = s.sliceEnd := rfl
@[simp] theorem modThread_outgoing (s : State) (i : ThreadId) (h : Thread → Thread) : (modThread s i h).outgoing = s.outgoing := rfl
@[simp] theorem modThread_edfRun (s : State) (i : ThreadId) (h : Thread → Thread) : (modThread s i h).edfRun = s.edfRun := rfl
@[simp] theorem modThread_lotCtx (s : State) (i : ThreadId) (h : Thread → Thread) : (modThread s i h).lotCtx = s.lotCtx := rfl
@[simp] theorem modThread_nextGid (s : State) (i : ThreadId) (h : Thread → Thread) : (modThread s i h).nextGid = s.nextGid := rfl
@[simp] theorem modThread_nextKid (s : State) (i : ThreadId) (h : Thread → Thread) : (modThread s i h).nextKid = s.nextKid := rfl
@[simp] theorem modThread_nextSel (s : State) (i : ThreadId) (h : Thread → Thread) : (modThread s i h).nextSel = s.nextSel := rfl
@[simp] theorem modThread_nextPark (s : State) (i : ThreadId) (h : Thread → Thread) : (modThread s i h).nextPark = s.nextPark := rfl
@[simp] theorem modThread_nextMade (s : State) (i : ThreadId) (h : Thread → Thread) : (modThread s i h).nextMade = s.nextMade := rfl
@[simp] theorem modThread_vacant (s : State) (i : ThreadId) (h : Thread → Thread) : (modThread s i h).vacant = s.vacant := rfl
@[simp] theorem modThread_coreMap (s : State) (i : ThreadId) (h : Thread → Thread) : (modThread s i h).coreMap = s.coreMap := rfl
@[simp] theorem modThread_fencedCores (s : State) (i : ThreadId) (h : Thread → Thread) : (modThread s i h).fencedCores = s.fencedCores := rfl
@[simp] theorem modThread_fencedSlices (s : State) (i : ThreadId) (h : Thread → Thread) : (modThread s i h).fencedSlices = s.fencedSlices := rfl
@[simp] theorem modThread_issued (s : State) (i : ThreadId) (h : Thread → Thread) : (modThread s i h).issued = s.issued := rfl
@[simp] theorem modThread_restitch (s : State) (i : ThreadId) (h : Thread → Thread) : (modThread s i h).restitch = s.restitch := rfl
@[simp] theorem modThread_stitched (s : State) (i : ThreadId) (h : Thread → Thread) : (modThread s i h).stitched = s.stitched := rfl
@[simp] theorem modThread_gated (s : State) (i : ThreadId) (h : Thread → Thread) : (modThread s i h).gated = s.gated := rfl

@[simp] theorem modCtx_rank (s : State) (n : Nat) (h : Context → Context) : (modCtx s n h).rank = s.rank := rfl
@[simp] theorem modCtx_modeDie (s : State) (n : Nat) (h : Context → Context) : (modCtx s n h).modeDie = s.modeDie := rfl
@[simp] theorem modCtx_cycle (s : State) (n : Nat) (h : Context → Context) : (modCtx s n h).cycle = s.cycle := rfl
@[simp] theorem modCtx_dieStart (s : State) (n : Nat) (h : Context → Context) : (modCtx s n h).dieStart = s.dieStart := rfl
@[simp] theorem modCtx_cur (s : State) (n : Nat) (h : Context → Context) : (modCtx s n h).cur = s.cur := rfl
@[simp] theorem modCtx_agenda (s : State) (n : Nat) (h : Context → Context) : (modCtx s n h).agenda = s.agenda := rfl
@[simp] theorem modCtx_free (s : State) (n : Nat) (h : Context → Context) : (modCtx s n h).free = s.free := rfl
@[simp] theorem modCtx_unitsDone (s : State) (n : Nat) (h : Context → Context) : (modCtx s n h).unitsDone = s.unitsDone := rfl
@[simp] theorem modCtx_gangs (s : State) (n : Nat) (h : Context → Context) : (modCtx s n h).gangs = s.gangs := rfl
@[simp] theorem modCtx_leave (s : State) (n : Nat) (h : Context → Context) : (modCtx s n h).leave = s.leave := rfl
@[simp] theorem modCtx_starving (s : State) (n : Nat) (h : Context → Context) : (modCtx s n h).starving = s.starving := rfl
@[simp] theorem modCtx_asked (s : State) (n : Nat) (h : Context → Context) : (modCtx s n h).asked = s.asked := rfl
@[simp] theorem modCtx_mem (s : State) (n : Nat) (h : Context → Context) : (modCtx s n h).mem = s.mem := rfl
@[simp] theorem modCtx_hostMem (s : State) (n : Nat) (h : Context → Context) : (modCtx s n h).hostMem = s.hostMem := rfl
@[simp] theorem modCtx_poison (s : State) (n : Nat) (h : Context → Context) : (modCtx s n h).poison = s.poison := rfl
@[simp] theorem modCtx_dirty (s : State) (n : Nat) (h : Context → Context) : (modCtx s n h).dirty = s.dirty := rfl
@[simp] theorem modCtx_clean (s : State) (n : Nat) (h : Context → Context) : (modCtx s n h).clean = s.clean := rfl
@[simp] theorem modCtx_tlb (s : State) (n : Nat) (h : Context → Context) : (modCtx s n h).tlb = s.tlb := rfl
@[simp] theorem modCtx_walkQ (s : State) (n : Nat) (h : Context → Context) : (modCtx s n h).walkQ = s.walkQ := rfl
@[simp] theorem modCtx_queues (s : State) (n : Nat) (h : Context → Context) : (modCtx s n h).queues = s.queues := rfl
@[simp] theorem modCtx_kernels (s : State) (n : Nat) (h : Context → Context) : (modCtx s n h).kernels = s.kernels := rfl
@[simp] theorem modCtx_groups (s : State) (n : Nat) (h : Context → Context) : (modCtx s n h).groups = s.groups := rfl
@[simp] theorem modCtx_engineQ (s : State) (n : Nat) (h : Context → Context) : (modCtx s n h).engineQ = s.engineQ := rfl
@[simp] theorem modCtx_convoys (s : State) (n : Nat) (h : Context → Context) : (modCtx s n h).convoys = s.convoys := rfl
@[simp] theorem modCtx_redQ (s : State) (n : Nat) (h : Context → Context) : (modCtx s n h).redQ = s.redQ := rfl
@[simp] theorem modCtx_ports (s : State) (n : Nat) (h : Context → Context) : (modCtx s n h).ports = s.ports := rfl
@[simp] theorem modCtx_routes (s : State) (n : Nat) (h : Context → Context) : (modCtx s n h).routes = s.routes := rfl
@[simp] theorem modCtx_sentPkts (s : State) (n : Nat) (h : Context → Context) : (modCtx s n h).sentPkts = s.sentPkts := rfl
@[simp] theorem modCtx_turning (s : State) (n : Nat) (h : Context → Context) : (modCtx s n h).turning = s.turning := rfl
@[simp] theorem modCtx_droppedTo (s : State) (n : Nat) (h : Context → Context) : (modCtx s n h).droppedTo = s.droppedTo := rfl
@[simp] theorem modCtx_remotes (s : State) (n : Nat) (h : Context → Context) : (modCtx s n h).remotes = s.remotes := rfl
@[simp] theorem modCtx_nextTag (s : State) (n : Nat) (h : Context → Context) : (modCtx s n h).nextTag = s.nextTag := rfl
@[simp] theorem modCtx_sessions (s : State) (n : Nat) (h : Context → Context) : (modCtx s n h).sessions = s.sessions := rfl
@[simp] theorem modCtx_funcs (s : State) (n : Nat) (h : Context → Context) : (modCtx s n h).funcs = s.funcs := rfl
@[simp] theorem modCtx_recbase (s : State) (n : Nat) (h : Context → Context) : (modCtx s n h).recbase = s.recbase := rfl
@[simp] theorem modCtx_recsize (s : State) (n : Nat) (h : Context → Context) : (modCtx s n h).recsize = s.recsize := rfl
@[simp] theorem modCtx_recctl (s : State) (n : Nat) (h : Context → Context) : (modCtx s n h).recctl = s.recctl := rfl
@[simp] theorem modCtx_repctl (s : State) (n : Nat) (h : Context → Context) : (modCtx s n h).repctl = s.repctl := rfl
@[simp] theorem modCtx_recpos (s : State) (n : Nat) (h : Context → Context) : (modCtx s n h).recpos = s.recpos := rfl
@[simp] theorem modCtx_replayPos (s : State) (n : Nat) (h : Context → Context) : (modCtx s n h).replayPos = s.replayPos := rfl
@[simp] theorem modCtx_chron (s : State) (n : Nat) (h : Context → Context) : (modCtx s n h).chron = s.chron := rfl
@[simp] theorem modCtx_mgmt (s : State) (n : Nat) (h : Context → Context) : (modCtx s n h).mgmt = s.mgmt := rfl
@[simp] theorem modCtx_units (s : State) (n : Nat) (h : Context → Context) : (modCtx s n h).units = s.units := rfl
@[simp] theorem modCtx_parts (s : State) (n : Nat) (h : Context → Context) : (modCtx s n h).parts = s.parts := rfl
@[simp] theorem modCtx_logs (s : State) (n : Nat) (h : Context → Context) : (modCtx s n h).logs = s.logs := rfl
@[simp] theorem modCtx_turnOf (s : State) (n : Nat) (h : Context → Context) : (modCtx s n h).turnOf = s.turnOf := rfl
@[simp] theorem modCtx_sliceEnd (s : State) (n : Nat) (h : Context → Context) : (modCtx s n h).sliceEnd = s.sliceEnd := rfl
@[simp] theorem modCtx_outgoing (s : State) (n : Nat) (h : Context → Context) : (modCtx s n h).outgoing = s.outgoing := rfl
@[simp] theorem modCtx_edfRun (s : State) (n : Nat) (h : Context → Context) : (modCtx s n h).edfRun = s.edfRun := rfl
@[simp] theorem modCtx_lotCtx (s : State) (n : Nat) (h : Context → Context) : (modCtx s n h).lotCtx = s.lotCtx := rfl
@[simp] theorem modCtx_nextGid (s : State) (n : Nat) (h : Context → Context) : (modCtx s n h).nextGid = s.nextGid := rfl
@[simp] theorem modCtx_nextKid (s : State) (n : Nat) (h : Context → Context) : (modCtx s n h).nextKid = s.nextKid := rfl
@[simp] theorem modCtx_nextSel (s : State) (n : Nat) (h : Context → Context) : (modCtx s n h).nextSel = s.nextSel := rfl
@[simp] theorem modCtx_nextPark (s : State) (n : Nat) (h : Context → Context) : (modCtx s n h).nextPark = s.nextPark := rfl
@[simp] theorem modCtx_nextMade (s : State) (n : Nat) (h : Context → Context) : (modCtx s n h).nextMade = s.nextMade := rfl
@[simp] theorem modCtx_vacant (s : State) (n : Nat) (h : Context → Context) : (modCtx s n h).vacant = s.vacant := rfl
@[simp] theorem modCtx_coreMap (s : State) (n : Nat) (h : Context → Context) : (modCtx s n h).coreMap = s.coreMap := rfl
@[simp] theorem modCtx_fencedCores (s : State) (n : Nat) (h : Context → Context) : (modCtx s n h).fencedCores = s.fencedCores := rfl
@[simp] theorem modCtx_fencedSlices (s : State) (n : Nat) (h : Context → Context) : (modCtx s n h).fencedSlices = s.fencedSlices := rfl
@[simp] theorem modCtx_issued (s : State) (n : Nat) (h : Context → Context) : (modCtx s n h).issued = s.issued := rfl
@[simp] theorem modCtx_restitch (s : State) (n : Nat) (h : Context → Context) : (modCtx s n h).restitch = s.restitch := rfl
@[simp] theorem modCtx_stitched (s : State) (n : Nat) (h : Context → Context) : (modCtx s n h).stitched = s.stitched := rfl
@[simp] theorem modCtx_gated (s : State) (n : Nat) (h : Context → Context) : (modCtx s n h).gated = s.gated := rfl

@[simp] theorem modCtxReg_rank (s : State) (n r : Nat) (v : W64) : (modCtxReg s n r v).rank = s.rank := rfl
@[simp] theorem modCtxReg_modeDie (s : State) (n r : Nat) (v : W64) : (modCtxReg s n r v).modeDie = s.modeDie := rfl
@[simp] theorem modCtxReg_cycle (s : State) (n r : Nat) (v : W64) : (modCtxReg s n r v).cycle = s.cycle := rfl
@[simp] theorem modCtxReg_dieStart (s : State) (n r : Nat) (v : W64) : (modCtxReg s n r v).dieStart = s.dieStart := rfl
@[simp] theorem modCtxReg_cur (s : State) (n r : Nat) (v : W64) : (modCtxReg s n r v).cur = s.cur := rfl
@[simp] theorem modCtxReg_agenda (s : State) (n r : Nat) (v : W64) : (modCtxReg s n r v).agenda = s.agenda := rfl
@[simp] theorem modCtxReg_free (s : State) (n r : Nat) (v : W64) : (modCtxReg s n r v).free = s.free := rfl
@[simp] theorem modCtxReg_unitsDone (s : State) (n r : Nat) (v : W64) : (modCtxReg s n r v).unitsDone = s.unitsDone := rfl
@[simp] theorem modCtxReg_gangs (s : State) (n r : Nat) (v : W64) : (modCtxReg s n r v).gangs = s.gangs := rfl
@[simp] theorem modCtxReg_leave (s : State) (n r : Nat) (v : W64) : (modCtxReg s n r v).leave = s.leave := rfl
@[simp] theorem modCtxReg_starving (s : State) (n r : Nat) (v : W64) : (modCtxReg s n r v).starving = s.starving := rfl
@[simp] theorem modCtxReg_asked (s : State) (n r : Nat) (v : W64) : (modCtxReg s n r v).asked = s.asked := rfl
@[simp] theorem modCtxReg_mem (s : State) (n r : Nat) (v : W64) : (modCtxReg s n r v).mem = s.mem := rfl
@[simp] theorem modCtxReg_hostMem (s : State) (n r : Nat) (v : W64) : (modCtxReg s n r v).hostMem = s.hostMem := rfl
@[simp] theorem modCtxReg_poison (s : State) (n r : Nat) (v : W64) : (modCtxReg s n r v).poison = s.poison := rfl
@[simp] theorem modCtxReg_dirty (s : State) (n r : Nat) (v : W64) : (modCtxReg s n r v).dirty = s.dirty := rfl
@[simp] theorem modCtxReg_clean (s : State) (n r : Nat) (v : W64) : (modCtxReg s n r v).clean = s.clean := rfl
@[simp] theorem modCtxReg_tlb (s : State) (n r : Nat) (v : W64) : (modCtxReg s n r v).tlb = s.tlb := rfl
@[simp] theorem modCtxReg_walkQ (s : State) (n r : Nat) (v : W64) : (modCtxReg s n r v).walkQ = s.walkQ := rfl
@[simp] theorem modCtxReg_queues (s : State) (n r : Nat) (v : W64) : (modCtxReg s n r v).queues = s.queues := rfl
@[simp] theorem modCtxReg_kernels (s : State) (n r : Nat) (v : W64) : (modCtxReg s n r v).kernels = s.kernels := rfl
@[simp] theorem modCtxReg_groups (s : State) (n r : Nat) (v : W64) : (modCtxReg s n r v).groups = s.groups := rfl
@[simp] theorem modCtxReg_engineQ (s : State) (n r : Nat) (v : W64) : (modCtxReg s n r v).engineQ = s.engineQ := rfl
@[simp] theorem modCtxReg_convoys (s : State) (n r : Nat) (v : W64) : (modCtxReg s n r v).convoys = s.convoys := rfl
@[simp] theorem modCtxReg_redQ (s : State) (n r : Nat) (v : W64) : (modCtxReg s n r v).redQ = s.redQ := rfl
@[simp] theorem modCtxReg_ports (s : State) (n r : Nat) (v : W64) : (modCtxReg s n r v).ports = s.ports := rfl
@[simp] theorem modCtxReg_routes (s : State) (n r : Nat) (v : W64) : (modCtxReg s n r v).routes = s.routes := rfl
@[simp] theorem modCtxReg_sentPkts (s : State) (n r : Nat) (v : W64) : (modCtxReg s n r v).sentPkts = s.sentPkts := rfl
@[simp] theorem modCtxReg_turning (s : State) (n r : Nat) (v : W64) : (modCtxReg s n r v).turning = s.turning := rfl
@[simp] theorem modCtxReg_droppedTo (s : State) (n r : Nat) (v : W64) : (modCtxReg s n r v).droppedTo = s.droppedTo := rfl
@[simp] theorem modCtxReg_remotes (s : State) (n r : Nat) (v : W64) : (modCtxReg s n r v).remotes = s.remotes := rfl
@[simp] theorem modCtxReg_nextTag (s : State) (n r : Nat) (v : W64) : (modCtxReg s n r v).nextTag = s.nextTag := rfl
@[simp] theorem modCtxReg_sessions (s : State) (n r : Nat) (v : W64) : (modCtxReg s n r v).sessions = s.sessions := rfl
@[simp] theorem modCtxReg_funcs (s : State) (n r : Nat) (v : W64) : (modCtxReg s n r v).funcs = s.funcs := rfl
@[simp] theorem modCtxReg_recbase (s : State) (n r : Nat) (v : W64) : (modCtxReg s n r v).recbase = s.recbase := rfl
@[simp] theorem modCtxReg_recsize (s : State) (n r : Nat) (v : W64) : (modCtxReg s n r v).recsize = s.recsize := rfl
@[simp] theorem modCtxReg_recctl (s : State) (n r : Nat) (v : W64) : (modCtxReg s n r v).recctl = s.recctl := rfl
@[simp] theorem modCtxReg_repctl (s : State) (n r : Nat) (v : W64) : (modCtxReg s n r v).repctl = s.repctl := rfl
@[simp] theorem modCtxReg_recpos (s : State) (n r : Nat) (v : W64) : (modCtxReg s n r v).recpos = s.recpos := rfl
@[simp] theorem modCtxReg_replayPos (s : State) (n r : Nat) (v : W64) : (modCtxReg s n r v).replayPos = s.replayPos := rfl
@[simp] theorem modCtxReg_chron (s : State) (n r : Nat) (v : W64) : (modCtxReg s n r v).chron = s.chron := rfl
@[simp] theorem modCtxReg_mgmt (s : State) (n r : Nat) (v : W64) : (modCtxReg s n r v).mgmt = s.mgmt := rfl
@[simp] theorem modCtxReg_units (s : State) (n r : Nat) (v : W64) : (modCtxReg s n r v).units = s.units := rfl
@[simp] theorem modCtxReg_parts (s : State) (n r : Nat) (v : W64) : (modCtxReg s n r v).parts = s.parts := rfl
@[simp] theorem modCtxReg_logs (s : State) (n r : Nat) (v : W64) : (modCtxReg s n r v).logs = s.logs := rfl
@[simp] theorem modCtxReg_turnOf (s : State) (n r : Nat) (v : W64) : (modCtxReg s n r v).turnOf = s.turnOf := rfl
@[simp] theorem modCtxReg_sliceEnd (s : State) (n r : Nat) (v : W64) : (modCtxReg s n r v).sliceEnd = s.sliceEnd := rfl
@[simp] theorem modCtxReg_outgoing (s : State) (n r : Nat) (v : W64) : (modCtxReg s n r v).outgoing = s.outgoing := rfl
@[simp] theorem modCtxReg_edfRun (s : State) (n r : Nat) (v : W64) : (modCtxReg s n r v).edfRun = s.edfRun := rfl
@[simp] theorem modCtxReg_lotCtx (s : State) (n r : Nat) (v : W64) : (modCtxReg s n r v).lotCtx = s.lotCtx := rfl
@[simp] theorem modCtxReg_nextGid (s : State) (n r : Nat) (v : W64) : (modCtxReg s n r v).nextGid = s.nextGid := rfl
@[simp] theorem modCtxReg_nextKid (s : State) (n r : Nat) (v : W64) : (modCtxReg s n r v).nextKid = s.nextKid := rfl
@[simp] theorem modCtxReg_nextSel (s : State) (n r : Nat) (v : W64) : (modCtxReg s n r v).nextSel = s.nextSel := rfl
@[simp] theorem modCtxReg_nextPark (s : State) (n r : Nat) (v : W64) : (modCtxReg s n r v).nextPark = s.nextPark := rfl
@[simp] theorem modCtxReg_nextMade (s : State) (n r : Nat) (v : W64) : (modCtxReg s n r v).nextMade = s.nextMade := rfl
@[simp] theorem modCtxReg_vacant (s : State) (n r : Nat) (v : W64) : (modCtxReg s n r v).vacant = s.vacant := rfl
@[simp] theorem modCtxReg_coreMap (s : State) (n r : Nat) (v : W64) : (modCtxReg s n r v).coreMap = s.coreMap := rfl
@[simp] theorem modCtxReg_fencedCores (s : State) (n r : Nat) (v : W64) : (modCtxReg s n r v).fencedCores = s.fencedCores := rfl
@[simp] theorem modCtxReg_fencedSlices (s : State) (n r : Nat) (v : W64) : (modCtxReg s n r v).fencedSlices = s.fencedSlices := rfl
@[simp] theorem modCtxReg_issued (s : State) (n r : Nat) (v : W64) : (modCtxReg s n r v).issued = s.issued := rfl
@[simp] theorem modCtxReg_restitch (s : State) (n r : Nat) (v : W64) : (modCtxReg s n r v).restitch = s.restitch := rfl
@[simp] theorem modCtxReg_stitched (s : State) (n r : Nat) (v : W64) : (modCtxReg s n r v).stitched = s.stitched := rfl
@[simp] theorem modCtxReg_gated (s : State) (n r : Nat) (v : W64) : (modCtxReg s n r v).gated = s.gated := rfl

@[simp] theorem modKernel_rank (s : State) (n : Nat) (h : Kernel → Kernel) : (modKernel s n h).rank = s.rank := rfl
@[simp] theorem modKernel_modeDie (s : State) (n : Nat) (h : Kernel → Kernel) : (modKernel s n h).modeDie = s.modeDie := rfl
@[simp] theorem modKernel_cycle (s : State) (n : Nat) (h : Kernel → Kernel) : (modKernel s n h).cycle = s.cycle := rfl
@[simp] theorem modKernel_dieStart (s : State) (n : Nat) (h : Kernel → Kernel) : (modKernel s n h).dieStart = s.dieStart := rfl
@[simp] theorem modKernel_cur (s : State) (n : Nat) (h : Kernel → Kernel) : (modKernel s n h).cur = s.cur := rfl
@[simp] theorem modKernel_agenda (s : State) (n : Nat) (h : Kernel → Kernel) : (modKernel s n h).agenda = s.agenda := rfl
@[simp] theorem modKernel_free (s : State) (n : Nat) (h : Kernel → Kernel) : (modKernel s n h).free = s.free := rfl
@[simp] theorem modKernel_unitsDone (s : State) (n : Nat) (h : Kernel → Kernel) : (modKernel s n h).unitsDone = s.unitsDone := rfl
@[simp] theorem modKernel_gangs (s : State) (n : Nat) (h : Kernel → Kernel) : (modKernel s n h).gangs = s.gangs := rfl
@[simp] theorem modKernel_leave (s : State) (n : Nat) (h : Kernel → Kernel) : (modKernel s n h).leave = s.leave := rfl
@[simp] theorem modKernel_starving (s : State) (n : Nat) (h : Kernel → Kernel) : (modKernel s n h).starving = s.starving := rfl
@[simp] theorem modKernel_asked (s : State) (n : Nat) (h : Kernel → Kernel) : (modKernel s n h).asked = s.asked := rfl
@[simp] theorem modKernel_mem (s : State) (n : Nat) (h : Kernel → Kernel) : (modKernel s n h).mem = s.mem := rfl
@[simp] theorem modKernel_hostMem (s : State) (n : Nat) (h : Kernel → Kernel) : (modKernel s n h).hostMem = s.hostMem := rfl
@[simp] theorem modKernel_poison (s : State) (n : Nat) (h : Kernel → Kernel) : (modKernel s n h).poison = s.poison := rfl
@[simp] theorem modKernel_dirty (s : State) (n : Nat) (h : Kernel → Kernel) : (modKernel s n h).dirty = s.dirty := rfl
@[simp] theorem modKernel_clean (s : State) (n : Nat) (h : Kernel → Kernel) : (modKernel s n h).clean = s.clean := rfl
@[simp] theorem modKernel_tlb (s : State) (n : Nat) (h : Kernel → Kernel) : (modKernel s n h).tlb = s.tlb := rfl
@[simp] theorem modKernel_walkQ (s : State) (n : Nat) (h : Kernel → Kernel) : (modKernel s n h).walkQ = s.walkQ := rfl
@[simp] theorem modKernel_contexts (s : State) (n : Nat) (h : Kernel → Kernel) : (modKernel s n h).contexts = s.contexts := rfl
@[simp] theorem modKernel_queues (s : State) (n : Nat) (h : Kernel → Kernel) : (modKernel s n h).queues = s.queues := rfl
@[simp] theorem modKernel_groups (s : State) (n : Nat) (h : Kernel → Kernel) : (modKernel s n h).groups = s.groups := rfl
@[simp] theorem modKernel_engineQ (s : State) (n : Nat) (h : Kernel → Kernel) : (modKernel s n h).engineQ = s.engineQ := rfl
@[simp] theorem modKernel_convoys (s : State) (n : Nat) (h : Kernel → Kernel) : (modKernel s n h).convoys = s.convoys := rfl
@[simp] theorem modKernel_redQ (s : State) (n : Nat) (h : Kernel → Kernel) : (modKernel s n h).redQ = s.redQ := rfl
@[simp] theorem modKernel_ports (s : State) (n : Nat) (h : Kernel → Kernel) : (modKernel s n h).ports = s.ports := rfl
@[simp] theorem modKernel_routes (s : State) (n : Nat) (h : Kernel → Kernel) : (modKernel s n h).routes = s.routes := rfl
@[simp] theorem modKernel_sentPkts (s : State) (n : Nat) (h : Kernel → Kernel) : (modKernel s n h).sentPkts = s.sentPkts := rfl
@[simp] theorem modKernel_turning (s : State) (n : Nat) (h : Kernel → Kernel) : (modKernel s n h).turning = s.turning := rfl
@[simp] theorem modKernel_droppedTo (s : State) (n : Nat) (h : Kernel → Kernel) : (modKernel s n h).droppedTo = s.droppedTo := rfl
@[simp] theorem modKernel_remotes (s : State) (n : Nat) (h : Kernel → Kernel) : (modKernel s n h).remotes = s.remotes := rfl
@[simp] theorem modKernel_nextTag (s : State) (n : Nat) (h : Kernel → Kernel) : (modKernel s n h).nextTag = s.nextTag := rfl
@[simp] theorem modKernel_sessions (s : State) (n : Nat) (h : Kernel → Kernel) : (modKernel s n h).sessions = s.sessions := rfl
@[simp] theorem modKernel_funcs (s : State) (n : Nat) (h : Kernel → Kernel) : (modKernel s n h).funcs = s.funcs := rfl
@[simp] theorem modKernel_recbase (s : State) (n : Nat) (h : Kernel → Kernel) : (modKernel s n h).recbase = s.recbase := rfl
@[simp] theorem modKernel_recsize (s : State) (n : Nat) (h : Kernel → Kernel) : (modKernel s n h).recsize = s.recsize := rfl
@[simp] theorem modKernel_recctl (s : State) (n : Nat) (h : Kernel → Kernel) : (modKernel s n h).recctl = s.recctl := rfl
@[simp] theorem modKernel_repctl (s : State) (n : Nat) (h : Kernel → Kernel) : (modKernel s n h).repctl = s.repctl := rfl
@[simp] theorem modKernel_recpos (s : State) (n : Nat) (h : Kernel → Kernel) : (modKernel s n h).recpos = s.recpos := rfl
@[simp] theorem modKernel_replayPos (s : State) (n : Nat) (h : Kernel → Kernel) : (modKernel s n h).replayPos = s.replayPos := rfl
@[simp] theorem modKernel_chron (s : State) (n : Nat) (h : Kernel → Kernel) : (modKernel s n h).chron = s.chron := rfl
@[simp] theorem modKernel_mgmt (s : State) (n : Nat) (h : Kernel → Kernel) : (modKernel s n h).mgmt = s.mgmt := rfl
@[simp] theorem modKernel_units (s : State) (n : Nat) (h : Kernel → Kernel) : (modKernel s n h).units = s.units := rfl
@[simp] theorem modKernel_parts (s : State) (n : Nat) (h : Kernel → Kernel) : (modKernel s n h).parts = s.parts := rfl
@[simp] theorem modKernel_logs (s : State) (n : Nat) (h : Kernel → Kernel) : (modKernel s n h).logs = s.logs := rfl
@[simp] theorem modKernel_turnOf (s : State) (n : Nat) (h : Kernel → Kernel) : (modKernel s n h).turnOf = s.turnOf := rfl
@[simp] theorem modKernel_sliceEnd (s : State) (n : Nat) (h : Kernel → Kernel) : (modKernel s n h).sliceEnd = s.sliceEnd := rfl
@[simp] theorem modKernel_outgoing (s : State) (n : Nat) (h : Kernel → Kernel) : (modKernel s n h).outgoing = s.outgoing := rfl
@[simp] theorem modKernel_edfRun (s : State) (n : Nat) (h : Kernel → Kernel) : (modKernel s n h).edfRun = s.edfRun := rfl
@[simp] theorem modKernel_lotCtx (s : State) (n : Nat) (h : Kernel → Kernel) : (modKernel s n h).lotCtx = s.lotCtx := rfl
@[simp] theorem modKernel_nextGid (s : State) (n : Nat) (h : Kernel → Kernel) : (modKernel s n h).nextGid = s.nextGid := rfl
@[simp] theorem modKernel_nextKid (s : State) (n : Nat) (h : Kernel → Kernel) : (modKernel s n h).nextKid = s.nextKid := rfl
@[simp] theorem modKernel_nextSel (s : State) (n : Nat) (h : Kernel → Kernel) : (modKernel s n h).nextSel = s.nextSel := rfl
@[simp] theorem modKernel_nextPark (s : State) (n : Nat) (h : Kernel → Kernel) : (modKernel s n h).nextPark = s.nextPark := rfl
@[simp] theorem modKernel_nextMade (s : State) (n : Nat) (h : Kernel → Kernel) : (modKernel s n h).nextMade = s.nextMade := rfl
@[simp] theorem modKernel_vacant (s : State) (n : Nat) (h : Kernel → Kernel) : (modKernel s n h).vacant = s.vacant := rfl
@[simp] theorem modKernel_coreMap (s : State) (n : Nat) (h : Kernel → Kernel) : (modKernel s n h).coreMap = s.coreMap := rfl
@[simp] theorem modKernel_fencedCores (s : State) (n : Nat) (h : Kernel → Kernel) : (modKernel s n h).fencedCores = s.fencedCores := rfl
@[simp] theorem modKernel_fencedSlices (s : State) (n : Nat) (h : Kernel → Kernel) : (modKernel s n h).fencedSlices = s.fencedSlices := rfl
@[simp] theorem modKernel_issued (s : State) (n : Nat) (h : Kernel → Kernel) : (modKernel s n h).issued = s.issued := rfl
@[simp] theorem modKernel_restitch (s : State) (n : Nat) (h : Kernel → Kernel) : (modKernel s n h).restitch = s.restitch := rfl
@[simp] theorem modKernel_stitched (s : State) (n : Nat) (h : Kernel → Kernel) : (modKernel s n h).stitched = s.stitched := rfl
@[simp] theorem modKernel_gated (s : State) (n : Nat) (h : Kernel → Kernel) : (modKernel s n h).gated = s.gated := rfl

@[simp] theorem modQueue_rank (s : State) (n q : Nat) (h : Queue → Queue) : (modQueue s n q h).rank = s.rank := rfl
@[simp] theorem modQueue_modeDie (s : State) (n q : Nat) (h : Queue → Queue) : (modQueue s n q h).modeDie = s.modeDie := rfl
@[simp] theorem modQueue_cycle (s : State) (n q : Nat) (h : Queue → Queue) : (modQueue s n q h).cycle = s.cycle := rfl
@[simp] theorem modQueue_dieStart (s : State) (n q : Nat) (h : Queue → Queue) : (modQueue s n q h).dieStart = s.dieStart := rfl
@[simp] theorem modQueue_cur (s : State) (n q : Nat) (h : Queue → Queue) : (modQueue s n q h).cur = s.cur := rfl
@[simp] theorem modQueue_agenda (s : State) (n q : Nat) (h : Queue → Queue) : (modQueue s n q h).agenda = s.agenda := rfl
@[simp] theorem modQueue_free (s : State) (n q : Nat) (h : Queue → Queue) : (modQueue s n q h).free = s.free := rfl
@[simp] theorem modQueue_unitsDone (s : State) (n q : Nat) (h : Queue → Queue) : (modQueue s n q h).unitsDone = s.unitsDone := rfl
@[simp] theorem modQueue_gangs (s : State) (n q : Nat) (h : Queue → Queue) : (modQueue s n q h).gangs = s.gangs := rfl
@[simp] theorem modQueue_leave (s : State) (n q : Nat) (h : Queue → Queue) : (modQueue s n q h).leave = s.leave := rfl
@[simp] theorem modQueue_starving (s : State) (n q : Nat) (h : Queue → Queue) : (modQueue s n q h).starving = s.starving := rfl
@[simp] theorem modQueue_asked (s : State) (n q : Nat) (h : Queue → Queue) : (modQueue s n q h).asked = s.asked := rfl
@[simp] theorem modQueue_mem (s : State) (n q : Nat) (h : Queue → Queue) : (modQueue s n q h).mem = s.mem := rfl
@[simp] theorem modQueue_hostMem (s : State) (n q : Nat) (h : Queue → Queue) : (modQueue s n q h).hostMem = s.hostMem := rfl
@[simp] theorem modQueue_poison (s : State) (n q : Nat) (h : Queue → Queue) : (modQueue s n q h).poison = s.poison := rfl
@[simp] theorem modQueue_dirty (s : State) (n q : Nat) (h : Queue → Queue) : (modQueue s n q h).dirty = s.dirty := rfl
@[simp] theorem modQueue_clean (s : State) (n q : Nat) (h : Queue → Queue) : (modQueue s n q h).clean = s.clean := rfl
@[simp] theorem modQueue_tlb (s : State) (n q : Nat) (h : Queue → Queue) : (modQueue s n q h).tlb = s.tlb := rfl
@[simp] theorem modQueue_walkQ (s : State) (n q : Nat) (h : Queue → Queue) : (modQueue s n q h).walkQ = s.walkQ := rfl
@[simp] theorem modQueue_contexts (s : State) (n q : Nat) (h : Queue → Queue) : (modQueue s n q h).contexts = s.contexts := rfl
@[simp] theorem modQueue_kernels (s : State) (n q : Nat) (h : Queue → Queue) : (modQueue s n q h).kernels = s.kernels := rfl
@[simp] theorem modQueue_groups (s : State) (n q : Nat) (h : Queue → Queue) : (modQueue s n q h).groups = s.groups := rfl
@[simp] theorem modQueue_engineQ (s : State) (n q : Nat) (h : Queue → Queue) : (modQueue s n q h).engineQ = s.engineQ := rfl
@[simp] theorem modQueue_convoys (s : State) (n q : Nat) (h : Queue → Queue) : (modQueue s n q h).convoys = s.convoys := rfl
@[simp] theorem modQueue_redQ (s : State) (n q : Nat) (h : Queue → Queue) : (modQueue s n q h).redQ = s.redQ := rfl
@[simp] theorem modQueue_ports (s : State) (n q : Nat) (h : Queue → Queue) : (modQueue s n q h).ports = s.ports := rfl
@[simp] theorem modQueue_routes (s : State) (n q : Nat) (h : Queue → Queue) : (modQueue s n q h).routes = s.routes := rfl
@[simp] theorem modQueue_sentPkts (s : State) (n q : Nat) (h : Queue → Queue) : (modQueue s n q h).sentPkts = s.sentPkts := rfl
@[simp] theorem modQueue_turning (s : State) (n q : Nat) (h : Queue → Queue) : (modQueue s n q h).turning = s.turning := rfl
@[simp] theorem modQueue_droppedTo (s : State) (n q : Nat) (h : Queue → Queue) : (modQueue s n q h).droppedTo = s.droppedTo := rfl
@[simp] theorem modQueue_remotes (s : State) (n q : Nat) (h : Queue → Queue) : (modQueue s n q h).remotes = s.remotes := rfl
@[simp] theorem modQueue_nextTag (s : State) (n q : Nat) (h : Queue → Queue) : (modQueue s n q h).nextTag = s.nextTag := rfl
@[simp] theorem modQueue_sessions (s : State) (n q : Nat) (h : Queue → Queue) : (modQueue s n q h).sessions = s.sessions := rfl
@[simp] theorem modQueue_funcs (s : State) (n q : Nat) (h : Queue → Queue) : (modQueue s n q h).funcs = s.funcs := rfl
@[simp] theorem modQueue_recbase (s : State) (n q : Nat) (h : Queue → Queue) : (modQueue s n q h).recbase = s.recbase := rfl
@[simp] theorem modQueue_recsize (s : State) (n q : Nat) (h : Queue → Queue) : (modQueue s n q h).recsize = s.recsize := rfl
@[simp] theorem modQueue_recctl (s : State) (n q : Nat) (h : Queue → Queue) : (modQueue s n q h).recctl = s.recctl := rfl
@[simp] theorem modQueue_repctl (s : State) (n q : Nat) (h : Queue → Queue) : (modQueue s n q h).repctl = s.repctl := rfl
@[simp] theorem modQueue_recpos (s : State) (n q : Nat) (h : Queue → Queue) : (modQueue s n q h).recpos = s.recpos := rfl
@[simp] theorem modQueue_replayPos (s : State) (n q : Nat) (h : Queue → Queue) : (modQueue s n q h).replayPos = s.replayPos := rfl
@[simp] theorem modQueue_chron (s : State) (n q : Nat) (h : Queue → Queue) : (modQueue s n q h).chron = s.chron := rfl
@[simp] theorem modQueue_mgmt (s : State) (n q : Nat) (h : Queue → Queue) : (modQueue s n q h).mgmt = s.mgmt := rfl
@[simp] theorem modQueue_units (s : State) (n q : Nat) (h : Queue → Queue) : (modQueue s n q h).units = s.units := rfl
@[simp] theorem modQueue_parts (s : State) (n q : Nat) (h : Queue → Queue) : (modQueue s n q h).parts = s.parts := rfl
@[simp] theorem modQueue_logs (s : State) (n q : Nat) (h : Queue → Queue) : (modQueue s n q h).logs = s.logs := rfl
@[simp] theorem modQueue_turnOf (s : State) (n q : Nat) (h : Queue → Queue) : (modQueue s n q h).turnOf = s.turnOf := rfl
@[simp] theorem modQueue_sliceEnd (s : State) (n q : Nat) (h : Queue → Queue) : (modQueue s n q h).sliceEnd = s.sliceEnd := rfl
@[simp] theorem modQueue_outgoing (s : State) (n q : Nat) (h : Queue → Queue) : (modQueue s n q h).outgoing = s.outgoing := rfl
@[simp] theorem modQueue_edfRun (s : State) (n q : Nat) (h : Queue → Queue) : (modQueue s n q h).edfRun = s.edfRun := rfl
@[simp] theorem modQueue_lotCtx (s : State) (n q : Nat) (h : Queue → Queue) : (modQueue s n q h).lotCtx = s.lotCtx := rfl
@[simp] theorem modQueue_nextGid (s : State) (n q : Nat) (h : Queue → Queue) : (modQueue s n q h).nextGid = s.nextGid := rfl
@[simp] theorem modQueue_nextKid (s : State) (n q : Nat) (h : Queue → Queue) : (modQueue s n q h).nextKid = s.nextKid := rfl
@[simp] theorem modQueue_nextSel (s : State) (n q : Nat) (h : Queue → Queue) : (modQueue s n q h).nextSel = s.nextSel := rfl
@[simp] theorem modQueue_nextPark (s : State) (n q : Nat) (h : Queue → Queue) : (modQueue s n q h).nextPark = s.nextPark := rfl
@[simp] theorem modQueue_nextMade (s : State) (n q : Nat) (h : Queue → Queue) : (modQueue s n q h).nextMade = s.nextMade := rfl
@[simp] theorem modQueue_vacant (s : State) (n q : Nat) (h : Queue → Queue) : (modQueue s n q h).vacant = s.vacant := rfl
@[simp] theorem modQueue_coreMap (s : State) (n q : Nat) (h : Queue → Queue) : (modQueue s n q h).coreMap = s.coreMap := rfl
@[simp] theorem modQueue_fencedCores (s : State) (n q : Nat) (h : Queue → Queue) : (modQueue s n q h).fencedCores = s.fencedCores := rfl
@[simp] theorem modQueue_fencedSlices (s : State) (n q : Nat) (h : Queue → Queue) : (modQueue s n q h).fencedSlices = s.fencedSlices := rfl
@[simp] theorem modQueue_issued (s : State) (n q : Nat) (h : Queue → Queue) : (modQueue s n q h).issued = s.issued := rfl
@[simp] theorem modQueue_restitch (s : State) (n q : Nat) (h : Queue → Queue) : (modQueue s n q h).restitch = s.restitch := rfl
@[simp] theorem modQueue_stitched (s : State) (n q : Nat) (h : Queue → Queue) : (modQueue s n q h).stitched = s.stitched := rfl
@[simp] theorem modQueue_gated (s : State) (n q : Nat) (h : Queue → Queue) : (modQueue s n q h).gated = s.gated := rfl

@[simp] theorem modPort_rank (s : State) (n : Nat) (h : Port → Port) : (modPort s n h).rank = s.rank := rfl
@[simp] theorem modPort_modeDie (s : State) (n : Nat) (h : Port → Port) : (modPort s n h).modeDie = s.modeDie := rfl
@[simp] theorem modPort_cycle (s : State) (n : Nat) (h : Port → Port) : (modPort s n h).cycle = s.cycle := rfl
@[simp] theorem modPort_dieStart (s : State) (n : Nat) (h : Port → Port) : (modPort s n h).dieStart = s.dieStart := rfl
@[simp] theorem modPort_cur (s : State) (n : Nat) (h : Port → Port) : (modPort s n h).cur = s.cur := rfl
@[simp] theorem modPort_agenda (s : State) (n : Nat) (h : Port → Port) : (modPort s n h).agenda = s.agenda := rfl
@[simp] theorem modPort_free (s : State) (n : Nat) (h : Port → Port) : (modPort s n h).free = s.free := rfl
@[simp] theorem modPort_unitsDone (s : State) (n : Nat) (h : Port → Port) : (modPort s n h).unitsDone = s.unitsDone := rfl
@[simp] theorem modPort_gangs (s : State) (n : Nat) (h : Port → Port) : (modPort s n h).gangs = s.gangs := rfl
@[simp] theorem modPort_leave (s : State) (n : Nat) (h : Port → Port) : (modPort s n h).leave = s.leave := rfl
@[simp] theorem modPort_starving (s : State) (n : Nat) (h : Port → Port) : (modPort s n h).starving = s.starving := rfl
@[simp] theorem modPort_asked (s : State) (n : Nat) (h : Port → Port) : (modPort s n h).asked = s.asked := rfl
@[simp] theorem modPort_mem (s : State) (n : Nat) (h : Port → Port) : (modPort s n h).mem = s.mem := rfl
@[simp] theorem modPort_hostMem (s : State) (n : Nat) (h : Port → Port) : (modPort s n h).hostMem = s.hostMem := rfl
@[simp] theorem modPort_poison (s : State) (n : Nat) (h : Port → Port) : (modPort s n h).poison = s.poison := rfl
@[simp] theorem modPort_dirty (s : State) (n : Nat) (h : Port → Port) : (modPort s n h).dirty = s.dirty := rfl
@[simp] theorem modPort_clean (s : State) (n : Nat) (h : Port → Port) : (modPort s n h).clean = s.clean := rfl
@[simp] theorem modPort_tlb (s : State) (n : Nat) (h : Port → Port) : (modPort s n h).tlb = s.tlb := rfl
@[simp] theorem modPort_walkQ (s : State) (n : Nat) (h : Port → Port) : (modPort s n h).walkQ = s.walkQ := rfl
@[simp] theorem modPort_contexts (s : State) (n : Nat) (h : Port → Port) : (modPort s n h).contexts = s.contexts := rfl
@[simp] theorem modPort_queues (s : State) (n : Nat) (h : Port → Port) : (modPort s n h).queues = s.queues := rfl
@[simp] theorem modPort_kernels (s : State) (n : Nat) (h : Port → Port) : (modPort s n h).kernels = s.kernels := rfl
@[simp] theorem modPort_groups (s : State) (n : Nat) (h : Port → Port) : (modPort s n h).groups = s.groups := rfl
@[simp] theorem modPort_engineQ (s : State) (n : Nat) (h : Port → Port) : (modPort s n h).engineQ = s.engineQ := rfl
@[simp] theorem modPort_convoys (s : State) (n : Nat) (h : Port → Port) : (modPort s n h).convoys = s.convoys := rfl
@[simp] theorem modPort_redQ (s : State) (n : Nat) (h : Port → Port) : (modPort s n h).redQ = s.redQ := rfl
@[simp] theorem modPort_routes (s : State) (n : Nat) (h : Port → Port) : (modPort s n h).routes = s.routes := rfl
@[simp] theorem modPort_sentPkts (s : State) (n : Nat) (h : Port → Port) : (modPort s n h).sentPkts = s.sentPkts := rfl
@[simp] theorem modPort_turning (s : State) (n : Nat) (h : Port → Port) : (modPort s n h).turning = s.turning := rfl
@[simp] theorem modPort_droppedTo (s : State) (n : Nat) (h : Port → Port) : (modPort s n h).droppedTo = s.droppedTo := rfl
@[simp] theorem modPort_remotes (s : State) (n : Nat) (h : Port → Port) : (modPort s n h).remotes = s.remotes := rfl
@[simp] theorem modPort_nextTag (s : State) (n : Nat) (h : Port → Port) : (modPort s n h).nextTag = s.nextTag := rfl
@[simp] theorem modPort_sessions (s : State) (n : Nat) (h : Port → Port) : (modPort s n h).sessions = s.sessions := rfl
@[simp] theorem modPort_funcs (s : State) (n : Nat) (h : Port → Port) : (modPort s n h).funcs = s.funcs := rfl
@[simp] theorem modPort_recbase (s : State) (n : Nat) (h : Port → Port) : (modPort s n h).recbase = s.recbase := rfl
@[simp] theorem modPort_recsize (s : State) (n : Nat) (h : Port → Port) : (modPort s n h).recsize = s.recsize := rfl
@[simp] theorem modPort_recctl (s : State) (n : Nat) (h : Port → Port) : (modPort s n h).recctl = s.recctl := rfl
@[simp] theorem modPort_repctl (s : State) (n : Nat) (h : Port → Port) : (modPort s n h).repctl = s.repctl := rfl
@[simp] theorem modPort_recpos (s : State) (n : Nat) (h : Port → Port) : (modPort s n h).recpos = s.recpos := rfl
@[simp] theorem modPort_replayPos (s : State) (n : Nat) (h : Port → Port) : (modPort s n h).replayPos = s.replayPos := rfl
@[simp] theorem modPort_chron (s : State) (n : Nat) (h : Port → Port) : (modPort s n h).chron = s.chron := rfl
@[simp] theorem modPort_mgmt (s : State) (n : Nat) (h : Port → Port) : (modPort s n h).mgmt = s.mgmt := rfl
@[simp] theorem modPort_units (s : State) (n : Nat) (h : Port → Port) : (modPort s n h).units = s.units := rfl
@[simp] theorem modPort_parts (s : State) (n : Nat) (h : Port → Port) : (modPort s n h).parts = s.parts := rfl
@[simp] theorem modPort_logs (s : State) (n : Nat) (h : Port → Port) : (modPort s n h).logs = s.logs := rfl
@[simp] theorem modPort_turnOf (s : State) (n : Nat) (h : Port → Port) : (modPort s n h).turnOf = s.turnOf := rfl
@[simp] theorem modPort_sliceEnd (s : State) (n : Nat) (h : Port → Port) : (modPort s n h).sliceEnd = s.sliceEnd := rfl
@[simp] theorem modPort_outgoing (s : State) (n : Nat) (h : Port → Port) : (modPort s n h).outgoing = s.outgoing := rfl
@[simp] theorem modPort_edfRun (s : State) (n : Nat) (h : Port → Port) : (modPort s n h).edfRun = s.edfRun := rfl
@[simp] theorem modPort_lotCtx (s : State) (n : Nat) (h : Port → Port) : (modPort s n h).lotCtx = s.lotCtx := rfl
@[simp] theorem modPort_nextGid (s : State) (n : Nat) (h : Port → Port) : (modPort s n h).nextGid = s.nextGid := rfl
@[simp] theorem modPort_nextKid (s : State) (n : Nat) (h : Port → Port) : (modPort s n h).nextKid = s.nextKid := rfl
@[simp] theorem modPort_nextSel (s : State) (n : Nat) (h : Port → Port) : (modPort s n h).nextSel = s.nextSel := rfl
@[simp] theorem modPort_nextPark (s : State) (n : Nat) (h : Port → Port) : (modPort s n h).nextPark = s.nextPark := rfl
@[simp] theorem modPort_nextMade (s : State) (n : Nat) (h : Port → Port) : (modPort s n h).nextMade = s.nextMade := rfl
@[simp] theorem modPort_vacant (s : State) (n : Nat) (h : Port → Port) : (modPort s n h).vacant = s.vacant := rfl
@[simp] theorem modPort_coreMap (s : State) (n : Nat) (h : Port → Port) : (modPort s n h).coreMap = s.coreMap := rfl
@[simp] theorem modPort_fencedCores (s : State) (n : Nat) (h : Port → Port) : (modPort s n h).fencedCores = s.fencedCores := rfl
@[simp] theorem modPort_fencedSlices (s : State) (n : Nat) (h : Port → Port) : (modPort s n h).fencedSlices = s.fencedSlices := rfl
@[simp] theorem modPort_issued (s : State) (n : Nat) (h : Port → Port) : (modPort s n h).issued = s.issued := rfl
@[simp] theorem modPort_restitch (s : State) (n : Nat) (h : Port → Port) : (modPort s n h).restitch = s.restitch := rfl
@[simp] theorem modPort_stitched (s : State) (n : Nat) (h : Port → Port) : (modPort s n h).stitched = s.stitched := rfl
@[simp] theorem modPort_gated (s : State) (n : Nat) (h : Port → Port) : (modPort s n h).gated = s.gated := rfl

@[simp] theorem modFunc_rank (s : State) (n : Nat) (h : Func → Func) : (modFunc s n h).rank = s.rank := rfl
@[simp] theorem modFunc_modeDie (s : State) (n : Nat) (h : Func → Func) : (modFunc s n h).modeDie = s.modeDie := rfl
@[simp] theorem modFunc_cycle (s : State) (n : Nat) (h : Func → Func) : (modFunc s n h).cycle = s.cycle := rfl
@[simp] theorem modFunc_dieStart (s : State) (n : Nat) (h : Func → Func) : (modFunc s n h).dieStart = s.dieStart := rfl
@[simp] theorem modFunc_cur (s : State) (n : Nat) (h : Func → Func) : (modFunc s n h).cur = s.cur := rfl
@[simp] theorem modFunc_agenda (s : State) (n : Nat) (h : Func → Func) : (modFunc s n h).agenda = s.agenda := rfl
@[simp] theorem modFunc_free (s : State) (n : Nat) (h : Func → Func) : (modFunc s n h).free = s.free := rfl
@[simp] theorem modFunc_unitsDone (s : State) (n : Nat) (h : Func → Func) : (modFunc s n h).unitsDone = s.unitsDone := rfl
@[simp] theorem modFunc_gangs (s : State) (n : Nat) (h : Func → Func) : (modFunc s n h).gangs = s.gangs := rfl
@[simp] theorem modFunc_leave (s : State) (n : Nat) (h : Func → Func) : (modFunc s n h).leave = s.leave := rfl
@[simp] theorem modFunc_starving (s : State) (n : Nat) (h : Func → Func) : (modFunc s n h).starving = s.starving := rfl
@[simp] theorem modFunc_asked (s : State) (n : Nat) (h : Func → Func) : (modFunc s n h).asked = s.asked := rfl
@[simp] theorem modFunc_mem (s : State) (n : Nat) (h : Func → Func) : (modFunc s n h).mem = s.mem := rfl
@[simp] theorem modFunc_hostMem (s : State) (n : Nat) (h : Func → Func) : (modFunc s n h).hostMem = s.hostMem := rfl
@[simp] theorem modFunc_poison (s : State) (n : Nat) (h : Func → Func) : (modFunc s n h).poison = s.poison := rfl
@[simp] theorem modFunc_dirty (s : State) (n : Nat) (h : Func → Func) : (modFunc s n h).dirty = s.dirty := rfl
@[simp] theorem modFunc_clean (s : State) (n : Nat) (h : Func → Func) : (modFunc s n h).clean = s.clean := rfl
@[simp] theorem modFunc_tlb (s : State) (n : Nat) (h : Func → Func) : (modFunc s n h).tlb = s.tlb := rfl
@[simp] theorem modFunc_walkQ (s : State) (n : Nat) (h : Func → Func) : (modFunc s n h).walkQ = s.walkQ := rfl
@[simp] theorem modFunc_contexts (s : State) (n : Nat) (h : Func → Func) : (modFunc s n h).contexts = s.contexts := rfl
@[simp] theorem modFunc_queues (s : State) (n : Nat) (h : Func → Func) : (modFunc s n h).queues = s.queues := rfl
@[simp] theorem modFunc_kernels (s : State) (n : Nat) (h : Func → Func) : (modFunc s n h).kernels = s.kernels := rfl
@[simp] theorem modFunc_groups (s : State) (n : Nat) (h : Func → Func) : (modFunc s n h).groups = s.groups := rfl
@[simp] theorem modFunc_engineQ (s : State) (n : Nat) (h : Func → Func) : (modFunc s n h).engineQ = s.engineQ := rfl
@[simp] theorem modFunc_convoys (s : State) (n : Nat) (h : Func → Func) : (modFunc s n h).convoys = s.convoys := rfl
@[simp] theorem modFunc_redQ (s : State) (n : Nat) (h : Func → Func) : (modFunc s n h).redQ = s.redQ := rfl
@[simp] theorem modFunc_ports (s : State) (n : Nat) (h : Func → Func) : (modFunc s n h).ports = s.ports := rfl
@[simp] theorem modFunc_routes (s : State) (n : Nat) (h : Func → Func) : (modFunc s n h).routes = s.routes := rfl
@[simp] theorem modFunc_sentPkts (s : State) (n : Nat) (h : Func → Func) : (modFunc s n h).sentPkts = s.sentPkts := rfl
@[simp] theorem modFunc_turning (s : State) (n : Nat) (h : Func → Func) : (modFunc s n h).turning = s.turning := rfl
@[simp] theorem modFunc_droppedTo (s : State) (n : Nat) (h : Func → Func) : (modFunc s n h).droppedTo = s.droppedTo := rfl
@[simp] theorem modFunc_remotes (s : State) (n : Nat) (h : Func → Func) : (modFunc s n h).remotes = s.remotes := rfl
@[simp] theorem modFunc_nextTag (s : State) (n : Nat) (h : Func → Func) : (modFunc s n h).nextTag = s.nextTag := rfl
@[simp] theorem modFunc_sessions (s : State) (n : Nat) (h : Func → Func) : (modFunc s n h).sessions = s.sessions := rfl
@[simp] theorem modFunc_recbase (s : State) (n : Nat) (h : Func → Func) : (modFunc s n h).recbase = s.recbase := rfl
@[simp] theorem modFunc_recsize (s : State) (n : Nat) (h : Func → Func) : (modFunc s n h).recsize = s.recsize := rfl
@[simp] theorem modFunc_recctl (s : State) (n : Nat) (h : Func → Func) : (modFunc s n h).recctl = s.recctl := rfl
@[simp] theorem modFunc_repctl (s : State) (n : Nat) (h : Func → Func) : (modFunc s n h).repctl = s.repctl := rfl
@[simp] theorem modFunc_recpos (s : State) (n : Nat) (h : Func → Func) : (modFunc s n h).recpos = s.recpos := rfl
@[simp] theorem modFunc_replayPos (s : State) (n : Nat) (h : Func → Func) : (modFunc s n h).replayPos = s.replayPos := rfl
@[simp] theorem modFunc_chron (s : State) (n : Nat) (h : Func → Func) : (modFunc s n h).chron = s.chron := rfl
@[simp] theorem modFunc_mgmt (s : State) (n : Nat) (h : Func → Func) : (modFunc s n h).mgmt = s.mgmt := rfl
@[simp] theorem modFunc_units (s : State) (n : Nat) (h : Func → Func) : (modFunc s n h).units = s.units := rfl
@[simp] theorem modFunc_parts (s : State) (n : Nat) (h : Func → Func) : (modFunc s n h).parts = s.parts := rfl
@[simp] theorem modFunc_logs (s : State) (n : Nat) (h : Func → Func) : (modFunc s n h).logs = s.logs := rfl
@[simp] theorem modFunc_turnOf (s : State) (n : Nat) (h : Func → Func) : (modFunc s n h).turnOf = s.turnOf := rfl
@[simp] theorem modFunc_sliceEnd (s : State) (n : Nat) (h : Func → Func) : (modFunc s n h).sliceEnd = s.sliceEnd := rfl
@[simp] theorem modFunc_outgoing (s : State) (n : Nat) (h : Func → Func) : (modFunc s n h).outgoing = s.outgoing := rfl
@[simp] theorem modFunc_edfRun (s : State) (n : Nat) (h : Func → Func) : (modFunc s n h).edfRun = s.edfRun := rfl
@[simp] theorem modFunc_lotCtx (s : State) (n : Nat) (h : Func → Func) : (modFunc s n h).lotCtx = s.lotCtx := rfl
@[simp] theorem modFunc_nextGid (s : State) (n : Nat) (h : Func → Func) : (modFunc s n h).nextGid = s.nextGid := rfl
@[simp] theorem modFunc_nextKid (s : State) (n : Nat) (h : Func → Func) : (modFunc s n h).nextKid = s.nextKid := rfl
@[simp] theorem modFunc_nextSel (s : State) (n : Nat) (h : Func → Func) : (modFunc s n h).nextSel = s.nextSel := rfl
@[simp] theorem modFunc_nextPark (s : State) (n : Nat) (h : Func → Func) : (modFunc s n h).nextPark = s.nextPark := rfl
@[simp] theorem modFunc_nextMade (s : State) (n : Nat) (h : Func → Func) : (modFunc s n h).nextMade = s.nextMade := rfl
@[simp] theorem modFunc_vacant (s : State) (n : Nat) (h : Func → Func) : (modFunc s n h).vacant = s.vacant := rfl
@[simp] theorem modFunc_coreMap (s : State) (n : Nat) (h : Func → Func) : (modFunc s n h).coreMap = s.coreMap := rfl
@[simp] theorem modFunc_fencedCores (s : State) (n : Nat) (h : Func → Func) : (modFunc s n h).fencedCores = s.fencedCores := rfl
@[simp] theorem modFunc_fencedSlices (s : State) (n : Nat) (h : Func → Func) : (modFunc s n h).fencedSlices = s.fencedSlices := rfl
@[simp] theorem modFunc_issued (s : State) (n : Nat) (h : Func → Func) : (modFunc s n h).issued = s.issued := rfl
@[simp] theorem modFunc_restitch (s : State) (n : Nat) (h : Func → Func) : (modFunc s n h).restitch = s.restitch := rfl
@[simp] theorem modFunc_stitched (s : State) (n : Nat) (h : Func → Func) : (modFunc s n h).stitched = s.stitched := rfl
@[simp] theorem modFunc_gated (s : State) (n : Nat) (h : Func → Func) : (modFunc s n h).gated = s.gated := rfl

@[simp] theorem tickFree_rank (s : State) : (tickFree s).rank = s.rank := rfl
@[simp] theorem tickFree_modeDie (s : State) : (tickFree s).modeDie = s.modeDie := rfl
@[simp] theorem tickFree_cycle (s : State) : (tickFree s).cycle = s.cycle := rfl
@[simp] theorem tickFree_dieStart (s : State) : (tickFree s).dieStart = s.dieStart := rfl
@[simp] theorem tickFree_cur (s : State) : (tickFree s).cur = s.cur := rfl
@[simp] theorem tickFree_agenda (s : State) : (tickFree s).agenda = s.agenda := rfl
@[simp] theorem tickFree_unitsDone (s : State) : (tickFree s).unitsDone = s.unitsDone := rfl
@[simp] theorem tickFree_gangs (s : State) : (tickFree s).gangs = s.gangs := rfl
@[simp] theorem tickFree_leave (s : State) : (tickFree s).leave = s.leave := rfl
@[simp] theorem tickFree_starving (s : State) : (tickFree s).starving = s.starving := rfl
@[simp] theorem tickFree_asked (s : State) : (tickFree s).asked = s.asked := rfl
@[simp] theorem tickFree_mem (s : State) : (tickFree s).mem = s.mem := rfl
@[simp] theorem tickFree_hostMem (s : State) : (tickFree s).hostMem = s.hostMem := rfl
@[simp] theorem tickFree_poison (s : State) : (tickFree s).poison = s.poison := rfl
@[simp] theorem tickFree_dirty (s : State) : (tickFree s).dirty = s.dirty := rfl
@[simp] theorem tickFree_clean (s : State) : (tickFree s).clean = s.clean := rfl
@[simp] theorem tickFree_tlb (s : State) : (tickFree s).tlb = s.tlb := rfl
@[simp] theorem tickFree_walkQ (s : State) : (tickFree s).walkQ = s.walkQ := rfl
@[simp] theorem tickFree_contexts (s : State) : (tickFree s).contexts = s.contexts := rfl
@[simp] theorem tickFree_queues (s : State) : (tickFree s).queues = s.queues := rfl
@[simp] theorem tickFree_kernels (s : State) : (tickFree s).kernels = s.kernels := rfl
@[simp] theorem tickFree_groups (s : State) : (tickFree s).groups = s.groups := rfl
@[simp] theorem tickFree_engineQ (s : State) : (tickFree s).engineQ = s.engineQ := rfl
@[simp] theorem tickFree_convoys (s : State) : (tickFree s).convoys = s.convoys := rfl
@[simp] theorem tickFree_redQ (s : State) : (tickFree s).redQ = s.redQ := rfl
@[simp] theorem tickFree_ports (s : State) : (tickFree s).ports = s.ports := rfl
@[simp] theorem tickFree_routes (s : State) : (tickFree s).routes = s.routes := rfl
@[simp] theorem tickFree_sentPkts (s : State) : (tickFree s).sentPkts = s.sentPkts := rfl
@[simp] theorem tickFree_turning (s : State) : (tickFree s).turning = s.turning := rfl
@[simp] theorem tickFree_droppedTo (s : State) : (tickFree s).droppedTo = s.droppedTo := rfl
@[simp] theorem tickFree_remotes (s : State) : (tickFree s).remotes = s.remotes := rfl
@[simp] theorem tickFree_nextTag (s : State) : (tickFree s).nextTag = s.nextTag := rfl
@[simp] theorem tickFree_sessions (s : State) : (tickFree s).sessions = s.sessions := rfl
@[simp] theorem tickFree_funcs (s : State) : (tickFree s).funcs = s.funcs := rfl
@[simp] theorem tickFree_recbase (s : State) : (tickFree s).recbase = s.recbase := rfl
@[simp] theorem tickFree_recsize (s : State) : (tickFree s).recsize = s.recsize := rfl
@[simp] theorem tickFree_recctl (s : State) : (tickFree s).recctl = s.recctl := rfl
@[simp] theorem tickFree_repctl (s : State) : (tickFree s).repctl = s.repctl := rfl
@[simp] theorem tickFree_recpos (s : State) : (tickFree s).recpos = s.recpos := rfl
@[simp] theorem tickFree_replayPos (s : State) : (tickFree s).replayPos = s.replayPos := rfl
@[simp] theorem tickFree_chron (s : State) : (tickFree s).chron = s.chron := rfl
@[simp] theorem tickFree_mgmt (s : State) : (tickFree s).mgmt = s.mgmt := rfl
@[simp] theorem tickFree_units (s : State) : (tickFree s).units = s.units := rfl
@[simp] theorem tickFree_parts (s : State) : (tickFree s).parts = s.parts := rfl
@[simp] theorem tickFree_logs (s : State) : (tickFree s).logs = s.logs := rfl
@[simp] theorem tickFree_turnOf (s : State) : (tickFree s).turnOf = s.turnOf := rfl
@[simp] theorem tickFree_sliceEnd (s : State) : (tickFree s).sliceEnd = s.sliceEnd := rfl
@[simp] theorem tickFree_outgoing (s : State) : (tickFree s).outgoing = s.outgoing := rfl
@[simp] theorem tickFree_edfRun (s : State) : (tickFree s).edfRun = s.edfRun := rfl
@[simp] theorem tickFree_lotCtx (s : State) : (tickFree s).lotCtx = s.lotCtx := rfl
@[simp] theorem tickFree_nextGid (s : State) : (tickFree s).nextGid = s.nextGid := rfl
@[simp] theorem tickFree_nextKid (s : State) : (tickFree s).nextKid = s.nextKid := rfl
@[simp] theorem tickFree_nextSel (s : State) : (tickFree s).nextSel = s.nextSel := rfl
@[simp] theorem tickFree_nextPark (s : State) : (tickFree s).nextPark = s.nextPark := rfl
@[simp] theorem tickFree_nextMade (s : State) : (tickFree s).nextMade = s.nextMade := rfl
@[simp] theorem tickFree_vacant (s : State) : (tickFree s).vacant = s.vacant := rfl
@[simp] theorem tickFree_coreMap (s : State) : (tickFree s).coreMap = s.coreMap := rfl
@[simp] theorem tickFree_fencedCores (s : State) : (tickFree s).fencedCores = s.fencedCores := rfl
@[simp] theorem tickFree_fencedSlices (s : State) : (tickFree s).fencedSlices = s.fencedSlices := rfl
@[simp] theorem tickFree_issued (s : State) : (tickFree s).issued = s.issued := rfl
@[simp] theorem tickFree_restitch (s : State) : (tickFree s).restitch = s.restitch := rfl
@[simp] theorem tickFree_stitched (s : State) : (tickFree s).stitched = s.stitched := rfl
@[simp] theorem tickFree_gated (s : State) : (tickFree s).gated = s.gated := rfl

@[simp] theorem tickFree_free (s : State) : (tickFree s).free = s.free + 1 := rfl
@[simp] theorem modGroup_groups (s : State) (n : Nat) (h : Group → Group) :
    (modGroup s n h).groups = replaceIf (fun g => g.gid == n) h s.groups := rfl
@[simp] theorem modCtx_contexts (s : State) (n : Nat) (h : Context → Context) :
    (modCtx s n h).contexts = replaceIf (fun c => c.num == n) h s.contexts := rfl
@[simp] theorem modKernel_kernels (s : State) (n : Nat) (h : Kernel → Kernel) :
    (modKernel s n h).kernels = replaceIf (fun k => k.kid == n) h s.kernels := rfl
@[simp] theorem modQueue_queues (s : State) (n q : Nat) (h : Queue → Queue) :
    (modQueue s n q h).queues = replaceIf (fun x => x.ctx == n && x.q == q) h s.queues := rfl
@[simp] theorem modPort_ports (s : State) (n : Nat) (h : Port → Port) :
    (modPort s n h).ports = replaceIf (fun p => p.num == n) h s.ports := rfl
@[simp] theorem modFunc_funcs (s : State) (n : Nat) (h : Func → Func) :
    (modFunc s n h).funcs = replaceIf (fun p => p.num == n) h s.funcs := rfl

end Sys2Proof.Machine
end

