-- ==== Sys2Proof/Laws/Lists.lean ====
section
/-! SUPPORT. Reading back what was written: sparse storage, groups, executors. -/

namespace Sys2Proof.Machine

open Sys2Proof

/-! ### Lists in order -/

theorem insertBy_perm {α : Type} (le : α → α → Bool) (a : α) (l : List α) : (insertBy le a l).Perm (a :: l) := by
  induction l with
  | nil => exact .refl _
  | cons b r ih =>
    simp only [insertBy]
    split
    · exact .refl _
    · exact (ih.cons b).trans (.swap a b r)

/-- A list in order holds the elements it was given. -/
theorem sortBy_perm {α : Type} (le : α → α → Bool) (l : List α) : (sortBy le l).Perm l := by
  induction l with
  | nil => exact .refl _
  | cons a r ih => exact (insertBy_perm le a _).trans (ih.cons a)

/-! ### Sparse storage -/

/-- The keys of a canonical store lie above its first one. -/
theorem sget_above {w : Nat} (m : Sparse w) (k : Nat) (h : ∀ e ∈ m, k < e.1) : sget m k = 0 := by
  cases m with
  | nil => rfl
  | cons e r =>
    obtain ⟨k', v⟩ := e
    have h1 : k < k' := h (k', v) (by simp)
    simp only [sget]
    rw [if_neg (by omega), if_pos h1]

/-- In a canonical store every key of the rest lies above the head's. -/
theorem swf_above {w : Nat} (m : Sparse w) (k : Nat) (v : BitVec w) (h : swf ((k, v) :: m) = true) : ∀ e ∈ m, k < e.1 := by
  induction m generalizing k v with
  | nil => simp
  | cons e r ih =>
    obtain ⟨k', v'⟩ := e
    simp only [swf, Bool.and_eq_true, decide_eq_true_eq] at h
    intro x hx
    rcases List.mem_cons.mp hx with rfl | hx
    · exact h.1.2
    · have := ih k' v' (by simp only [swf, Bool.and_eq_true]; exact h.2) x hx
      omega

theorem swf_tail {w : Nat} {e : Nat × BitVec w} {m : Sparse w} (h : swf (e :: m) = true) : swf m = true := by
  obtain ⟨k, v⟩ := e
  simp only [swf, Bool.and_eq_true] at h
  exact h.2

/-- Read after write at the same key. -/
theorem sget_sset_same {w : Nat} (m : Sparse w) (k : Nat) (v : BitVec w) (h : swf m = true) : sget (sset m k v) k = v := by
  induction m with
  | nil => simp only [sset]; split <;> simp_all [sget]
  | cons e r ih =>
    obtain ⟨k', v'⟩ := e
    have ha := swf_above r k' v' h
    have ht := ih (swf_tail h)
    simp only [sset]
    split
    · next he =>
      subst he
      split
      · next hv => rw [hv]; exact sget_above r k ha
      · simp [sget]
    · split
      · split
        · next hv => rw [hv]; simp only [sget]; rw [if_neg (by omega), if_pos (by omega)]
        · simp [sget]
      · simp only [sget]
        rw [if_neg (by omega), if_neg (by omega)]
        exact ht

/-- A write leaves every other key alone. -/
theorem sget_sset_other {w : Nat} (m : Sparse w) (k j : Nat) (v : BitVec w) (h : swf m = true) (hj : j ≠ k) :
    sget (sset m k v) j = sget m j := by
  induction m with
  | nil =>
    simp only [sset]
    split
    · rfl
    · simp only [sget]; split
      · omega
      · split <;> rfl
  | cons e r ih =>
    obtain ⟨k', v'⟩ := e
    have ha := swf_above r k' v' h
    have ht := ih (swf_tail h)
    simp only [sset]
    split
    · next he =>
      subst he
      split
      · simp only [sget]
        rw [if_neg hj]
        split
        · next hlt => exact sget_above r j fun e he => by have := ha e he; omega
        · rfl
      · simp only [sget]; rw [if_neg hj, if_neg hj]
    · split
      · next hlt =>
        split
        · rfl
        · simp only [sget]
          rw [if_neg hj]
          split
          · rw [if_neg (by omega), if_pos (by omega)]
          · rfl
      · simp only [sget]
        split
        · rfl
        · split
          · rfl
          · exact ht

/-- A canonical store: its first entry is not zero and lies below the rest, which is canonical. -/
theorem swf_cons {w : Nat} (k : Nat) (v : BitVec w) (m : Sparse w) :
    swf ((k, v) :: m) = true ↔ v ≠ 0 ∧ (∀ e ∈ m, k < e.1) ∧ swf m = true := by
  refine ⟨fun h => ?_, fun ⟨hv, ha, hm⟩ => ?_⟩
  · have ha := swf_above m k v h
    simp only [swf, Bool.and_eq_true] at h
    exact ⟨by simpa using h.1.1, ha, h.2⟩
  · simp only [swf, Bool.and_eq_true]
    refine ⟨⟨by simpa using hv, ?_⟩, hm⟩
    cases m with
    | nil => rfl
    | cons e r => simpa using ha e (by simp)

/-- A write adds no key but its own. -/
theorem mem_sset {w : Nat} (m : Sparse w) (k : Nat) (v : BitVec w) : ∀ e ∈ sset m k v, e ∈ m ∨ e.1 = k := by
  induction m with
  | nil => simp only [sset]; split <;> simp
  | cons e r ih =>
    obtain ⟨k', v'⟩ := e
    intro x hx
    simp only [sset] at hx
    split at hx
    · split at hx
      · exact .inl (by simp [hx])
      · rcases List.mem_cons.mp hx with rfl | hx
        · exact .inr rfl
        · exact .inl (by simp [hx])
    · split at hx
      · split at hx
        · exact .inl hx
        · rcases List.mem_cons.mp hx with rfl | hx
          · exact .inr rfl
          · exact .inl hx
      · rcases List.mem_cons.mp hx with rfl | hx
        · exact .inl (by simp)
        · rcases ih x hx with hm | hm
          · exact .inl (by simp [hm])
          · exact .inr hm

/-- sset keeps the canonical form. -/
theorem swf_sset {w : Nat} (m : Sparse w) (k : Nat) (v : BitVec w) (h : swf m = true) : swf (sset m k v) = true := by
  induction m with
  | nil => simp only [sset]; split <;> simp_all [swf]
  | cons e r ih =>
    obtain ⟨k', v'⟩ := e
    obtain ⟨hv, ha, hr⟩ := (swf_cons k' v' r).mp h
    simp only [sset]
    split
    · next he =>
      split
      · exact hr
      · next hz => exact (swf_cons _ _ _).mpr ⟨hz, by rw [he]; exact ha, hr⟩
    · split
      · next hlt =>
        split
        · exact h
        · next hz =>
          refine (swf_cons _ _ _).mpr ⟨hz, ?_, h⟩
          intro e he
          rcases List.mem_cons.mp he with rfl | he
          · exact hlt
          · have := ha e he; omega
      · refine (swf_cons _ _ _).mpr ⟨hv, ?_, ih hr⟩
        intro e he
        rcases mem_sset r k v e he with hm | hm
        · exact ha e hm
        · omega

theorem swf_ssets {w : Nat} (vs : List (BitVec w)) (m : Sparse w) (k : Nat) (h : swf m = true) : swf (ssets m k vs) = true := by
  induction vs generalizing m k with
  | nil => exact h
  | cons v r ih => exact ih _ _ (swf_sset m k v h)

/-- Reading one key after a run of keys has been written. -/
theorem sget_ssets {w : Nat} (vs : List (BitVec w)) (m : Sparse w) (k j : Nat) (h : swf m = true) :
    sget (ssets m k vs) j = if k ≤ j ∧ j < k + vs.length then vs.getD (j - k) 0 else sget m j := by
  induction vs generalizing m k with
  | nil => simp only [ssets, List.length_nil]; rw [if_neg (by omega)]
  | cons v r ih =>
    rw [ssets, ih _ _ (swf_sset m k v h)]
    by_cases hj : j = k
    · subst hj
      rw [if_neg (by omega), sget_sset_same m j v h, if_pos (by simp)]
      simp
    · rw [sget_sset_other m k j v h hj]
      by_cases hr : k + 1 ≤ j ∧ j < k + 1 + r.length
      · rw [if_pos hr, if_pos (by simp only [List.length_cons]; omega)]
        obtain ⟨i, hi⟩ : ∃ i, j - k = i + 1 := ⟨j - k - 1, by omega⟩
        rw [hi, show j - (k + 1) = i by omega]
        simp
      · rw [if_neg hr, if_neg (by simp only [List.length_cons]; omega)]

/-- Keeping the entries that pass a test keeps the canonical form. -/
theorem swf_skeep {w : Nat} (m : Sparse w) (p : Nat → Bool) (h : swf m = true) : swf (skeep m p) = true := by
  induction m with
  | nil => rfl
  | cons e r ih =>
    obtain ⟨k, v⟩ := e
    have ha := swf_above r k v h
    have ht := ih (swf_tail h)
    simp only [skeep, List.filter_cons] at ht ⊢
    split
    · simp only [swf, Bool.and_eq_true] at h ⊢
      refine ⟨⟨h.1.1, ?_⟩, ht⟩
      cases hf : List.filter (fun e => p e.1) r with
      | nil => rfl
      | cons e2 r2 =>
        have hm : e2 ∈ List.filter (fun e => p e.1) r := by rw [hf]; simp
        have := ha e2 (List.mem_filter.mp hm).1
        simpa using this
    · exact ht

/-- Reading from the kept entries. -/
theorem sget_skeep {w : Nat} (m : Sparse w) (p : Nat → Bool) (k : Nat) (h : swf m = true) :
    sget (skeep m p) k = if p k then sget m k else 0 := by
  induction m with
  | nil => simp [skeep, sget]
  | cons e r ih =>
    obtain ⟨k', v'⟩ := e
    have ha := swf_above r k' v' h
    have ht := ih (swf_tail h)
    have hz (hle : k ≤ k') : sget r k = 0 := sget_above r k fun e he => by have := ha e he; omega
    simp only [skeep, List.filter_cons] at ht ⊢
    by_cases hk : k = k'
    · subst hk
      by_cases hp : p k = true
      · rw [if_pos hp, if_pos hp]; simp [sget]
      · rw [if_neg hp, if_neg hp, ht, if_neg hp]
    · by_cases hp : p k' = true
      · rw [if_pos hp]; simp only [sget]; rw [if_neg hk, if_neg hk, ht]
        split <;> split <;> simp_all
      · rw [if_neg hp, ht]
        simp only [sget]; rw [if_neg hk]
        by_cases hlt : k < k'
        · simp [hlt, hz (by omega)]
        · simp [hlt]

/-! ### Parts of State -/

theorem getGroup_gid {s : State} {n : Nat} {g : Group} (h : getGroup s n = some g) : g.gid = n := by
  have := List.find?_some h
  simpa using this

theorem find?_replaceIf {α : Type} (p q : α → Bool) (f : α → α) (l : List α) (h : ∀ a, p (f a) = p a) :
    (replaceIf q f l).find? p = (l.find? p).map fun a => if q a then f a else a := by
  induction l with
  | nil => rfl
  | cons a r ih =>
    simp only [replaceIf, List.map_cons, List.find?_cons] at ih ⊢
    have hp : p (if q a then f a else a) = p a := by split <;> simp [h]
    rw [hp]
    cases hpa : p a with
    | true => simp
    | false => simpa using ih

/-- A group after an update of a group. -/
theorem getGroup_modGroup (s : State) (n m : Nat) (h : Group → Group) (hg : ∀ g, (h g).gid = g.gid) :
    getGroup (modGroup s n h) m = if m = n then (getGroup s n).map h else getGroup s m := by
  simp only [getGroup, modGroup]
  rw [find?_replaceIf _ _ _ _ (by intro a; simp [hg])]
  split
  · next he =>
    subst he
    cases hf : s.groups.find? (fun g => g.gid == m) with
    | none => rfl
    | some g =>
      have hm : g.gid = m := by simpa using List.find?_some hf
      simp [hm]
  · next hne =>
    cases hf : s.groups.find? (fun g => g.gid == m) with
    | none => rfl
    | some g =>
      have hm : g.gid = m := by simpa using List.find?_some hf
      have : g.gid ≠ n := by rw [hm]; exact hne
      simp [this]

/-- Two updates of one group are one update. -/
theorem modGroup_modGroup (s : State) (n : Nat) (h k : Group → Group) (hg : ∀ g, (h g).gid = g.gid) :
    modGroup (modGroup s n h) n k = modGroup s n fun g => k (h g) := by
  simp only [modGroup, replaceIf, List.map_map]
  congr 1
  apply List.map_congr_left
  intro g _
  simp only [Function.comp]
  by_cases hn : (g.gid == n) = true
  · simp [hn, hg]
  · simp [hn]

theorem modGroup_id (s : State) (n : Nat) : modGroup s n (fun g => g) = s := by
  simp [modGroup, replaceIf]

/-- A run of updates of one group is one update. -/
theorem foldl_modGroup {α : Type} (l : List α) (s : State) (n : Nat) (h : α → Group → Group)
    (hg : ∀ a g, (h a g).gid = g.gid) :
    l.foldl (fun s a => modGroup s n (h a)) s = modGroup s n fun g => l.foldl (fun g a => h a g) g := by
  induction l generalizing s with
  | nil => exact (modGroup_id s n).symm
  | cons a r ih => rw [List.foldl_cons, ih, modGroup_modGroup _ _ _ _ (hg a)]; rfl

theorem modThreadOf_gid (g : Group) (w : Who) (f : Thread → Thread) : (modThreadOf g w f).gid = g.gid := by
  cases w <;> rfl

theorem getElem?_modNth {α : Type} (l : List α) (k j : Nat) (f : α → α) :
    (modNth l k f)[j]? = if j = k then l[j]?.map f else l[j]? := by
  induction l generalizing k j with
  | nil => simp [modNth]
  | cons a r ih =>
    cases k with
    | zero => cases j <;> simp [modNth]
    | succ k =>
      cases j with
      | zero => simp [modNth]
      | succ j => simp [modNth, ih]

/-- An executor after an update of an executor. -/
theorem getThread_modThreadOf (g : Group) (w u : Who) (f : Thread → Thread) :
    getThread (modThreadOf g w f) u = if u = w then (getThread g u).map f else getThread g u := by
  cases w with
  | pilot => cases u <;> simp [modThreadOf, getThread]
  | strand k =>
    cases u with
    | pilot => simp [modThreadOf, getThread]
    | strand j => simp [modThreadOf, getThread, getElem?_modNth]

end Sys2Proof.Machine
end

