-- ==== Sys2Proof/Laws/Issue.lean ====
section
/-! SUPPORT. What an issue that computes results from registers does, once for all such instructions. -/

namespace Sys2Proof.Machine

open Sys2Proof

/-! ### One write -/

theorem getThread_storeReg_other (g : Group) (w u : Who) (r : RegId) (x : W64) (hu : u ≠ w) :
    getThread (storeReg g w r x) u = getThread g u := by
  cases r with
  | v n => simp only [storeReg]; split
           · rfl
           · rw [getThread_modThreadOf, if_neg hu]
  | s n => cases u <;> rfl
  | p n => simp only [storeReg]; split
           · rfl
           · rw [getThread_modThreadOf, if_neg hu]
  | x n => simp only [storeReg]; rw [getThread_modThreadOf, if_neg hu]

/-- What a write of latency `lat` leaves of a group at an executor that has no open result of the register. -/
structure WroteOne (lat ripe : Nat) (w : Who) (r : RegId) (x : W64) (g : Group) (t : Thread) (g' : Group) (t' : Thread) : Prop where
  thread : getThread g' w = some t'
  others : ∀ u, u ≠ w → getThread g' u = getThread g u
  same : g' = { g with pilot := g'.pilot, strands := g'.strands, sregs := g'.sregs }
  sregs : (∀ n, r ≠ .s n) → g'.sregs = g.sregs
  held : ∀ q, heldReg g' t' q = if q = r then kept t r x else heldReg g t q
  fixed : t'.fixed = { reg := r, old := heldReg g t r, left := lat, ripe := ripe } :: t.fixed
  frame : t' = { t with regs := t'.regs, preds := t'.preds, caps := t'.caps, fixed := t'.fixed }
  caps : (t'.caps.map fun c => { c with x := [] }) = t.caps.map fun c => { c with x := [] }
  capLen : (t'.caps.map fun c => c.x.length) = t.caps.map fun c => c.x.length
  wf : swf t'.regs = true ∧ swf g'.sregs = true

/-- Bits of the predicate file after a write. -/
theorem preds_set (p : BitVec 7) (n m : Nat) (b : Bool) (hn : n < 7) :
    (if b then p ||| BitVec.ofNat 7 (2 ^ n) else p &&& ~~~(BitVec.ofNat 7 (2 ^ n))).getLsbD m =
      if m = n then b else p.getLsbD m := by
  by_cases hm : m < 7
  · have hb : (BitVec.ofNat 7 (2 ^ n)).getLsbD m = decide (m = n) := by
      interval_cases n <;> interval_cases m <;> decide
    cases b
    · simp only [Bool.false_eq_true, if_false, BitVec.getLsbD_and, BitVec.getLsbD_not, hb]
      by_cases h : m = n <;> simp [h, hm, hn]
    · simp only [if_true, BitVec.getLsbD_or, hb]
      by_cases h : m = n <;> simp [h]
  · rw [BitVec.getLsbD_of_ge _ _ (by omega), BitVec.getLsbD_of_ge _ _ (by omega), if_neg (by omega)]

theorem length_modNth {α : Type} (l : List α) (k : Nat) (f : α → α) : (modNth l k f).length = l.length := by
  induction l generalizing k with
  | nil => rfl
  | cons a r ih => cases k <;> simp [modNth, ih]

theorem modNth_pilot_some (g : Group) (w : Who) (t : Thread) (f : Thread → Thread) (h : getThread g w = some t) :
    getThread (modThreadOf g w f) w = some (f t) := by
  rw [getThread_modThreadOf, if_pos rfl, h]; rfl

theorem modThreadOf_same (g : Group) (w : Who) (f : Thread → Thread) :
    modThreadOf g w f = { g with pilot := (modThreadOf g w f).pilot, strands := (modThreadOf g w f).strands } := by
  cases w <;> rfl

theorem modThreadOf_sregs (g : Group) (w : Who) (f : Thread → Thread) : (modThreadOf g w f).sregs = g.sregs := by
  cases w <;> rfl

/-- A write that changes nothing but the executor. -/
theorem wroteOne_local (lat ripe : Nat) (w : Who) (r : RegId) (x : W64) (g : Group) (t : Thread) (f : Thread → Thread)
    (ht : getThread g w = some t) (hs : swf g.sregs = true)
    (hh : ∀ q, heldReg g (f t) q = if q = r then kept t r x else heldReg g t q)
    (hf : (f t).fixed = { reg := r, old := heldReg g t r, left := lat, ripe := ripe } :: t.fixed)
    (hr : f t = { t with regs := (f t).regs, preds := (f t).preds, caps := (f t).caps, fixed := (f t).fixed })
    (hc : ((f t).caps.map fun c => { c with x := [] }) = t.caps.map fun c => { c with x := [] })
    (hl : ((f t).caps.map fun c => c.x.length) = t.caps.map fun c => c.x.length)
    (hw : swf (f t).regs = true) :
    WroteOne lat ripe w r x g t (modThreadOf g w f) (f t) where
  thread := modNth_pilot_some g w t f ht
  others := fun u hu => by rw [getThread_modThreadOf, if_neg hu]
  same := by
    have h := modThreadOf_same g w f
    have h2 := modThreadOf_sregs g w f
    rw [h2]; exact h
  sregs := fun _ => modThreadOf_sregs g w f
  held := fun q => by
    rw [← hh q]
    cases q <;> simp only [heldReg, modThreadOf_sregs]
  fixed := hf
  frame := hr
  caps := hc
  capLen := hl
  wf := ⟨hw, by rw [modThreadOf_sregs]; exact hs⟩

theorem modThreadOf_modThreadOf (g : Group) (w : Who) (f h : Thread → Thread) :
    modThreadOf (modThreadOf g w f) w h = modThreadOf g w fun t => h (f t) := by
  cases w with
  | pilot => rfl
  | strand k =>
    simp only [modThreadOf]
    congr 1
    induction g.strands generalizing k with
    | nil => rfl
    | cons a r ih => cases k <;> simp [modNth, ih]

/-- A write of fixed latency at an executor with no open result of the register (R45, R47). -/
theorem writeFixed_one (s : State) (lat : Nat) (w : Who) (g : Group) (t : Thread) (r : RegId) (x : W64)
    (ht : getThread g w = some t) (hw : swf t.regs = true) (hs : swf g.sregs = true)
    (hn : ∀ e ∈ t.fixed, e.reg ≠ r) : ∃ t', WroteOne lat (s.cycle + lat) w r x g t (writeFixed s w lat g (r, x)) t' := by
  have hlate : (t.fixed.any fun e => e.reg == r && decide (lat ≤ e.left)) = false := by
    rw [List.any_eq_false]
    intro e he
    simp [hn e he]
  have hun : writeFixed s w lat g (r, x) =
      modThreadOf (storeReg g w r x) w fun y => { y with fixed := { reg := r, old := heldReg g t r, left := lat, ripe := s.cycle + lat } :: y.fixed } := by
    simp [writeFixed, ht, hlate]
  rw [hun]
  have key (f : Thread → Thread) (hst : storeReg g w r x = modThreadOf g w f)
      (hff : (f t).fixed = t.fixed)
      (hh : ∀ q, heldReg g (f t) q = if q = r then kept t r x else heldReg g t q)
      (hr : f t = { t with regs := (f t).regs, preds := (f t).preds, caps := (f t).caps })
      (hc : ((f t).caps.map fun c => { c with x := [] }) = t.caps.map fun c => { c with x := [] })
      (hl : ((f t).caps.map fun c => c.x.length) = t.caps.map fun c => c.x.length)
      (hwf : swf (f t).regs = true) :
      ∃ t', WroteOne lat (s.cycle + lat) w r x g t (modThreadOf (storeReg g w r x) w fun y =>
        { y with fixed := { reg := r, old := heldReg g t r, left := lat, ripe := s.cycle + lat } :: y.fixed }) t' := by
    rw [hst, modThreadOf_modThreadOf]
    refine ⟨_, wroteOne_local lat _ w r x g t _ ht hs ?_ ?_ ?_ ?_ ?_ ?_⟩
    · intro q; rw [← hh q]; cases q <;> rfl
    · simp [hff]
    · rw [hr]
    · exact hc
    · exact hl
    · exact hwf
  have idf : modThreadOf g w (fun y => y) = g := by
    cases w with
    | pilot => rfl
    | strand k =>
      simp only [modThreadOf]
      have : ∀ (l : List Thread) (k : Nat), modNth l k (fun y => y) = l := by
        intro l
        induction l with
        | nil => intro k; rfl
        | cons a r ih => intro k; cases k <;> simp [modNth, ih]
      rw [this]
  cases r with
  | v n =>
    by_cases h255 : 255 ≤ n
    · refine key (fun y => y) (by simp [storeReg, h255, idf]) rfl ?_ rfl rfl rfl hw
      intro q
      split
      · next hq => subst hq; simp [heldReg, kept, h255]
      · rfl
    · refine key (fun y => { y with regs := sset y.regs n (x.setWidth 32) }) (by simp [storeReg, h255]) rfl ?_ rfl rfl rfl
        (swf_sset _ _ _ hw)
      intro q
      cases q with
      | v m =>
        simp only [heldReg, kept, RegId.v.injEq]
        by_cases hm : m = n
        · subst hm; simp [h255, sget_sset_same _ _ _ hw]
        · simp [hm, sget_sset_other _ _ _ _ hw hm]
      | s m => simp [heldReg]
      | p m => simp [heldReg]
      | x m => simp [heldReg]
  | s n =>
    refine ⟨{ t with fixed := { reg := .s n, old := heldReg g t (.s n), left := lat, ripe := s.cycle + lat } :: t.fixed }, ?_⟩
    have ht' : getThread (storeReg g w (.s n) x) w = some t := by rw [← ht]; cases w <;> rfl
    constructor
    · exact modNth_pilot_some _ w t _ ht'
    · intro u hu
      rw [getThread_modThreadOf, if_neg hu]
      cases u <;> rfl
    · have h := modThreadOf_same (storeReg g w (.s n) x) w fun y =>
        { y with fixed := { reg := .s n, old := heldReg g t (.s n), left := lat, ripe := s.cycle + lat } :: y.fixed }
      rw [modThreadOf_sregs]
      rw [h]
      rfl
    · intro hns; exact absurd rfl (hns n)
    · intro q
      cases q with
      | s m =>
        simp only [heldReg, kept, RegId.s.injEq, modThreadOf_sregs, storeReg]
        by_cases hm : m = n
        · subst hm; simp [sget_sset_same _ _ _ hs]
        · simp [hm, sget_sset_other _ _ _ _ hs hm]
      | v m => simp [heldReg]
      | p m => simp [heldReg]
      | x m => simp [heldReg]
    · rfl
    · rfl
    · rfl
    · rfl
    · exact ⟨hw, by rw [modThreadOf_sregs]; exact swf_sset _ _ _ hs⟩
  | p n =>
    by_cases h7 : 7 ≤ n
    · refine key (fun y => y) (by simp [storeReg, h7, idf]) rfl ?_ rfl rfl rfl hw
      intro q
      split
      · next hq => subst hq; simp [heldReg, kept, h7]
      · rfl
    · refine key (fun y => { y with preds := if x.getLsbD 0 then y.preds ||| BitVec.ofNat 7 (2 ^ n)
          else y.preds &&& ~~~(BitVec.ofNat 7 (2 ^ n)) }) (by simp [storeReg, h7]) rfl ?_ rfl rfl rfl hw
      intro q
      cases q with
      | p m =>
        simp only [heldReg, kept, RegId.p.injEq, preds_set _ _ _ _ (show n < 7 by omega)]
        by_cases hm : m = n
        · subst hm; simp [h7]
        · simp [hm]
      | v m => simp [heldReg]
      | s m => simp [heldReg]
      | x m => simp [heldReg]
  | x n =>
    refine key (fun y => { y with caps := y.caps.map fun c => { c with x := modNth c.x n fun _ => x } }) (by simp [storeReg]) rfl
      ?_ rfl ?_ ?_ hw
    · intro q
      cases q with
      | x m =>
        simp only [heldReg, kept, RegId.x.injEq]
        cases hcap : t.caps with
        | none => simp
        | some c =>
          simp only [Option.map_some]
          by_cases hm : m = n
          · subst hm
            rw [if_pos rfl, List.getD_eq_getElem?_getD, getElem?_modNth, if_pos rfl]
            by_cases hlt : m < c.x.length
            · simp [hlt]
            · simp [hlt]
          · rw [if_neg hm, List.getD_eq_getElem?_getD, getElem?_modNth, if_neg hm, ← List.getD_eq_getElem?_getD]
      | v m => simp [heldReg]
      | s m => simp [heldReg]
      | p m => simp [heldReg]
    · cases t.caps <;> rfl
    · cases t.caps <;> simp [length_modNth]

/-! ### A list of writes -/

/-- What a list of writes leaves of a group. -/
structure WroteAll (lat ripe : Nat) (w : Who) (ws : List (RegId × W64)) (g : Group) (t : Thread) (g' : Group) (t' : Thread) : Prop where
  thread : getThread g' w = some t'
  others : ∀ u, u ≠ w → getThread g' u = getThread g u
  same : g' = { g with pilot := g'.pilot, strands := g'.strands, sregs := g'.sregs }
  sregs : (∀ n, RegId.s n ∉ ws.map (·.1)) → g'.sregs = g.sregs
  held : ∀ q, heldReg g' t' q = match ws.lookup q with | some x => kept t q x | none => heldReg g t q
  fixed : t'.fixed = (ws.map fun e => { reg := e.1, old := heldReg g t e.1, left := lat, ripe := ripe : Fixed }).reverse ++ t.fixed
  frame : t' = { t with regs := t'.regs, preds := t'.preds, caps := t'.caps, fixed := t'.fixed }
  caps : (t'.caps.map fun c => { c with x := [] }) = t.caps.map fun c => { c with x := [] }
  capLen : (t'.caps.map fun c => c.x.length) = t.caps.map fun c => c.x.length
  wf : swf t'.regs = true ∧ swf g'.sregs = true

theorem kept_capLen (t t' : Thread) (r : RegId) (x : W64)
    (h : (t'.caps.map fun c => c.x.length) = t.caps.map fun c => c.x.length) : kept t' r x = kept t r x := by
  cases r with
  | x n =>
    simp only [kept]
    cases h1 : t'.caps <;> cases h2 : t.caps <;> simp_all
  | v n => rfl
  | s n => rfl
  | p n => rfl

theorem lookup_none {α β : Type} [BEq α] [LawfulBEq α] (l : List (α × β)) (a : α) (h : a ∉ l.map (·.1)) : l.lookup a = none := by
  induction l with
  | nil => rfl
  | cons e r ih =>
    obtain ⟨k, v⟩ := e
    simp only [List.map_cons, List.mem_cons, not_or] at h
    have hb : (a == k) = false := by simpa using h.1
    rw [List.lookup_cons, hb]
    exact ih h.2

/-- Writes of distinct registers at an executor that has none of them open. -/
theorem writeFixed_all (s : State) (lat : Nat) (w : Who) (ws : List (RegId × W64)) (g : Group) (t : Thread)
    (ht : getThread g w = some t) (hw : swf t.regs = true) (hs : swf g.sregs = true)
    (hn : ∀ e ∈ t.fixed, e.reg ∉ ws.map (·.1)) (hd : (ws.map (·.1)).Nodup) :
    ∃ t', WroteAll lat (s.cycle + lat) w ws g t (ws.foldl (writeFixed s w lat) g) t' := by
  induction ws generalizing g t with
  | nil => exact ⟨t, ⟨ht, fun _ _ => rfl, rfl, fun _ => rfl, fun _ => rfl, rfl, rfl, rfl, rfl, hw, hs⟩⟩
  | cons e rest ih =>
    obtain ⟨r, x⟩ := e
    simp only [List.map_cons, List.nodup_cons] at hd
    obtain ⟨t1, h1⟩ := writeFixed_one s lat w g t r x ht hw hs fun e he => by
      have := hn e he; simp only [List.map_cons, List.mem_cons, not_or] at this; exact this.1
    have hn1 : ∀ e ∈ t1.fixed, e.reg ∉ rest.map (·.1) := by
      intro e he
      rw [h1.fixed] at he
      rcases List.mem_cons.mp he with rfl | he
      · exact hd.1
      · have := hn e he; simp only [List.map_cons, List.mem_cons, not_or] at this; exact this.2
    obtain ⟨t2, h2⟩ := ih _ t1 h1.thread h1.wf.1 h1.wf.2 hn1 hd.2
    refine ⟨t2, ⟨h2.thread, ?_, ?_, ?_, ?_, ?_, ?_, ?_, ?_, h2.wf⟩⟩
    · intro u hu; rw [List.foldl_cons, h2.others u hu, h1.others u hu]
    · have a := h2.same
      have b := h1.same
      rw [List.foldl_cons]
      rw [a, b]
    · intro hns
      simp only [List.map_cons, List.mem_cons, not_or] at hns
      rw [List.foldl_cons, h2.sregs fun n => (hns n).2, h1.sregs fun n hr => (hns n).1 hr.symm]
    · intro q
      rw [List.foldl_cons, h2.held q, List.lookup_cons]
      by_cases hq : q = r
      · subst hq
        rw [lookup_none _ _ hd.1]
        simp [h1.held]
      · have hb : (q == r) = false := by simp [hq]
        simp only [hb]
        cases rest.lookup q with
        | none => simp [h1.held, hq]
        | some y => simp [kept_capLen t t1 q y h1.capLen]
    · rw [h2.fixed, h1.fixed]
      simp only [List.map_cons, List.reverse_cons, List.append_assoc, List.cons_append, List.nil_append]
      congr 2
      apply List.map_congr_left
      intro e he
      have : e.1 ≠ r := fun h => hd.1 (h ▸ List.mem_map_of_mem he)
      rw [h1.held, if_neg this]
    · have a := h2.frame
      have b := h1.frame
      rw [a, b]
    · rw [h2.caps, h1.caps]
    · rw [h2.capLen, h1.capLen]

/-! ### The executors of an issue -/

/-- What the executors of an issue are: of one group, each with its thread, and either the pilot alone or strands. -/
theorem viewsOf_spec {s : State} {f : Fields} {vs : List View} (h : viewsOf s f = some vs) :
    ∃ g, (∀ v ∈ vs, v.s = s ∧ v.g = g ∧ v.f = f ∧ getThread g v.who = some v.t) ∧ getGroup s g.gid = some g ∧
      ((∃ v, vs = [v] ∧ v.who = .pilot) ∨ ∀ v ∈ vs, v.who ≠ .pilot) := by
  unfold viewsOf at h
  split at h
  · cases h
  · split at h
    · next gid g hg =>
      cases h
      refine ⟨g, ?_, ?_, .inl ⟨_, rfl, rfl⟩⟩
      · intro v hv
        rcases List.mem_singleton.mp hv with rfl
        exact ⟨rfl, rfl, rfl, rfl⟩
      · rw [getGroup_gid hg]; exact hg
    · cases h
  · split at h
    · next ks hcur _ g hg =>
      refine ⟨g, ?_, by rw [getGroup_gid hg]; exact hg, .inr ?_⟩
      all_goals
        clear hcur
        induction ks generalizing vs with
        | nil => simp only [List.mapM_nil, Option.pure_def, Option.some.injEq] at h; subst h; simp
        | cons k r ih =>
          simp only [List.mapM_cons, Option.bind_eq_bind, Option.bind_eq_some_iff, Option.map_eq_some_iff, Option.pure_def,
            Option.some.injEq] at h
          obtain ⟨v, ⟨t, ht, rfl⟩, vs', hvs, rfl⟩ := h
          intro u hu
          rcases List.mem_cons.mp hu with rfl | hu
          · first
            | exact ⟨rfl, rfl, rfl, ht⟩
            | exact fun hc => by cases hc
          · exact ih hvs u hu
    · cases h

/-- Operations on distinct executors, one after another: an executor that is not among them keeps its thread. -/
theorem foldl_others {α : Type} (l : List α) (who : α → Who) (op : α → Group → Group)
    (hl : ∀ a g u, u ≠ who a → getThread (op a g) u = getThread g u) (g : Group) (u : Who) (hu : u ∉ l.map who) :
    getThread (l.foldl (fun g a => op a g) g) u = getThread g u := by
  induction l generalizing g with
  | nil => rfl
  | cons a r ih =>
    simp only [List.map_cons, List.mem_cons, not_or] at hu
    rw [List.foldl_cons, ih _ hu.2, hl a g u hu.1]

/-- An operation among others on distinct executors, seen at its own executor. -/
theorem foldl_at {α : Type} (l : List α) (who : α → Who) (op : α → Group → Group)
    (hl : ∀ a g u, u ≠ who a → getThread (op a g) u = getThread g u) (g : Group) (a : α) (ha : a ∈ l) (hd : (l.map who).Nodup) :
    ∃ l1 l2, l = l1 ++ a :: l2 ∧
      getThread (l1.foldl (fun g a => op a g) g) (who a) = getThread g (who a) ∧
      getThread (l.foldl (fun g a => op a g) g) (who a) = getThread (op a (l1.foldl (fun g a => op a g) g)) (who a) := by
  obtain ⟨l1, l2, rfl⟩ := List.append_of_mem ha
  refine ⟨l1, l2, rfl, ?_, ?_⟩
  · apply foldl_others l1 who op hl
    simp only [List.map_append, List.map_cons, List.nodup_append, List.nodup_cons] at hd
    intro hm
    exact hd.2.2 _ hm _ (by simp) rfl
  · rw [List.foldl_append, List.foldl_cons]
    apply foldl_others l2 who op hl
    simp only [List.map_append, List.map_cons, List.nodup_append, List.nodup_cons] at hd
    exact hd.2.1.1

/-- A group without what an issue of executors may change. -/
def Group.base (g : Group) : Group := { g with pilot := Thread.fresh, strands := [], sregs := [] }

theorem base_same {g g' : Group} (h : g'.base = g.base) :
    g' = { g with pilot := g'.pilot, strands := g'.strands, sregs := g'.sregs } :=
  congrArg (fun b : Group => { b with pilot := g'.pilot, strands := g'.strands, sregs := g'.sregs }) h

theorem same_base {g g' : Group} (h : g' = { g with pilot := g'.pilot, strands := g'.strands, sregs := g'.sregs }) :
    g'.base = g.base := by
  rw [h]; rfl

theorem modThreadOf_base (g : Group) (w : Who) (f : Thread → Thread) : (modThreadOf g w f).base = g.base := by
  cases w <;> rfl

/-- What operations on executors keep of a group. -/
theorem foldl_base {α : Type} (l : List α) (op : α → Group → Group) (h : ∀ a ∈ l, ∀ g, (op a g).base = g.base) (g : Group) :
    (l.foldl (fun g a => op a g) g).base = g.base := by
  induction l generalizing g with
  | nil => rfl
  | cons a r ih => rw [List.foldl_cons, ih (fun b hb => h b (List.mem_cons_of_mem _ hb)), h a (List.mem_cons_self ..)]

theorem foldl_sregs {α : Type} (l : List α) (op : α → Group → Group) (h : ∀ a ∈ l, ∀ g, (op a g).sregs = g.sregs) (g : Group) :
    (l.foldl (fun g a => op a g) g).sregs = g.sregs := by
  induction l generalizing g with
  | nil => rfl
  | cons a r ih => rw [List.foldl_cons, ih (fun b hb => h b (List.mem_cons_of_mem _ hb)), h a (List.mem_cons_self ..)]

theorem base_gid {a b : Group} (h : a.base = b.base) : a.gid = b.gid :=
  (congrArg Group.gid h : a.base.gid = b.base.gid)

/-! ### The whole issue -/

/-- What an effect does to the group of its executor. -/
def effOn (lat : Nat) (v : View) (e : Eff) (g : Group) : Group :=
  if lat = 0 then modThreadOf g v.who fun t =>
    { t with pend := t.pend ++ [{ dst := e.writes, flags := e.flags, ovf := e.ovf, cause := 0, leaf := 0 }] }
  else modThreadOf (e.writes.foldl (writeFixed v.s v.who lat) g) v.who fun t => addOvf (orFlags t e.flags) e.ovf

theorem applyEff_eq (s : State) (v : View) (lat : Nat) (e : Eff) :
    applyEff s v lat e = modGroup s v.g.gid (effOn lat v e) := by
  unfold applyEff effOn
  split
  · rfl
  · rfl

theorem storeReg_base (g : Group) (w : Who) (r : RegId) (x : W64) : (storeReg g w r x).base = g.base := by
  cases r <;> simp only [storeReg] <;> (try split) <;> first | rfl | exact modThreadOf_base _ _ _

theorem writeFixed_base (s : State) (lat : Nat) (w : Who) (g : Group) (e : RegId × W64) :
    (writeFixed s w lat g e).base = g.base := by
  unfold writeFixed
  simp only
  split
  · rfl
  · rw [modThreadOf_base, storeReg_base]

theorem writeFixed_others (s : State) (lat : Nat) (w : Who) (g : Group) (e : RegId × W64) (u : Who) (hu : u ≠ w) :
    getThread (writeFixed s w lat g e) u = getThread g u := by
  unfold writeFixed
  simp only
  split
  · rfl
  · rw [getThread_modThreadOf, if_neg hu, getThread_storeReg_other _ _ _ _ _ hu]

theorem writeFixed_sregs (s : State) (lat : Nat) (w : Who) (g : Group) (e : RegId × W64) (h : ∀ n, e.1 ≠ .s n) :
    (writeFixed s w lat g e).sregs = g.sregs := by
  obtain ⟨r, x⟩ := e
  unfold writeFixed
  simp only
  split
  · rfl
  · rw [modThreadOf_sregs]
    cases r with
    | s n => exact absurd rfl (h n)
    | v n => simp only [storeReg]; split
             · rfl
             · exact modThreadOf_sregs _ _ _
    | p n => simp only [storeReg]; split
             · rfl
             · exact modThreadOf_sregs _ _ _
    | x n => exact modThreadOf_sregs _ _ _

theorem effOn_base (lat : Nat) (v : View) (e : Eff) (g : Group) : (effOn lat v e g).base = g.base := by
  unfold effOn
  split
  · exact modThreadOf_base _ _ _
  · rw [modThreadOf_base]
    exact foldl_base e.writes (fun a g => writeFixed v.s v.who lat g a) (fun a _ g => writeFixed_base _ _ _ g a) g

theorem effOn_gid (lat : Nat) (v : View) (e : Eff) (g : Group) : (effOn lat v e g).gid = g.gid :=
  base_gid (effOn_base lat v e g)

theorem effOn_others (lat : Nat) (v : View) (e : Eff) (g : Group) (u : Who) (hu : u ≠ v.who) :
    getThread (effOn lat v e g) u = getThread g u := by
  unfold effOn
  split
  · rw [getThread_modThreadOf, if_neg hu]
  · rw [getThread_modThreadOf, if_neg hu]
    induction e.writes generalizing g with
    | nil => rfl
    | cons a r ih => rw [List.foldl_cons, ih, writeFixed_others _ _ _ _ _ _ hu]

theorem effOn_sregs (lat : Nat) (v : View) (e : Eff) (g : Group) (h : ∀ n, RegId.s n ∉ e.writes.map (·.1)) :
    (effOn lat v e g).sregs = g.sregs := by
  unfold effOn
  split
  · exact modThreadOf_sregs _ _ _
  · rw [modThreadOf_sregs]
    exact foldl_sregs e.writes (fun a g => writeFixed v.s v.who lat g a)
      (fun a ha g => writeFixed_sregs _ _ _ g a fun n hn => h n (hn ▸ List.mem_map_of_mem ha)) g

theorem keptFixed_new (k : RegId) (old : W64) (cycle lat d : Nat) :
    keptFixed cycle { reg := k, old := old, left := lat - d, ripe := cycle + lat } = (decide (d < lat) || keptLong k) := by
  unfold keptFixed keptLong
  congr 1
  · simp
  · cases k
    case s => simp only [decide_eq_true_eq]; omega
    all_goals rfl

/-- What is kept of the writes of distinct registers after the declared distance of their instruction. -/
theorem fixed_aged (ws : List (RegId × W64)) (old : RegId → W64) (cycle lat d : Nat) (r : RegId) (hd : (ws.map (·.1)).Nodup) :
    (((((ws.map fun (e : RegId × W64) => { reg := e.1, old := old e.1, left := lat, ripe := cycle + lat : Fixed }).reverse ++ []).map
      fun (e : Fixed) => { e with left := e.left - d }).filter (keptFixed cycle)).filter fun (x : Fixed) => x.reg == r) =
    if (ws.lookup r).isSome ∧ (d < lat ∨ keptLong r = true) then [{ reg := r, old := old r, left := lat - d, ripe := cycle + lat }]
    else [] := by
  rw [List.append_nil]
  induction ws with
  | nil => simp
  | cons e rest ih =>
    obtain ⟨k, x⟩ := e
    simp only [List.map_cons, List.nodup_cons] at hd
    simp only [List.map_cons, List.reverse_cons, List.map_append, List.filter_append, List.map_nil]
    rw [ih hd.2, List.lookup_cons]
    by_cases hk : r = k
    · subst hk
      have hnone : rest.lookup r = none := lookup_none _ _ hd.1
      by_cases hl : d < lat ∨ keptLong r = true
      · have hb : (decide (d < lat) || keptLong r) = true := by simpa using hl
        simp [hnone, hl, keptFixed_new, hb, List.filter]
      · have hb : (decide (d < lat) || keptLong r) = false := by simpa using hl
        simp [hl, keptFixed_new, hb, List.filter]
    · have hb : (r == k) = false := by simpa using hk
      have hb2 : (k == r) = false := by simpa using fun h : k = r => hk h.symm
      simp only [hb]
      by_cases hl : (decide (d < lat) || keptLong k) = true
      · simp [keptFixed_new, hl, hb2, List.filter]
      · have hl2 : (decide (d < lat) || keptLong k) = false := by simpa using hl
        simp [keptFixed_new, hl2, List.filter]

/-- Writes of distinct registers, of which a strand writes no s-register. -/
def EffOk (v : View) (e : Eff) : Prop :=
  (e.writes.map (·.1)).Nodup ∧ (v.who ≠ .pilot → ∀ n, RegId.s n ∉ e.writes.map (·.1))

theorem filter_acting (vs : List View) :
    (vs.filter fun v => guardTrue v && (false || !skipping v)) = vs.filter acting := by
  simp only [Bool.false_or]
  rfl

/-- The state that an issue of effects leaves, as one update of the group. -/
theorem issue_state (s : State) (f : Fields) (vs : List View) (g : Group) (lat : Nat) (eff : View → Eff)
    (hv : ∀ v ∈ vs, v.g = g) :
    vs.foldl (fun s v => modThread s (vid v) (ageExecuted v))
      ((vs.filter acting).foldl (fun s v => applyEff s v lat (eff v)) (advance s vs)) =
    modGroup s g.gid fun x =>
      vs.foldl (fun x v => modThreadOf x v.who (ageExecuted v))
        ((vs.filter acting).foldl (fun x v => effOn lat v (eff v) x)
          (vs.foldl (fun x v => modThreadOf x v.who fun t => { t with pc := nextPc v }) x)) := by
  have hA : advance s vs = modGroup s g.gid fun x => vs.foldl (fun x v => modThreadOf x v.who fun t => { t with pc := nextPc v }) x := by
    unfold advance
    rw [List.foldl_ext _ (fun s v => modGroup s g.gid fun x => modThreadOf x v.who fun t => { t with pc := nextPc v })
      s fun a v hm => by simp only [modThread, vid, hv v hm]]
    exact foldl_modGroup vs s g.gid (fun v x => modThreadOf x v.who fun t => { t with pc := nextPc v }) fun v x => modThreadOf_gid _ _ _
  have hB (s : State) : (vs.filter acting).foldl (fun s v => applyEff s v lat (eff v)) s =
      modGroup s g.gid fun x => (vs.filter acting).foldl (fun x v => effOn lat v (eff v) x) x := by
    rw [List.foldl_ext _ (fun s v => modGroup s g.gid (effOn lat v (eff v)))
      s fun a v hm => by rw [applyEff_eq, hv v (List.mem_of_mem_filter hm)]]
    exact foldl_modGroup (vs.filter acting) s g.gid (fun v x => effOn lat v (eff v) x) fun v x => effOn_gid _ _ _ _
  have hC (s : State) : vs.foldl (fun s v => modThread s (vid v) (ageExecuted v)) s =
      modGroup s g.gid fun x => vs.foldl (fun x v => modThreadOf x v.who (ageExecuted v)) x := by
    rw [List.foldl_ext _ (fun s v => modGroup s g.gid fun x => modThreadOf x v.who (ageExecuted v))
      s fun a v hm => by simp only [modThread, vid, hv v hm]]
    exact foldl_modGroup vs s g.gid (fun v x => modThreadOf x v.who (ageExecuted v)) fun v x => modThreadOf_gid _ _ _
  have gidA (x : Group) : (vs.foldl (fun x v => modThreadOf x v.who fun t => { t with pc := nextPc v }) x).gid = x.gid :=
    base_gid (foldl_base vs (fun v x => modThreadOf x v.who fun t => { t with pc := nextPc v })
      (fun v _ x => modThreadOf_base _ _ _) x)
  have gidB (x : Group) : ((vs.filter acting).foldl (fun x v => effOn lat v (eff v) x) x).gid = x.gid :=
    base_gid (foldl_base (vs.filter acting) (fun v x => effOn lat v (eff v) x) (fun v _ x => effOn_base _ _ _ _) x)
  rw [hA, hB, modGroup_modGroup _ _ _ _ gidA, hC, modGroup_modGroup]
  intro x
  rw [gidB, gidA]

/-- An instruction is at least one word long (R23). -/
theorem nextPc_ne (v : View) : nextPc v ≠ v.t.pc := by
  have h : lenWords v.f.len = 1 ∨ lenWords v.f.len = 2 ∨ lenWords v.f.len = 3 ∨ lenWords v.f.len = 5 := by
    unfold lenWords
    split
    · exact .inl rfl
    · split
      · exact .inr (.inl rfl)
      · split
        · exact .inr (.inr (.inl rfl))
        · exact .inr (.inr (.inr rfl))
  simp only [nextPc, words]
  rcases h with h | h | h | h <;> rw [h] <;> bv_omega

/-- An executor that has gone on has executed its instruction (R47). -/
theorem ageExecuted_next (v : View) (t : Thread) (h : t.pc = nextPc v) : ageExecuted v t = ageFixed v.s.cycle v.f t := by
  have hn : stalledAt v.t.pc t = false := by simp [stalledAt, h, nextPc_ne]
  simp [ageExecuted, hn]

theorem swf_thread {g : Group} {w : Who} {t : Thread} (hg : g.wf = true) (h : getThread g w = some t) : swf t.regs = true := by
  simp only [Group.wf, Bool.and_eq_true] at hg
  cases w with
  | pilot => cases h; exact hg.1.2
  | strand k =>
    have := List.all_eq_true.mp hg.2 t (List.mem_of_getElem? h)
    exact this

theorem swf_sregs {g : Group} (hg : g.wf = true) : swf g.sregs = true := by
  simp only [Group.wf, Bool.and_eq_true] at hg
  exact hg.1.1.1.1.1.1

/-- What one executor of an issue of effects holds afterwards. -/
theorem issue_at (f : Fields) (vs : List View) (g : Group) (lat : Nat) (eff : View → Eff) (v : View) (hm : v ∈ vs)
    (hv : ∀ u ∈ vs, u.g = g ∧ u.f = f ∧ getThread g u.who = some u.t) (hd : (vs.map fun u => u.who).Nodup)
    (hp : (∃ u, vs = [u] ∧ u.who = .pilot) ∨ ∀ u ∈ vs, u.who ≠ .pilot) (hwf : g.wf = true)
    (hq : ∀ u ∈ vs, Quiet u) (hok : ∀ u ∈ vs, EffOk u (eff u)) :
    ∃ x, getThread (vs.foldl (fun x v => modThreadOf x v.who (ageExecuted v))
        ((vs.filter acting).foldl (fun x v => effOn lat v (eff v) x)
          (vs.foldl (fun x v => modThreadOf x v.who fun t => { t with pc := nextPc v }) g))) v.who = some x ∧
      (if acting v then (if lat = 0 then Waits (eff v) v x else Wrote lat (eff v) v
        (vs.foldl (fun x v => modThreadOf x v.who (ageExecuted v))
          ((vs.filter acting).foldl (fun x v => effOn lat v (eff v) x)
            (vs.foldl (fun x v => modThreadOf x v.who fun t => { t with pc := nextPc v }) g))) x)
       else WentOn v x) := by
  obtain ⟨hvg, hvf, hvt⟩ := hv v hm
  have hquiet : v.t.fixed = [] := hq v hm
  -- the three passes
  generalize hA : vs.foldl (fun x v => modThreadOf x v.who fun t => { t with pc := nextPc v }) g = gA
  generalize hB : (vs.filter acting).foldl (fun x v => effOn lat v (eff v) x) gA = gB
  generalize hC : vs.foldl (fun x v => modThreadOf x v.who (ageExecuted v)) gB = gC
  have tA : getThread gA v.who = some { v.t with pc := nextPc v } := by
    obtain ⟨l1, l2, -, h1, h2⟩ := foldl_at vs (fun v => v.who) (fun v x => modThreadOf x v.who fun t => { t with pc := nextPc v })
      (fun a x u hu => by rw [getThread_modThreadOf, if_neg hu]) g v hm hd
    rw [hA] at h2
    rw [h2, getThread_modThreadOf, if_pos rfl, h1, hvt]
    rfl
  have sA : gA.sregs = g.sregs := by
    rw [← hA]
    exact foldl_sregs vs (fun v x => modThreadOf x v.who fun t => { t with pc := nextPc v }) (fun _ _ _ => modThreadOf_sregs _ _ _) g
  have sC : gC.sregs = gB.sregs := by
    rw [← hC]
    exact foldl_sregs vs (fun v x => modThreadOf x v.who (ageExecuted v)) (fun _ _ _ => modThreadOf_sregs _ _ _) gB
  have tC (y : Thread) (hy : getThread gB v.who = some y) (hpc : y.pc = nextPc v) :
      getThread gC v.who = some (ageFixed v.s.cycle f y) := by
    obtain ⟨l1, l2, -, h1, h2⟩ := foldl_at vs (fun v => v.who) (fun v x => modThreadOf x v.who (ageExecuted v))
      (fun a x u hu => by rw [getThread_modThreadOf, if_neg hu]) gB v hm hd
    rw [hC] at h2
    rw [h2, getThread_modThreadOf, if_pos rfl, h1, hy, Option.map_some, ageExecuted_next v y hpc, hvf]
  have hdF : ((vs.filter acting).map fun u => u.who).Nodup := hd.sublist (List.filter_sublist.map _)
  have hloc : ∀ (a : View) (x : Group) (u : Who), u ≠ a.who → getThread (effOn lat a (eff a) x) u = getThread x u :=
    fun a x u hu => effOn_others lat a (eff a) x u hu
  by_cases hact : acting v = true
  · simp only [if_pos hact]
    have hmF : v ∈ vs.filter acting := List.mem_filter.mpr ⟨hm, hact⟩
    obtain ⟨l1, l2, hl, h1, h2⟩ := foldl_at (vs.filter acting) (fun v => v.who) (fun v x => effOn lat v (eff v) x) hloc gA v hmF hdF
    rw [hB] at h2
    have hmem (u : View) (hu : u ∈ l1 ∨ u ∈ l2) : u ∈ vs ∧ u.who ≠ .pilot := by
      have huF : u ∈ vs.filter acting := by
        rw [hl]; rcases hu with hu | hu <;> simp [hu]
      refine ⟨(List.mem_filter.mp huF).1, ?_⟩
      rcases hp with ⟨w, hw, -⟩ | hp
      · exfalso
        have hlen : (vs.filter acting).length ≤ 1 := by
          have := List.length_filter_le acting vs
          rw [hw] at this ⊢
          simpa using this
        rw [hl] at hlen
        simp only [List.length_append, List.length_cons] at hlen
        rcases hu with hu | hu
        · have := List.length_pos_of_mem hu; omega
        · have := List.length_pos_of_mem hu; omega
      · exact hp u (List.mem_filter.mp huF).1
    generalize hg1 : l1.foldl (fun x v => effOn lat v (eff v) x) gA = g1 at h1 h2
    have s1 : g1.sregs = g.sregs := by
      rw [← hg1, foldl_sregs l1 (fun v x => effOn lat v (eff v) x)
        (fun u hu x => effOn_sregs _ _ _ _ ((hok u (hmem u (.inl hu)).1).2 (hmem u (.inl hu)).2)), sA]
    have sB : gB.sregs = (effOn lat v (eff v) g1).sregs := by
      rw [← hB, hl, List.foldl_append, List.foldl_cons, hg1]
      exact foldl_sregs l2 (fun v x => effOn lat v (eff v) x)
        (fun u hu x => effOn_sregs _ _ _ _ ((hok u (hmem u (.inr hu)).1).2 (hmem u (.inr hu)).2)) _
    rw [tA] at h1
    by_cases hlat : lat = 0
    · simp only [if_pos hlat]
      have h3 : getThread gB v.who = some { v.t with pc := nextPc v, pend := v.t.pend ++
          [{ dst := (eff v).writes, flags := (eff v).flags, ovf := (eff v).ovf, cause := 0, leaf := 0 }] } := by
        rw [h2]
        simp only [effOn, hlat, if_true]
        rw [getThread_modThreadOf, if_pos rfl, h1]
        rfl
      refine ⟨_, tC _ h3 rfl, ?_⟩
      simp [Waits, ageFixed, hquiet, nextIssue, hvf]
    · simp only [if_neg hlat]
      have hw0 : swf v.t.regs = true := swf_thread hwf hvt
      have hw1 : swf ({ v.t with pc := nextPc v } : Thread).regs = true := hw0
      have hs1 : swf g1.sregs = true := by rw [s1]; exact swf_sregs hwf
      obtain ⟨t2, ht2⟩ := writeFixed_all v.s lat v.who (eff v).writes g1 _ h1 hw1 hs1
        (by intro e he; simp [hquiet] at he) (hok v hm).1
      have h3 : getThread gB v.who = some (addOvf (orFlags t2 (eff v).flags) (eff v).ovf) := by
        rw [h2]
        simp only [effOn, hlat, if_false]
        rw [getThread_modThreadOf, if_pos rfl, ht2.thread]
        rfl
      have hpc : (addOvf (orFlags t2 (eff v).flags) (eff v).ovf).pc = nextPc v := by
        rw [ht2.frame]
        rfl
      refine ⟨_, tC _ h3 hpc, ?_⟩
      have s2 : gC.sregs = (List.foldl (writeFixed v.s v.who lat) g1 (eff v).writes).sregs := by
        rw [sC, sB]
        simp only [effOn, hlat, if_false]
        exact modThreadOf_sregs _ _ _
      have hframe := ht2.frame
      refine ⟨?_, ?_, ?_, ?_⟩
      · intro r
        have hh : heldReg gC (ageFixed v.s.cycle f (addOvf (orFlags t2 (eff v).flags) (eff v).ovf)) r =
            heldReg (List.foldl (writeFixed v.s v.who lat) g1 (eff v).writes) t2 r := by
          cases r <;> first | rfl | exact congrArg (fun m => sget m _) s2
        rw [hh, ht2.held r]
        have hk : ∀ x, kept { v.t with pc := nextPc v } r x = kept v.t r x := fun x => by cases r <;> rfl
        have ho : heldReg g1 { v.t with pc := nextPc v } r = heldReg v.g v.t r := by
          cases r <;> first | rfl | (simp only [heldReg]; rw [s1, hvg])
        cases (eff v).writes.lookup r with
        | none => exact ho
        | some x => exact hk x
      · intro r
        have hf : (ageFixed v.s.cycle f (addOvf (orFlags t2 (eff v).flags) (eff v).ovf)).fixed =
            ((((eff v).writes.map fun (e : RegId × W64) =>
                { reg := e.1, old := heldReg v.g v.t e.1, left := lat, ripe := v.s.cycle + lat : Fixed }).reverse ++ []).map
              fun (e : Fixed) => { e with left := e.left - (1 + f.stall.toNat) }).filter (keptFixed v.s.cycle) := by
          have hold : (heldReg g1 { v.t with pc := nextPc v }) = heldReg v.g v.t := by
            funext r
            cases r <;> first | rfl | (simp only [heldReg]; rw [s1, hvg])
          simp only [ageFixed, addOvf, orFlags, ht2.fixed, hold]
          simp only [hquiet]
        rw [hf, fixed_aged _ (heldReg v.g v.t) _ _ _ _ (hok v hm).1, hvf]
      · rw [hframe]
        simp [ageFixed, addOvf, orFlags, nextIssue, hvf]
      · exact ht2.caps
  · simp only [if_neg hact]
    have hnF : v.who ∉ (vs.filter acting).map fun u => u.who := by
      intro hc
      obtain ⟨u, hu, hw⟩ := List.mem_map.mp hc
      obtain ⟨hu1, hu2⟩ := List.mem_filter.mp hu
      have : u = v := by
        by_contra hne
        have := List.inj_on_of_nodup_map hd hu1 hm hw
        exact hne this
      exact hact (this ▸ hu2)
    have h3 : getThread gB v.who = some { v.t with pc := nextPc v } := by
      rw [← hB, foldl_others _ (fun v => v.who) (fun v x => effOn lat v (eff v) x) hloc gA v.who hnF, tA]
    refine ⟨_, tC _ h3 rfl, ?_⟩
    simp [WentOn, ageFixed, hquiet, nextIssue, hvf]

theorem advance_base (vs : List View) (x : Group) :
    (vs.foldl (fun x v => modThreadOf x v.who fun t => { t with pc := nextPc v }) x).base = x.base :=
  foldl_base vs (fun v x => modThreadOf x v.who fun t => { t with pc := nextPc v }) (fun _ _ _ => modThreadOf_base _ _ _) x

/-- An issue of effects: every acting executor takes its effect, the others go on, and nothing else changes. -/
theorem issue_effects (s : State) (f : Fields) (vs : List View) (lat : Nat) (eff : View → Eff) (hs : Issuing s f vs)
    (hq : ∀ v ∈ vs, Quiet v) (hok : ∀ v ∈ vs, EffOk v (eff v)) :
    ∃ t, issueGang f s (fun act s => act.foldl (fun s v => applyEff s v lat (eff v)) s) = .next t ∧ OnlyIssuers s t vs ∧
      ∀ v ∈ vs, Holds t v fun g x =>
        if acting v then (if lat = 0 then Waits (eff v) v x else Wrote lat (eff v) v g x) else WentOn v x := by
  obtain ⟨hvs, -, hd, hwf⟩ := hs
  obtain ⟨g, hv, hg, hp⟩ := viewsOf_spec hvs
  have hst := issue_state s f vs g lat eff fun v hm => (hv v hm).2.1
  have hnext : issueGang f s (fun act s => act.foldl (fun s v => applyEff s v lat (eff v)) s) =
      .next (tickFree (modGroup s g.gid fun x =>
      vs.foldl (fun x v => modThreadOf x v.who (ageExecuted v))
        ((vs.filter acting).foldl (fun x v => effOn lat v (eff v) x)
          (vs.foldl (fun x v => modThreadOf x v.who fun t => { t with pc := nextPc v }) x)))) := by
    simp only [issueGang, issueWith, hvs, filter_acting]
    rw [hst]
  generalize hH : (fun x : Group => vs.foldl (fun x v => modThreadOf x v.who (ageExecuted v))
        ((vs.filter acting).foldl (fun x v => effOn lat v (eff v) x)
          (vs.foldl (fun x v => modThreadOf x v.who fun t => { t with pc := nextPc v }) x))) = H at hnext
  have hbase (x : Group) : (H x).base = x.base := by
    rw [← hH]
    rw [foldl_base vs (fun v x => modThreadOf x v.who (ageExecuted v)) (fun _ _ _ => modThreadOf_base _ _ _),
      foldl_base (vs.filter acting) (fun v x => effOn lat v (eff v) x) (fun _ _ _ => effOn_base _ _ _ _), advance_base]
  have hget (n : Nat) : getGroup (tickFree (modGroup s g.gid H)) n = if n = g.gid then some (H g) else getGroup s n := by
    have h := getGroup_modGroup s g.gid n H fun x => base_gid (hbase x)
    rw [hg] at h
    exact h
  refine ⟨_, hnext, ⟨rfl, ?_⟩, ?_⟩
  · intro v hm
    rw [(hv v hm).2.1]
    refine ⟨fun n hn => by rw [hget, if_neg hn], H g, by rw [hget, if_pos rfl], base_same (hbase g), ?_, ?_⟩
    · intro hnp
      rw [← hH]
      rw [foldl_sregs vs (fun v x => modThreadOf x v.who (ageExecuted v)) (fun _ _ _ => modThreadOf_sregs _ _ _),
        foldl_sregs (vs.filter acting) (fun v x => effOn lat v (eff v) x) (fun u hu x => effOn_sregs _ _ _ _
          ((hok u (List.mem_of_mem_filter hu)).2 (hnp u (List.mem_of_mem_filter hu)))),
        foldl_sregs vs (fun v x => modThreadOf x v.who fun t => { t with pc := nextPc v }) (fun _ _ _ => modThreadOf_sregs _ _ _)]
    · intro w hw
      have hnot : w ∉ vs.map fun u => u.who := by
        intro hc
        obtain ⟨u, hu, he⟩ := List.mem_map.mp hc
        exact hw u hu he
      have hnotF : w ∉ (vs.filter acting).map fun u => u.who := by
        intro hc
        obtain ⟨u, hu, he⟩ := List.mem_map.mp hc
        exact hw u (List.mem_of_mem_filter hu) he
      rw [← hH]
      rw [foldl_others vs (fun v => v.who) (fun v x => modThreadOf x v.who (ageExecuted v))
          (fun a x u hu => by rw [getThread_modThreadOf, if_neg hu]) _ _ hnot,
        foldl_others (vs.filter acting) (fun v => v.who) (fun v x => effOn lat v (eff v) x)
          (fun a x u hu => effOn_others _ _ _ _ _ hu) _ _ hnotF,
        foldl_others vs (fun v => v.who) (fun v x => modThreadOf x v.who fun t => { t with pc := nextPc v })
          (fun a x u hu => by rw [getThread_modThreadOf, if_neg hu]) _ _ hnot]
  · intro v hm
    obtain ⟨x, hx, hr⟩ := issue_at f vs g lat eff v hm (fun u hu => (hv u hu).2) hd hp
      (by rw [← (hv v hm).2.1]; exact hwf v hm) hq hok
    have hHg := congrFun hH g

    rw [hHg] at hx hr
    exact ⟨H g, x, by rw [(hv v hm).2.1, hget, if_pos rfl], hx, hr⟩

/-- Instructions that compute results from registers where the acting executors meet a condition (R45, R46): `body` is
what the meaning does for one executor, `spec` what the rule says. -/
theorem computes_when (i : Instr) (f : Fields) (lat : Nat) (ok : View → Prop)
    (body : State → List View → View → State → State) (spec : List View → View → Eff)
    (hi : ∀ s, exec i s = issueGang f s fun act u => act.foldl (fun u v => body s act v u) u)
    (hb : ∀ s vs v u, v ∈ vs → (∀ u ∈ vs, u.f = f ∧ u.s = s) → (vs.map fun u => u.who).Nodup → ok v →
      body s vs v u = applyEff u v lat (spec vs v))
    (hok : ∀ vs v, v.f = f → EffOk v (spec vs v)) : ComputesWhen i f lat ok spec := by
  intro s vs hs hq ho
  obtain ⟨g, hv, -, -⟩ := viewsOf_spec hs.1
  obtain ⟨t, ht, hon, ha⟩ := issue_effects s f vs lat (spec (vs.filter acting)) hs hq fun v hm => hok _ v (hv v hm).2.2.1
  refine ⟨t, ?_, hon, ha⟩
  rw [hi, ← ht]
  simp only [issueGang, issueWith, hs.1, filter_acting]
  congr 3
  apply List.foldl_ext
  intro u v hm
  have hm' := List.mem_filter.mp hm
  exact hb s _ v u hm (fun w hw => ⟨(hv w (List.mem_of_mem_filter hw)).2.2.1, (hv w (List.mem_of_mem_filter hw)).1⟩)
    (hs.2.2.1.sublist (List.filter_sublist.map _)) (ho v hm'.1 hm'.2)

/-- Instructions that compute results from registers alone (R45, R46): `eff` is what the meaning applies, `spec` what the
rule says. -/
theorem computes_alu (i : Instr) (f : Fields) (lat : Nat) (eff : View → Eff) (spec : List View → View → Eff)
    (hi : ∀ s, exec i s = issueAlu lat f s eff)
    (he : ∀ vs v, v ∈ vs → (∀ u ∈ vs, u.f = f) → (vs.map fun u => u.who).Nodup → eff v = spec vs v)
    (hok : ∀ vs v, v.f = f → EffOk v (spec vs v)) : Computes i f lat spec :=
  computes_when i f lat _ (fun _ _ v s => applyEff s v lat (eff v)) spec hi
    (fun _ vs v s hm hf hn _ => by rw [he vs v hm (fun u hu => (hf u hu).1) hn]) hok

/-- Cross-lane instructions: an effect of a row, interlocked (R237, R240). -/
theorem computes_lane (i : Instr) (f : Fields) (eff : List View → View → Eff) (spec : List View → View → Eff)
    (hi : ∀ s, exec i s = issueGang f s fun vs s => vs.foldl (fun s v => applyPend s v (eff vs v) 0) s)
    (he : ∀ vs v, v ∈ vs → (∀ u ∈ vs, u.f = f) → (vs.map fun u => u.who).Nodup → eff vs v = spec vs v)
    (hok : ∀ vs v, v.f = f → EffOk v (spec vs v)) : Computes i f 0 spec :=
  computes_when i f 0 _ (fun _ vs v s => applyPend s v (eff vs v) 0) spec hi
    (fun _ vs v s hm hf hn _ => by rw [he vs v hm (fun u hu => (hf u hu).1) hn]; rfl) hok

/-- The issue of one executor whose guard is true. -/
theorem issued_each (f : Fields) (s : State) (v : View) (body : View → State → State) (h : Solo s f v) :
    issueEach f s body = .next (issued s v (body v)) := by
  obtain ⟨hv, -, hg, hk⟩ := h
  simp [issueEach, issueGang, issueWith, hv, hg, hk, issued, advance, List.filter]

/-- The same for an instruction whose executors act together. -/
theorem issued_gang (f : Fields) (s : State) (v : View) (body : List View → State → State) (h : Solo s f v) :
    issueGang f s body = .next (issued s v (body [v])) := by
  obtain ⟨hv, -, hg, hk⟩ := h
  simp [issueGang, issueWith, hv, hg, hk, issued, advance, List.filter]

/-! ### Results that can be written -/

theorem destWrites_nodup (p : Bool) (n w x : Nat) : ((destWrites p n w x).map fun e => e.1).Nodup := by
  cases p
  · simp only [destWrites, Bool.false_eq_true, if_false, List.map_map, Function.comp_def]
    exact List.nodup_range.map fun a b h => by simpa using h
  · simp only [destWrites, if_true, List.map_map, Function.comp_def]
    exact List.nodup_range.map fun a b h => by simpa using h

/-- The registers a D result names: of one kind, each once. -/
theorem writesN_ok (v : View) (n w x : Nat) :
    ((writesN v n w x).map fun e => e.1).Nodup ∧ (v.who ≠ .pilot → ∀ m, RegId.s m ∉ (writesN v n w x).map fun e => e.1) ∧
      ∀ m, RegId.p m ∉ (writesN v n w x).map fun e => e.1 := by
  unfold writesN
  split
  · simp
  · refine ⟨destWrites_nodup _ _ _ _, ?_, ?_⟩
    · intro hp m
      have : isPilot v = false := by
        unfold isPilot
        cases hw : v.who with
        | pilot => exact absurd hw hp
        | strand k => rfl
      rw [this]
      simp [destWrites]
    · intro m
      cases isPilot v <;> simp [destWrites]

/-- An effect that writes D. -/
theorem effOk_writesD (v : View) (w x : Nat) (fl : BitVec 6) (o : Nat) :
    EffOk v { writes := writesD v w x, flags := fl, ovf := o } :=
  ⟨(writesN_ok v _ w x).1, (writesN_ok v _ w x).2.1⟩

/-- An effect that writes the D of an I-opcode. -/
theorem effOk_writesDI (v : View) (w x : Nat) (fl : BitVec 6) (o : Nat) :
    EffOk v { writes := writesDI v w x, flags := fl, ovf := o } :=
  ⟨(writesN_ok v _ w x).1, (writesN_ok v _ w x).2.1⟩

/-- An effect that writes a predicate. -/
theorem effOk_pred (v : View) (n : Nat) (x : W64) (fl : BitVec 6) (o : Nat) :
    EffOk v { writes := [(.p n, x)], flags := fl, ovf := o } := by
  constructor <;> simp

/-- An effect that writes D and a predicate. -/
theorem effOk_writesD_pred (v : View) (w x n : Nat) (y : W64) (fl : BitVec 6) (o : Nat) :
    EffOk v { writes := writesD v w x ++ [(.p n, y)], flags := fl, ovf := o } := by
  obtain ⟨h1, h2, h3⟩ := writesN_ok v (nD v.f) w x
  constructor
  · rw [List.map_append, List.nodup_append]
    refine ⟨h1, by simp, ?_⟩
    rintro a ha b hb rfl
    simp at hb
    exact h3 n (hb ▸ ha)
  · intro hp m hm
    rw [List.map_append, List.mem_append] at hm
    rcases hm with hm | hm
    · exact h2 hp m hm
    · simp at hm

/-- An effect that writes nothing. -/
theorem effOk_none (v : View) (fl : BitVec 6) (o : Nat) : EffOk v { writes := [], flags := fl, ovf := o } := by
  constructor <;> simp

end Sys2Proof.Machine
end

