-- ==== Sys2Proof/Tests/Slice0.lean ====
section
/-! SUPPORT. The model's own tests: terms that WellFormed refuses, words written out from the spec's encodings, single steps on a
small state, and a witness for every statement that has hypotheses. -/

namespace Sys2Proof.Tests

open Sys2Proof Sys2Proof.Machine Sys2Proof.Rules

/- One test after another: each `decide +kernel` waits for the kernel's check of what stands before it, and tests that
are elaborated side by side would each hold a thread, with its stack, while they wait. -/
set_option Elab.async false

/-! ### Well-formed instructions: one term for each check -/

/-- IADD.S32 v4, v5, v8 in strand code. -/
def iadd : Fields := twoWords false 5 4 0 0 7 0 8

theorem test_wf_accepts_short : (Instr.iadd iadd).wellFormed = true := by decide +kernel
theorem test_wf_accepts_modifier : (Instr.iadd { iadd with len := 2, w2 := 0x0C000000 }).wellFormed = true := by decide +kernel
theorem test_wf_accepts_one_word : (Instr.land (oneWord false 0 0x3C)).wellFormed = true := by decide +kernel
theorem test_wf_refuses_field_of_absent_word_1 : (Instr.land { oneWord false 0 0x3C with sub := 1 }).wellFormed = false := by decide +kernel
theorem test_wf_refuses_field_of_absent_word_2 : (Instr.iadd { iadd with w2 := 0x0C000000 }).wellFormed = false := by decide +kernel
theorem test_wf_refuses_field_of_absent_literal :
    (Instr.iadd { iadd with len := 2, w2 := 0x0C000000, lit := 1 }).wellFormed = false := by decide +kernel
theorem test_wf_refuses_pilot_instruction_of_strand : (Instr.mma (twoWords false 48 40 0 0 7 0 0)).wellFormed = false := by decide +kernel
theorem test_wf_refuses_strand_instruction_of_pilot : (Instr.join { iadd with x := true }).wellFormed = false := by decide +kernel
theorem test_wf_refuses_too_few_words : (Instr.iadd (oneWord false 5 4)).wellFormed = false := by decide +kernel
theorem test_wf_refuses_reserved_sub : (Instr.iadd { iadd with sub := 0x40 }).wellFormed = false := by decide +kernel
theorem test_wf_refuses_used_zero_field : (Instr.iadd { iadd with c := 1 }).wellFormed = false := by decide +kernel
theorem test_wf_refuses_literal_without_words : (Instr.iadd { iadd with b := 0x3FF }).wellFormed = false := by decide +kernel
theorem test_wf_refuses_words_without_literal : (Instr.iadd { iadd with len := 3 }).wellFormed = false := by decide +kernel
theorem test_wf_refuses_never_true_guard : (Instr.iadd { iadd with neg := true }).wellFormed = false := by decide +kernel
theorem test_wf_refuses_reserved_specifier : (Instr.iadd { iadd with b := 0x31A }).wellFormed = false := by decide +kernel
theorem test_wf_refuses_strand_source_of_pilot : (Instr.iadd { iadd with x := true, b := 0x302 }).wellFormed = false := by decide +kernel
theorem test_wf_refuses_modifier : (Instr.iadd { iadd with len := 2, w2 := 1 }).wellFormed = false := by decide +kernel
theorem test_wf_refuses_odd_register_of_pair : (Instr.iadd { iadd with sub := 2 }).wellFormed = false := by decide +kernel
theorem test_wf_refuses_sub_of_another_instruction :
    (Instr.cntctlOpen { twoWords true 0 20 0 6 7 0x115 0x381 with len := 1 }).wellFormed = false := by decide +kernel

/-! ### Decoding: words written out bit by bit -/

/-- The worked encoding of IADD.s32 v4, v5, s12 ~3. -/
theorem test_decode_iadd : decodeWords false false false [0x0282100D, 0x0070010C] =
    .ok (.iadd (twoWords false 5 4 3 0 7 0 0x10C)) := by decide +kernel

/-- R61: a guarded IADD whose B is a literal. -/
theorem test_decode_literal : decodeWords false false false [0x0282100F, 0x00A003FF, 0, 0x000003E8, 0] =
    .ok (.iadd { twoWords false 5 4 3 0 2 0 0x3FF with neg := true, len := 3, lit := 1000 }) := by decide +kernel

/-- Control: WAITJ p2, j0, 200; TRAP 0x1234; TRAPRET; the pilot's LAND 0xFF. -/
theorem test_decode_control :
    decodeWords false false false [0x00010202, 0x00700000, 0x000000C8] =
      .ok (.waitj { twoWords false 0 2 0 0 7 0 0 with len := 2, w2 := 200 }) ∧
    decodeWords false false false [0x00000342, 0x00700000, 0x00001234] =
      .ok (.trap { twoWords false 0 0 0 0 7 0 0 with len := 2, w2 := 0x1234 }) ∧
    decodeWords false false false [0x000003C0] = .ok (.trapret (oneWord false 0 0)) ∧
    decodeWords true false false [0x807F8180] = .ok (.land (oneWord true 0 0xFF)) := by decide +kernel

/-- Pilots: PHALT, and DQPOP.nb v4:v5, p3. -/
theorem test_decode_pilot :
    decodeWords true false false [0x800004C0] = .ok (.phalt (oneWord true 0 0)) ∧
    decodeWords false false false [0x01820481, 0x01700000] = .ok (.dqpopNb (twoWords false 3 4 0 1 7 0 0)) := by decide +kernel

/-- Ordering: FENCE.sc.pod in pilot code. -/
theorem test_decode_fence : decodeWords true false false [0x800063C1, 0x00707400] =
    .ok (.fence (twoWords true 0 0 0 0 7 0x01D 0)) := by decide +kernel

/-- Barriers and semaphores: BARA b1, s10, 50; BARW b2, 50, s10; SEMP.quad b3, h0, s22, 24; SEMV.quad h0, v14:v15, 1. -/
theorem test_decode_barriers :
    decodeWords true false false [0x80057041, 0x017003B2] = .ok (.bara (twoWords true 0 10 0 1 7 0 0x3B2)) ∧
    decodeWords true false false [0x85007081, 0x027003B2] = .ok (.barw (twoWords true 10 0 0 2 7 0 0x3B2)) ∧
    decodeWords true false false [0x8001F141, 0x107E6116] = .ok (.semp (twoWords true 0 3 0 0x10 7 0x398 0x116)) ∧
    decodeWords false false false [0x00007181, 0x107E040E] = .ok (.semv (twoWords false 0 0 0 0x10 7 0x381 0x00E)) := by
  decide +kernel

/-- Capsules: CAPSTEP at 0x128, and CAPADOPT with a displacement of -33 words. -/
theorem test_decode_capsules :
    decodeWords false false true [0x00007241, 0x18700000] = .ok (.capstep (twoWords false 0 0 0 0x18 7 0 0)) ∧
    decodeWords false false false [0x040072C1, 0x292FFFDF] = .ok (.capadopt (twoWords false 8 0 0 0x29 2 0x3FF 0x3DF)) := by
  decide +kernel

/-- Engines: ENGWAIT s41, s43; SCAN s40, s48; CARRYPUT b1, s16; CARRYGET.nb b2, s24; CARRYBAR s42. -/
theorem test_decode_engines :
    decodeWords true false false [0x9594FBC1, 0x00700000] = .ok (.engwait (twoWords true 43 41 0 0 7 0 0)) ∧
    decodeWords true false false [0x98147AC1, 0x00700000] = .ok (.scan (twoWords true 48 40 0 0 7 0 0)) ∧
    decodeWords true false false [0x88007B01, 0x02700000] = .ok (.carryput (twoWords true 16 0 0 2 7 0 0)) ∧
    decodeWords true false false [0x800C7B41, 0x05700000] = .ok (.carryget (twoWords true 0 24 0 5 7 0 0)) ∧
    decodeWords true false false [0x80157B81, 0x00700000] = .ok (.carrybar (twoWords true 0 42 0 0 7 0 0)) := by decide +kernel

/-- Collectives: COLLOPEN s40, s48; COLLCLOSE s41, 7. -/
theorem test_decode_collectives :
    decodeWords true false false [0x98147A41, 0x00700000] = .ok (.collopen (twoWords true 48 40 0 0 7 0 0)) ∧
    decodeWords true false false [0x8014FA81, 0x00700387] = .ok (.collclose (twoWords true 0 41 0 0 7 0 0x387)) := by
  decide +kernel

/-- System and observation: SYSWR of FLAGS; CHRON v4:v5; CHRON.q s20; CNTRD v4:v5, s12. -/
theorem test_decode_system :
    decodeWords false false false [0x02007C41, 0x00700110] = .ok (.syswr (twoWords false 4 0 0 0 7 0 0x110)) ∧
    decodeWords false false false [0x00027CC0] = .ok (.chron (oneWord false 0 4)) ∧
    decodeWords true false false [0x800A7CC1, 0x01700000] = .ok (.chronQ (twoWords true 0 20 0 1 7 0 0)) ∧
    decodeWords false false false [0x00027D01, 0x0070010C] = .ok (.cntrd (twoWords false 0 4 0 0 7 0 0x10C)) := by decide +kernel

/-- Numbers: the second carry instruction's words, with SUB 0xC9 (R204), and a fused multiply-add in 64 bits. -/
theorem test_decode_numbers :
    decodeWords false false false [0x02821002, 0x07700008, 0x0C000000] =
      .ok (.iadd { twoWords false 5 4 0 7 7 0 8 with len := 2, w2 := 0x0C000000 }) ∧
    decodeWords false false false [0x0E8F5141, 0x01101B02] = .ok (.lred (twoWords false 29 30 0 1 1 6 0x302)) := by decide +kernel

/-- R43: the words of an instruction give it back, and hold the lengths' low bits. -/
theorem test_encode_words :
    encode (.iadd (twoWords false 5 4 3 0 7 0 0x10C)) = [0x0282100D, 0x0070010C] ∧
    encode (.capadopt (twoWords false 8 0 0 0x29 2 0x3FF 0x3DF)) = [0x040072C1, 0x292FFFDF] ∧
    encode (.chron (oneWord false 0 4)) = [0x00027CC0] := by decide +kernel

/-! ### Small states -/

/-- A context, a kernel and a group of one partition, whose first page is mapped. -/
def placed : State := { placeProgram State.reset 0 with agenda := [], unitsDone := 0 }

/-- The pilot of the group issues next; one of its strands does; two of them do. -/
def byPilot (s : State) : State := { s with cur := some (.pilot 1) }
def byStrand (s : State) : State := { s with cur := some (.gang 1 [2]) }
def byTwo (s : State) : State := { s with cur := some (.gang 1 [0, 1]) }

/-- The group, its pilot, and the issuing strand, changed. -/
def inGroup (h : Group → Group) (s : State) : State := modGroup s 1 h
def inPilot (h : Thread → Thread) (s : State) : State := modThread s { gid := 1, who := .pilot } h
def inStrand (h : Thread → Thread) (s : State) : State := modThread s { gid := 1, who := .strand 2 } h
def inContext (h : Context → Context) (s : State) : State := { s with contexts := s.contexts.map h }

/-- Values in the registers of the issuing strand, and in the s-registers of the group. -/
def vregs (l : List (Nat × W32)) (s : State) : State :=
  inStrand (fun t => { t with regs := l.foldl (fun m x => sset m x.1 x.2) t.regs }) s
def sregs (l : List (Nat × W64)) (s : State) : State :=
  inGroup (fun g => { g with sregs := l.foldl (fun m x => sset m x.1 x.2) g.sregs }) s

/-- Fields with A, D, B and C of one kind: registers 6, 12, 8 and 10 of a strand, and of a pilot. -/
def fStrand : Fields := twoWords false 6 12 0 0 7 10 8
def fPilot : Fields := twoWords true 6 12 0 0 7 0x10A 0x108

/-! ### Witnesses -/

/-- Some executor issues alone, with its guard true, and meets a condition. -/
def Met (p : State → Fields → View → Prop) : Prop := ∃ s f v, Solo s f v ∧ p s f v

def metB (s : State) (f : Fields) (p : State → Fields → View → Bool) : Bool :=
  match viewsOf s f with
  | some [v] => v.g.wf && guardTrue v && !skipping v && p s f v
  | _ => false

theorem met {p : State → Fields → View → Prop} [∀ s f v, Decidable (p s f v)] (s : State) (f : Fields)
    (h : metB s f (fun s f v => decide (p s f v)) = true) : Met p := by
  simp only [metB] at h
  split at h
  · next v hv =>
    simp only [Bool.and_eq_true, Bool.not_eq_true', decide_eq_true_eq] at h
    exact ⟨s, f, v, ⟨hv, h.1.1.1, h.1.1.2, h.1.2⟩, h.2⟩
  · exact absurd h (by decide)

/-- The hypotheses of the statements about issues that compute results: for any fields, two strands whose registers are canonical and
that have no open result; all of them take the effect where the guard is PT. -/
theorem witness_Computes (f : Fields) (hp : f.pnum = 7) (hn : f.neg = false) :
    ∃ s vs, Issuing s f vs ∧ (∀ v ∈ vs, Quiet v) ∧ ∀ v ∈ vs, acting v = true := by
  have hv : viewsOf (byTwo placed) f = some [
      { s := byTwo placed, g := placeGroup, who := .strand 0, t := { Thread.fresh with run := .ready }, f := f },
      { s := byTwo placed, g := placeGroup, who := .strand 1, t := { Thread.fresh with run := .ready }, f := f }] := by rfl
  refine ⟨byTwo placed, _, ⟨hv, by simp, by simp, ?_⟩, ?_, ?_⟩
  · simp only [List.mem_cons, List.not_mem_nil, or_false, forall_eq_or_imp, forall_eq]
    decide +kernel
  · simp only [List.mem_cons, List.not_mem_nil, or_false, forall_eq_or_imp, forall_eq, Quiet]
    decide +kernel
  · simp only [List.mem_cons, List.not_mem_nil, or_false, forall_eq_or_imp, forall_eq, acting, guardTrue, skipping, hp, hn]
    simp [readPred, inSkip, Thread.fresh]
    decide +kernel

/-! ### Control -/

/-- Words that a landing check reads: a strand's LAND 0 and LAND 1, at 0x40 and 0x44 of the page. -/
def withLands (s : State) : State := { s with mem := ssets s.mem (placeBase + 0x40) (toBytes 4 0x00000180 ++ toBytes 4 0x00008180) }

def lands (s : State) (v : View) (l : Landing) : Bool :=
  (landingCheck (past s v) v.g v.who (codeReachOf v.g v.t) (regTarget v) v.f.sub.toNat).1 == l

theorem witness_Transfers :
    Met (fun _ _ v => regTarget v &&& 3 ≠ 0 ∧ regTarget v = 1) ∧ Met (fun _ _ v => regTarget v &&& 3 ≠ 0 ∧ regTarget v = 3) ∧
    Met (fun s _ v => regTarget v &&& 3 = 0 ∧ lands s v .pass = true) ∧
    Met (fun s _ v => regTarget v &&& 3 = 0 ∧ lands s v (.mismatch 0x100) = true) ∧
    Met (fun s _ v => regTarget v &&& 3 = 0 ∧ lands s v (.mismatch 0x10000) = true) :=
  ⟨met (byStrand (vregs [(6, 1)] placed)) fStrand (by decide +kernel), met (byPilot (sregs [(6, 3)] placed)) fPilot (by decide +kernel),
    met (byStrand (vregs [(6, 0x40)] (withLands placed))) fStrand (by decide +kernel),
    met (byStrand (vregs [(6, 0x44)] (withLands placed))) fStrand (by decide +kernel),
    met (byStrand (vregs [(6, 0x48)] (withLands placed))) fStrand (by decide +kernel)⟩

theorem witness_LandingTags :
    judgeLand false 0x00000180 0 = .pass ∧ judgeLand true 0x807F8180 255 = .pass ∧ judgeLand true 0x00000180 0 = .mismatch 0x10000 ∧
    judgeLand false 0x007F8180 254 = .mismatch 0xFFFE := by decide +kernel

/-- A round of mask 3 that strand 1 opened: lanes 1, 2 and 3 are named. -/
def withRound (s : State) : State :=
  inGroup (fun g => { g with j := [(3, 0xE)], rounds := [{ n := 3, slot := 0, deadline := some 0, lanes := [1] }]
                             strands := modNth g.strands 1 fun t => { t with run := .joining 3 0 2 0x44 } }) s

theorem witness_BoundedWait :
    Met (fun _ f v => v.who = .strand 2 ∧ v.g.gst = .running ∧ v.g.rounds.all (fun r => !roundDone v.g r) = true ∧
      (v.g.rounds.map fun r => (r.n, r.slot)).Nodup ∧ (f.a.setWidth 4).toNat = 3 ∧ (sget v.g.j 3).getLsbD 3 = true) ∧
    Met (fun _ f v => v.who = .strand 2 ∧ v.g.gst = .running ∧ v.g.rounds.all (fun r => !roundDone v.g r) = true ∧
      (v.g.rounds.map fun r => (r.n, r.slot)).Nodup ∧ (f.a.setWidth 4).toNat = 6 ∧ ∀ l < v.g.shape.w, (sget v.g.j 6).getLsbD l = false) ∧
    (∃ g r x, getGroup (withRound placed) 1 = some g ∧ g.gst = .running ∧ g.rounds.all (fun r => !roundDone g r) = true ∧ r ∈ g.rounds ∧
      (g.rounds.map fun r => (r.n, r.slot)).Nodup ∧ r.deadline = some 0 ∧ 0 ≤ coreCycle (withRound placed) (g.cores.getD 0 0) ∧
      g.strands[1]? = some x ∧ x.run = .joining r.n r.slot 2 0x44 ∧ laneOf g 1 ∈ r.lanes) :=
  ⟨met (byStrand (withRound placed)) { fStrand with a := 3 } (by decide +kernel),
    met (byStrand (withRound placed)) fStrand (by decide +kernel),
    ⟨_, { n := 3, slot := 0, deadline := some 0, lanes := [1] }, _, rfl, by decide +kernel, by decide +kernel, by decide +kernel,
      by decide +kernel, rfl, by decide +kernel, rfl, by decide +kernel, by decide +kernel⟩⟩

theorem witness_ExitYieldNap :
    Met (fun _ f v => v.who = .strand 2 ∧ f.w2 = 0) ∧ Met (fun _ f _ => f.w2 = 0xFFFFFFFF) ∧
    (∃ g t, getGroup (inPilot (fun t => { t with run := .parked (.nap 0 0x44) }) placed) 1 = some g ∧ getThread g .pilot = some t ∧
      t.run = .parked (.nap 0 0x44)) :=
  ⟨met (byStrand placed) fStrand (by decide +kernel), met (byPilot placed) { fPilot with len := 2, w2 := 0xFFFFFFFF } (by decide +kernel),
    _, _, rfl, rfl, rfl⟩

theorem witness_TrapInstructions :
    Met (fun s _ v => intercepts s v.g.ctx = false ∧ v.t.inh = false) ∧ Met (fun s _ v => intercepts s v.g.ctx = true) ∧
    Met (fun _ _ v => v.t.inh = true ∧ v.t.run = .ready ∧ v.t.caps = none ∧ v.g.haltPend = false ∧ ∀ t ∈ v.g.strands, t.run ≠ .stalled .trapSlot) :=
  ⟨met (byStrand placed) fStrand (by decide +kernel), met (byStrand (inContext (fun c => { c with bkpt := true }) placed)) fStrand (by decide +kernel),
    met (byStrand (inStrand (fun t => { t with inh := true, tpc := 0x80 }) placed)) fStrand (by decide +kernel)⟩

/-- 32 more strands, each with a trap slot of its own. -/
def slotsTaken (n : Nat) (s : State) : State :=
  inGroup (fun g => { g with strands := g.strands ++ (List.range n).map fun k => { Thread.fresh with slot := some k } }) s

theorem witness_TrapEntry :
    (∃ g t, getGroup (slotsTaken 31 placed) 1 = some g ∧ getThread g (.strand 2) = some t ∧ t.inh = false ∧
      (∀ x ∈ g.strands, x.slot ≠ some 31) ∧ ∀ m < 31, ∃ x ∈ g.strands, x.slot = some m) ∧
    (∃ g t, getGroup (slotsTaken 32 placed) 1 = some g ∧ getThread g (.strand 2) = some t ∧ t.inh = false ∧
      ∀ n < 32, ∃ x ∈ g.strands, x.slot = some n) ∧
    (∃ g t, getGroup (inStrand (fun t => { t with inh := true }) placed) 1 = some g ∧ getThread g (.strand 2) = some t ∧ t.inh = true) ∧
    ∃ g t, getGroup (inPilot (fun t => { t with inh := true }) placed) 1 = some g ∧ getThread g .pilot = some t ∧ t.inh = true :=
  ⟨⟨_, _, rfl, rfl, rfl, by decide +kernel, by decide +kernel⟩, ⟨_, _, rfl, rfl, rfl, by decide +kernel⟩, ⟨_, _, rfl, rfl, rfl⟩,
    _, _, rfl, rfl, rfl⟩

theorem witness_HandlerEntry :
    (landingCheck placed placeGroup (.strand 2) placeGroup.vals.tvreach placeGroup.vals.tvec 0xFF).1 = .pass ∧
    (landingCheck placed placeGroup .pilot placeGroup.vals.tvreach placeGroup.vals.ptvec 0xFF).1 = .pass ∧
    getGroup placed 1 = some placeGroup := by decide +kernel

def withQueue (n : Nat) (s : State) : State := inGroup (fun g => { g with dq := List.replicate n 5 }) s

theorem witness_PilotAndDecisionQueue :
    Met (fun _ _ v => v.t.fixed = [] ∧ v.who = .pilot ∧ v.g.dq.length = 63 ∧ ∀ x ∈ v.g.strands, x.run ≠ .new) ∧
    Met (fun _ _ v => v.t.fixed = [] ∧ 64 ≤ v.g.dq.length) ∧
    Met (fun _ _ v => v.t.fixed = [] ∧ v.g.dq = [] ∧ v.g.pilot.run ≠ .exited ∧ v.who = .strand 2) ∧
    Met (fun _ _ v => v.t.fixed = [] ∧ v.g.dq = [] ∧ v.g.pilot.run = .exited ∧ v.who = .strand 2) ∧
    Met (fun _ _ v => v.t.fixed = [] ∧ v.g.dq = [5] ∧ v.who = .strand 2) :=
  ⟨met (byPilot (withQueue 63 placed)) fPilot (by decide +kernel), met (byPilot (withQueue 64 placed)) fPilot (by decide +kernel),
    met (byStrand placed) fStrand (by decide +kernel), met (byStrand (inPilot (fun t => { t with run := .exited }) placed)) fStrand (by decide +kernel),
    met (byStrand (withQueue 1 placed)) fStrand (by decide +kernel)⟩

/-! ### Memory -/

/-- The low part of an address, and the room that the store queue has left. -/
def low (v : View) : Nat := ((address v).setWidth 64).toNat
def stored (v : View) : Nat := (v.g.stq.filter fun e => e.spreadIx == spreadIx v.g v.who).length

/-- An access passes its checks and meets main memory. -/
def reachesB (s : State) (v : View) (va : BitVec 72) (a : Acc) (n : Nat) : Bool :=
  match resolve (past s v) v va a n with
  | (.mem _ pa, _) => decide (pa < apertureBase)
  | _ => false

theorem reaches_of {s : State} {v : View} {va : BitVec 72} {a : Acc} {n : Nat} (h : reachesB s v va a n = true) :
    ∃ leaf pa u, Reaches s v va a n leaf pa u := by
  unfold reachesB at h
  split at h
  · next leaf pa u hr => exact ⟨leaf, pa, u, hr, of_decide_eq_true h⟩
  · exact absurd h (by decide)

/-- An access that traps. -/
def trapsB (s : State) (v : View) (va : BitVec 72) (a : Acc) (n : Nat) : Bool :=
  match resolve (past s v) v va a n with
  | (.trap _ _, _) => true
  | _ => false

/-- A byte of the page that is mapped, at the address in A; one entry of the queue, of another strand and of the issuing one. -/
def at4000 (s : State) : State := vregs [(6, 0x4000)] { s with mem := ssets s.mem (placeBase + 0x4000) [0x81, 2, 3, 4, 5, 6, 7, 8] }
def storeOf (w : Who) : StoreEntry :=
  { spreadIx := 0, ops := [{ who := w, scratch := false, addr := 0x2004100, bytes := [1], red := none, scope := 0, ord := 0, cpol := 0 }] }
def withStores (n : Nat) (w : Who) (s : State) : State := inGroup (fun g => { g with stq := List.replicate n (storeOf w) }) s

/-- Size codes: 1 byte, 4 bytes; the block of LDU and STU. -/
def f1 : Fields := { fStrand with c := 0 }
def f4 : Fields := { fStrand with c := 0, sub := 0x10 }

theorem witness_Loads :
    Met (fun _ _ v => low v % size v = 3 ∧ size v = 4) ∧ Met (fun _ _ v => low v % blockSize v = 3) ∧
    Met (fun s _ v => low v % size v = 0 ∧ reachesB s v (address v) .read (size v) = true ∧ ownOps s v = []) ∧
    Met (fun s _ v => low v % blockSize v = 0 ∧ reachesB s v (address v) .read (blockSize v) = true ∧ ownOps s v = []) ∧
    Met (fun s _ v => low v % size v = 0 ∧ trapsB s v (address v) .read (size v) = true) :=
  ⟨met (byStrand (vregs [(6, 0x4003)] placed)) f4 (by decide +kernel), met (byStrand (vregs [(6, 0x4003)] placed)) f4 (by decide +kernel),
    met (byStrand (at4000 placed)) f4 (by decide +kernel), met (byStrand (at4000 placed)) f4 (by decide +kernel),
    met (byStrand (inGroup (fun g => { g with h := [(0, 0xFF)] }) placed)) f4 (by decide +kernel)⟩

theorem witness_LoadedBytes :
    leafStow (0 : W64) = false ∧ Met (fun s _ v => ownOps s v = [] ∧ swf s.mem = true ∧ swf s.dirty = true) ∧
    ((0 : Nat) = 0 ∧ ((0 : Nat) = 0 ∨ (2 : Nat) ≤ 1)) ∧ ¬ ((0 : Nat) = 0 ∧ ((1 : Nat) = 0 ∨ (2 : Nat) ≤ 1)) ∧ 0x2004000 + 8 ≤ mainTop :=
  ⟨by decide +kernel, met (byStrand (at4000 placed)) f4 (by decide +kernel), by decide, by decide, by decide +kernel⟩

theorem witness_Stores :
    Met (fun _ _ v => inCap v.t = false ∧ stored v = 63 ∧ low v % size v = 3) ∧
    Met (fun _ _ v => inCap v.t = false ∧ stored v = 64) ∧
    Met (fun s _ v => inCap v.t = false ∧ stored v = 63 ∧ low v % size v = 0 ∧ reachesB s v (address v) .write (size v) = true ∧
      v.who = .strand 2 ∧ v.t.stcres = 0) ∧
    Met (fun s _ v => inCap v.t = false ∧ stored v = 0 ∧ v.who = .pilot ∧ reachesB s v (address v) .write (size v) = true) ∧
    Met (fun s _ v => inCap v.t = false ∧ stored v = 63 ∧ low v % blockSize v = 0 ∧ reachesB s v (address v) .write (blockSize v) = true) ∧
    Met (fun _ _ v => inCap v.t = false ∧ stored v = 63 ∧ offset v % size v = 0 ∧ offset v + size v = 98304 ∧
      v.g.modes.getD (offset v / 98304) .scratch = .scratch) :=
  ⟨met (byStrand (withStores 63 .pilot (vregs [(6, 0x4003)] placed))) f4 (by decide +kernel),
    met (byStrand (withStores 64 .pilot (at4000 placed))) f4 (by decide +kernel),
    met (byStrand (withStores 63 .pilot (at4000 placed))) f4 (by decide +kernel), met (byPilot placed) { fPilot with c := 0, sub := 0x18 } (by decide +kernel),
    met (byStrand (withStores 63 .pilot (at4000 placed))) f4 (by decide +kernel),
    met (byStrand (withStores 63 .pilot (vregs [(6, 98300)] placed))) f4 (by decide +kernel)⟩

/-- The oldest entry is a wide store, a narrow store, and a store to scratch. -/
def withOldest (o : StoreOp) (s : State) : State := inGroup (fun g => { g with stq := [{ spreadIx := 0, ops := [o] }] }) s
def narrowStore : StoreOp := { who := .strand 2, scratch := false, addr := 0x2004000, bytes := [9, 8], red := none, scope := 1, ord := 2, cpol := 0 }

theorem witness_StoresPerformed : ∀ o ∈ [narrowStore, { narrowStore with ord := 2, scope := 1 }, { narrowStore with ord := 1, scope := 2 },
      { narrowStore with scratch := true, addr := 0 }],
    (∃ g, getGroup (withOldest o placed) 1 = some g ∧ g.stq = [{ spreadIx := 0, ops := [o] }] ∧ o.red = none ∧ swf g.scratch = true) ∧
    swf placed.mem = true ∧ swf placed.dirty = true ∧ swf placed.clean = true ∧ o.addr + o.bytes.length ≤ mainTop ∧ ¬ (o.ord = 2 ∧ 2 ≤ o.scope) ∧
    undisturbed placed 0 o.addr o.bytes.length := by
  intro o ho
  simp only [undisturbed, show placed.dirty = [] from rfl, List.not_mem_nil, false_implies, implies_true, and_true]
  refine ⟨⟨_, rfl, rfl, ?_, rfl⟩, ?_⟩
  all_goals revert o; decide +kernel

theorem witness_ScratchAccesses :
    Met (fun _ _ v => offset v % size v = 3) ∧ Met (fun _ _ v => offset v % size v = 0 ∧ v.g.modes.length * 98304 < offset v + size v) ∧
    Met (fun _ _ v => offset v % size v = 0 ∧ offset v + size v = v.g.modes.length * 98304 ∧ v.g.modes.getD (offset v / 98304) .scratch = .fifo) ∧
    Met (fun _ _ v => offset v % size v = 0 ∧ offset v + size v ≤ v.g.modes.length * 98304 ∧ v.g.modes.getD (offset v / 98304) .scratch = .cache) ∧
    Met (fun s _ v => offset v % size v = 0 ∧ offset v + size v = 98304 ∧ v.g.modes.getD (offset v / 98304) .scratch = .scratch ∧
      ownOps (past s v) v = []) :=
  ⟨met (byStrand (vregs [(6, 3)] placed)) f4 (by decide +kernel), met (byStrand (vregs [(6, 2 * 98304)] placed)) f4 (by decide +kernel),
    met (byStrand (vregs [(6, 2 * 98304 - 4)] placed)) f4 (by decide +kernel),
    met (byStrand (inGroup (fun g => { g with modes := [.cache] }) (vregs [(6, 0)] placed))) f4 (by decide +kernel),
    met (byStrand (vregs [(6, 98300)] placed)) f4 (by decide +kernel)⟩

/-- A walk of core 0 waits; a page of the tables' context. -/
def aWalk : WalkReq := { die := 0, entry := 7, uses := [{ core := 0, ctx := 1, va := 0x2000000, size := 4, l2 := false }] }

theorem witness_PrefetchAndWriteBack :
    Met (fun s _ v => ownOps (past s v) v = [] ∧ scope v = 1) ∧
    Met (fun s _ v => ownOps (past s v) v = [] ∧ scope v = 2 ∧ (address v >>> 64).toNat < 0xF0 ∧ low v % size v = 0 ∧
      (match translate (past s v) (some (coreOf v.g v.who)) v.g.ctx (address v) with
        | (.leaf l, _) => !leafStow l.w0
        | _ => false) = true) ∧
    { placed with walkQ := [aWalk] }.walkQ = aWalk :: [] ∧ swf placed.mem = true ∧ swf placed.dirty = true ∧ mainTop - 1 + [(5 : Byte)].length ≤ mainTop :=
  ⟨met (byStrand (at4000 placed)) { f4 with c := 1 } (by decide +kernel), met (byStrand (at4000 placed)) { f4 with c := 2 } (by decide +kernel),
    rfl, by decide +kernel, by decide +kernel, by decide +kernel⟩

/-- A stowed 64 KiB page at address 0 whose first tile is stored raw: six table levels, the index block, nothing else. -/
def stowed : State :=
  { placed with
    mem := ssets (ssets ((List.range 5).foldl (fun m k => ssets m (0x400000 + 0x10000 * k) (toBytes 16 (0x410001 + 0x10000 * k))) placed.mem)
      0x450000 (toBytes 16 0x50004B)) 0x500000 (toBytes 8 (2 ^ 53 + 63 * 2 ^ 46 + 0x18000))
    contexts := [{ placeContext with sys := [(0x213, 0x400000)] }] }

theorem witness_PrefetchAndWriteBack_stowed :
    (match walk stowed 1 0, getCtx stowed 1 with
      | .leaf l, some c => leafStow l.w0 && (c.decoded.find? fun d => d.va == tileVa 0).isNone &&
          (match decodeTile stowed c.area ((l.w1 >>> 8).setWidth 8).toNat (indexBlock l.w0) (tileIndex l 0) with | .ok _ => true | .error _ => false)
      | _, _ => false) = true := by decide +kernel

/-- The narrowest and the widest integer operation; a set of lanes for a floating sum. -/
theorem witness_AtomicOperations : (1 ≤ 1 ∧ 1 ≤ 9 ∧ 1 < 8) ∧ (1 ≤ 9 ∧ 9 ≤ 9 ∧ 1 < 64) ∧ (9 : Nat) ≠ 10 := by decide

theorem witness_ReadModifyWrites :
    Met (fun _ _ v => low v % size v = 3) ∧ Met (fun s _ v => low v % size v = 0 ∧ ownOps (past s v) v ≠ []) ∧
    Met (fun s _ v => low v % size v = 0 ∧ ownOps (past s v) v = [] ∧ stored v = 63 ∧ reachesB s v (address v) .rmw (size v) = true) :=
  ⟨met (byStrand (vregs [(6, 0x4003)] placed)) f4 (by decide +kernel), met (byStrand (withStores 1 (.strand 2) (at4000 placed))) f4 (by decide +kernel),
    met (byStrand (withStores 63 .pilot (at4000 placed))) { f4 with c := 0x20 } (by decide +kernel)⟩

theorem witness_ReadModifyWritePlaces :
    swf placed.mem = true ∧ swf placed.dirty = true ∧ swf placed.clean = true ∧ mainTop - 8 + 8 ≤ mainTop ∧ ¬ (3 ≤ 3 ∧ 2 ≤ 1) ∧
    ((0 : Nat) = 0 ∧ 1 ≤ 1) ∧ ¬ ((0 : Nat) = 0 ∧ 2 ≤ 1) ∧ undisturbed placed 0 (mainTop - 8) 8 ∧ ∀ a, sget placed.dirty (copyKey 0 a) = 0 :=
  ⟨by decide +kernel, by decide +kernel, by decide +kernel, by decide +kernel, by decide, by decide, by decide,
    ⟨by decide, by decide, fun _ _ _ h => absurd h List.not_mem_nil⟩, fun _ => rfl⟩

/-- The condition of WAITA on what it reads: equal, in a word of 8 bytes. -/
def waitEqual (s : State) (v : View) : Bool :=
  match resolve (past s v) v (address v) .read (size v) with
  | (.mem l pa, u) => decide (pa < apertureBase) && !redOverlaps (ownOps u v) pa (size v) &&
      ofBytes (readMain u v l (address v) pa (size v) (scope v) (ord v)).1 == readBI v (8 * size v)
  | _ => false
def waitOther (s : State) (v : View) : Bool :=
  match resolve (past s v) v (address v) .read (size v) with
  | (.mem l pa, u) => decide (pa < apertureBase) && !redOverlaps (ownOps u v) pa (size v) &&
      ofBytes (readMain u v l (address v) pa (size v) (scope v) (ord v)).1 != readBI v (8 * size v)
  | _ => false

def generation (v : View) : Nat := (BitVec.ofNat 64 (ofBytes (scratchBytes v.g (spreadIx v.g v.who) (offset v) 8)) >>> 48).toNat

theorem witness_Waits :
    Met (fun s _ v => ownOps (past s v) v = [] ∧ low v % size v = 3) ∧
    Met (fun s _ v => ownOps (past s v) v = [] ∧ low v % size v = 0 ∧ topCode v / 2 = 0 ∧ waitEqual s v = true) ∧
    Met (fun s _ v => ownOps (past s v) v = [] ∧ low v % size v = 0 ∧ topCode v / 2 = 0 ∧ waitOther s v = true) ∧
    Met (fun s _ v => ownOps (past s v) v = [] ∧ offset v % 8 = 0 ∧ offset v + 8 = 98304 ∧
      v.g.modes.getD (offset v / 98304) .scratch = .scratch ∧ generation v ≠ readBI v 32 % 2 ^ 16) ∧
    Met (fun s _ v => ownOps (past s v) v = [] ∧ offset v = 0 ∧ v.g.modes.getD (offset v / 98304) .scratch = .scratch ∧
      generation v = readBI v 32 % 2 ^ 16) ∧
    (∃ g t, getGroup (inPilot (fun t => { t with run := .parked (.waita 0 0x2000000 .slice) }) placed) 1 = some g ∧ getThread g .pilot = some t ∧
      t.run = .parked (.waita 0 0x2000000 .slice)) ∧
    (98296 + 8 ≤ placeGroup.modes.length * 98304 ∧ placeGroup.modes.getD (98296 / 98304) .scratch = .scratch ∧ 98296 % 8 = 0) :=
  ⟨met (byStrand (vregs [(6, 0x4003)] placed)) f4 (by decide +kernel), met (byStrand (vregs [(8, 0x04030281)] (at4000 placed))) f4 (by decide +kernel),
    met (byStrand (vregs [(8, 0x04030280)] (at4000 placed))) f4 (by decide +kernel),
    met (byStrand (vregs [(6, 98296), (8, 1)] placed)) f4 (by decide +kernel), met (byStrand placed) f4 (by decide +kernel),
    ⟨_, _, rfl, rfl, rfl⟩, by decide +kernel⟩

/-- The kernel has BANKCTL; a bank in FIFO mode belongs to a configured channel. -/
def bankctl (s : State) : State := { s with kernels := s.kernels.map fun k => { k with desc := k.desc.map fun d => { d with kflags := 8 } } }
def hasBankctl (v : View) : Bool := match (kernelOf v).bind (·.desc) with | some d => d.kflags.getLsbD 3 | none => false

/-- A strand's and a kernel's request to another device, on its way. -/
def asked (r : RemoteReq) (s : State) : State := { s with remotes := [r] }
def strandAsks : RemoteReq := { tag := 3, ctx := 1, t := .inl ⟨1, .strand 2⟩, since := 0 }
def kernelAsks : RemoteReq := { tag := 3, ctx := 1, t := .inr 1, since := 0 }

theorem witness_BanksFencesInvalidation :
    Met (fun _ _ v => hasBankctl v = false) ∧ Met (fun _ _ v => hasBankctl v = true ∧ readB v 32 = 2 ^ v.g.modes.length) ∧
    Met (fun s _ v => hasBankctl v = true ∧ readB v 32 < 2 ^ v.g.modes.length ∧ s.engineQ = [] ∧ v.g.stq = [] ∧ ownOps (past s v) v = [] ∧
      ∀ i ∈ (List.range v.g.modes.length).filter (readB v 32).testBit, v.g.modes.getD i .scratch = .scratch) ∧
    Met (fun s _ v => hasBankctl v = true ∧ readB v 32 = 1 ∧ v.g.modes.getD 0 .scratch = .scratch ∧ ownOps (past s v) v ≠ []) ∧
    Met (fun s _ v => ownOps (past s v) v = [] ∧ sget v.g.h ((v.f.sub >>> 2).setWidth 3).toNat = 0 ∧ readB v 32 = 0 ∧ s.remotes = []) ∧
    Met (fun s _ v => ownOps (past s v) v = [] ∧ readB v 32 = 1 ∧ (s.remotes.filter fun r => r.ctx == v.g.ctx).map (·.tag) = [3]) ∧
    Met (fun s _ v => ord v ≠ 0 ∧ ownOps (past s v) v ≠ []) ∧ Met (fun s _ v => ord v = 0 ∧ ownOps (past s v) v ≠ []) ∧
    Met (fun s _ v => ownOps (past s v) v = [] ∧ ord v = 3 ∧ scope v = 2 ∧ (sget v.g.h ((v.f.sub >>> 2).setWidth 3).toNat).toNat = 0xEF) ∧
    Met (fun s _ v => ownOps (past s v) v = [] ∧ sget v.g.h ((v.f.sub >>> 2).setWidth 3).toNat = 0xFE ∧ hasDebug v.s v.g.ctx = true) :=
  ⟨met (byStrand placed) fStrand (by decide +kernel), met (byStrand (bankctl (vregs [(8, 4)] placed))) fStrand (by decide +kernel),
    met (byStrand (bankctl (vregs [(8, 1)] placed))) fStrand (by decide +kernel),
    met (byStrand (withStores 1 (.strand 2) (bankctl (vregs [(8, 1)] placed)))) fStrand (by decide +kernel),
    met (byStrand placed) fStrand (by decide +kernel), met (byStrand (vregs [(8, 1)] (asked strandAsks placed))) fStrand (by decide +kernel),
    met (byStrand (withStores 1 (.strand 2) placed)) { fStrand with c := 0x8 } (by decide +kernel),
    met (byStrand (withStores 1 (.strand 2) placed)) { fStrand with c := 0 } (by decide +kernel),
    met (byStrand (inGroup (fun g => { g with h := [(0, 0xEF)] }) placed)) { fStrand with c := 0x1A } (by decide +kernel),
    met (byStrand (inGroup (fun g => { g with h := [(0, 0xFE)] }) placed)) { fStrand with c := 0x1A } (by decide +kernel)⟩

theorem witness_InvalidationDrops : getCtx placed 1 = some placeContext := by decide +kernel

def awaiting : Pend := { dst := [(.v 4, 7), (.p 1, 1)], leaf := 4, flags := 9, ovf := 1, cause := 77 }

/-- A strand waits for v4, for v4 and v5 of which one is still to come, for v5, or for nothing. -/
theorem witness_ResultDelivery : ∀ e ∈ ([(.stalled (.result 4 [.v 4]), [], true), (.stalled (.result 4 [.v 4, .v 5]), [{ awaiting with dst := [(.v 5, 0)] }], false),
      (.stalled (.result 4 [.v 5]), [], false), (.ready, [], false)] : List (Run × List Pend × Bool)),
    ∃ g t, getGroup (inStrand (fun t => { t with pend := awaiting :: e.2.1, ovfcnt := 0xFFFFFFFF, run := e.1 }) placed) 1 = some g ∧
      getThread g (.strand 2) = some t ∧ t.pend = awaiting :: e.2.1 ∧ waitedFor t awaiting (e.2.1 ++ g.pilot.pend) = e.2.2 ∧ g.wf = true ∧
      (awaiting.dst.map (·.1)).Nodup ∧ ∀ n, RegId.s n ∉ awaiting.dst.map (·.1) := by
  intro e h
  simp only [List.mem_cons, List.not_mem_nil, or_false] at h
  rcases h with rfl | rfl | rfl | rfl <;> exact ⟨_, _, rfl, rfl, rfl, by decide +kernel, by decide +kernel, by decide, by simp [awaiting]⟩

/-- A channel of one slot of 64 bytes whose first bank is bank 1. -/
def aChannel : W64 := 0x100004001

def held : OutFault :=
  { tag := 1, kind := 0, granule := 0, write := false, access := 0, level := 0, addr := 0, wake := 0, stamp := 0, count := 1, inRing := false }

theorem witness_banks_and_rings :
    Met (fun _ _ v => hasBankctl v = true ∧ readB v 32 < 2 ^ v.g.modes.length ∧ v.f.sub.setWidth 2 = (0 : BitVec 2) ∧
      ∃ i ∈ (List.range v.g.modes.length).filter (readB v 32).testBit, v.g.modes.getD i .scratch = .fifo ∧ chanBank v.g i = true) ∧
    (∃ c, getCtx (inContext (fun c => { c with faults := [held], sys := [(0x218, 0x10)] }) placed) 1 = some c ∧
      c.faults.find? (fun f => !f.inRing) = some held ∧
      ringRoom (inContext (fun c => { c with faults := [held], sys := [(0x218, 0x10)] }) placed) 1 = true) ∧
    (∃ c, getCtx (inContext (fun c => { c with faults := [held] }) placed) 1 = some c ∧ c.faults.find? (fun f => !f.inRing) = some held ∧
      ringRoom (inContext (fun c => { c with faults := [held] }) placed) 1 = false) :=
  ⟨met (byStrand (inGroup (fun g => { g with chans := [(0, aChannel)] }) (bankctl (vregs [(8, 3)] placed)))) fStrand (by decide +kernel),
    ⟨_, rfl, rfl, by decide +kernel⟩, ⟨_, rfl, rfl, by decide +kernel⟩⟩

/-! ### System registers, sessions, counters, launches -/

/-- SYSRD and SYSWR of register n, in strand code. -/
def fReg (n : Nat) : Fields := { fStrand with b := BitVec.ofNat 10 n, c := BitVec.ofNat 10 (n / 1024) }
def noDebug (s : State) : State := inContext (fun c => { c with debug := false }) s
def debugB (s : State) (v : View) : Bool := decide (0x400 ≤ srn v ∧ srn v ≤ 0x408 ∧ hasDebug s v.g.ctx = false)

theorem debugOnly_iff (s : State) (v : View) : debugOnly s v ↔ debugB s v = true := by simp [debugOnly, debugB]

theorem witness_SystemRegisterReads :
    Met (fun s _ v => debugB s v = true ∧ srn v = 0x400) ∧ Met (fun s _ v => debugB s v = true ∧ srn v = 0x408) ∧
    Met (fun s _ v => debugB s v = false ∧ srn v = 0x409) ∧ Met (fun s _ v => debugB s v = false ∧ srn v = 0x3FF) ∧
    ((0x200 : Nat) < 0x300 ∧ (0x200 : Nat) ≠ 0x21B) ∧ 0x506 ≤ (0x506 : Nat) :=
  ⟨met (byStrand (noDebug placed)) (fReg 0x400) (by decide +kernel), met (byStrand (noDebug placed)) (fReg 0x408) (by decide +kernel),
    met (byStrand (noDebug placed)) (fReg 0x409) (by decide +kernel), met (byStrand (noDebug placed)) (fReg 0x3FF) (by decide +kernel),
    by decide, by decide⟩

theorem witness_SystemRegisterWrites :
    Met (fun s _ v => debugB s v = false ∧ srn v = 0x100) ∧ Met (fun s _ v => debugB s v = false ∧ srn v = 0x1FF) ∧
    Met (fun s _ v => debugB s v = false ∧ srn v = 0xFF) ∧ Met (fun s _ v => debugB s v = false ∧ srn v = 0x505) ∧
    Met (fun s _ v => debugB s v = false ∧ srn v = 0x506) ∧
    Met (fun s _ v => debugB s v = false ∧ srn v = 0x2FF ∧ ctxRegMask (srn v) = 0) ∧
    Met (fun s _ v => debugB s v = false ∧ 0x200 ≤ srn v ∧ srn v < 0x300 ∧ srn v ≠ 0x21B ∧ ctxRegMask (srn v) ≠ 0 ∧ srn v = 0x200 ∧
      ∃ c, getCtx s v.g.ctx = some c ∧ swf c.sys = true ∧ swf s.mem = true) ∧
    (∃ c, slotCtx placed 0 0 = some c ∧ getCtx placed c.num = some c ∧ writable (0x200 + (0x15 : BitVec 8).toNat) ∧ swf c.sys = true ∧
      swf placed.mem = true) := by
  refine ⟨met (byStrand placed) (fReg 0x100) (by decide +kernel), met (byStrand placed) (fReg 0x1FF) (by decide +kernel),
    met (byStrand placed) (fReg 0xFF) (by decide +kernel), met (byStrand placed) (fReg 0x505) (by decide +kernel),
    met (byStrand placed) (fReg 0x506) (by decide +kernel), met (byStrand placed) (fReg 0x2FF) (by decide +kernel), ?_, ?_⟩
  · obtain ⟨s, f, v, h, hp⟩ := met (p := fun s _ v => debugB s v = false ∧ srn v = 0x200 ∧ ctxRegMask (srn v) ≠ 0 ∧
        getCtx s v.g.ctx = some placeContext ∧ swf s.mem = true) (byStrand placed) (fReg 0x200) (by decide +kernel)
    exact ⟨s, f, v, h, hp.1, by omega, by omega, by omega, hp.2.2.1, hp.2.1, placeContext, hp.2.2.2.1, by decide +kernel, hp.2.2.2.2⟩
  · exact ⟨placeContext, by decide +kernel, by decide +kernel, ⟨by decide, by decide, by decide, by decide +kernel⟩, by decide +kernel, by decide +kernel⟩

theorem witness_ChronAndLog :
    Met (fun _ f v => (f.sub.setWidth 2).toNat < v.g.vals.logfilt.toNat) ∧
    Met (fun s f v => v.g.vals.logfilt.toNat ≤ (f.sub.setWidth 2).toNat ∧ (getUnit s (4 * coreOf v.g v.who)).buf.length < 16 ∧
      (getUnit s (4 * coreOf v.g v.who)).drops.all (· == 0) = true) :=
  ⟨met (byStrand (inGroup (fun g => { g with vals := { g.vals with logfilt := 1 } }) placed)) fStrand (by decide +kernel),
    met (byStrand placed) fStrand (by decide +kernel)⟩

/-- A session of context 1, with its values of B and C in registers 8 and 10. -/
def session : Session :=
  { func := 0, ctx := 1, buf := 0x300000, run := 0x1F, ovf := 5, ovfen := 3, sel := 0, xsel := 0, plans := [], loaded := true, counts := [],
    results := [], held := none, planned := false }
def inSession (b c : W64) (s : State) : State := sregs [(8, b), (10, c)] { s with sessions := [session] }
def owned (s : State) (v : View) : Bool := (ownSession s v.g.ctx).isSome

theorem witness_CounterSessions :
    Met (fun s _ v => ownSession s v.g.ctx = none ∧ funcSession s (ctxFunc s v.g.ctx) = none ∧ readB v 32 = 0 ∧ readC v 64 % 4096 = 0 ∧
      inMain (readC v 64) 0x80000 = true) ∧
    Met (fun s _ v => funcSession s (ctxFunc s v.g.ctx) = none ∧ readB v 32 = 0 ∧ readC v 64 % 4096 = 0 ∧ inMain (readC v 64) 0x80000 = false) ∧
    Met (fun s _ v => (funcSession s (ctxFunc s v.g.ctx)).isSome = true ∧ owned s v = true ∧ readB v 32 = 0 ∧ readC v 64 = 0) ∧
    Met (fun s _ v => owned s v = true ∧ readB v 32 = 0 ∧ readC v 64 = 2 ^ 9) ∧ Met (fun s _ v => owned s v = true ∧ readB v 32 = 0 ∧ readC v 64 = 2 ^ 10) ∧
    Met (fun s _ v => owned s v = true ∧ readB v 32 = 16) ∧ Met (fun s _ v => owned s v = true ∧ readB v 32 = 8) ∧
    Met (fun s _ v => owned s v = true ∧ readB v 32 = 7 ∧ readC v 64 < 2 ^ 12 ∧ selOk 7 (readC v 64) = false) ∧
    Met (fun s _ v => owned s v = true ∧ readB v 32 = 3 ∧ readC v 64 < 2 ^ 12 ∧ selOk 3 (readC v 64) = true) ∧
    Met (fun s _ v => owned s v = true ∧ readB v 32 = 4 ∧ readC v 64 < 2 ^ 12 ∧ selOk 4 (readC v 64) = true) ∧
    Met (fun s _ v => owned s v = true ∧ readB v 32 = 0 ∧ readC v 64 = 2 ^ 9 - 1) ∧ Met (fun s _ v => owned s v = true ∧ readB v 32 = 0 ∧ readC v 64 = 2 ^ 10 - 1) ∧
    Met (fun s _ v => owned s v = true ∧ readB v 32 = 15 ∧ readC v 64 < 2 ^ 48 ∧ ∀ k < 4, selOk k (readC v 64 / 2 ^ (12 * k) % 2 ^ 12) = true) ∧
    Met (fun s _ v => owned s v = true ∧ readB v 32 = 15 ∧ readC v 64 < 2 ^ 48 ∧ ∃ k < 4, selOk k (readC v 64 / 2 ^ (12 * k) % 2 ^ 12) = false) :=
  ⟨met (byPilot (sregs [(10, 0x300000)] placed)) fPilot (by decide +kernel), met (byPilot (sregs [(10, 0xBFFFF81000)] placed)) fPilot (by decide +kernel),
    met (byPilot (inSession 0 0 placed)) fPilot (by decide +kernel), met (byPilot (inSession 0 0x200 placed)) fPilot (by decide +kernel),
    met (byPilot (inSession 0 0x400 placed)) fPilot (by decide +kernel), met (byPilot (inSession 16 0 placed)) fPilot (by decide +kernel),
    met (byPilot (inSession 8 0 placed)) fPilot (by decide +kernel), met (byPilot (inSession 7 0xFFF placed)) fPilot (by decide +kernel),
    met (byPilot (inSession 3 0 placed)) fPilot (by decide +kernel), met (byPilot (inSession 4 0 placed)) fPilot (by decide +kernel),
    met (byPilot (inSession 0 0x1FF placed)) fPilot (by decide +kernel), met (byPilot (inSession 0 0x3FF placed)) fPilot (by decide +kernel),
    met (byPilot (inSession 15 0 placed)) fPilot (by decide +kernel), met (byPilot (inSession 15 0xFFFFFFFFFFFF placed)) fPilot (by decide +kernel)⟩

theorem witness_TriggerCounters :
    Met (fun s _ v => ownQueued (past s v) v = true) ∧ Met (fun s _ v => ownQueued (past s v) v = false) ∧
    (∃ c, slotCtx placed 0 0 = some c ∧ 255 < 256) ∧
    (∃ c, getCtx placed 1 = some c ∧ swf c.trig = true ∧ placed.kernels.all (fun k => !(k.ctx == 1 && k.pkt.trig && k.pkt.trigix == 0)) = true) :=
  ⟨met (byPilot (withStores 1 .pilot placed)) fPilot (by decide +kernel), met (byPilot placed) fPilot (by decide +kernel),
    ⟨_, rfl, by decide⟩, ⟨_, rfl, by decide +kernel, by decide +kernel⟩⟩

/-- Queue 3 of context 1, with w packets in a ring of 16. -/
def aQueue (st : QState) (cfg : W64) (w : W32) : Queue :=
  { ctx := 1, q := 3, cfg := cfg, tickets := 0, wridx := w, rdidx := 0, qst := st, err := 0, errix := 0, drainTo := 0, resetting := false, guard := 0 }
def queueing (off : W64) (q : Queue) (s : State) : State := sregs [(6, off), (8, 3)] { s with queues := [q] }
def queueOf (s : State) (v : View) : Queue := queueOfCtx s v.g.ctx (readB v 32 % 256)
def launchReads (s : State) (v : View) : Bool :=
  match resolve (past s v) v (sget v.g.h (v.f.sub.setWidth 3).toNat ++ BitVec.ofNat 64 (readA v 64)) .read 128 with
  | (.mem _ pa, u) => match placeOf u pa with | .main => true | _ => false
  | _ => false

theorem witness_LaunchPacket :
    Met (fun _ _ v => readA v 64 = 127) ∧ Met (fun s _ v => readA v 64 = 0 ∧ (queueOf s v).qst = .disabled) ∧
    Met (fun s _ v => readA v 64 = 128 ∧ (queueOf s v).qst = .enabled ∧ (queueOf s v).cfg.getLsbD 7 = true ∧ v.g.priv = false) ∧
    Met (fun s _ v => readA v 64 = 128 ∧ (queueOf s v).qst = .suspended ∧ (queueOf s v).cfg.getLsbD 7 = true ∧ v.g.priv = true ∧
      ((queueOf s v).wridx - (queueOf s v).rdidx).toNat = ringPackets (queueOf s v)) ∧
    Met (fun s _ v => readA v 64 = 128 ∧ (queueOf s v).qst = .enabled ∧ (queueOf s v).cfg.getLsbD 7 = false ∧
      ((queueOf s v).wridx - (queueOf s v).rdidx).toNat + 1 = ringPackets (queueOf s v) ∧ ownQueued (past s v) v = false ∧ launchReads s v = true) :=
  ⟨met (byPilot (sregs [(6, 127)] placed)) fPilot (by decide +kernel), met (byPilot (queueing 0 (aQueue .disabled 0x300000 0) placed)) fPilot (by decide +kernel),
    met (byPilot (inGroup (fun g => { g with priv := false }) (queueing 128 (aQueue .enabled 0x300080 0) placed))) fPilot (by decide +kernel),
    met (byPilot (queueing 128 (aQueue .suspended 0x300080 16) placed)) fPilot (by decide +kernel),
    met (byPilot (queueing 128 (aQueue .enabled 0x300000 15) placed)) fPilot (by decide +kernel)⟩

/-! ### Barriers and semaphores -/

/-- The executor of a concrete issue. -/
def viewOf (s : State) (f : Fields) : View :=
  match viewsOf s f with
  | some [v] => v
  | _ => { s := s, g := placeGroup, who := .pilot, t := placeGroup.pilot, f := f }

def soloB (s : State) (f : Fields) : Bool :=
  match viewsOf s f with
  | some [v] => v.g.wf && guardTrue v && !skipping v
  | _ => false

theorem met_at {p : State → Fields → View → Prop} (s : State) (f : Fields) (h : soloB s f = true) (hp : p s f (viewOf s f)) : Met p := by
  unfold soloB at h
  split at h
  · next v hv =>
    simp only [Bool.and_eq_true, Bool.not_eq_true'] at h
    have : viewOf s f = v := by unfold viewOf; rw [hv]
    exact ⟨s, f, v, ⟨hv, h.1.1, h.1.2, h.2⟩, this ▸ hp⟩
  · exact absurd h (by decide)

/-- Token, handle and configuration in the registers of the pilot. -/
def barAt (tok h c : W64) (s : State) : State := byPilot (sregs [(6, tok), (8, h), (10, c)] s)
def gridsync (s : State) : State := { s with kernels := s.kernels.map fun k => { k with desc := k.desc.map fun d => { d with kflags := 1 } } }

theorem witness_BarrierHandles :
    Met (fun _ _ v => ¬ legalHandle (handle v) ∧ handle v = 16 * 16) ∧ Met (fun _ _ v => ¬ legalHandle (handle v) ∧ handle v = 1) ∧
    Met (fun _ _ v => legalHandle (handle v) ∧ (handle v).getLsbD 3 = true ∧ ¬ hasGridsync v) ∧
    Met (fun _ _ v => legalHandle (handle v) ∧ (handle v).getLsbD 3 = true ∧ hasGridsync v ∧ v.who ≠ .pilot) ∧
    Met (fun _ _ v => legalHandle (handle v) ∧ (handle v).getLsbD 3 = true ∧ hasGridsync v ∧ v.who = .pilot ∧
      (((handle v).setWidth 3).toNat ≠ 4 ∨ ((handle v) >>> 4).setWidth 10 ≠ (0 : BitVec 10))) := by
  refine ⟨met_at (barAt 0 0x100 1 placed) fPilot (by decide +kernel) ?_, met_at (barAt 0 1 1 placed) fPilot (by decide +kernel) ?_,
    met_at (barAt 0 12 1 placed) fPilot (by decide +kernel) ?_, met_at (byStrand (vregs [(8, 12)] (gridsync placed))) fStrand (by decide +kernel) ?_,
    met_at (barAt 0 11 1 (gridsync placed)) fPilot (by decide +kernel) ?_⟩
  · unfold legalHandle; decide +kernel
  · unfold legalHandle; decide +kernel
  · refine ⟨by unfold legalHandle; decide +kernel, by decide +kernel, ?_⟩
    rintro ⟨k, d, hk, hd, h⟩
    have hk' : kernelOf (viewOf (barAt 0 12 1 placed) fPilot) = some placeKernel := by decide +kernel
    rw [hk] at hk'
    cases hk'
    cases hd
    exact absurd h (by decide)
  · exact ⟨by unfold legalHandle; decide +kernel, by decide +kernel, ⟨_, _, rfl, rfl, rfl⟩, by decide +kernel⟩
  · exact ⟨by unfold legalHandle; decide +kernel, by decide +kernel, ⟨_, _, rfl, rfl, rfl⟩, by decide +kernel, by decide +kernel⟩

theorem partiesFull_iff (s : State) (v : View) : partiesFull s v ↔
    (match getCtx s v.g.ctx with
      | some c => decide (32 ≤ (c.barriers.filter fun b => b.parties.any fun p => p.rank == s.rank && p.gid == v.g.gid).length)
      | none => false) = true := by
  unfold partiesFull
  cases getCtx s v.g.ctx <;> simp

/-- The pilot's membership and its group's party; another group's; an object of level 2 of one party. -/
def member (g : Nat) : Member := { rank := 0, gid := g, lin := 0, who := .pilot, arrived := false, waiter := false, exited := false }
def party (g : Nat) : Party := { rank := 0, gid := g, lin := 0, core := 0, stamp := 3, lphase := 4, wake := 55, desched := false }
def barrier (n : W64) (ms : List Member) (ps : List Party) : Barrier :=
  { key := keyOf placeGroup .pilot 2, kid := none, cfg := n, bst := .collecting, phase := 3, wpend := 0, opened := 2, members := ms,
    parties := ps, lateLogged := false, made := 4, lost := false, remoteHome := false }
def withBarrier (b : Barrier) (s : State) : State := inContext (fun c => { c with barriers := [b] }) s

/-- 32 objects in which the group has a party. -/
def crowded (l : List Barrier) (s : State) : State :=
  inContext (fun c => { c with barriers := l ++ (List.range 32).map fun n =>
    { barrier 1 [] [party 1] with key := { level := 0, num := n, inst := 0, grid := false } } }) s

/-- The handle is legal and names no grid barrier, and the configuration is legal. -/
def Good (s : State) (v : View) : Prop :=
  legalHandle (handle v) ∧ (handle v).getLsbD 3 = false ∧
    ((handle v).setWidth 3 = (5 : BitVec 3) → ((handle v) >>> 36).setWidth 12 = s.rank) ∧ legalConfig ((handle v).setWidth 3).toNat (config v)

theorem witness_BarrierInstructions_registration :
    Met (fun s _ v => legalHandle (handle v) ∧ (handle v).getLsbD 3 = false ∧
      ((handle v).setWidth 3 = (5 : BitVec 3) → ((handle v) >>> 36).setWidth 12 = s.rank) ∧ ¬ legalConfig ((handle v).setWidth 3).toNat (config v)) ∧
    Met (fun s _ v => Good s v ∧ findBar s v.g.ctx (object v) = none ∧ ¬ partiesFull s v) ∧
    Met (fun s _ v => Good s v ∧ findBar s v.g.ctx (object v) = none ∧ partiesFull s v) ∧
    Met (fun s _ v => Good s v ∧ findBar s v.g.ctx (object v) = some { barrier 1 [] [] with bst := .failed }) ∧
    Met (fun s _ v => Good s v ∧ findBar s v.g.ctx (object v) = some (barrier 0x1000001 [] []) ∧ (0x1000001 : W64) >>> 16 ≠ config v >>> 16) ∧
    Met (fun s _ v => Good s v ∧ findBar s v.g.ctx (object v) = some (barrier 1 [member 1] [party 1]) ∧ ownMembers s v (barrier 1 [member 1] [party 1]) ∧
      (1 : W64) >>> 16 = config v >>> 16 ∧ (barrier 1 [member 1] [party 1]).members.any (isMe s v) = true) ∧
    Met (fun s _ v => Good s v ∧ findBar s v.g.ctx (object v) = some (barrier 1 [member 2] [party 2]) ∧ ownMembers s v (barrier 1 [member 2] [party 2]) ∧
      (1 : W64) >>> 16 = config v >>> 16 ∧ (barrier 1 [member 2] [party 2]).members.any (isMe s v) = false ∧ ¬ hasParty s v (barrier 1 [member 2] [party 2])) ∧
    Met (fun s _ v => Good s v ∧ findBar s v.g.ctx (object v) = some (barrier 2 [] []) ∧ ownMembers s v (barrier 2 [] []) ∧
      (2 : W64) >>> 16 = config v >>> 16 ∧ (barrier 2 [] []).members.any (isMe s v) = false ∧ ¬ hasParty s v (barrier 2 [] []) ∧ partiesFull s v) ∧
    Met (fun s _ v => Good s v ∧ findBar s v.g.ctx (object v) = some (barrier 2 [] []) ∧ ownMembers s v (barrier 2 [] []) ∧
      (2 : W64) >>> 16 = config v >>> 16 ∧ (barrier 2 [] []).members.any (isMe s v) = false ∧ ¬ hasParty s v (barrier 2 [] []) ∧ ¬ partiesFull s v) := by
  refine ⟨met_at (barAt 3 2 0x101 placed) fPilot (by decide +kernel) ?_, met_at (barAt 3 2 1 placed) fPilot (by decide +kernel) ?_,
    met_at (barAt 3 2 1 (crowded [] placed)) fPilot (by decide +kernel) ?_,
    met_at (barAt 3 2 1 (withBarrier { barrier 1 [] [] with bst := .failed } placed)) fPilot (by decide +kernel) ?_,
    met_at (barAt 3 2 1 (withBarrier (barrier 0x1000001 [] []) placed)) fPilot (by decide +kernel) ?_,
    met_at (barAt 3 2 1 (withBarrier (barrier 1 [member 1] [party 1]) placed)) fPilot (by decide +kernel) ?_,
    met_at (barAt 3 2 1 (withBarrier (barrier 1 [member 2] [party 2]) placed)) fPilot (by decide +kernel) ?_,
    met_at (barAt 3 2 1 (crowded [barrier 2 [] []] placed)) fPilot (by decide +kernel) ?_,
    met_at (barAt 3 2 1 (withBarrier (barrier 2 [] []) placed)) fPilot (by decide +kernel) ?_⟩ <;>
  simp only [Good, legalHandle, legalConfig, partiesFull_iff, ownMembers, hasParty] <;> decide +kernel

/-- An object of the executor, with a phase that its token names, or that has passed. -/
def mine (p : BitVec 16) (st : BState) (a w : Bool) (n : W64) (wp : Nat) : Barrier :=
  { barrier n [{ member 1 with arrived := a, waiter := w }] [party 1] with phase := p, bst := st, wpend := wp }

/-- Every other party has arrived. -/
def othersDone : Barrier := barrier 2 [member 1, { member 2 with arrived := true }] [party 1, party 2]

/-- The object that the executor's handle names is `b`, and the executor is the member `m` of it, alone. -/
def Mine (s : State) (v : View) (b : Barrier) (m : Member) : Prop :=
  legalHandle (handle v) ∧ (handle v).getLsbD 3 = false ∧
    ((handle v).setWidth 3 = (5 : BitVec 3) → ((handle v) >>> 36).setWidth 12 = s.rank) ∧ findBar s v.g.ctx (object v) = some b ∧ b.key = object v ∧
    ownMembers s v b ∧ b.members.filter (isMe s v) = [m]

theorem witness_BarrierInstructions_phases :
    Met (fun s _ v => Mine s v (mine 3 .collecting true false 1 0) { member 1 with arrived := true } ∧ ownQueued (past s v) v = false) ∧
    Met (fun s _ v => Mine s v (mine 3 .collecting false false 2 0) (member 1) ∧ ownQueued (past s v) v = false ∧
      ¬ complete (arrived s v (mine 3 .collecting false false 2 0) 0) ∧ ¬ passed 3 (token v) ∧ token v = 3) ∧
    Met (fun s _ v => Mine s v (mine 3 .collecting false false 1 0) (member 1) ∧ ownQueued (past s v) v = false ∧
      complete (arrived s v (mine 3 .collecting false false 1 0) 0)) ∧
    Met (fun s _ v => Mine s v (mine 4 .releasing false true 1 1) { member 1 with waiter := true } ∧ passed 4 (token v) ∧ token v = 3) ∧
    Met (fun s _ v => Mine s v (mine 0x8002 .collecting false false 1 0) (member 1) ∧ passed 0x8002 (token v) ∧ token v = 3) ∧
    Met (fun s _ v => Mine s v (mine 0x8003 .collecting false false 1 0) (member 1) ∧ ¬ passed 0x8003 (token v) ∧ token v ≠ 0x8003) ∧
    Met (fun s _ v => Mine s v (mine 3 .collecting false false 1 0) (member 1) ∧ (((dropped s v (mine 3 .collecting false false 1 0) 0).cfg).setWidth 16).toNat = 0) ∧
    Met (fun s _ v => Mine s v (mine 3 .collecting false false 3 0) (member 1) ∧ (((dropped s v (mine 3 .collecting false false 3 0) 0).cfg).setWidth 16).toNat ≠ 0 ∧
      ¬ complete (dropped s v (mine 3 .collecting false false 3 0) 0)) ∧
    Met (fun s _ v => Mine s v othersDone (member 1) ∧ complete (dropped s v othersDone 0) ∧ (((dropped s v othersDone 0).cfg).setWidth 16).toNat ≠ 0) ∧
    Met (fun s _ v => (findBar s v.g.ctx (object v) = none) ∧ legalHandle (handle v) ∧ ownQueued (past s v) v = true) := by
  refine ⟨met_at (barAt 3 2 1 (withBarrier (mine 3 .collecting true false 1 0) placed)) fPilot (by decide +kernel) ?_,
    met_at (barAt 3 2 1 (withBarrier (mine 3 .collecting false false 2 0) placed)) fPilot (by decide +kernel) ?_,
    met_at (barAt 3 2 1 (withBarrier (mine 3 .collecting false false 1 0) placed)) fPilot (by decide +kernel) ?_,
    met_at (barAt 3 2 1 (withBarrier (mine 4 .releasing false true 1 1) placed)) fPilot (by decide +kernel) ?_,
    met_at (barAt 3 2 1 (withBarrier (mine 0x8002 .collecting false false 1 0) placed)) fPilot (by decide +kernel) ?_,
    met_at (barAt 3 2 1 (withBarrier (mine 0x8003 .collecting false false 1 0) placed)) fPilot (by decide +kernel) ?_,
    met_at (barAt 3 2 1 (withBarrier (mine 3 .collecting false false 1 0) placed)) fPilot (by decide +kernel) ?_,
    met_at (barAt 3 2 1 (withBarrier (mine 3 .collecting false false 3 0) placed)) fPilot (by decide +kernel) ?_,
    met_at (barAt 3 2 1 (withBarrier othersDone placed)) fPilot (by decide +kernel) ?_,
    met_at (barAt 3 2 1 (withStores 1 .pilot placed)) fPilot (by decide +kernel) ?_⟩ <;>
  simp only [Mine, legalHandle, ownMembers, complete, passed] <;> decide +kernel

/-- An object of another device's handle at this device, and a request of device 3. -/
def request (ask : BarAsk) (n : Nat) : BarrierPacket :=
  { ctx := 1, key := { level := 5, num := n, inst := 0, grid := false }, rank := 3, core := 0, gid := 9, group := 7, who := .pilot, ask := ask, tag := 6, wake := 5 }
def remoteObject (st : BState) : Barrier := { barrier 1 [] [] with key := (request .arrive 0).key, bst := st, remoteHome := true }

/-- All ports UP with credits; a packet from device 3 to this one. -/
def linked (s : State) : State := { s with ports := s.ports.map fun q => { q with lst := .up, credits := [64, 64, 64, 64] } }
def packet (t : PacketType) : Packet := { pkt0 placed 0 t 0 1 7 with srank := 3 }

/-- A late party of an object that opened at 10 and waits 5 ns. -/
def lateObject : Barrier := { barrier 0x5000001 [member 1] [party 1] with opened := 10 }

theorem witness_BarrierPhases :
    (∃ c, getCtx placed 1 = some c) ∧ ∀ p ∈ [party 1, party 2], p.rank = placed.rank := ⟨⟨_, rfl⟩, by decide +kernel⟩

/-- The home's object of the requests of device 3: its pilot's membership and its group's party, in phase 2. -/
def homeObject (cfg : W64) : Barrier :=
  { barrier cfg [{ rank := 3, gid := 9, lin := 7, who := .pilot, arrived := false, waiter := false, exited := false }]
      [{ party 9 with rank := 3, lin := 7 }] with key := (request .arrive 0).key, phase := 2 }

theorem witness_BarrierPackets :
    let s (b : Barrier) := withBarrier b placed
    let me (m : Member) : Bool := decide (m.rank = 3 ∧ m.gid = 9) && decide (m.who = .pilot)
    takesPackets placed 1 = true ∧ takesPackets placed 2 = false ∧
    (∀ cfg ∈ ([1, 2, 0x10001] : List W64), findBar (s (homeObject cfg)) 1 (request .arrive 0).key = some (homeObject cfg) ∧
      (homeObject cfg).key = (request .arrive 0).key ∧ (homeObject cfg).bst = .collecting ∧
      (∃ m, (homeObject cfg).members.find? me = some m ∧ m.arrived = false ∧ m.lin = (request .arrive 0).group ∧ m.waiter = false) ∧
      (homeObject cfg).members.any me = true ∧ (homeObject cfg).parties.any (fun q => decide (q.rank = 3 ∧ q.gid = 9)) = true) ∧
    passed 2 1 ∧ ¬ passed 2 2 ∧ ¬ passed 2 3 ∧ (homeObject 1).cfg.getLsbD 16 = false ∧ (homeObject 0x10001).cfg.getLsbD 16 = true ∧
    complete { homeObject 1 with members := (homeObject 1).members.map fun m => { m with arrived := true } } ∧
    ¬ complete { homeObject 2 with members := (homeObject 2).members.map fun m => { m with arrived := true } } ∧
    (request .arrive 0).rank ≠ placed.rank ∧ (request .arrive 0).tag ≠ postedTag := by
  simp only [passed, complete]
  refine ⟨by decide +kernel, by decide +kernel, fun cfg h => ?_, by decide +kernel⟩
  simp only [List.mem_cons, List.not_mem_nil, or_false] at h
  rcases h with rfl | rfl | rfl <;> exact ⟨rfl, rfl, rfl, ⟨_, rfl, rfl, rfl, rfl⟩, rfl, rfl⟩

theorem witness_BarrierEvents :
    (findBar placed 1 (request (.register 1 false) 0).key = none ∧ legalConfig 5 1 ∧ legalConfig 5 65535) ∧
    (∃ b, findBar (withBarrier (remoteObject .releasing) placed) 1 (request .arrive 0).key = some b ∧ b.bst ≠ .collecting) ∧
    (request .drop 0).rank ≠ placed.rank ∧
    (∃ u b, receive (withBarrier (remoteObject .collecting) (linked placed)) 0 (packet .barCtl) = (true, u) ∧
      findBar u 1 { level := 5, num := 0, inst := 0, grid := false } = some b ∧ b.remoteHome = true) ∧
    (let s := { withBarrier lateObject placed with chron := { placed.chron with ns := 15 }, mgmt := { placed.mgmt with autofix := false } }
     s.mgmt.autofix = false ∧ findBar s 1 lateObject.key = some lateObject ∧ lateObject.bst ≠ .failed ∧ lateObject.cfg >>> 24 ≠ 0 ∧
      lateObject.lateLogged = false ∧ lateObject.remoteHome = false ∧ lateObject.parties = [party 1] ∧ (lateObject.cfg.setWidth 16).toNat = 1 ∧
      partyArrived lateObject (party 1) = false ∧ lateObject.opened.toNat + (lateObject.cfg >>> 24).toNat ≤ s.chron.ns.toNat ∧
      (party 1).stamp.toNat + (lateObject.cfg >>> 24).toNat ≤ s.chron.ns.toNat) ∧
    (∃ c, getCtx (inContext (fun c => { c with sys := [(0x220, 2)] }) placed) 1 = some c ∧
      (ctxReg (inContext (fun c => { c with sys := [(0x220, 2)] }) placed) 1 0x220).setWidth 24 ≠ (0 : BitVec 24) ∧
      bearLost (inContext (fun c => { c with sys := [(0x220, 2)] }) placed) c = []) := by
  refine ⟨?_, ⟨_, rfl, by decide⟩, by decide +kernel, ⟨_, _, rfl, rfl, rfl⟩, by decide +kernel, ⟨_, rfl, by decide +kernel, by decide +kernel⟩⟩
  unfold legalConfig; decide +kernel

/-- The semaphore word at 0x4000 holds 3; the executor waits first, waits not, is alone. -/
def waiter (w : Who) : SemWaiter := { rank := 0, lin := 0, core := 0, t := { gid := 1, who := w }, units := 2, stamp := 5, tag := 9 }
def sem (l : List SemWaiter) : Sem :=
  { pa := placeBase + 0x4000, va := 0x4000, waiters := l, holders := [], drops := 0, opened := 4, made := 1, lost := false }
def semState (n : W32) (l : List Sem) : State :=
  byStrand (vregs [(8, 0x4000), (10, n)] (inContext (fun c => { c with sems := l }) { placed with mem := ssets placed.mem (placeBase + 0x4000) (toBytes 8 3) }))

/-- The word that the executor's semaphore holds. -/
def semWord (s : State) (v : View) : Option (Nat × Nat) :=
  match resolve (past s v) v (semAddress v) .rmw 8 with
  | (.mem _ pa, u) => if pa < apertureBase then some (pa, ofBytes (wideRead (tagged u v) (coreOf v.g v.who) pa 8).1) else none
  | _ => none
def semv (s : State) (v : View) : Bool :=
  match resolve (releasing (past s v) v (semScope v)) v (semAddress v) .rmw 8 with
  | (.mem _ pa, _) => decide (pa < apertureBase)
  | _ => false

theorem witness_Semaphores :
    Met (fun s _ v => ownQueued (past s v) v = true) ∧
    Met (fun s _ v => ownQueued (past s v) v = false ∧ ((semAddress v).setWidth 64).toNat % 8 = 7) ∧
    Met (fun s _ v => ownQueued (past s v) v = false ∧ ((semAddress v).setWidth 64).toNat % 8 = 0 ∧ semWord s v = some (placeBase + 0x4000, 3) ∧
      semAt s v.g.ctx (placeBase + 0x4000) = none ∧ readC v 64 = 3 ∧ semv s v = true) ∧
    Met (fun s _ v => ownQueued (past s v) v = false ∧ semWord s v = some (placeBase + 0x4000, 3) ∧
      semAt s v.g.ctx (placeBase + 0x4000) = none ∧ readC v 64 = 4 ∧ v.f.sub.getLsbD 6 = true) ∧
    Met (fun s _ v => ownQueued (past s v) v = false ∧ semWord s v = some (placeBase + 0x4000, 3) ∧
      semAt s v.g.ctx (placeBase + 0x4000) = none ∧ readC v 64 = 4 ∧ v.f.sub.getLsbD 6 = false) ∧
    Met (fun s _ v => ownQueued (past s v) v = false ∧ semWord s v = some (placeBase + 0x4000, 3) ∧
      semAt s v.g.ctx (placeBase + 0x4000) = some (sem [waiter (.strand 2), waiter .pilot]) ∧ readC v 64 = 3 ∧ vid v = (waiter (.strand 2)).t ∧
      (∀ y ∈ [waiter .pilot], y.t ≠ vid v)) ∧
    Met (fun s _ v => ownQueued (past s v) v = false ∧ semWord s v = some (placeBase + 0x4000, 3) ∧
      semAt s v.g.ctx (placeBase + 0x4000) = some (sem [waiter (.strand 2)]) ∧ readC v 64 = 3 ∧ vid v = (waiter (.strand 2)).t) ∧
    Met (fun s _ v => ownQueued (past s v) v = false ∧ semWord s v = some (placeBase + 0x4000, 3) ∧
      semAt s v.g.ctx (placeBase + 0x4000) = some (sem [waiter .pilot]) ∧ (∀ y ∈ [waiter .pilot], y.t ≠ vid v) ∧ v.f.sub.getLsbD 6 = false ∧
      semv s v = true) ∧
    (∃ g t, getGroup (inPilot (fun t => { t with run := .parked (.semp 0x2004000) }) placed) 1 = some g ∧ getThread g .pilot = some t ∧
      t.run = .parked (.semp 0x2004000)) :=
  ⟨met (withStores 1 (.strand 2) (semState 3 [])) fStrand (by decide +kernel),
    met (vregs [(8, 0x4007)] (semState 3 [])) fStrand (by decide +kernel), met (semState 3 []) fStrand (by decide +kernel),
    met (semState 4 []) { fStrand with sub := 0x40 } (by decide +kernel), met (semState 4 []) fStrand (by decide +kernel),
    met (semState 3 [sem [waiter (.strand 2), waiter .pilot]]) fStrand (by decide +kernel), met (semState 3 [sem [waiter (.strand 2)]]) fStrand (by decide +kernel),
    met (semState 3 [sem [waiter .pilot]]) fStrand (by decide +kernel), _, _, rfl, rfl, rfl⟩

/-! ### Capsules -/

/-- A record at 0x4000 and a mailbox at 0x5000; words of the record; the state of the issuing strand. -/
def recPa : Nat := placeBase + 0x4000
def recordState (ws : List W64) (mbox : Nat) (cap : Option Capsule) : State :=
  byStrand (vregs [(6, 0x4000), (8, 0x5000)] (inStrand (fun t => { t with caps := cap })
    { placed with
      chron := { placed.chron with ns := 5000 }
      mem := ssets (ssets placed.mem recPa (ws.flatMap fun w => toBytes 8 w.toNat)) (placeBase + 0x5000) (toBytes 8 7 ++ toBytes 8 mbox) }))
def own : W64 := BitVec.ofNat 64 (0x200000 / 4096 * 2 ^ 24 + 2 * 2 ^ 10 + 1)
def inCapsule (step count : Nat) (m : CapMode) : Option Capsule :=
  some { record := recPa, va := 0x4000, mode := m, x := [5, 0, 0, 0, 0, 0, 0, 0], step := step, start := 0, count := count, stores := 0, intents := [], path := 0 }

/-- The access of a record or of a mailbox reaches main memory. -/
def capReaches (s : State) (v : View) (va : BitVec 72) (n : Nat) : Option (Nat × State) :=
  match resolve s v va .rmw n with
  | (.mem _ pa, u) => if (va.setWidth 64).toNat % n = 0 ∧ inMain pa n = true then some (pa, u) else none
  | _ => none

theorem capReaches_of {s u : State} {v : View} {va : BitVec 72} {n pa : Nat} (h : capReaches s v va n = some (pa, u)) : CapReaches s v va n pa u := by
  unfold capReaches at h
  split at h
  · next leaf pa' u' hr =>
    split at h
    · next hc =>
      cases h
      exact ⟨hc.1, hc.2, leaf, hr⟩
    · cases h
  · cases h

/-- The tests of R348, R350 and R346 on a record, as truth values. -/
def decRejected (s : State) (pa : Nat) : Decidable (rejected s pa) := by unfold rejected; infer_instance
def decAdoptable (s : State) (pa : Nat) : Decidable (adoptable s pa) := by unfold adoptable; infer_instance
def decOwns (s : State) (v : View) (k pa : Nat) : Decidable (owns s v k pa) := by unfold owns; infer_instance
def rejectedB (s : State) (pa : Nat) : Bool := @decide _ (decRejected s pa)
def adoptableB (s : State) (pa : Nat) : Bool := @decide _ (decAdoptable s pa)
def ownsB (s : State) (v : View) (k pa : Nat) : Bool := @decide _ (decOwns s v k pa)
theorem rejectedB_iff (s : State) (pa : Nat) : rejectedB s pa = true ↔ rejected s pa := @decide_eq_true_iff _ (decRejected s pa)
theorem adoptableB_iff (s : State) (pa : Nat) : adoptableB s pa = true ↔ adoptable s pa := @decide_eq_true_iff _ (decAdoptable s pa)
theorem ownsB_iff (s : State) (v : View) (k pa : Nat) : ownsB s v k pa = true ↔ owns s v k pa := @decide_eq_true_iff _ (decOwns s v k pa)

/-- The record and the mailbox that CAPOPEN reaches meet a condition; the record that CAPADOPT and CAPRES reach does. -/
def opensB (s : State) (v : View) (p : State → Nat → Bool) : Bool :=
  match capReaches (past s v) v (capAddress v (readA v 64)) 256 with
  | some (pa, u) => match capReaches u v (capAddress v (readB v 64)) 16 with
    | some (pm, w) => !ownQueued w v && p (atHome (atHome w v pa 256) v pm 16) pa
    | none => false
  | none => false
def adoptsB (s : State) (v : View) (n : Nat) (p : State → Nat → Bool) : Bool :=
  match capReaches (past s v) v (capAddress v (readA v 64)) n with
  | some (pa, u) => !ownQueued u v && p (if n = 256 then atHome u v pa n else u) pa
  | none => false
/-- The record and the mailbox are reached, and stores of the strand are queued. -/
def lateB (s : State) (v : View) : Bool :=
  match capReaches (past s v) v (capAddress v (readA v 64)) 256 with
  | some (_, u) => ownQueued u v && swf u.mem && (match capReaches u v (capAddress v (readB v 64)) 16 with | some (_, w) => ownQueued w v | none => false)
  | none => false

def roomB (v : View) : Bool := decide ((v.g.strands.filter fun t => t.caps.isSome).length < 64)
def stateOf (s : State) (pa : Nat) : Nat := bits (recWord s pa 1) 63 62

/-- A free record, a held one, one that may be adopted, and one that the unit rejects. -/
def freeRecord : List W64 := []
def heldRecord : List W64 := [99, word1 1 0 2 0 7 0 7, 8 + 8 + 32, 0x40]
def leftRecord : List W64 := [99, word1 1 1 2 0 7 0 7, 8 + 32, 0x40]
def badRecord : List W64 := [0, word1 1 0 0 0 7 0 7]

theorem witness_CapsuleAcquisition :
    Met (fun _ _ v => v.who = .strand 2 ∧ ((capAddress v (readA v 64)).setWidth 64).toNat % 256 = 255) ∧
    Met (fun s _ v => v.who = .strand 2 ∧ roomB v && lateB s v) ∧
    Met (fun s _ v => opensB s v (fun w pa => !roomB v && !rejectedB w pa) = true) ∧
    Met (fun s _ v => opensB s v (fun w pa => roomB v && rejectedB w pa) = true) ∧
    Met (fun s _ v => opensB s v (fun w pa => roomB v && !rejectedB w pa && stateOf w pa != 0 && adoptableB w pa) = true) ∧
    Met (fun s _ v => opensB s v (fun w pa => roomB v && !rejectedB w pa && stateOf w pa != 0 && !adoptableB w pa) = true) ∧
    Met (fun s _ v => opensB s v (fun w pa => roomB v && !rejectedB w pa && stateOf w pa == 0 && capN v == 5) = true) ∧
    Met (fun s _ v => adoptsB s v 256 (fun w pa => roomB v && swf w.mem && rejectedB w pa) = true) ∧
    Met (fun s _ v => adoptsB s v 256 (fun w pa => roomB v && swf w.mem && !rejectedB w pa && stateOf w pa == 0) = true) ∧
    Met (fun s f v => adoptsB s v 256 (fun w pa => roomB v && swf w.mem && !rejectedB w pa && stateOf w pa != 0 && adoptableB w pa &&
      recWord w pa 2 == v.t.pc + 8 + 4 * (f.c ++ f.b).signExtend 64 && bits (recWord w pa 4) 63 56 == (codeReachOf v.g v.t).toNat) = true) ∧
    Met (fun s f v => adoptsB s v 256 (fun w pa => roomB v && swf w.mem && !rejectedB w pa && stateOf w pa != 0 && adoptableB w pa &&
      recWord w pa 2 != v.t.pc + 8 + 4 * (f.c ++ f.b).signExtend 64) = true) :=
  ⟨met (byStrand (vregs [(6, 0x40FF)] placed)) fStrand (by decide +kernel),
    met (withStores 1 (.strand 2) (recordState freeRecord 0 none)) fStrand (by decide +kernel), met (inGroup (fun g => { g with
      strands := g.strands ++ List.replicate 64 { Thread.fresh with caps := inCapsule 0 0 .inside } }) (recordState freeRecord 0 none)) fStrand (by decide +kernel),
    met (recordState badRecord 0 none) fStrand (by decide +kernel), met (recordState leftRecord 0 none) fStrand (by decide +kernel),
    met (recordState heldRecord 0 none) fStrand (by decide +kernel), met (recordState freeRecord 0 none) { fStrand with sub := 0x28 } (by decide +kernel),
    met (recordState badRecord 0 none) fStrand (by decide +kernel), met (recordState freeRecord 0 none) fStrand (by decide +kernel),
    met (recordState leftRecord 0 none) { fStrand with b := 8, c := 0 } (by decide +kernel),
    met (recordState leftRecord 0 none) { fStrand with b := 8, c := 1 } (by decide +kernel)⟩

/-- A strand inside a capsule, whose record is its own, or another's. -/
def inside' (s : State) (v : View) (p : Capsule → Bool) : Bool :=
  match v.t.caps with
  | some c => c.mode == .inside && v.who == .strand 2 && c.record == recPa && !ownQueued (past s v) v && p c
  | none => false
def ownRecord (state step : Nat) : List W64 := [own, word1 state 0 step 0 7 0 7, 8, 0x40, BitVec.ofNat 64 (placeBase + 0x5000)]

theorem witness_CapsuleSteps :
    Met (fun _ _ v => v.who = .strand 2 ∧ v.t.caps = none) ∧
    (∃ s f v, viewsOf s f = some [v] ∧ v.g.wf = true ∧ guardTrue v = true ∧ v.who = .strand 2 ∧ ∃ c, v.t.caps = some c ∧ c.mode = .skip) ∧
    Met (fun s _ v => v.who = .strand 2 ∧ ownQueued (past s v) v = true ∧
      v.t.caps.any (fun c => c.mode == .inside && c.step == 7 && c.count == 1) = true) ∧
    Met (fun s _ v => inside' s v (fun c => c.step == 8) = true) ∧
    Met (fun s _ v => inside' s v (fun c => c.step == 7 && !ownsB s v 2 recPa) = true) ∧
    Met (fun s _ v => inside' s v (fun c => c.step == 7 && ownsB s v 2 recPa && bits (recWord s recPa 1) 59 56 == 7 && bits (recWord s recPa 1) 55 55 == 0 &&
      capN v == 6) = true) ∧
    Met (fun s _ v => inside' s v (fun c => c.count == 2) = true) ∧ Met (fun s _ v => inside' s v (fun c => c.step == 0) = true) ∧
    Met (fun s _ v => inside' s v (fun c => c.count == 1 && c.step == 1 && !ownsB s v 2 recPa) = true) ∧
    Met (fun s _ v => inside' s v (fun c => c.count == 1 && c.step == 1 && ownsB s v 2 recPa && stateOf s recPa == 1) = true) ∧
    Met (fun s _ v => inside' s v (fun c => c.count == 1 && c.step == 1 && ownsB s v 2 recPa && stateOf s recPa == 2 &&
      bits (recWord s recPa 4) 51 4 * 16 == recPa + 0x1000 && !poisoned (releasing (past s v) v 4) (recPa + 0x1000) 16) = true) ∧
    Met (fun s _ v => inside' s v (fun c => c.count == 1 && c.step == 1 && ownsB s v 2 recPa && stateOf s recPa == 2 &&
      bits (recWord s recPa 4) 51 4 * 16 == recPa + 0x1000 && poisoned (releasing (past s v) v 4) (recPa + 0x1000) 16) = true) ∧
    Met (fun s _ v => adoptsB s v 16 (fun u pa => ofBytes ((wideRead u (coreOf v.g v.who) pa 16).1.drop 8) == 2 ^ 63 - 1) = true) ∧
    Met (fun s _ v => adoptsB s v 16 (fun u pa => ofBytes ((wideRead u (coreOf v.g v.who) pa 16).1.drop 8) == 2 ^ 63) = true) :=
  ⟨met (byStrand placed) fStrand (by decide +kernel),
    ⟨recordState [] 0 (inCapsule 1 0 .skip), fStrand, _, rfl, by decide +kernel, by decide +kernel, rfl, _, rfl, rfl⟩,
    met (withStores 1 (.strand 2) (recordState [] 0 (inCapsule 7 1 .inside))) fStrand (by decide +kernel),
    met (recordState [] 0 (inCapsule 8 0 .inside)) fStrand (by decide +kernel), met (recordState [] 0 (inCapsule 7 0 .inside)) fStrand (by decide +kernel),
    met (recordState (ownRecord 1 7) 0 (inCapsule 7 0 .inside)) { fStrand with sub := 0x30 } (by decide +kernel),
    met (recordState [] 0 (inCapsule 1 2 .inside)) fStrand (by decide +kernel), met (recordState [] 0 (inCapsule 0 0 .inside)) fStrand (by decide +kernel),
    met (recordState [] 0 (inCapsule 1 1 .inside)) fStrand (by decide +kernel), met (recordState (ownRecord 1 1) 0 (inCapsule 1 1 .inside)) fStrand (by decide +kernel),
    met (recordState (ownRecord 2 1) 0 (inCapsule 1 1 .inside)) fStrand (by decide +kernel),
    met ({ recordState (ownRecord 2 1) 0 (inCapsule 1 1 .inside) with poison := [0x200500] }) fStrand (by decide +kernel),
    met (vregs [(6, 0x5000)] (recordState [] (2 ^ 63 - 1) none)) fStrand (by decide +kernel),
    met (vregs [(6, 0x5000)] (recordState [] (2 ^ 63) none)) fStrand (by decide +kernel)⟩

/-! ### Engines -/

/-- An operation of the group on an engine; a held tile; a channel. -/
def engineOp (e : Engine) (op : BitVec 9) (seq : W32) (blk : List W64) : EngineOp :=
  { gid := 1, eng := e, op := op, seq := seq, blk := blk, started := false, stall := none, failed := none, carry := none, sent := false, since := 0 }
def queuing (l : List EngineOp) (s : State) : State := { s with engineQ := l }
def holding (s : State) : State := inGroup (fun g => { g with accMap := [{ logical := 0, phys := 0, pool := false }] }) s

/-- Some operation of a list meets a condition, and the conditions of R374 up to a point. -/
def soundB (s : State) (v : View) (e : Case) : Bool := e.fmts.all fun k => !formatPoisoned s v.g.ctx k
def tilesB (v : View) (e : Case) : Bool := e.tiles.all (holdsTile v.g)
def chansB (v : View) (e : Case) : Bool := e.chans.all fun c => v.g.chans.any fun x => x.1 == c

theorem witness_EngineIssue :
    Met (fun s f v => v.who = .pilot ∧ (cases f s v).any (fun e => !soundB s v e) = true) ∧
    Met (fun s f v => v.who = .pilot ∧ (cases f s v).any (fun e => soundB s v e && e.tiles == [0] && !tilesB v e) = true) ∧
    Met (fun s f v => v.who = .pilot ∧ (cases f s v).any (fun e => soundB s v e && tilesB v e && e.chans == [0] && !chansB v e) = true) ∧
    Met (fun s f v => v.who = .pilot ∧ (cases f s v).any (fun e => soundB s v e && tilesB v e && chansB v e && (firstReject e.checks).isSome) = true) ∧
    Met (fun s f v => v.who = .pilot ∧ s.convoys = [] ∧ ownQueued (past s v) v = true ∧
      (reckonerCases f s v).any (fun e => (firstReject e.checks).isNone) = true) ∧
    Met (fun s f v => v.who = .pilot ∧ s.convoys = [] ∧ ownQueued (past s v) v = false ∧ (engQueue (past s v) 0 .reckoner).length = 32 ∧
      (reckonerCases f s v).any (fun e => (firstReject e.checks).isNone) = true) ∧
    Met (fun s f v => v.who = .pilot ∧ s.convoys = [] ∧ ownQueued (past s v) v = false ∧ (engQueue (past s v) 0 .reckoner).length = 31 ∧
      (reckonerCases f s v).any (fun e => (firstReject e.checks).isNone) = true) :=
  ⟨met (byPilot (sregs [(10, 2 ^ 35)] { placed with poison := [0x10100] })) fPilot (by decide +kernel), met (byPilot placed) fPilot (by decide +kernel),
    met (byPilot (sregs [(10, 2 ^ 36)] (holding placed))) fPilot (by decide +kernel), met (byPilot (holding placed)) fPilot (by decide +kernel),
    met (byPilot (withStores 1 .pilot placed)) fPilot (by decide +kernel),
    met (byPilot (queuing (List.replicate 32 (engineOp .reckoner 0x1EE 0 [])) placed)) fPilot (by decide +kernel),
    met (byPilot (queuing (List.replicate 31 (engineOp .reckoner 0x1EE 0 [])) placed)) fPilot (by decide +kernel)⟩

/-- The sequence numbers of the matrix engine: retired, and the first failure. -/
def retiredAt (n : W32) (q : Option FirstFail) (s : State) : State := inGroup (fun g => { g with mat := { g.mat with retired := n, first := q } }) s
def behind (v : View) : Bool := decide (2 ^ 31 ≤ ((getEng v.g .matrix).retired - (BitVec.ofNat 64 (readA v 64)).setWidth 32).toNat)

theorem witness_EngineWaitsAndChannels :
    Met (fun _ _ v => v.who = .pilot ∧ readA v 64 = 2 ^ 63) ∧ Met (fun _ _ v => v.who = .pilot ∧ readA v 64 = 2 ^ 63 - 1 - 3 * 2 ^ 32) ∧
    Met (fun _ _ v => v.who = .pilot ∧ readA v 64 = 2 ^ 32 + 1 ∧ behind v = true) ∧
    Met (fun _ _ v => v.who = .pilot ∧ readA v 64 = 2 ^ 32 + 1 ∧ behind v = false ∧ (getEng v.g .matrix).first = none) ∧
    Met (fun _ _ v => v.who = .pilot ∧ readA v 64 = 2 ^ 32 + 1 ∧ behind v = false ∧
      (getEng v.g .matrix).first = some { status := 3, detail := 0, seq := 1 }) ∧
    Met (fun _ _ v => v.who = .pilot ∧ (∃ c ∈ v.g.chans, c.1 = readB v 32 % 16)) ∧
    Met (fun _ _ v => v.who = .pilot ∧ (∀ c ∈ v.g.chans, c.1 ≠ readB v 32 % 16) ∧ readA v 64 = 0) ∧
    Met (fun s _ v => v.who = .pilot ∧ (∀ c ∈ v.g.chans, c.1 ≠ readB v 32 % 16) ∧ readA v 64 = 0x100004001 ∧ v.g.modes = [.scratch, .fifo] ∧
      chanBank v.g 1 = false ∧ chanBusy s v.g.gid 0 = false) ∧
    Met (fun s _ v => v.who = .pilot ∧ chanBusy s v.g.gid (readB v 32 % 16) = true) :=
  ⟨met (byPilot (sregs [(6, 0x8000000000000000)] placed)) fPilot (by decide +kernel), met (byPilot (sregs [(6, 0x7FFFFFFCFFFFFFFF)] placed)) fPilot (by decide +kernel),
    met (byPilot (sregs [(6, 0x100000001)] (retiredAt 0 none placed))) fPilot (by decide +kernel),
    met (byPilot (sregs [(6, 0x100000001)] (retiredAt 1 none placed))) fPilot (by decide +kernel),
    met (byPilot (sregs [(6, 0x100000001)] (retiredAt 1 (some { status := 3, detail := 0, seq := 1 }) placed))) fPilot (by decide +kernel),
    met (byPilot (inGroup (fun g => { g with chans := [(0, aChannel)] }) placed)) fPilot (by decide +kernel), met (byPilot placed) fPilot (by decide +kernel),
    met (byPilot (sregs [(6, 0x100004001)] placed)) fPilot (by decide +kernel),
    met (byPilot (queuing [engineOp .matrix 0x1E0 1 [0, 0, 0, 0, 2 ^ 36, 0, 0, 0]] placed)) fPilot (by decide +kernel)⟩

/-- The group has an allocation for its tiles' save, or its context has room for one. -/
def withExt (s : State) : State := inGroup (fun g => { g with ext := some 0x180000 }) s
/-- An older group of the kernel waits for tiles on the same core. -/
def olderWaiting (s : State) : State :=
  let s := inGroup (fun g => { g with lin := 1 }) s
  { s with groups := s.groups ++ [{ placeGroup with gid := 2, lin := 0, pilot := { placeGroup.pilot with run := .parked (.accalloc 1 4 8) } }] }
def savesize (n : Nat) (s : State) : State := inContext (fun c => { c with savesize := n }) s
def canSave (s : State) (v : View) : Bool := (allocSave (past s v) v.g.ctx ((32 - v.g.shape.acc) * 65536)).isSome

theorem witness_AccumulatorTiles :
    Met (fun s _ v => v.who = .pilot ∧ v.g.accGone = [3] ∧ s.engineQ = []) ∧
    Met (fun s _ v => v.who = .pilot ∧ v.g.accGone = [] ∧ s.engineQ = [] ∧ readB v 32 = 0) ∧
    Met (fun s _ v => v.who = .pilot ∧ v.g.accGone = [] ∧ s.engineQ = [] ∧ readB v 32 = 2 ^ 31 ∧ v.g.accMap = [] ∧ v.g.shape.acc = 0 ∧ v.g.ext = none ∧
      canSave s v = false) ∧
    Met (fun s _ v => v.who = .pilot ∧ v.g.accGone = [] ∧ s.engineQ = [] ∧ readB v 32 = 2 ^ 31 ∧ v.g.ext = none ∧ canSave s v = true ∧
      freePool (past s v) 0 = 32) ∧
    Met (fun s _ v => v.who = .pilot ∧ v.g.accGone = [] ∧ s.engineQ = [] ∧ readB v 32 = 2 ^ 32 - 1 ∧ v.g.ext ≠ none ∧ freePool (past s v) 0 = 32) ∧
    Met (fun s _ v => v.who = .pilot ∧ v.g.accGone = [] ∧ s.engineQ = [] ∧ readB v 32 = 3 ∧ v.g.ext ≠ none ∧ freePool (past s v) 0 = 1) ∧
    Met (fun s _ v => v.who = .pilot ∧ v.g.accGone = [] ∧ s.engineQ = [] ∧ readB v 32 = 3 ∧ v.g.ext ≠ none ∧ v.g.accMap ≠ [] ∧ v.f.sub.getLsbD 0 = false ∧
      (engGroups (past s v) 0).any (fun h => older (past s v) h v.g && (match h.pilot.run with | .parked (.accalloc _ _ _) => true | _ => false)) = true) ∧
    (∃ g, getGroup (queuing [engineOp .matrix 0x1E4 0 [7]] placed) 1 = some g ∧ g.gst = .running ∧
      atHead (queuing [engineOp .matrix 0x1E4 0 [7]] placed) 1 .matrix (engineOp .matrix 0x1E4 0 [(7 : W32).setWidth 64])) :=
  ⟨met (byPilot (inGroup (fun g => { g with accGone := [3] }) placed)) fPilot (by decide +kernel), met (byPilot placed) fPilot (by decide +kernel),
    met (byPilot (sregs [(8, 0x80000000)] (savesize 0 placed))) fPilot (by decide +kernel),
    met (byPilot (sregs [(8, 0x80000000)] (savesize 0x400000 placed))) fPilot (by decide +kernel),
    met (byPilot (sregs [(8, 0xFFFFFFFF)] (withExt placed))) fPilot (by decide +kernel),
    met (byPilot (sregs [(8, 3)] (withExt (inGroup (fun g => { g with accMap := (List.range 31).map fun n => { logical := n + 1, phys := n, pool := true } }) placed))))
      fPilot (by decide +kernel),
    met (byPilot (sregs [(8, 3)] (withExt (holding (olderWaiting placed))))) fPilot (by decide +kernel), ⟨_, rfl, rfl, rfl⟩⟩

theorem witness_EngineOperations :
    (∀ b : Bool, ∃ g, getGroup (queuing [{ engineOp .matrix 0x1E0 1 [] with started := b }] placed) 1 = some g ∧ g.gst = .running ∧
      atHead (queuing [{ engineOp .matrix 0x1E0 1 [] with started := b }] placed) 1 .matrix { engineOp .matrix 0x1E0 1 [] with started := b }) ∧
    (opChans (engineOp .matrix 0x1E0 1 [])) = ([], []) ∧ (∀ banks, placeGroup.pilot.run ≠ .stalled (.bankSwitch banks)) ∧
    (opChans (engineOp .matrix 0x1E0 1 [0, 0, 0, 0, 2 ^ 36])).1 = [0] ∧ chanFull placeGroup 0 = false ∧
    (let g := { placeGroup with chans := [(0, aChannel)], pilot := { placeGroup.pilot with run := .stalled (.bankSwitch [1]) } }
     g.pilot.run = .stalled (.bankSwitch [1]) ∧ [1].any (opBank placed g (engineOp .matrix 0x1E0 1 [0, 0, 0, 0, 2 ^ 36])) = true) := by
  refine ⟨fun b => ⟨_, rfl, rfl, by cases b <;> rfl⟩, by decide +kernel, fun _ h => Run.noConfusion h, by decide +kernel, by decide +kernel, rfl,
    by decide +kernel⟩

theorem witness_MatrixProducts :
    let a : MRow := { elems := List.replicate 8 (some { v := .fin false 2, snan := false }), scales := [] }
    (∃ s m, (mmaElem .f64 0 0 0 a a (.fin false 0) false).1 = .fin s m) ∧ (classG .f64).getD 1 = 1 ∧
    (∃ s m, a.elems.getD 0 none = some { v := .fin s m, snan := false }) := by
  refine ⟨⟨_, _, rfl⟩, by decide +kernel, _, _, rfl⟩

/-! ### Convoys -/

/-- A member of a convoy at a position; a packet of segment 0; the convoy of the kernel, of two members, or of one. -/
def rider (pos gid : Nat) : ConvoyMember :=
  { pos := pos, gid := gid, seg := 0, scanBuf := [], softBuf := [], out := [], barArr := true, csb := 64, ended := false }
def carried : CarryPkt := { seg := 0, failed := false, size := 64, data := [1, 2, 3] }
def convoy (st : CvState) (l : List ConvoyMember) : Convoy := { kid := 1, cvst := st, back := .sealed, len := l.length, members := l }
def inConvoy (st : CvState) (l : List ConvoyMember) (s : State) : State := { s with convoys := [convoy st l] }

theorem witness_CarryNetwork :
    Met (fun s _ v => v.who = .pilot ∧ ∃ o ∈ s.engineQ, o.gid = v.g.gid ∧ o.op = 0x1EE) ∧
    Met (fun s _ v => v.who = .pilot ∧ s.engineQ = [] ∧ convoyOfKernel s v.g.kid = none) ∧
    Met (fun s _ v => v.who = .pilot ∧ s.engineQ = [] ∧ convoyOfKernel s v.g.kid = some (convoy .broken [rider 0 1]) ∧
      convoyDead (convoy .broken [rider 0 1]) = true ∧ convoyDead (convoy .sealed [rider 0 1]) = false) ∧
    (∀ nb : Bool, Met (fun s f v => v.who = .pilot ∧ s.engineQ = [] ∧ f.sub.getLsbD 0 = nb ∧
      convoyOfKernel s v.g.kid = some (convoy .running [{ rider 0 1 with softBuf := [carried, carried, carried, carried] }]) ∧
      carryRoom (convoy .running [{ rider 0 1 with softBuf := [carried, carried, carried, carried] }]) 0 true 1 = false)) ∧
    Met (fun s _ v => v.who = .pilot ∧ s.engineQ = [] ∧ convoyOfKernel s v.g.kid = some (convoy .sealed [rider 0 1]) ∧
      carryRoom (convoy .sealed [rider 0 1]) 0 true 1 = true ∧ ownQueued (past s v) v = false) ∧
    Met (fun s _ v => v.who = .pilot ∧ s.engineQ = [] ∧ convoyOfKernel s v.g.kid = some (convoy .sealed [rider 0 1]) ∧ ownQueued (past s v) v = true) ∧
    Met (fun s _ v => v.who = .pilot ∧ s.engineQ = [] ∧ convoyOfKernel s v.g.kid = some (convoy .running [{ rider 0 1 with softBuf := [carried] }]) ∧
      [carried].find? (fun p => p.seg == (0 : BitVec 16)) = some carried) ∧
    (let c := convoy .running [rider 0 1, rider 1 2]
     convoyOfKernel (inConvoy .running [rider 0 1, rider 1 2] placed) 1 = some c ∧ c.members.length = c.len ∧ (∃ m ∈ c.members, m.ended = false) ∧ (∀ m ∈ c.members, m.barArr = true) ∧
      (c.members.map (·.pos)).Nodup ∧ (c.members.map (·.gid)).Nodup) ∧
    (∀ soft : Bool, (convoy .running [{ rider 0 1 with out := [(soft, carried)] }, rider 1 2]).members.length = 2 ∧
      [(soft, carried)].find? (fun o => o.1 == soft) = some (soft, carried) ∧ (if soft then ([] : List CarryPkt).length < 4 else ([] : List CarryPkt).length < 8)) ∧
    (let c := convoy .forming [rider 0 1, { rider 1 2 with ended := true }]
     convoyOfKernel (inConvoy .forming [rider 0 1, { rider 1 2 with ended := true }] placed) 1 = some c ∧ c.back ≠ .forming ∧ c.members.length = c.len ∧
      ∃ g, getGroup placed 1 = some g ∧ onCore g = true) :=
  ⟨met (byPilot (queuing [engineOp .reckoner 0x1EE 0 []] placed)) fPilot (by decide +kernel), met (byPilot placed) fPilot (by decide +kernel),
    met (byPilot (inConvoy .broken [rider 0 1] placed)) fPilot (by decide +kernel),
    fun nb => met (byPilot (inConvoy .running [{ rider 0 1 with softBuf := [carried, carried, carried, carried] }] placed))
      { fPilot with sub := if nb then 1 else 0 } (by cases nb <;> decide +kernel),
    met (byPilot (inConvoy .sealed [rider 0 1] placed)) fPilot (by decide +kernel),
    met (byPilot (withStores 1 .pilot (inConvoy .sealed [rider 0 1] placed))) fPilot (by decide +kernel),
    met (byPilot (inConvoy .running [{ rider 0 1 with softBuf := [carried] }] placed)) fPilot (by decide +kernel),
    by decide +kernel, fun soft => by cases soft <;> decide +kernel, by decide +kernel, by decide +kernel, by decide +kernel, _, rfl, rfl⟩

/-! ### Faults, contexts and worlds -/

def faulting (s : State) : State := inContext (fun c => { c with faults := [held] }) s
def replaying (pass passes : Nat) (s : State) : State :=
  inGroup (fun g => { g with gst := .retired }) { s with
    kernels := s.kernels.map fun k => { k with
      pkt := { k.pkt with gridx := 1, gridy := 1, gridz := 1 }, ended := 1, pass := pass, desc := k.desc.map fun d => { d with kflags := 16, passes := passes } } }

/-- An executor has waited n slots in partition 0 of core 0. -/
def waited (n : Nat) (s : State) : State :=
  { s with gangs := [{ unit := 0, gid := 1, entry := { kid := 1, pc := 0, cap := false }, inRow := 0, leave := 0, waits := [(⟨1, .strand 2⟩, n)] }] }

theorem witness_FaultsAndReplay :
    (∃ c, getCtx (faulting placed) 1 = some c ∧ c.faults.find? (fun f => f.tag == 1) = some held ∧ c.views = [] ∧ c.held = [] ∧
      (∀ f ∈ c.faults, f.tag ≠ 0) ∧ ∃ x ∈ c.faults, x.tag = 1) ∧ noVector (faulting placed) 1 ∧ noVector placed 0 ∧
    (∃ c, getCtx (inContext (fun c => { c with capturing := [0x4000] }) placed) 1 = some c ∧ (0x4000 : BitVec 72) ∈ c.capturing ∧
      frameOf { stowed with tlb := [] } 1 0 = some 0x500000 ∧ swf c.sys = true) ∧
    (∀ n ∈ [1, 2], ∃ k d, getKernel (replaying 0 n placed) 1 = some k ∧ passOver (replaying 0 n placed) k = true ∧ k.desc = some d ∧ d.passes = n ∧
      ctxReg (replaying 0 n placed) 1 0x308 = 0 ∧ (restoreWrites (planEnd (replaying 0 n placed) k k.pass) k.ctx).1 = true) ∧
    (∀ n ∈ [4095, 4096], (waited n placed).gangs.find? (fun p => p.unit == 0 * 16 + 0) = (waited n placed).gangs.head? ∧
      ((0 : Nat), (0 : Nat), (⟨1, .strand 2⟩ : ThreadId)) ∉ (waited n placed).starving) ∧
    ((0 : Nat), (0 : Nat), (⟨1, .strand 2⟩ : ThreadId)) ∈ { waited 4096 placed with starving := [(0, 0, ⟨1, .strand 2⟩)] }.starving := by
  refine ⟨⟨_, rfl, by decide +kernel, rfl, rfl, by decide +kernel, by decide +kernel⟩, by unfold noVector; decide +kernel,
    by unfold noVector; decide +kernel, ⟨_, rfl, by decide +kernel, by decide +kernel, by decide +kernel⟩, ?_, by decide +kernel, by decide +kernel⟩
  intro n hn
  simp only [List.mem_cons, List.not_mem_nil, or_false] at hn
  obtain rfl | rfl := hn <;> exact ⟨_, _, rfl, by decide +kernel, rfl, rfl, by decide +kernel, by decide +kernel⟩

/-- A free context area at 0x800000 with a save region of 64 KiB. -/
def withArea (s : State) : State := { s with mem := ssets s.mem 0x800008 (toBytes 8 0x10000) }

theorem witness_ContextCommands :
    commands placed .management ∧ commands placed (.func 0) ∧ commands placed (.func 15) ∧ goodArea (withArea placed) 0x800000 ∧
    ¬ goodArea placed 0x800000 ∧ getCtx placed 1023 = none ∧ slotCtx placed 0 63 = none ∧ (slotCtx placed 0 0).isSome = true ∧
    (∀ st ∈ [CState.created, .active, .switchedOut, .faulted, .teardown], ∃ c, getCtx (inContext (fun c => { c with cst := st }) placed) 1 = some c ∧ c.cst = st) ∧
    (∃ c, getCtx (inContext (fun c => { c with cst := .teardown }) { placed with groups := [], kernels := [] }) 1 = some c ∧
      tornDown (inContext (fun c => { c with cst := .teardown }) { placed with groups := [], kernels := [] }) c = true) := by
  have zeros : (memGet (withArea placed) (0x800000 + 0x10) 0x7F0).all (· == 0) = true := by decide +kernel
  have fields : ∀ i < 256, BitVec.ofNat 64 (memGetNat (withArea placed) (0x800000 + 0x800 + 8 * i) 8) &&&
      ~~~(BitVec.ofNat 64 (if i = 0x13 then 2 ^ 64 - 1 else ctxRegMask (0x200 + i))) = 0 := by decide +kernel
  have sound : poisoned (withArea placed) 0x800000 4096 = false := by decide +kernel
  have good : goodArea (withArea placed) 0x800000 :=
    ⟨by decide +kernel, by decide +kernel, by decide +kernel, by decide +kernel, by decide +kernel, by decide +kernel,
      fun b hb => eq_of_beq (List.all_eq_true.mp zeros b hb), sound, by decide +kernel, by decide +kernel, by decide +kernel, fields⟩
  refine ⟨⟨by decide +kernel, fun v h => by cases h⟩, ⟨by decide +kernel, fun v h => by cases h; decide +kernel⟩,
    ⟨by decide +kernel, fun v h => by cases h; decide +kernel⟩, good, ?_, by decide +kernel, by decide +kernel, by decide +kernel, ?_, _, rfl, by decide +kernel⟩
  · rintro ⟨-, -, h, -⟩
    exact h (by decide +kernel)
  · intro st hst
    exact ⟨_, rfl, rfl⟩

/-- Function 1 has a context of its own that is out. -/
def twoWorlds (s : State) : State := { s with outgoing := true, contexts := s.contexts ++ [{ contextFresh 2 1 0x900000 with cst := .switchedOut }] }

theorem witness_FatalEventsAndWorlds :
    (∀ st ∈ [CState.teardown, .faulted, .created, .active, .switchedOut], ∃ c, getCtx (inContext (fun c => { c with cst := st }) placed) 1 = some c ∧ c.cst = st) ∧
    (placed.groups.map (·.gid)).Nodup ∧ placed.funcs.map (·.num) = List.range 16 ∧ placed.outgoing = false ∧
    nextFunc { placed with kernels := [] } = none ∧ nextFunc placed = some placed.turnOf ∧
    nextFunc { placed with turnOf := 1 } = some 0 ∧ (∀ g ∈ placed.groups, ∀ c ∈ placed.contexts, c.num = g.ctx → c.func ≠ 1 ∨ c.cst ≠ .active) ∧
    (∃ c, getCtx { placed with outgoing := true, groups := [] } 1 = some c ∧ c.func = placed.turnOf ∧ c.cst = .active ∧ exclusive placed c.func = false) ∧
    (let s := inContext (fun c => if c.num = 1 then { c with cst := .switchedOut } else c) (twoWorlds placed)
     s.outgoing = true ∧ exclusive s 1 = false ∧ (∀ d ∈ s.contexts, d.func = s.turnOf → d.cst = .active → exclusive s d.func = true) ∧
      (∃ c ∈ s.contexts, c.func = 1 ∧ c.cst = .switchedOut) ∧ (s.contexts.map (·.num)).Nodup) := by
  refine ⟨fun st _ => ⟨_, rfl, rfl⟩, by decide +kernel, by decide +kernel, rfl, by decide +kernel, by decide +kernel, by decide +kernel, by decide +kernel,
    ⟨_, rfl, rfl, rfl, by decide +kernel⟩, by decide +kernel⟩

/-! ### Queues, kernels and groups -/

/-- Six table levels that map the 64 KiB page at address 0 to 0x500000, readable and writable. -/
def mapped : State :=
  { placed with
    mem := ssets ((List.range 5).foldl (fun m k => ssets m (0x400000 + 0x10000 * k) (toBytes 16 (0x410001 + 0x10000 * k))) placed.mem)
      0x450000 (toBytes 16 0x50063B)
    contexts := [{ placeContext with sys := [(0x213, 0x400000)] }], tlb := [] }

/-- The copy of the granule at 0 may finish: the walk reaches its leaf. -/
theorem witness_CaptureCopies :
    let s := inContext (fun c => { c with capturing := [0] }) mapped
    (∃ c, getCtx s 1 = some c ∧ (0 : BitVec 72) ∈ c.capturing) ∧ swf s.mem = true ∧
    (match walk s 1 0 with | .leaf l => decide (l.ea + 8 ≤ mainTop) && decide (l.pa + 65536 ≤ mainTop) | _ => false) = true ∧
    0x1000000 + 65536 ≤ mainTop :=
  ⟨⟨_, rfl, by decide +kernel⟩, by decide +kernel, by decide +kernel, by decide +kernel⟩

/-- One queue, number 3, of class EDF, and nothing taken from it. -/
def hasQueue (x : Queue) (s : State) : State := { s with queues := [x] }
def idle (s : State) : State := { s with kernels := [], groups := [] }

theorem witness_QueueStates :
    (∀ st ∈ [QState.disabled, .enabled, .suspended, .draining, .error],
      (queueOfCtx (hasQueue (aQueue st 0x300000 0) placed) 1 3).qst = st) ∧ (getCtx placed 1).isSome = true ∧
    goodQueue (aQueue .disabled 0x300C00 0) ∧ ¬ goodQueue (aQueue .disabled 0x300D00 0) ∧ ¬ goodQueue (aQueue .disabled 0x300010 0) ∧
    takenOf (hasQueue (aQueue .draining 0x300000 0) (idle placed)) 1 3 = [] ∧ (aQueue .draining 0x300000 0).rdidx = (aQueue .draining 0x300000 0).drainTo ∧
    takenOf placed 1 0 ≠ [] ∧ ¬ 2 ^ (bits (aQueue .enabled 0x300000 0).cfg 11 8 + 4) < ((16 : W32) - 0).toNat ∧
    2 ^ (bits (aQueue .enabled 0x300000 0).cfg 11 8 + 4) < ((17 : W32) - 0).toNat := by
  simp only [goodQueue]; decide +kernel

/-- A packet of one group: its bytes from 16 on, and the flags of byte 1. -/
def packetAt (flags : Byte) (s : State) : State :=
  { hasQueue (aQueue .enabled 0x300000 1) (idle s) with
    mem := ssets s.mem 0x300000 ([1, flags] ++ toBytes 14 0 ++ toBytes 4 1 ++ toBytes 2 1 ++ toBytes 2 1), nextKid := 5 }
def ringBytes (s : State) : List Byte := memGet s 0x300000 128

def launchAt (s : State) (k : Kernel) (a : W64) (x : Acc) (n : Nat) : Option Nat :=
  match launchAccess s k a x n with
  | (.ok pa _, _) => some pa
  | _ => none

/-- A kernel that waits for the word at 0x40 to reach 5, one that has ended, and one that is late. -/
def waitingKernel : Kernel := { placeKernel with kst := .waiting, pkt := { placeKernel.pkt with deps := [(0x40, 5)] } }
def endedKernel (done : W64) : Kernel := { placeKernel with kst := .completing, pkt := { placeKernel.pkt with doneaddr := done } }
def lateKernel (st : KState) : Kernel := { placeKernel with kst := st, pkt := { placeKernel.pkt with deadline := 9 } }
def onlyKernel (k : Kernel) (s : State) : State := { s with kernels := [k], groups := [] }

theorem witness_PacketsAndDependences :
    (∀ fl ∈ ([0, 4] : List Byte), (queueOfCtx (packetAt fl placed) 1 3).qst = .enabled ∧ (queueOfCtx (packetAt fl placed) 1 3).rdidx ≠ (queueOfCtx (packetAt fl placed) 1 3).wridx ∧
      takenOf (packetAt fl placed) 1 3 = [] ∧ poisoned (packetAt fl placed) 0x300000 128 = false ∧ goodPacket false false (ringBytes (packetAt fl placed)) ∧
      (packetOf (ringBytes (packetAt fl placed))).deps = []) ∧
    ¬ goodPacket false false (ringBytes (packetAt 1 placed)) ∧ poisoned { packetAt 0 placed with poison := [0x30007] } 0x300000 128 = true ∧
    (∃ k, getKernel (onlyKernel waitingKernel mapped) 1 = some k ∧ k.kst = .waiting ∧ k.pkt.deps[0]? = some (0x40, 5) ∧ 0 ∉ k.met ∧
      k.depStall = [] ∧ launchAt (onlyKernel waitingKernel mapped) k 0x40 .read 8 = some 0x500040 ∧ restMet k 0) ∧
    (∀ a ∈ ([0, 0x48] : List W64), ∃ k, getKernel (onlyKernel (endedKernel a) mapped) 1 = some k ∧ k.kst = .completing ∧ k.stall = none ∧ k.signal = none ∧
      k.pkt.doneaddr = a) ∧
    launchAt ((List.range 128).foldl (fun u c => writeBack u c fun _ => true) (onlyKernel (endedKernel 0x48) mapped)) (endedKernel 0x48) 0x48 .rmw 8 = some 0x500048 ∧
    (∀ st ∈ [KState.dispatching, .running, .queued, .waiting, .armed], ∃ k, getKernel (onlyKernel (lateKernel st) { placed with chron := { placed.chron with ns := 10 } }) 1 = some k ∧
      k.kst = st ∧ k.pkt.deadline.toNat < 10 ∧ k.late = false ∧ k.pkt.marker = false) ∧ ctxActive placed 1 = true := by
  refine ⟨?_, ?_, by decide +kernel, ⟨_, rfl, rfl, rfl, by decide +kernel, rfl, by decide +kernel, ?_⟩, ?_, by decide +kernel, ?_, by decide +kernel⟩
  · simp only [goodPacket]; decide +kernel
  · simp only [goodPacket]; decide +kernel
  · simp only [restMet]; decide +kernel
  · intro a ha
    exact ⟨_, rfl, rfl, rfl, rfl, rfl⟩
  · intro st hst
    exact ⟨_, rfl, rfl, (by decide : (9 : Nat) < 10), rfl, rfl⟩

/-- A kernel without a checked descriptor, one of an EDF queue that may be selected, one of a LOTTERY queue. -/
def uncheckedKernel : Kernel := { placeKernel with kst := .dispatching, desc := none }
def selectableKernel : Kernel := { placeKernel with kst := .armed }
def ofClass (cfg : W64) (s : State) : State := onlyKernel selectableKernel { s with queues := [{ aQueue .enabled cfg 0 with q := 0, tickets := 7 }] }

theorem witness_Arbitration :
    (onlyKernel uncheckedKernel mapped).kernels.find? unchecked = some uncheckedKernel ∧
    launchAt (onlyKernel uncheckedKernel mapped) uncheckedKernel uncheckedKernel.pkt.kdesc .read 256 = some 0x500000 ∧
    failedCheck mapped uncheckedKernel (toBytes 256 0) = some (2, 1) ∧
    failedCheck mapped { uncheckedKernel with pkt := { packetFresh with gridx := 1, gridy := 1, gridz := 1 } }
      ([1, 0, 0, 0, 8, 8, 1, 0] ++ toBytes 32 0 ++ [8] ++ toBytes 215 0) = none ∧
    (∀ cfg ∈ ([0x300000, 0x300010] : List W64), (ofClass cfg placed).kernels.find? unchecked = none ∧ launcherRequest (ofClass cfg placed) = none ∧
      opportunity (ofClass cfg placed) = true) ∧ noneLate (ofClass 0x300000 placed) ∧ edfReady (ofClass 0x300000 placed) selectableKernel ∧
    (∀ k, edfReady (ofClass 0x300000 placed) k → k = selectableKernel) ∧ (pickLottery (ofClass 0x300010 placed)).isSome = true ∧
    (∀ e, ¬ edfReady (ofClass 0x300010 placed) e) ∧ (∀ c ∈ placed.contexts, swf c.sys = true) := by
  refine ⟨by decide +kernel, by decide +kernel, ?_, ?_, ?_, ?_, ?_, ?_, by decide +kernel, ?_, by decide +kernel⟩
  · unfold failedCheck; decide +kernel
  · unfold failedCheck; decide +kernel
  · intro cfg h
    simp only [List.mem_cons, List.not_mem_nil, or_false] at h
    rcases h with rfl | rfl <;> exact ⟨by decide +kernel, by decide +kernel, by decide +kernel⟩
  · unfold noneLate; decide +kernel
  · unfold edfReady; decide +kernel
  · intro k hk
    simpa [ofClass, onlyKernel] using hk.1
  · rintro e ⟨h, -, he⟩
    have : e = selectableKernel := by simpa [ofClass, onlyKernel] using h
    subst this
    exact absurd he (by decide +kernel)

/-- Records of the kernel at a die and at a core; a kernel that has one more to deal. -/
def recordAt (n : Nat) (core : Option Nat) : Group :=
  { groupFresh n 1 1 (BitVec.ofNat 32 n) placeGroup.shape placeGroup.vals with die := some 0, pcore := core }
def dealing (k : Kernel → Kernel) (l : List Group) (s : State) : State := { s with kernels := s.kernels.map k, groups := l }
def gridOf (n : Nat) (k : Kernel) : Kernel := { k with pkt := { k.pkt with gridx := n, gridy := 1, gridz := 1 } }

theorem witness_Dealing :
    sortBy (older (dealing id [recordAt 1 none] placed))
      ((dieHeld (dealing id [recordAt 1 none] placed) 0).filter fun g => ctxPlaces (dealing id [recordAt 1 none] placed) g.ctx) = [recordAt 1 none] ∧
    dealCores (dealing id [recordAt 1 none] placed) 0 ≠ [] ∧
    (dealable (dealing (gridOf 2) [] placed) 0).isSome = true ∧ dieHeld (dealing (gridOf 2) [] placed) 0 = [] ∧
    (let s := dealing id ((List.range 3).map fun n => recordAt (n + 1) (some 5)) placed
     coreUsable s 0 = true ∧ pendingList s 0 = [] ∧ (s.groups.map (·.gid)).Nodup ∧ (pendingList s 5).length = 3 ∧
      ∀ c < 32, c ≠ 5 → pendingList s c = []) ∧
    (let s := dealing (fun k => { gridOf 1 k with kst := .dispatching, dealt := 0, desc := k.desc.map fun d => { d with kflags := 1 } }) [] placed
     ∃ k, getKernel s 1 = some k ∧ cohortWaits k = true ∧ (cohortPlan s k).isSome = true ∧ ctxPlaces s k.ctx = true ∧ k.waitLogged = false ∧
      ∀ n ∈ [0, 0x100000], let u := inContext (fun c => { c with savesize := n }) s
        (cohortPlan u k).isSome = true ∧ ((reserveCohort u k ((cohortPlan u k).getD [])).isSome = true ↔ n ≠ 0) ∧ controlPoisoned u 1 = false ∧
        controlPoisoned { u with poison := [0x10000] } 1 = true) ∧ ∀ c < 32, pendingList placed c = [] := by
  refine ⟨by decide +kernel, by decide +kernel, by decide +kernel, by decide +kernel, by decide +kernel, ⟨_, rfl, by decide +kernel, by decide +kernel,
    by decide +kernel, rfl, by decide +kernel⟩, by decide +kernel⟩

/-- The group's record at core 0 in a context with a save region, and one without; the group in a state, with nothing left to do. -/
def startable (n : Nat) (s : State) : State := savesized n (dealing (gridOf 1) [recordAt 1 (some 0)] s)
where savesized (n : Nat) (s : State) : State := inContext (fun c => { c with savesize := n }) s
def gone (st : GState) (s : State) : State :=
  inGroup (fun g => { g with gst := st, pilot := { g.pilot with run := .exited }, strands := g.strands.map fun t => { t with run := .exited } }) s

theorem witness_GroupLives :
    (∀ n ∈ [0, 0x100000], (pendingList (startable n placed) 0).find? (fun g => ctxPlaces (startable n placed) g.ctx) = some (recordAt 1 (some 0)) ∧
      canStart (startable n placed) (recordAt 1 (some 0)) 0 = true ∧ (startAt (startable n placed) (recordAt 1 (some 0)) 0).isSome = true ∧
      controlPoisoned (startable n placed) 1 = false ∧ convoyOfKernel (startable n placed) 1 = none) ∧ recordOnly (recordAt 1 (some 0)) ∧
    (allocSave (startable 0x100000 placed) 1 (recordSize placeGroup.shape)).isSome = true ∧ allocSave (startable 0 placed) 1 (recordSize placeGroup.shape) = none ∧
    controlPoisoned { startable 0 placed with poison := [0x10000] } 1 = true ∧
    (∀ dies ∈ ([[], [0]] : List (List Nat)), let s := { inGroup (fun g => { g with gst := .placing }) placed with mgmt := { placed.mgmt with hotDies := dies } }
      ∃ g k, getGroup s 1 = some g ∧ g.gst = .placing ∧ g.saved = false ∧ g.haltPend = false ∧ convoyOfKernel s g.kid = none ∧
        getKernel s g.kid = some k ∧ isCohort k = false ∧ ((∃ c ∈ g.cores, c / 32 ∈ s.mgmt.hotDies) ↔ dies ≠ []) ∧
        ∀ h ∈ s.groups, h.kid = g.kid → h.gst ≠ .saving) ∧
    (∀ st ∈ [GState.running, .draining, .saving], ∃ g, getGroup (gone st placed) 1 = some g ∧ g.gst = st ∧ g.pilot.run = .exited ∧
      (∀ x ∈ g.strands, x.run = .exited) ∧ g.stq = [] ∧ (gone st placed).engineQ = []) ∧
    (∃ g, getGroup (inGroup (fun g => { g with gst := .flushing }) placed) 1 = some g ∧ g.gst = .flushing) := by
  refine ⟨by decide +kernel, by unfold recordOnly; decide +kernel, by decide +kernel, by decide +kernel, by decide +kernel, ?_, ?_, _, rfl, rfl⟩
  · intro d h
    simp only [List.mem_cons, List.not_mem_nil, or_false] at h
    rcases h with rfl | rfl <;>
      exact ⟨_, _, rfl, rfl, rfl, rfl, by decide +kernel, rfl, by decide +kernel, by decide +kernel, by decide +kernel⟩
  intro st hst
  refine ⟨_, rfl, rfl, rfl, fun x hx => ?_, rfl, rfl⟩
  obtain ⟨y, -, rfl⟩ := List.mem_map.mp hx
  rfl

/-- A saved group, whose record's bytes stand at 0x200000. -/
def savedGroup (s : State) : State := inGroup (fun g => { g with gst := .descheduled, cores := [], saved := true }) s

theorem witness_GroupLives_restored :
    let s := savedGroup placed
    let t := { s with mem := (List.range (tailOff placeGroup.shape / 8)).foldl (fun m w =>
      match getGroup s 1 with | some g => ssets m (0x200000 + 8 * w) (imageLive s g (8 * w) 8) | none => m) s.mem }
    (∃ g, getGroup t 1 = some g ∧ g.gst = .descheduled ∧ ctxPlaces t g.ctx = true ∧ convoyOfKernel t g.kid = none ∧ g.accMap = [] ∧
      ((List.range 128).findSome? fun c => roomAt t g c).isSome = true) :=
  ⟨_, rfl, rfl, by decide +kernel, rfl, rfl, by decide +kernel⟩

theorem witness_Preemption :
    (∀ st ∈ [GState.running, .halted, .draining, .placing], ∃ g k, getGroup (inGroup (fun g => { g with gst := st }) placed) 1 = some g ∧
      getKernel placed g.kid = some k ∧ isCohort k = false ∧ g.gst = st) ∧ (placed.groups.map (·.gid)).Nodup ∧
    (∃ g, getGroup (inGroup (fun g => { g with gst := .draining, preempt := some (0, 0) }) placed) 1 = some g ∧
      ((drainBound placed g : Rat) / (7 / 4) ≤ (((2 : Nat) ^ 40 : Nat) : Rat))) ∧
    (∃ g, getGroup (inGroup (fun g => { g with gst := .saving, preempt := some (0, 5) }) placed) 1 = some g ∧ g.preempt = some (0, 5) ∧ quiet placed g = true ∧
      (∀ x ∈ g.strands, x.caps = none) ∧ convoyOfKernel placed g.kid = none) ∧
    (let s := { placed with chron := { placed.chron with ns := 6 }, engineQ := [{ engineOp .matrix 0x1E0 1 [] with stall := some 4 }] }
     0 + 5 < s.chron.ns.toNat ∧ ∃ o ∈ s.engineQ, o.gid = 1 ∧ o.stall.isSome = true) := by
  refine ⟨fun st _ => ⟨_, _, rfl, rfl, by decide +kernel, rfl⟩, by decide +kernel, ⟨_, rfl, by decide +kernel⟩, ⟨_, rfl, rfl, by decide +kernel,
    by decide +kernel, by decide +kernel⟩, by decide +kernel⟩

/-! ### Collectives -/

/-- A collective of devices 0 and 1, one group each: number 7, one chunk of 4 naturals of 32 bits at 0x4000, records at 0x8000; the
sum where op is 1, a broadcast where it is 0. -/
def descriptor (op : W64) : List W64 :=
  [0x4000, 0x8000, 2 ^ 48 + 4 * 2 ^ 32, 0x100000, 7 + op * 2 ^ 12 + 2 ^ 24, 1000 * 2 ^ 24, 0, 0]
def aMember (o : Nat) (st : BitVec 2) (gid : Option Nat) : CollMember :=
  { ordinal := o, rank := BitVec.ofNat 12 o, midx := 0, mst := st, gid := gid, group := 0, cdone := 0, jstamp := 0, wake := 0 }
def aView (st : VState) (m : BitVec 2) (status : BitVec 4) : CollView :=
  { viewFresh 7 with vst := st, gen := 5, desc := descriptor 1, members := [aMember 0 m (if m = 0 then none else some 1), aMember 1 1 none],
                     chunks := [{ chunkFresh with status := status }], heard := [(0, 0), (1, 0)] }
def viewing (l : List CollView) (s : State) : State := inContext (fun c => { c with views := l }) s
def opening (d : List W64) (s : State) : State := byPilot (sregs (d.zipIdx.map fun x => (6 + x.2, x.1)) s)

/-- The collective that the block opens may be opened, and its record area is writable. -/
def area (s : State) (v : View) : Bool :=
  (recordArea (past s v) v (blockOf v 8)).1 && !malformed (past s v) v.g.ctx (blockOf v 8) && bits ((blockOf v 8).getD 4 0) 25 24 != 0

def sees (s : State) (v : View) (id : Nat) (p : CollView → Bool) : Bool := match getView s v.g.ctx id with | some x => p x | none => false

theorem witness_CollectiveUse :
    (∀ b : Bool, Met (fun s _ v => v.who = .pilot ∧ bits ((blockOf v 8).getD 4 0) 25 24 = 0 ∧ bits ((blockOf v 8).getD 4 0) 21 16 = 0 ∧
      formatPoisoned (past s v) v.g.ctx 0 = b ∧ malformed (past s v) v.g.ctx (blockOf v 8) = true)) ∧
    (∀ st ∈ [VState.draining, .failed, .closed, .opened], Met (fun s _ v => v.who = .pilot ∧ area s v = true ∧
      ((getView s v.g.ctx 7).map (·.vst)) = some st ∧ bits ((blockOf v 8).getD 4 0) 9 0 = 7)) ∧
    Met (fun s _ v => v.who = .pilot ∧ area s v = true ∧ getView s v.g.ctx 7 = none) ∧
    (∀ m ∈ ([0, 1] : List (BitVec 2)), Met (fun s _ v => v.who = .pilot ∧ area s v = true ∧
      sees s v 7 (fun x => x.vst == .opened && x.desc == descKey (blockOf v 8) && (x.members.head?.map (·.mst)) == some m) = true)) ∧
    Met (fun s _ v => v.who = .pilot ∧ getView s v.g.ctx (readB v 32 % 1024) = none) ∧
    (∀ e ∈ [(VState.opened, (8 : BitVec 4)), (.active, 8), (.active, 2), (.failed, 8)], Met (fun s _ v => v.who = .pilot ∧
      sees s v (readB v 32 % 1024) (fun x => x.vst == e.1 && (x.members.filter fun m => m.gid == some v.g.gid && m.mst == 1) == [aMember 0 1 (some 1)] &&
        x.chunks.map (·.status) == [e.2]) = true)) := by
  refine ⟨fun b => met (opening [1] { placed with poison := if b then [0x10100] else [] }) fPilot (by cases b <;> decide +kernel), ?_, met (opening (descriptor 1) placed) fPilot (by decide +kernel), ?_,
    met (byPilot (sregs [(8, 7)] placed)) fPilot (by decide +kernel), ?_⟩
  · intro st h
    refine met (opening (descriptor 1) (viewing [aView st 0 0] placed)) fPilot ?_
    simp only [List.mem_cons, List.not_mem_nil, or_false] at h
    rcases h with rfl | rfl | rfl | rfl <;> decide +kernel
  · intro m h
    refine met (opening (descriptor 1) (viewing [aView .opened m 0] placed)) fPilot ?_
    simp only [List.mem_cons, List.not_mem_nil, or_false] at h
    rcases h with rfl | rfl <;> decide +kernel
  · intro e h
    refine met (byPilot (sregs [(8, 7)] (viewing [aView e.1 1 e.2] placed))) fPilot ?_
    simp only [List.mem_cons, List.not_mem_nil, or_false] at h
    rcases h with rfl | rfl | rfl | rfl <;> decide +kernel

/-- A packet of chunk 0 of use 5 of collective 7, from device 1. -/
def collPacket (t : PacketType) (m : CollMsg) (gen : W64) : Packet := { packet t with srank := 1, aux := 7 + gen * 2 ^ 16, msg := m }
def joinPacket (d : List W64) : Packet := { collPacket .collCtl .join 5 with payload := d.flatMap fun w => toBytes 8 w.toNat }
def arrivesB (s : State) (port : Nat) (p : Packet) : Bool :=
  (match getPort s port with | some q => q.lst == .up | none => false) && p.bad.isNone && p.drank == s.rank &&
    (match getCtx s p.ctx with | some c => c.cst == .active && c.held.isEmpty | none => false)

theorem arrives_of {s : State} {port : Nat} {p : Packet} (h : arrivesB s port p = true) : Arrives s port p := by
  simp only [arrivesB, Bool.and_eq_true] at h
  obtain ⟨⟨⟨hq, hb⟩, hr⟩, hc⟩ := h
  refine ⟨⟨?_, by simpa using hb, .inr (by simpa using hr)⟩, ?_⟩
  · cases e : getPort s port with
    | none => simp [e] at hq
    | some q => exact ⟨q, rfl, .inl (by simpa [e] using hq)⟩
  · cases e : getCtx s p.ctx with
    | none => simp [e] at hc
    | some c => simp [e] at hc; exact ⟨c, rfl, .inr (.inl hc.1), hc.2⟩

def currentB (s : State) (p : Packet) (v : CollView) : Bool :=
  getView s p.ctx (useId p) == some v && v.gen == useGen p && (v.vst == .opened || v.vst == .active) && v.stall.isNone

theorem witness_CollectivePackets :
    (∀ m ∈ [CollMsg.fail, .ack, .notice, .probe, .probeAnswer, .confirm], Arrives (viewing [aView .active 1 2] (linked placed)) 0 (collPacket .collCtl m 5) ∧
      currentB (viewing [aView .active 1 2] (linked placed)) (collPacket .collCtl m 5) (aView .active 1 2) = true ∧
      (aView .active 1 2).chunks[useChunk (collPacket .collCtl m 5)]? = some { chunkFresh with status := 2 }) ∧
    (∀ n ∈ [4, 5], ((aView .active 1 2).gen = { collPacket .collCtl .confirm 5 with opnd := BitVec.ofNat 128 n }.opnd.setWidth 16 ↔ n = 5)) ∧
    (collPacket .collCtl .notice 5).payload = [] ∧ { collPacket .collCtl .notice 5 with opinfo := 0x80000 }.opinfo.getLsbD 19 = true ∧
    (∀ d ∈ [descriptor 1, descriptor 2], arrivesB (viewing [aView .opened 1 0] (linked placed)) 0 (joinPacket d) = true ∧
      (Machine.wordsOf 8 (joinPacket d).payload).map (BitVec.ofNat 64) = d ∧ (joinPacket d).srank ∈ cRanks (aView .opened 1 0).desc ∧
      (joinPacket d).opnd.toNat % 8 < cGpr (aView .opened 1 0).desc) ∧
    (∀ gen ∈ ([4, 5, 6] : List W64), getView (viewing [aView .active 1 2] (linked placed)) 1 (useId (collPacket .collCtl .close gen)) =
      some (aView .active 1 2) ∧ ((useGen (collPacket .collCtl .close gen) - 5).toNat < 2 ^ 15 ↔ gen ≠ 4)) := by
  refine ⟨fun m h => ?_, by decide +kernel, by decide +kernel, by decide +kernel, ?_, ?_⟩
  · simp only [List.mem_cons, List.not_mem_nil, or_false] at h
    rcases h with rfl | rfl | rfl | rfl | rfl | rfl <;> exact ⟨arrives_of (by decide +kernel), by decide +kernel, rfl⟩
  · intro d h
    simp only [List.mem_cons, List.not_mem_nil, or_false] at h
    rcases h with rfl | rfl <;> exact ⟨by decide +kernel, by decide +kernel, by decide +kernel, by decide +kernel⟩
  · intro gen h
    simp only [List.mem_cons, List.not_mem_nil, or_false] at h
    rcases h with rfl | rfl | rfl <;> decide +kernel

/-- A contribution of 4 naturals, the last of its member; a queued step of it, whose place is mapped. -/
def contribution : Packet := { collPacket .collData .join 5 with opinfo := 0x80000, payload := toBytes 16 (3 + 2 ^ 32) }
def aStep (gen : BitVec 16) : RedStep :=
  { stack := 0, ctx := 1, id := 7, gen := gen, chunk := 0, ordinal := 1, parts := [{ elem := 0, codes := [3, 1], scales := [], bytes := [] }], fmt := 0, first := true, last := false,
    failed := false, sender := 1, wake := 0, stall := none, refused := none }
def reducing (l : List RedStep) (s : State) : State := { inContext (fun c => { c with views := [aView .active 1 1] }) s with redQ := l }

theorem witness_Reduction :
    (let s := reducing [] (linked placed)
     let u := landed s 0 contribution
     Arrives s 0 contribution ∧ currentB s contribution (aView .active 1 1) = true ∧ contribution.srank ∈ cRanks (descriptor 1) ∧
      bits contribution.opinfo 18 16 < cGpr (descriptor 1) ∧ cHome (descriptor 1) (useChunk contribution) = s.rank ∧
      (cRanks (descriptor 1)).idxOf contribution.srank * cGpr (descriptor 1) + bits contribution.opinfo 18 16 = 1 ∧
      (packetSteps u (aView .active 1 1) contribution).map (·.stack) = [0] ∧ u.redQ = [] ∧ ({ chunkFresh with status := 1 } : Chunk).begun = []) ∧
    (let s := reducing (List.replicate 256 (aStep 5)) (linked placed)
     (((landed s 0 contribution).redQ.filter fun q => q.stack == 0).length + 1 ≤ 256 ↔ False)) ∧
    (∃ e ∈ [((1 : Nat), (9 : BitVec 48))], e.1 = 1 ∧ e.2 ≠ contribution.wake) ∧
    ((reducing [aStep 5] placed).redQ.find? fun q => q.stack == 1) = none ∧
    (∀ r ∈ [aStep 4, aStep 5, { aStep 5 with stall := some 3 }, { aStep 5 with id := 8 }], ((reducing [r] placed).redQ.find? fun q => q.stack == r.stack) = some r) ∧
    getView (reducing [aStep 5] placed) 1 8 = none ∧
    (∃ v, getView (reducing [aStep 4] placed) 1 7 = some v ∧ v.gen ≠ (aStep 4).gen ∧ v.stall = none) ∧
    (∃ v c, getView (reducing [aStep 5] mapped) 1 7 = some v ∧ v.stall = none ∧ v.gen = (aStep 5).gen ∧ v.vst = .active ∧ v.chunks[0]? = some c ∧
      c.status.toNat < 8 ∧ acceptedTag (reducing [aStep 5] mapped) c (aStep 5) = (aStep 5).wake ∧ cRedop v.desc ≠ 0 ∧ (aStep 5).ordinal ∉ c.ending ∧
      c.contrib.toNat + 1 < cExpect v.desc ∧ bits (v.desc.getD 4 0) 25 24 ≠ 2) ∧
    acceptedTag (reducing [aStep 5] mapped) { chunkFresh with begun := [(1, 9)] } (aStep 5) ≠ (aStep 5).wake ∧
    (∀ n ∈ [1, 2], ((reducing (List.replicate n { aStep 5 with last := true }) mapped).redQ.filter (sameContribution { aStep 5 with last := true })).length = n) ∧
    (∀ op ∈ ([1, 2, 3, 4, 5] : List W64), bits ((descriptor op).getD 4 0) 25 24 ≠ 0 ∧ 1 ≤ bits ((descriptor op).getD 4 0) 15 12) ∧
    (∀ b : Bool, (match checkRange { reducing [aStep 5] mapped with poison := if b then [0x50400] else [] } 1 1024 none
          (viewCapt (reducing [aStep 5] mapped) (aView .active 1 1)) (cBreach (descriptor 1)) (bits (chunkVa (descriptor 1) 0 0) 63 0) 8 with
      | (.ok pa, u) => pa == 0x504000 && poisoned u pa 8 == b
      | _ => false) = true) ∧
    (match checkRange (reducing [aStep 5] placed) 1 1024 none (viewCapt (reducing [aStep 5] placed) (aView .active 1 1)) (cBreach (descriptor 1)) 0x4000000 8 with
      | (.hold _, _) => true | _ => false) = true ∧
    (match checkRange (reducing [aStep 5] placed) 1 1024 none (viewCapt (reducing [aStep 5] placed) (aView .active 1 1)) 0xF0 0x4000 8 with
      | (.bad, _) => true | _ => false) = true :=
  ⟨⟨arrives_of (by decide +kernel), by decide +kernel⟩, by decide +kernel, by decide +kernel, by decide +kernel, by decide +kernel, by decide +kernel,
    ⟨_, rfl, by decide, rfl⟩, ⟨_, _, rfl, rfl, rfl, rfl, rfl, by decide, by decide +kernel, by decide, by decide, by decide, by decide⟩, by decide +kernel,
    by decide +kernel, fun op h => by
    simp only [List.mem_cons, List.not_mem_nil, or_false] at h
    rcases h with rfl | rfl | rfl | rfl | rfl <;> decide +kernel, fun b => by cases b <;> decide +kernel, by decide +kernel, by decide +kernel⟩

/-- The chronometer at a count. -/
def clock (n : W64) (s : State) : State := { s with chron := { s.chron with ns := n } }

theorem witness_CollectiveWatch :
    (∀ n ∈ ([0, 2000] : List W64), getView (clock n (viewing [aView .active 1 1] placed)) 1 7 = some (aView .active 1 1) ∧
      cBudget (descriptor 1) = 1000 ∧ (latest (clock n (viewing [aView .active 1 1] placed)) (aView .active 1 1)).isSome = (n == 2000)) ∧
    silent (viewing [aView .active 1 1] placed) (aView .active 1 1) 1 ∧ (1 : BitVec 12) ∈ cRanks (descriptor 1) ∧
    (∀ (i : Nat) (m : CollMember), (aView .active 1 1).members[i]? = some m → m.ordinal = i) ∧
    (∃ v, getView (viewing [aView .draining 2 8] placed) 1 7 = some v ∧ v.vst = .draining ∧ v.closeSent = false ∧ v.unconf = []) := by
  refine ⟨?_, .inl (by decide +kernel), by decide, ?_, _, rfl, rfl, rfl, rfl⟩
  · intro n h
    simp only [List.mem_cons, List.not_mem_nil, or_false] at h
    rcases h with rfl | rfl <;> exact ⟨rfl, by decide, by decide +kernel⟩
  rintro (_ | _ | i) m h <;> simp [aView] at h <;> subst h <;> rfl

/-! ### Links -/

/-- A request for bytes of the peer window, which begins at 0x500000 and has 64 KiB. -/
def peerWindow (s : State) : State := inContext (fun c => { c with sys := [(0x223, 0x500000), (0x224, 0x10000)] }) s
def request8 (t : PacketType) (a : W64) : Packet := { packet t with tag := 3, addr := a, opnd := 8, opinfo := 3, payload := toBytes 8 9 }

theorem witness_RemoteTraffic :
    (∃ q, getPort (linked placed) 17 = some q ∧ q.lst = .up ∧ q.waiting = [] ∧ ∀ n ∈ q.returns, n < 63) ∧
    ((packet .slotOnly).type = .slotOnly ∧ plenOf (packet .slotOnly) = 0 ∧ (linked placed).recctl = 0 ∧ ((linked placed).ports.map (·.num)).Nodup) ∧
    (∀ t ∈ [PacketType.write, .read, .atom], Delivered (linked placed) 17 (request8 t 0x50FFF8) ∧
      inWindow (peerWindow (linked placed)) (request8 t 0x50FFF8) 8 ∧ ¬ inWindow (peerWindow (linked placed)) (request8 t 0x50FFF9) 8 ∧
      ¬ inWindow (linked placed) (request8 t 0x500000) 8 ∧ poisoned { placed with poison := [0x50000] } 0x500000 8 = true ∧ poisoned placed 0x500000 8 = false) ∧
    (waitersOf (asked strandAsks (inStrand (fun t => { t with run := .stalled (.remote 3) }) placed)) 3 = [⟨1, .strand 2⟩] ∧
      waitersOf (asked kernelAsks placed) 3 = [] ∧ noneInvalidates (asked kernelAsks placed) 3) ∧
    (∀ n ∈ ([3999999, 4000000] : List W64), (clock n (asked strandAsks placed)).remotes.find? (fun r => r.tag == 3) = some strandAsks ∧
      ((clock n (asked strandAsks placed)).chron.ns.toNat - strandAsks.since.toNat < 4000000 ↔ n = 3999999)) := by
  refine ⟨⟨_, rfl, rfl, rfl, by decide⟩, by decide +kernel, ?_, ⟨by decide +kernel, by decide +kernel, ?_⟩, ?_⟩
  · intro t h
    have w (a : W64) (s : State) (c : Context) (hc : getCtx s 1 = some c) (ha : c.cst = .active)
        (hb : (decide (65536 * bits (ctxReg s 1 0x223) 51 16 ≤ a.toNat) && inMain a.toNat 8 &&
          decide (a.toNat + 8 ≤ 65536 * bits (ctxReg s 1 0x223) 51 16 + (ctxReg s 1 0x224).toNat / 65536 * 65536)) = true) :
        inWindow s (request8 t a) 8 := by
      simp only [Bool.and_eq_true, decide_eq_true_eq] at hb
      exact ⟨⟨c, hc, .inr (.inl ha)⟩, hb.1.1, hb.1.2, hb.2⟩
    have far (a : W64) (s : State) (hb : 65536 * bits (ctxReg s 1 0x223) 51 16 + (ctxReg s 1 0x224).toNat / 65536 * 65536 < a.toNat + 8) :
        ¬ inWindow s (request8 t a) 8 := fun x => absurd x.2.2.2 (Nat.not_le.mpr hb)
    refine ⟨⟨⟨_, rfl, .inl rfl⟩, rfl, .inr rfl⟩, w _ _ _ rfl rfl (by decide +kernel), far _ _ (by decide +kernel), far _ _ (by decide +kernel),
      by decide +kernel, by decide +kernel⟩
  · simp only [noneInvalidates, asked]
    intro g hg t ht l n h
    exfalso
    revert h
    have : ∀ g ∈ placed.groups, ∀ t ∈ g.pilot :: g.strands, t.run = .ready := by decide +kernel
    rw [this g hg t ht]
    exact fun h => by cases h
  · intro n h
    simp only [List.mem_cons, List.not_mem_nil, or_false] at h
    rcases h with rfl | rfl <;> exact ⟨rfl, by decide⟩

/-- A port in a state, alone in its device. -/
def aPort (st : LinkState) (f : Port → Port) (s : State) : State :=
  { s with ports := s.ports.map fun q => if q.num = 17 then f { q with lst := st } else q }

theorem witness_LinkStates :
    (∀ st ∈ [LinkState.down, .training, .up, .degraded, .draining, .fenced, .replay], ∃ q, getPort (aPort st id placed) 17 = some q ∧ q.lst = st ∧
      q.trainOff = false ∧ q.retry = [] ∧ q.waiting = [] ∧ q.fencedLanes = []) ∧
    (placed.ports.map (·.num)).Nodup ∧ placed.turning = [] ∧ noMirror placed ∧
    (∀ n ∈ [14, 15, 16], ∃ q, getPort (aPort .up (fun q => { q with laneRetries := List.replicate n (7, 999999) ++ List.replicate 16 (7, 0) }) (clock 1000000 placed)) 17 =
        some q ∧ ((q.laneRetries.filter fun e => decide (1000000 < e.2 + 1000000)).filter fun e => e.1 == 7).length = n ∧ 7 ∉ q.fencedLanes ∧ q.lst = .up) ∧
    (∃ q, getPort (aPort .down id (clock 100000000 placed)) 17 = some q ∧ q.lst = .down ∧ q.trainOff = false ∧ q.downAt + 100000000 ≤ 100000000) ∧
    routeDir placed 15 = some (17 % 6) ∧ routeDir { placed with routes := [(15, 1)] } 15 = some 0 ∧
    min 8 (8 - 0) = 8 ∧ min 8 (8 - 4) = 4 ∧ min 3 (8 - 0) < 4 ∧ neighbour placed.rank (17 % 6) = 15 ∧
    (∃ q, getPort (aPort .replay id placed) 17 = some q ∧ nextArrival placed q = none) := by
  refine ⟨?_, by decide +kernel, rfl, by unfold noMirror; decide +kernel, ?_, ⟨_, rfl, rfl, rfl, by decide +kernel⟩, by decide +kernel, by decide +kernel, by decide, by decide,
    by decide, by decide +kernel, _, rfl, by decide +kernel⟩
  · intro st h
    exact ⟨_, rfl, rfl, rfl, rfl, rfl, rfl⟩
  · intro n h
    simp only [List.mem_cons, List.not_mem_nil, or_false] at h
    rcases h with rfl | rfl | rfl <;> exact ⟨_, rfl, by decide +kernel, by decide +kernel, rfl⟩

/-! ### Host port, management, resets, debug -/

theorem witness_HostPort :
    slotCtx placed 15 63 = none ∧ (∃ c, slotCtx placed 0 0 = some c ∧ c.num = 1) ∧ placed.mgmt.recovery = false ∧
    { placed.mgmt with recovery := true }.recovery = true ∧ (getCtx placed 1).isSome = true ∧
    (∀ st ∈ [QState.disabled, .enabled], (queueOfCtx (hasQueue (aQueue st 0x300000 0) placed) 1 3).qst = st) ∧
    (∃ c ∈ (inContext (fun c => { c with func := 15 }) placed).contexts, c.func = 15 ∧ c.cst = .active) ∧
    (¬ ∃ c ∈ placed.contexts, c.func = 15 ∧ c.cst = .active) ∧
    (∀ n ∈ [1, 2, 3, 0, 7], bits (BitVec.ofNat 64 n) 2 0 = n) ∧ (∀ st ∈ [LinkState.down, .fenced, .replay, .up], ∃ q, getPort (aPort st id placed) 17 = some q ∧ q.lst = st) ∧
    (∀ st ∈ ([0, 1, 2, 3] : List (BitVec 2)), ({ placed with chron := { placed.chron with st := st, ptp := true, pps := true } } : State).chron.st = st) ∧
    (∀ c ∈ ({ placed with contexts := [] } : State).contexts, c.cst ≠ .active ∧ c.cst ≠ .switchedOut) ∧
    (0 : Nat) + 2000000000 ≤ (clock 2000000000 placed).chron.ns.toNat ∧ (clock 1999999999 placed).chron.ns.toNat < 0 + 2000000000 := by
  refine ⟨by decide +kernel, ⟨_, rfl, rfl⟩, by decide +kernel, rfl, by decide +kernel, by decide +kernel, by decide +kernel, by decide +kernel, by decide +kernel,
    fun _ _ => ⟨_, rfl, rfl⟩, fun st _ => rfl, by simp, by decide +kernel, by decide +kernel⟩

/-- The management processor with an open session, in recovery or not. -/
def managed (session recovery : Bool) (s : State) : State := { s with mgmt := { s.mgmt with session := session, recovery := recovery } }

theorem witness_Management :
    (managed false false placed).mgmt.session = false ∧ ((managed true true placed).mgmt.session = true ∧ (managed true true placed).mgmt.recovery = true) ∧
    Open (managed true false placed) ∧ getPort (managed true false placed) 18 = none ∧ (getPort (managed true false placed) 17).isSome = true ∧
    noMirror (managed true false placed) ∧ dieBusy (managed true false placed) 0 = true ∧ dieBusy (managed true false placed) 3 = false ∧
    (∀ c ∈ placed.contexts, c.func = 1 → c.cst = .teardown) ∧ (placed.contexts.map (·.num)).Nodup :=
  ⟨rfl, ⟨rfl, rfl⟩, ⟨rfl, rfl⟩, by decide +kernel, by decide +kernel, by unfold noMirror; decide +kernel, by decide +kernel, by decide +kernel,
    by decide +kernel, by decide +kernel⟩

/-- The pacing level 15, with no die too hot; a re-stitch that waits. -/
def hot (s : State) : State := { s with mgmt := { s.mgmt with pacing := 15 } }

theorem witness_PowerAndFencing :
    (hot placed).mgmt.pacing = 15 ∧ (3 : Nat) ∉ (hot placed).mgmt.hotDies ∧ placed.mgmt.pacing ≠ 15 ∧ (placed.groups.map (·.gid)).Nodup ∧
    (127 : Nat) ∉ placed.vacant ∧ (127 : Nat) ∉ placed.fencedCores ∧
    (135 < 136 ∧ Part.core 135 ∉ placed.mgmt.fences ∧ ∀ c < 128, c ∉ placed.vacant → physOfCore placed c ≠ 135) ∧ Part.slice 511 ∉ placed.mgmt.fences ∧
    (∃ q, getPort placed 17 = some q ∧ (7 : Nat) ∉ q.fencedLanes) ∧ noMirror placed ∧ placed.restitch = none ∧
    regionEmpty placed [0] = false ∧ regionEmpty placed [127] = true ∧ ({ placed with restitch := some ([0], 1) } : State).restitch ≠ none :=
  ⟨rfl, by decide +kernel, by decide +kernel, by decide +kernel, by decide +kernel, by decide +kernel, by decide +kernel, by decide +kernel, ⟨_, rfl, by decide +kernel⟩,
    by unfold noMirror; decide +kernel, rfl, by decide +kernel, by decide +kernel, by simp⟩

/-- Slot 0 of the context names the group; a unit whose buffer holds a record; one that discarded records; a counter at its end. -/
def selecting (sel : W64) (s : State) : State := inContext (fun c => { c with sys := [(0x400, sel)] }) s
def aRecord : LogRec :=
  { event := 2, cls := 3, cause := 0, own := 0, stamp := 7, obj := 0, payload := 0 }
def buffered (s : State) : State := { s with units := [{ num := 5, seq := 0, buf := [(0, aRecord)], drops := [0, 1, 0, 0], dropTag := 9 }] }

/-- A session whose counters all stand at their last value. -/
def fullSession : Session :=
  { session with run := 0x1FF, ovfen := 0x3FF, xsel := 0x40, counts := [(2 ^ 24 + 4, 0xFFFFFFFFFFFF), (2 ^ 25, 0xFFFFFFFFFFFF)] }

theorem target (st : GState) :
    debugTarget (inGroup (fun g => { g with gst := st, haltPend := st == .descheduled }) (selecting (1 + kernelTag placed 1 * 2 ^ 10) placed))
      (1 + kernelTag placed 1 * 2 ^ 10) = some { placeGroup with gst := st, haltPend := st == .descheduled } := by
  cases st <;> decide +kernel

theorem witness_DebugCountersLog :
    (∃ c, getCtx placed 1 = some c ∧ c.debug = true) ∧ (∃ c, getCtx (noDebug placed) 1 = some c ∧ c.debug = false) ∧
    debugTarget (selecting 5 placed) 5 = none ∧
    (∀ st ∈ [GState.pending, .placing, .running, .draining, .halted, .saving, .descheduled, .faulted, .flushing, .retired],
      ∃ g, Commands (inGroup (fun g => { g with gst := st, haltPend := st == .descheduled }) (selecting (1 + kernelTag placed 1 * 2 ^ 10) placed)) 1 0 g ∧ g.gst = st ∧
        g.rounds = [] ∧ (∀ x ∈ g.strands, x.run = .ready ∧ x.stateWr = none ∧ x.caps = none) ∧
        ∀ x ∈ g.pilot :: g.strands, x.inh = false ∧ x.ptrap = none) ∧
    (getUnit placed 5).buf = [] ∧ (getUnit (buffered placed) 5).buf = (0, aRecord) :: [] ∧ ¬ (∀ n ∈ (getUnit (buffered placed) 5).drops, n = 0) ∧
    (getUnit (buffered placed) 5).buf.length < 16 ∧ aboutToWrap placed 0 8 = false ∧
    (let e := fullSession
     let s := { placed with sessions := [e] }
     funcSession s 0 = some e ∧ (s.sessions.map (·.func)).Nodup ∧ swf e.counts = true ∧ (∀ i ∈ [4, 8], aboutToWrap s 0 i = true) ∧ 2 ^ 25 ∈ fullCounters e 4 ∧
      (∃ c ∈ openCores s 0, 2 ^ 24 + c * 2 ^ 12 + 4 ∈ fullCounters e 8) ∧ e.ovfen.getLsbD 8 = true ∧ (∃ f ∈ s.funcs, f.num = 0) ∧
      (∀ n ∈ [0, 1], (2 ^ 48 ≤ (sget e.counts (2 ^ 25)).toNat + n ↔ n = 1))) := by
  refine ⟨⟨_, rfl, rfl⟩, ⟨_, rfl, rfl⟩, by decide +kernel, fun st h => ?_, by decide +kernel, by decide +kernel, by decide +kernel, by decide +kernel,
    by decide +kernel, by decide +kernel⟩
  refine ⟨{ placeGroup with gst := st, haltPend := st == .descheduled }, ⟨by decide, ⟨_, rfl, rfl⟩, target st, rfl, .inl rfl⟩, rfl, rfl, ?_, ?_⟩
  · show ∀ x ∈ placeGroup.strands, _
    decide +kernel
  · show ∀ x ∈ placeGroup.pilot :: placeGroup.strands, _
    decide +kernel

/-! ### Steps -/

theorem witness_StepRunsDecoded :
    (∃ r, (State.withFetchWord State.reset 64 0).agenda = r ∧ ∃ b u iss, Next (State.withFetchWord State.reset 64 0) b u iss) ∧ placeGroup.pilot.fixed = [] ∧
    (∃ iss, { placed with unitsDone := (2 : Nat) ^ 2048 - 1 }.agenda = [] ∧ hadTurn { placed with unitsDone := (2 : Nat) ^ 2048 - 1 } (issuerUnit placed iss) = true) ∧
    (∀ t ∈ placeGroup.pilot :: placeGroup.strands, issues t) ∧ placeGroup.vals.chksb = false := by
  refine ⟨⟨_, rfl, _, _, _, .inl ⟨_, rfl, rfl, rfl, by decide +kernel⟩⟩, rfl, ⟨.pilot 1, rfl, by decide +kernel⟩, ?_, rfl⟩
  unfold issues; decide +kernel

theorem witness_StackPlaces : (12 * 2 ^ 36 - 1 < 12 * 2 ^ 36 ∧ placed.modeDie = false) ∧ ({ placed with modeDie := true } : State).modeDie = true :=
  ⟨⟨by decide, by decide +kernel⟩, rfl⟩

end Sys2Proof.Tests
end

section
/-! PROOFS. Every step keeps the canonical form of main memory and of host memory.

The model writes the two memories at few places, each through `sset`, `ssets` or `skeep`, which keep the canonical form
(`swf_sset`, `swf_ssets`, `swf_skeep`): `memPut` and `physPut`, the stores and read-modify-writes of host memory, the records
that a save clears and fills, and the granules of multi-pass replay. Everything else builds its state from those. So there is
one lemma `<function>_memWf` for each function of the model that answers a state, in the order of the model's files: an
equation of `memWf` where neither memory is written, by the function or by what it calls, and otherwise that the canonical
form is kept. -/

namespace Sys2Proof.Machine

open Sys2Proof

/-! ### The two memories -/

theorem memWf_iff (s : State) : s.memWf = true ↔ swf s.mem = true ∧ swf s.hostMem = true := by
  simp [State.memWf, Memory.wf]

/-- The canonical form depends on the two memories alone. -/
theorem memWf_congr {s t : State} (hm : t.mem = s.mem) (hh : t.hostMem = s.hostMem) : t.memWf = s.memWf := by
  simp only [State.memWf, hm, hh]

theorem swf_mem {s : State} (h : s.memWf = true) : swf s.mem = true := ((memWf_iff s).mp h).1

theorem swf_hostMem {s : State} (h : s.memWf = true) : swf s.hostMem = true := ((memWf_iff s).mp h).2

theorem withMem_memWf {s : State} (h : s.memWf = true) {m : Sparse 8} (hm : swf m = true) :
    { s with mem := m }.memWf = true :=
  (memWf_iff _).mpr ⟨hm, swf_hostMem (s := s) h⟩

theorem withHostMem_memWf {s : State} (h : s.memWf = true) {m : Sparse 8} (hm : swf m = true) :
    { s with hostMem := m }.memWf = true :=
  (memWf_iff _).mpr ⟨swf_mem (s := s) h, hm⟩

theorem storeBytes_memWf {s : State} (h : s.memWf = true) (pa : Nat) (bs : List Byte) :
    { s with mem := ssets s.mem pa bs }.memWf = true :=
  withMem_memWf h (swf_ssets _ _ _ (swf_mem h))

theorem clearBytes_memWf {s : State} (h : s.memWf = true) (p : Nat → Bool) :
    { s with mem := skeep s.mem p }.memWf = true :=
  withMem_memWf h (swf_skeep _ _ (swf_mem h))

theorem storeHost_memWf {s : State} (h : s.memWf = true) (a : Nat) (bs : List Byte) :
    { s with hostMem := ssets s.hostMem a bs }.memWf = true :=
  withHostMem_memWf h (swf_ssets _ _ _ (swf_hostMem h))

/-- A granule is put byte by byte, so the form of what is put does not matter. -/
theorem swf_putGranule {m : Sparse 8} (h : swf m = true) (a : Nat) (bs : Sparse 8) : swf (putGranule m a bs) = true :=
  List.foldlRecOn (motive := fun m => swf m = true) bs _ (swf_skeep _ _ h) fun _ h _ _ => swf_sset _ _ _ h

/-! ### Choices, folds and answers that carry a state -/

@[simp] theorem memWf_ite (c : Prop) [Decidable c] (s t : State) :
    (if c then s else t).memWf = if c then s.memWf else t.memWf := apply_ite State.memWf c s t

theorem getD_memWf {o : Option State} {s : State} {b : Bool} (ho : ∀ r, o = some r → r.memWf = b) (hs : s.memWf = b) :
    (o.getD s).memWf = b := by
  cases o with
  | none => exact hs
  | some r => exact ho r rfl

@[simp] theorem foldl_memWf {α : Type} {f : State → α → State} (l : List α) (s : State)
    (hf : ∀ s a, (f s a).memWf = s.memWf) : (l.foldl f s).memWf = s.memWf :=
  List.foldlRecOn (motive := fun t => t.memWf = s.memWf) l f rfl fun t h a _ => (hf t a).trans h

theorem foldl_keeps {α : Type} {f : State → α → State} (l : List α) (s : State)
    (hf : ∀ s a, s.memWf = true → (f s a).memWf = true) (h : s.memWf = true) : (l.foldl f s).memWf = true :=
  List.foldlRecOn (motive := fun t => t.memWf = true) l f h fun t h a _ => hf t a h

@[simp] theorem foldl_snd_memWf {α β : Type} {f : β × State → α → β × State} (l : List α) (p : β × State)
    (hf : ∀ p a, (f p a).2.memWf = p.2.memWf) : (l.foldl f p).2.memWf = p.2.memWf :=
  List.foldlRecOn (motive := fun t => t.2.memWf = p.2.memWf) l f rfl fun t h a _ => (hf t a).trans h

theorem foldl_snd_keeps {α β : Type} {f : β × State → α → β × State} (l : List α) (p : β × State)
    (hf : ∀ p a, p.2.memWf = true → (f p a).2.memWf = true) (h : p.2.memWf = true) : (l.foldl f p).2.memWf = true :=
  List.foldlRecOn (motive := fun t => t.2.memWf = true) l f h fun t h a _ => hf t a h

/-- A fold that stops where a step gives no state. -/
theorem foldl_bind_memWf {α : Type} {f : State → α → Option State} (hf : ∀ s a r, f s a = some r → r.memWf = s.memWf)
    (l : List α) (s r : State) (hr : l.foldl (fun (o : Option State) a => o.bind (f · a)) (some s) = some r) :
    r.memWf = s.memWf := by
  have hl : ∀ t, l.foldl (fun (o : Option State) a => o.bind (f · a)) (some s) = some t → t.memWf = s.memWf := by
    refine List.foldlRecOn (motive := fun o : Option State => ∀ t, o = some t → t.memWf = s.memWf) l _ ?_ ?_
    · rintro t ⟨⟩
      rfl
    · intro o ho a _ t ht
      obtain ⟨u, hu, ht⟩ := Option.bind_eq_some_iff.mp ht
      exact (hf u a t ht).trans (ho u hu)
  exact hl r hr

@[simp] theorem eThen_memWf {α β : Type} {r : ERes α} {k : α → State → ERes β} (hk : ∀ a s, (k a s).2.memWf = s.memWf) :
    (eThen r k).2.memWf = r.2.memWf := by
  obtain ⟨a | a, s⟩ := r
  · rfl
  · exact hk a s

theorem eThen_keeps {α β : Type} {r : ERes α} {k : α → State → ERes β} (h : r.2.memWf = true)
    (hk : ∀ a s, s.memWf = true → (k a s).2.memWf = true) : (eThen r k).2.memWf = true := by
  obtain ⟨a | a, s⟩ := r
  · exact h
  · exact hk a s h

/-- Where an outcome goes on, the memories of its state are in canonical form. -/
def NextMemWf (o : Host.Outcome State Fault Refusal) : Prop := match o with | .next t => t.memWf = true | _ => True

@[simp] theorem nextMemWf_next (s : State) : NextMemWf (.next s) ↔ s.memWf = true := .rfl

@[simp] theorem nextMemWf_fault (e : Fault) : NextMemWf (.fault e) := trivial

@[simp] theorem nextMemWf_refused (e : Refusal) : NextMemWf (.refused e) := trivial

/-! ### Reset -/

theorem State_reset_memWf : State.reset.memWf = true := rfl

/-! ### The parts of the state -/

@[simp] theorem modGroup_memWf (s : State) (gid f) : (modGroup s gid f).memWf = s.memWf := memWf_congr rfl rfl

@[simp] theorem modCtx_memWf (s : State) (n f) : (modCtx s n f).memWf = s.memWf := memWf_congr rfl rfl

@[simp] theorem modKernel_memWf (s : State) (kid f) : (modKernel s kid f).memWf = s.memWf := memWf_congr rfl rfl

@[simp] theorem modPort_memWf (s : State) (n f) : (modPort s n f).memWf = s.memWf := memWf_congr rfl rfl

@[simp] theorem modFunc_memWf (s : State) (n f) : (modFunc s n f).memWf = s.memWf := memWf_congr rfl rfl

@[simp] theorem modThread_memWf (s : State) (t f) : (modThread s t f).memWf = s.memWf := memWf_congr rfl rfl

@[simp] theorem tickFree_memWf (s : State) : (tickFree s).memWf = s.memWf := memWf_congr rfl rfl

@[simp] theorem modCtxReg_memWf (s : State) (ctx n v) : (modCtxReg s ctx n v).memWf = s.memWf := memWf_congr rfl rfl

/-! ### The logbook -/

@[simp] theorem setUnit_memWf (s : State) (u) : (setUnit s u).memWf = s.memWf := memWf_congr rfl rfl

@[simp] theorem takeTag_memWf (s : State) (unit) : (takeTag s unit).2.memWf = s.memWf := memWf_congr rfl rfl

@[simp] theorem flushDrop_memWf (s : State) (unit) : (flushDrop s unit).memWf = s.memWf := by simp [flushDrop]

@[simp] theorem setPart_memWf (s : State) (p) : (setPart s p).memWf = s.memWf := memWf_congr rfl rfl

@[simp] theorem losePart_memWf (s : State) (x) : (losePart s x).memWf = s.memWf := by
  unfold losePart
  split <;> rfl

@[simp] theorem emitTagged_memWf (s : State) (unit ctx ev obj payload cause own) :
    (emitTagged s unit ctx ev obj payload cause own).memWf = s.memWf := by
  simp [emitTagged]

@[simp] theorem emitFilt_memWf (s : State) (filt unit ctx ev obj payload cause) :
    (emitFilt s filt unit ctx ev obj payload cause).2.memWf = s.memWf := by
  simp [emitFilt, apply_ite Prod.snd]

@[simp] theorem emit_memWf (s : State) (unit ctx ev obj payload cause) :
    (emit s unit ctx ev obj payload cause).memWf = s.memWf := by
  simp [emit]

@[simp] theorem emitGet_memWf (s : State) (unit ctx ev obj payload cause) :
    (emitGet s unit ctx ev obj payload cause).2.memWf = s.memWf := by
  simp [emitGet]

@[simp] theorem headWrite_memWf (s : State) (unit) : (headWrite s unit).memWf = s.memWf := by
  fun_cases headWrite s unit <;> rfl

@[simp] theorem emitGroup_memWf (s : State) (g ev payload) : (emitGroup s g ev payload).2.memWf = s.memWf := by simp [emitGroup]

/-! ### Counts and interrupts -/

@[simp] theorem raiseInt_memWf (s : State) (func b) : (raiseInt s func b).memWf = s.memWf := memWf_congr rfl rfl

@[simp] theorem setOvf_memWf (s : State) (func bit) : (setOvf s func bit).memWf = s.memWf := by
  fun_cases setOvf s func bit <;> rfl

@[simp] theorem bumpCounter_memWf (s : State) (func key bit n) : (bumpCounter s func key bit n).memWf = s.memWf := by
  fun_cases bumpCounter s func key bit n <;> grind [setOvf_memWf, State.memWf]

@[simp] theorem countEvent_memWf (s : State) (cls unit ctx kid ev n) : (countEvent s cls unit ctx kid ev n).memWf = s.memWf := by
  simp [countEvent]

@[simp] theorem countCore_memWf (s : State) (g core ev n) : (countCore s g core ev n).memWf = s.memWf := by simp [countCore]

/-! ### Translation, core stores and home slices -/

@[simp] theorem answerReads_memWf (s : State) : (answerReads s).memWf = s.memWf := by
  unfold answerReads
  split <;> rfl

@[simp] theorem memPut_memWf {s : State} (h : s.memWf = true) (pa bs) : (memPut s pa bs).memWf = true := by
  unfold memPut
  split
  · exact storeBytes_memWf h ..
  · exact h

@[simp] theorem memPutNat_memWf {s : State} (h : s.memWf = true) (pa n v) : (memPutNat s pa n v).memWf = true := by
  simp [memPutNat, h]

@[simp] theorem wakeWatchers_memWf (s : State) (pa n tag) : (wakeWatchers s pa n tag).memWf = s.memWf := by
  grind [wakeWatchers, modThread_memWf, State.memWf, foldl_memWf]

@[simp] theorem writeTag_memWf (s : State) (unit pa n) : (writeTag s unit pa n).2.memWf = s.memWf := by
  simp [writeTag, apply_ite Prod.snd]

@[simp] theorem overtake_memWf (s : State) (pa n) : (overtake s pa n).memWf = s.memWf := memWf_congr rfl rfl

@[simp] theorem writeBackE_memWf {s : State} (h : s.memWf = true) (core p) : (writeBackE s core p).memWf = true :=
  foldl_keeps _ _ (fun _ _ h => by simp [h]) h

@[simp] theorem writeBack_memWf {s : State} (h : s.memWf = true) (core p) : (writeBack s core p).memWf = true := by
  simp [writeBack, h]

@[simp] theorem dropClean_memWf (s : State) (core) : (dropClean s core).memWf = s.memWf := memWf_congr rfl rfl

@[simp] theorem evictUnits_memWf {s : State} (h : s.memWf = true) (core pa n) : (evictUnits s core pa n).memWf = true :=
  writeBack_memWf h ..

@[simp] theorem homeWrite_memWf {s : State} (h : s.memWf = true) (core pa bs tag) : (homeWrite s core pa bs tag).memWf = true := by
  unfold homeWrite
  split <;> simp [h]

@[simp] theorem fetchUnits_memWf (s : State) (core pa n) : (fetchUnits s core pa n).memWf = s.memWf := memWf_congr rfl rfl

@[simp] theorem coreRead_memWf (s : State) (core pa n) : (coreRead s core pa n).2.memWf = s.memWf := memWf_congr rfl rfl

@[simp] theorem coreWriteUnit_memWf {s : State} (h : s.memWf = true) (core pa bs) : (coreWriteUnit s core pa bs).memWf = true :=
  writeBackE_memWf h ..

@[simp] theorem coreWrite_memWf {s : State} (h : s.memWf = true) (core pa bs tag) : (coreWrite s core pa bs tag).memWf = true := by
  simp +contextual [coreWrite, h, foldl_keeps]

@[simp] theorem wideRead_memWf {s : State} (h : s.memWf = true) (core pa n) : (wideRead s core pa n).2.memWf = true := by
  simp [wideRead, h]

@[simp] theorem ctxRegWrite_memWf {s : State} (h : s.memWf = true) (ctx n v) : (ctxRegWrite s ctx n v).memWf = true := by
  unfold ctxRegWrite
  split <;> simp [h]

@[simp] theorem tlbAdd_memWf (s : State) (e) : (tlbAdd s e).memWf = s.memWf := memWf_congr rfl rfl

@[simp] theorem tlbFill_memWf (s : State) (core ctx va l) : (tlbFill s core ctx va l).memWf = s.memWf := memWf_congr rfl rfl

@[simp] theorem stowTile_memWf (s : State) (ctx l va) : (stowTile s ctx l va).2.memWf = s.memWf := by
  fun_cases stowTile s ctx l va <;> simp

@[simp] theorem checkLeaf_memWf (s : State) (ctx l va a size capt) : (checkLeaf s ctx l va a size capt).2.memWf = s.memWf := by
  fun_cases checkLeaf s ctx l va a size capt <;> grind [modCtx_memWf, stowTile_memWf, State.memWf]

@[simp] theorem prefetch_memWf (s : State) (u l) : (prefetch s u l).memWf = s.memWf := by
  fun_cases prefetch s u l <;> grind [checkLeaf_memWf, fetchUnits_memWf]

@[simp] theorem serveWalk_memWf (s : State) (q) : (serveWalk s q).memWf = s.memWf := by
  fun_cases serveWalk s q
  grind [prefetch_memWf, tlbFill_memWf, State.memWf, foldl_memWf, foldl_keeps]

@[simp] theorem queueWalk_memWf (s : State) (u) : (queueWalk s u).memWf = s.memWf := by
  fun_cases queueWalk s u <;> rfl

@[simp] theorem translate_memWf (s : State) (core ctx va) : (translate s core ctx va).2.memWf = s.memWf := by
  unfold translate
  dsimp only
  (repeat' split) <;> simp

@[simp] theorem checkAccess_memWf (s : State) (core ctx va a size capt) :
    (checkAccess s core ctx va a size capt).2.memWf = s.memWf := by
  fun_cases checkAccess s core ctx va a size capt <;> grind [translate_memWf, checkLeaf_memWf]

@[simp] theorem writeRing_memWf {s : State} (h : s.memWf = true) (ctx f) : (writeRing s ctx f).memWf = true := by
  simp [writeRing, h]

@[simp] theorem openFault_memWf {s : State} (h : s.memWf = true) (ctx unit filt kind level va a logIt stc) :
    (openFault s ctx unit filt kind level va a logIt stc).2.memWf = true := by
  unfold openFault
  dsimp only
  (repeat' split) <;> simp [h]

@[simp] theorem retryFault_memWf (s : State) (ctx tag failed) : (retryFault s ctx tag failed).memWf = s.memWf := memWf_congr rfl rfl

@[simp] theorem retryAll_memWf (s : State) (ctx) : (retryAll s ctx).memWf = s.memWf := by
  unfold retryAll
  split <;> rfl

@[simp] theorem raiseCtxFatal_memWf (s : State) (ctx cause) : (raiseCtxFatal s ctx cause).memWf = s.memWf := memWf_congr rfl rfl

/-! ### Issue and the writing of results -/

@[simp] theorem applyFixed_memWf (s : State) (v lat e) : (applyFixed s v lat e).memWf = s.memWf := memWf_congr rfl rfl

@[simp] theorem applyPend_memWf (s : State) (v e cause) : (applyPend s v e cause).memWf = s.memWf := memWf_congr rfl rfl

@[simp] theorem applyEff_memWf (s : State) (v lat e) : (applyEff s v lat e).memWf = s.memWf := by simp [applyEff]

@[simp] theorem advance_memWf (s : State) (vs) : (advance s vs).memWf = s.memWf := by simp [advance]

theorem issueWith_memWf {s : State} (h : s.memWf = true) (f skip) {body} (hb : ∀ vs s, s.memWf = true → (body vs s).memWf = true) :
    NextMemWf (issueWith f s skip body) := by
  unfold issueWith
  split
  · trivial
  · simp [hb, h]

theorem issueGang_memWf {s : State} (h : s.memWf = true) (f) {body} (hb : ∀ vs s, s.memWf = true → (body vs s).memWf = true) :
    NextMemWf (issueGang f s body) :=
  issueWith_memWf h f false hb

theorem issueEach_memWf {s : State} (h : s.memWf = true) (f) {body} (hb : ∀ v s, s.memWf = true → (body v s).memWf = true) :
    NextMemWf (issueEach f s body) :=
  issueGang_memWf h f fun _ _ h => foldl_keeps _ _ (fun s v => hb v s) h

theorem issueAlu_memWf {s : State} (h : s.memWf = true) (lat f eff) : NextMemWf (issueAlu lat f s eff) :=
  issueEach_memWf h _ fun _ _ h => by simp [h]

/-! ### Packets and ports -/

@[simp] theorem stopRecording_memWf (s : State) : (stopRecording s).memWf = s.memWf := by grind [stopRecording, State.memWf]

@[simp] theorem emitPacket_memWf (s : State) (port ev p payload) : (emitPacket s port ev p payload).memWf = s.memWf := by
  simp [emitPacket]

@[simp] theorem replaySend_memWf (s : State) (port p) : (replaySend s port p).memWf = s.memWf := by
  fun_cases replaySend s port p <;> grind [emit_memWf, State.memWf]

@[simp] theorem portEmit_memWf (s : State) (port p) : (portEmit s port p).memWf = s.memWf := by
  fun_cases portEmit s port p <;> grind [modPort_memWf, countEvent_memWf, replaySend_memWf, emitPacket_memWf, State.memWf]

@[simp] theorem portSend_memWf (s : State) (port p) : (portSend s port p).memWf = s.memWf := by
  unfold portSend
  split <;> simp

@[simp] theorem dropPacket_memWf (s : State) (p) : (dropPacket s p).memWf = s.memWf := by
  fun_cases dropPacket s p <;> grind [emit_memWf, State.memWf]

@[simp] theorem sendNow_memWf (s : State) (p) : (sendNow s p).memWf = s.memWf := by
  fun_cases sendNow s p <;> simp

@[simp] theorem sendPacket_memWf (s : State) (p) : (sendPacket s p).memWf = s.memWf := by
  fun_cases sendPacket s p
  · simp
  · exact memWf_congr rfl rfl
  · simp

@[simp] theorem releaseDirs_memWf (s : State) : (releaseDirs s).memWf = s.memWf := by
  grind [releaseDirs, sendNow_memWf, State.memWf, foldl_memWf, foldl_keeps]

@[simp] theorem turnDir_memWf (s : State) (port) : (turnDir s port).memWf = s.memWf := by
  fun_cases turnDir s port <;> rfl

@[simp] theorem flushWaiting_memWf (s : State) (port n) : (flushWaiting s port n).memWf = s.memWf := by
  induction n generalizing s with
  | zero => rfl
  | succ n ih =>
    unfold flushWaiting
    split
    · rfl
    · simp [ih]

@[simp] theorem recordArrival_memWf {s : State} (h : s.memWf = true) (port p) : (recordArrival s port p).memWf = true := by
  fun_cases recordArrival s port p <;> grind [stopRecording_memWf, memPut_memWf, emitPacket_memWf, State.memWf]

@[simp] theorem sendSlots_memWf (s : State) (port) : (sendSlots s port).memWf = s.memWf := by
  unfold sendSlots
  split <;> simp

@[simp] theorem receive_memWf {s : State} (h : s.memWf = true) (port p) : (receive s port p).2.memWf = true := by
  unfold receive
  dsimp only
  (repeat' split) <;> simp [h]

@[simp] theorem freeKept_memWf (s : State) (port p) : (freeKept s port p).memWf = s.memWf := by simp [freeKept]

/-! ### Barrier objects and semaphores -/

@[simp] theorem putBar_memWf (s : State) (ctx b) : (putBar s ctx b).memWf = s.memWf := memWf_congr rfl rfl

@[simp] theorem delBar_memWf (s : State) (ctx k) : (delBar s ctx k).memWf = s.memWf := memWf_congr rfl rfl

@[simp] theorem logBar_memWf (s : State) (ctx k code phase) : (logBar s ctx k code phase).memWf = s.memWf := by simp [logBar]

@[simp] theorem wakeBar_memWf (s : State) (ctx k tag) : (wakeBar s ctx k tag).memWf = s.memWf := memWf_congr rfl rfl

@[simp] theorem tellState_memWf (s : State) (ctx b code ranks tag) : (tellState s ctx b code ranks tag).memWf = s.memWf := by
  unfold tellState
  (repeat' split) <;> simp

@[simp] theorem completeBar_memWf (s : State) (ctx b tag) : (completeBar s ctx b tag).memWf = s.memWf := by simp [completeBar]

@[simp] theorem settleBar_memWf (s : State) (ctx b tag) : (settleBar s ctx b tag).memWf = s.memWf := by simp [settleBar]

@[simp] theorem leaveWait_memWf (s : State) (ctx b p) : (leaveWait s ctx b p).memWf = s.memWf := by simp [leaveWait]

@[simp] theorem dropMembers_memWf (s : State) (ctx k p tag) : (dropMembers s ctx k p tag).memWf = s.memWf := by
  unfold dropMembers
  dsimp only
  (repeat' split) <;> simp

@[simp] theorem failBar_memWf (s : State) (ctx b) : (failBar s ctx b).memWf = s.memWf := by simp [failBar]

@[simp] theorem tellHomes_memWf (s : State) (g ask tag) : (tellHomes s g ask tag).memWf = s.memWf := by
  unfold tellHomes
  split <;> simp

@[simp] theorem barFailGroup_memWf (s : State) (g) : (barFailGroup s g).memWf = s.memWf := by simp [barFailGroup]

@[simp] theorem barFailCtx_memWf (s : State) (ctx) : (barFailCtx s ctx).memWf = s.memWf := by simp [barFailCtx]

@[simp] theorem freeBars_memWf (s : State) (ctx) : (freeBars s ctx).memWf = s.memWf := by simp [freeBars]

@[simp] theorem failUnreachable_memWf (s : State) : (failUnreachable s).memWf = s.memWf := by simp [failUnreachable]

@[simp] theorem barExit_exitMember_memWf (s : State) (ctx b p tag) : (barExit.exitMember s ctx b p tag).memWf = s.memWf := by
  simp [barExit.exitMember]

@[simp] theorem barExit_memWf (s : State) (g w) : (barExit s g w).memWf = s.memWf := by simp [barExit]

@[simp] theorem barFlush_memWf (s : State) (g) : (barFlush s g).memWf = s.memWf := by simp [barFlush]

@[simp] theorem barDesched_memWf (s : State) (g d tag) : (barDesched s g d tag).memWf = s.memWf := by simp [barDesched]

@[simp] theorem barInit_memWf (s : State) (ctx k cfg m core full tag) :
    (barInit s ctx k cfg m core full tag).2.memWf = s.memWf := by
  fun_cases barInit s ctx k cfg m core full tag <;> grind [logBar_memWf, putBar_memWf, State.memWf]

@[simp] theorem barArrive_memWf (s : State) (ctx k p tag) : (barArrive s ctx k p tag).2.memWf = s.memWf := by
  fun_cases barArrive s ctx k p tag <;> simp

@[simp] theorem barTest_memWf (s : State) (ctx k p tok test) : (barTest s ctx k p tok test).2.memWf = s.memWf := by
  fun_cases barTest s ctx k p tok test <;> simp

@[simp] theorem putSem_memWf (s : State) (ctx m) : (putSem s ctx m).memWf = s.memWf := memWf_congr rfl rfl

@[simp] theorem settleSem_memWf (s : State) (ctx m) : (settleSem s ctx m).memWf = s.memWf := by simp [settleSem]

@[simp] theorem semAsk_memWf (s : State) (ctx pa va w m try_) : (semAsk s ctx pa va w m try_).2.memWf = s.memWf := by
  fun_cases semAsk s ctx pa va w m try_ <;> grind [settleSem_memWf, putSem_memWf, State.memWf]

@[simp] theorem semGive_memWf (s : State) (ctx pa w) : (semGive s ctx pa w).memWf = s.memWf := by
  unfold semGive
  split <;> rfl

@[simp] theorem semLeave_memWf (s : State) (ctx pa p) : (semLeave s ctx pa p).memWf = s.memWf := by
  unfold semLeave
  split <;> simp

@[simp] theorem leaveSems_memWf (s : State) (gid) : (leaveSems s gid).memWf = s.memWf := by
  fun_cases leaveSems s gid <;> grind [takeTag_memWf, sendPacket_memWf, semLeave_memWf, foldl_memWf, foldl_keeps]

/-! ### Collective views -/

@[simp] theorem modView_memWf (s : State) (ctx id f) : (modView s ctx id f).memWf = s.memWf := memWf_congr rfl rfl

@[simp] theorem putView_memWf (s : State) (ctx v) : (putView s ctx v).memWf = s.memWf := memWf_congr rfl rfl

@[simp] theorem setView_memWf (s : State) (ctx id st cause) : (setView s ctx id st cause).2.memWf = s.memWf := by
  unfold setView
  dsimp only
  split <;> simp

@[simp] theorem devCheck_memWf {s : State} (h : s.memWf = true) (ctx unit refused va n capt) :
    (devCheck s ctx unit refused va n capt).2.memWf = true := by
  fun_cases devCheck s ctx unit refused va n capt <;> grind [checkAccess_memWf, openFault_memWf, raiseCtxFatal_memWf]

theorem flushOne_memWf (ctx id i) {acc} (h : acc.2.memWf = true) : (flushOne ctx id acc i).2.memWf = true := by
  grind [flushOne, modView_memWf, devCheck_memWf, homeWrite_memWf]

@[simp] theorem flushRaw_memWf {s : State} (h : s.memWf = true) (ctx id) : (flushRaw s ctx id).2.memWf = true := by
  fun_cases flushRaw s ctx id <;> grind [flushOne_memWf, foldl_snd_keeps]

@[simp] theorem sendColl_memWf (s : State) (ctx id p) : (sendColl s ctx id p).memWf = s.memWf := by simp [sendColl]

@[simp] theorem letGo_memWf (s : State) (ctx m) : (letGo s ctx m).memWf = s.memWf := by
  unfold letGo
  dsimp only
  (repeat' split) <;> simp

@[simp] theorem dropHeld_memWf (s : State) (ctx id) : (dropHeld s ctx id).memWf = s.memWf := by
  unfold dropHeld
  split <;> simp

@[simp] theorem collFail_memWf {s : State} (h : s.memWf = true) (ctx id cause rank wake) :
    (collFail s ctx id cause rank wake).memWf = true := by
  fun_cases collFail s ctx id cause rank wake <;> grind [emitGet_memWf, setView_memWf, modView_memWf, dropHeld_memWf,
    sendColl_memWf, flushRaw_memWf, State.memWf, foldl_keeps]

@[simp] theorem flushView_memWf {s : State} (h : s.memWf = true) (ctx id) : (flushView s ctx id).memWf = true := by
  fun_cases flushView s ctx id <;> grind [flushRaw_memWf, collFail_memWf]

@[simp] theorem settleDrain_memWf (s : State) (ctx id wake) : (settleDrain s ctx id wake).memWf = s.memWf := by
  unfold settleDrain
  split <;> simp

@[simp] theorem closeMember_memWf {s : State} (h : s.memWf = true) (ctx id gid) : (closeMember s ctx id gid).2.memWf = true := by
  unfold closeMember
  dsimp only
  (repeat' split) <;> simp [h]

@[simp] theorem collLeave_memWf {s : State} (h : s.memWf = true) (g faulted) : (collLeave s g faulted).memWf = true := by
  fun_cases collLeave s g faulted <;> grind [collFail_memWf, closeMember_memWf, foldl_memWf, foldl_keeps]

@[simp] theorem sendCloses_memWf (s : State) (ctx id) : (sendCloses s ctx id).memWf = s.memWf := by
  unfold sendCloses
  split <;> simp

@[simp] theorem collCtxEnd_memWf {s : State} (h : s.memWf = true) (ctx teardown) : (collCtxEnd s ctx teardown).memWf = true := by
  fun_cases collCtxEnd s ctx teardown <;> grind [collFail_memWf, sendCloses_memWf, foldl_memWf, foldl_keeps, foldl_snd_memWf,
    foldl_snd_keeps]

/-! ### Saved images -/

@[simp] theorem writeRecord_memWf {s : State} (h : s.memWf = true) (g) : (writeRecord s g).memWf = true :=
  foldl_keeps _ _ (fun _ _ h => memPutNat_memWf h ..) (clearBytes_memWf h _)

@[simp] theorem imagePut_memWf {s : State} (h : s.memWf = true) (g off bs) : (imagePut s g off bs).memWf = true := by
  simp [imagePut, h]

/-! ### Capsule records -/

@[simp] theorem setRecWord_memWf {s : State} (h : s.memWf = true) (pa i x) : (setRecWord s pa i x).memWf = true := by
  simp [setRecWord, h]

@[simp] theorem capStatus_memWf {s : State} (h : s.memWf = true) (g k pa ost lease) :
    (capStatus s g k pa ost lease).memWf = true := by
  simp [capStatus, h]

@[simp] theorem capGroupStatus_memWf {s : State} (h : s.memWf = true) (g ost) : (capGroupStatus s g ost).memWf = true :=
  foldl_keeps _ _ (fun _ _ h => by split <;> simp [h]) h

@[simp] theorem resumeCapsule_memWf {s : State} (h : s.memWf = true) (id start) : (resumeCapsule s id start).memWf = true := by
  unfold resumeCapsule
  (repeat' split) <;> simp [h]

/-! ### Traps, faults and fetch -/

@[simp] theorem physPut_memWf {s : State} (h : s.memWf = true) (core pa bs tag) : (physPut s core pa bs tag).memWf = true := by
  fun_cases physPut s core pa bs tag
  · simp [h]
  · exact storeHost_memWf h ..
  · exact h

@[simp] theorem fetchPeer_memWf (s : State) (g core pa l) : (fetchPeer s g core pa l).2.memWf = s.memWf := by
  fun_cases fetchPeer s g core pa l <;> grind [takeTag_memWf, sendPacket_memWf, State.memWf]

@[simp] theorem fetchWord_memWf (s : State) (g core reach off) : (fetchWord s g core reach off).2.memWf = s.memWf := by
  fun_cases fetchWord s g core reach off <;> grind [checkAccess_memWf, fetchPeer_memWf]

@[simp] theorem landingCheck_memWf (s : State) (g w reach target tag) :
    (landingCheck s g w reach target tag).2.memWf = s.memWf := by
  unfold landingCheck
  grind [fetchWord_memWf]

@[simp] theorem countEnded_memWf (s : State) (kid faulted) : (countEnded s kid faulted).memWf = s.memWf := memWf_congr rfl rfl

@[simp] theorem modConvoy_memWf (s : State) (kid f) : (modConvoy s kid f).memWf = s.memWf := memWf_congr rfl rfl

@[simp] theorem setConvoy_memWf (s : State) (kid st) : (setConvoy s kid st).memWf = s.memWf := by
  unfold setConvoy
  split <;> simp

@[simp] theorem closeConvoy_memWf (s : State) (kid) : (closeConvoy s kid).memWf = s.memWf := by
  fun_cases closeConvoy s kid <;> grind [setConvoy_memWf, State.memWf]

@[simp] theorem markEnded_memWf (s : State) (kid gid) : (markEnded s kid gid).memWf = s.memWf := by simp [markEnded]

@[simp] theorem readyCarry_memWf (s : State) (kid tag parked) : (readyCarry s kid tag parked).memWf = s.memWf := memWf_congr rfl rfl

@[simp] theorem breakConvoy_memWf (s : State) (kid) : (breakConvoy s kid).memWf = s.memWf := by
  fun_cases breakConvoy s kid <;> grind [setConvoy_memWf, readyCarry_memWf, State.memWf]

@[simp] theorem groupFault_memWf {s : State} (h : s.memWf = true) (gid reason) : (groupFault s gid reason).memWf = true := by
  fun_cases groupFault s gid reason <;> grind [emitGroup_memWf, capGroupStatus_memWf, modGroup_memWf, writeRecord_memWf,
    countEnded_memWf, markEnded_memWf, breakConvoy_memWf, collLeave_memWf, barFailGroup_memWf, leaveSems_memWf, State.memWf]

@[simp] theorem parkAt_memWf (s : State) (v p) : (parkAt s v p).memWf = s.memWf := by simp [parkAt]

@[simp] theorem stallAt_memWf (s : State) (v w) : (stallAt s v w).memWf = s.memWf := memWf_congr rfl rfl

@[simp] theorem retryAt_memWf (s : State) (v) : (retryAt s v).memWf = s.memWf := memWf_congr rfl rfl

@[simp] theorem emitExec_memWf (s : State) (g w ev obj payload) : (emitExec s g w ev obj payload).memWf = s.memWf := by
  simp [emitExec]

@[simp] theorem enterVector_memWf {s : State} (h : s.memWf = true) (id) : (enterVector s id).memWf = true := by
  fun_cases enterVector s id <;> grind [emitGroup_memWf, groupFault_memWf, landingCheck_memWf, modThread_memWf, openFault_memWf,
    countCore_memWf, raiseCtxFatal_memWf]

@[simp] theorem retryVectors_memWf {s : State} (h : s.memWf = true) (ctx) : (retryVectors s ctx).memWf = true :=
  foldl_keeps _ _ (fun _ _ h => by simp [h]) h

@[simp] theorem enterHandler_memWf {s : State} (h : s.memWf = true) (id slot ti) : (enterHandler s id slot ti).memWf = true := by
  unfold enterHandler
  dsimp only
  split <;> simp [h]

@[simp] theorem settleHalt_memWf {s : State} (h : s.memWf = true) (gid) : (settleHalt s gid).memWf = true := by
  unfold settleHalt
  split <;> simp [h]

@[simp] theorem takeTrap_memWf {s : State} (h : s.memWf = true) (id ti) : (takeTrap s id ti).memWf = true := by
  unfold takeTrap
  (repeat' split) <;> simp [h]

@[simp] theorem signalTrap_memWf {s : State} (h : s.memWf = true) (v cause addr info) :
    (signalTrap s v cause addr info).memWf = true := by
  simp [signalTrap, h]

@[simp] theorem refuseAccess_memWf {s : State} (h : s.memWf = true) (v va a level) :
    (refuseAccess s v va a level).memWf = true := by
  simp [refuseAccess, h]

@[simp] theorem signalTrapNext_memWf {s : State} (h : s.memWf = true) (v cause info) :
    (signalTrapNext s v cause info).memWf = true := by
  simp [signalTrapNext, h]

@[simp] theorem stallFault_memWf {s : State} (h : s.memWf = true) (v kind level va a stc) :
    (stallFault s v kind level va a stc).memWf = true := by
  simp [stallFault, h]

@[simp] theorem serveSlot_memWf {s : State} (h : s.memWf = true) (gid) : (serveSlot s gid).memWf = true := by
  fun_cases serveSlot s gid <;> simp [h]

@[simp] theorem serveSlots_memWf {s : State} (h : s.memWf = true) (gid) : (serveSlots s gid).memWf = true :=
  foldl_keeps _ _ (fun _ _ h => by simp [h]) h

@[simp] theorem haltGroup_haltNow_memWf {s : State} (h : s.memWf = true) (gid force) :
    (haltGroup.haltNow s gid force).memWf = true := by
  simp [haltGroup.haltNow, h]

@[simp] theorem haltGroup_memWf {s : State} (h : s.memWf = true) (gid force) : (haltGroup s gid force).memWf = true := by
  unfold haltGroup
  (repeat' split) <;> simp [h]

@[simp] theorem returnTrap_memWf {s : State} (h : s.memWf = true) (id) : (returnTrap s id).memWf = true := by simp [returnTrap, h]

@[simp] theorem pathStep_memWf (s : State) (v x) : (pathStep s v x).memWf = s.memWf := memWf_congr rfl rfl

@[simp] theorem askRemote_memWf (s : State) (ctx t p) : (askRemote s ctx t p).2.memWf = s.memWf := by
  grind [askRemote, sendPacket_memWf, State.memWf]

@[simp] theorem sendRequest_memWf (s : State) (v p) : (sendRequest s v p).memWf = s.memWf := by simp [sendRequest]

@[simp] theorem takeRemote_memWf (s : State) (v) : (takeRemote s v).memWf = s.memWf := memWf_congr rfl rfl

/-! ### Integer instructions -/

theorem intAlu_memWf {s : State} (h : s.memWf = true) (f fn) : NextMemWf (intAlu f s fn) := issueAlu_memWf h ..

theorem execIadd_memWf {s : State} (h : s.memWf = true) (f) : NextMemWf (execIadd f s) := intAlu_memWf h ..

theorem execIsub_memWf {s : State} (h : s.memWf = true) (f) : NextMemWf (execIsub f s) := intAlu_memWf h ..

theorem execImul_memWf {s : State} (h : s.memWf = true) (f) : NextMemWf (execImul f s) := intAlu_memWf h ..

theorem execImulh_memWf {s : State} (h : s.memWf = true) (f) : NextMemWf (execImulh f s) := intAlu_memWf h ..

theorem execImad_memWf {s : State} (h : s.memWf = true) (f) : NextMemWf (execImad f s) := intAlu_memWf h ..

theorem execImin_memWf {s : State} (h : s.memWf = true) (f) : NextMemWf (execImin f s) := intAlu_memWf h ..

theorem execImax_memWf {s : State} (h : s.memWf = true) (f) : NextMemWf (execImax f s) := intAlu_memWf h ..

theorem execIabs_memWf {s : State} (h : s.memWf = true) (f) : NextMemWf (execIabs f s) := intAlu_memWf h ..

theorem execIneg_memWf {s : State} (h : s.memWf = true) (f) : NextMemWf (execIneg f s) := intAlu_memWf h ..

theorem execIsad_memWf {s : State} (h : s.memWf = true) (f) : NextMemWf (execIsad f s) := intAlu_memWf h ..

theorem execClamp_memWf {s : State} (h : s.memWf = true) (f) : NextMemWf (execClamp f s) := intAlu_memWf h ..

theorem execImadw_memWf {s : State} (h : s.memWf = true) (f) : NextMemWf (execImadw f s) := issueAlu_memWf h ..

theorem execIdiv_memWf {s : State} (h : s.memWf = true) (f) : NextMemWf (execIdiv f s) := issueAlu_memWf h ..

theorem execIrem_memWf {s : State} (h : s.memWf = true) (f) : NextMemWf (execIrem f s) := issueAlu_memWf h ..

theorem execIadc_memWf {s : State} (h : s.memWf = true) (f) : NextMemWf (execIadc f s) := issueAlu_memWf h ..

theorem execIsbc_memWf {s : State} (h : s.memWf = true) (f) : NextMemWf (execIsbc f s) := issueAlu_memWf h ..

theorem logicAlu_memWf {s : State} (h : s.memWf = true) (f fn) : NextMemWf (logicAlu f s fn) := issueAlu_memWf h ..

theorem execIand_memWf {s : State} (h : s.memWf = true) (f) : NextMemWf (execIand f s) := logicAlu_memWf h ..

theorem execIor_memWf {s : State} (h : s.memWf = true) (f) : NextMemWf (execIor f s) := logicAlu_memWf h ..

theorem execIxor_memWf {s : State} (h : s.memWf = true) (f) : NextMemWf (execIxor f s) := logicAlu_memWf h ..

theorem execInot_memWf {s : State} (h : s.memWf = true) (f) : NextMemWf (execInot f s) := logicAlu_memWf h ..

theorem execLop3_memWf {s : State} (h : s.memWf = true) (f) : NextMemWf (execLop3 f s) := issueAlu_memWf h ..

theorem execShl_memWf {s : State} (h : s.memWf = true) (f) : NextMemWf (execShl f s) := issueAlu_memWf h ..

theorem execShr_memWf {s : State} (h : s.memWf = true) (f) : NextMemWf (execShr f s) := issueAlu_memWf h ..

theorem execSar_memWf {s : State} (h : s.memWf = true) (f) : NextMemWf (execSar f s) := issueAlu_memWf h ..

theorem execRol_memWf {s : State} (h : s.memWf = true) (f) : NextMemWf (execRol f s) := issueAlu_memWf h ..

theorem execFshr_memWf {s : State} (h : s.memWf = true) (f) : NextMemWf (execFshr f s) := issueAlu_memWf h ..

theorem bitAlu_memWf {s : State} (h : s.memWf = true) (f fn) : NextMemWf (bitAlu f s fn) := issueAlu_memWf h ..

theorem execPopc_memWf {s : State} (h : s.memWf = true) (f) : NextMemWf (execPopc f s) := bitAlu_memWf h ..

theorem execClz_memWf {s : State} (h : s.memWf = true) (f) : NextMemWf (execClz f s) := bitAlu_memWf h ..

theorem execCtz_memWf {s : State} (h : s.memWf = true) (f) : NextMemWf (execCtz f s) := bitAlu_memWf h ..

theorem execBrev_memWf {s : State} (h : s.memWf = true) (f) : NextMemWf (execBrev f s) := bitAlu_memWf h ..

theorem execBfx_memWf {s : State} (h : s.memWf = true) (f) : NextMemWf (execBfx f s) := issueAlu_memWf h ..

theorem execBfi_memWf {s : State} (h : s.memWf = true) (f) : NextMemWf (execBfi f s) := issueAlu_memWf h ..

theorem execPrmb_memWf {s : State} (h : s.memWf = true) (f) : NextMemWf (execPrmb f s) := issueAlu_memWf h ..

theorem execIcmp_memWf {s : State} (h : s.memWf = true) (f) : NextMemWf (execIcmp f s) := issueAlu_memWf h ..

theorem execIset_memWf {s : State} (h : s.memWf = true) (f) : NextMemWf (execIset f s) := issueAlu_memWf h ..

theorem execSel_memWf {s : State} (h : s.memWf = true) (f) : NextMemWf (execSel f s) := issueAlu_memWf h ..

theorem execMov_memWf {s : State} (h : s.memWf = true) (f) : NextMemWf (execMov f s) := issueAlu_memWf h ..

theorem execMovi_memWf {s : State} (h : s.memWf = true) (f) : NextMemWf (execMovi f s) := issueAlu_memWf h ..

theorem execMovl_memWf {s : State} (h : s.memWf = true) (f) : NextMemWf (execMovl f s) := issueAlu_memWf h ..

theorem execLea_memWf {s : State} (h : s.memWf = true) (f) : NextMemWf (execLea f s) := issueEach_memWf h _ fun _ _ h => by simp [h]

theorem execCvti_memWf {s : State} (h : s.memWf = true) (f) : NextMemWf (execCvti f s) := issueAlu_memWf h ..

/-! ### Accesses -/

@[simp] theorem releaseFrom_memWf {s : State} (h : s.memWf = true) (core scope) : (releaseFrom s core scope).memWf = true := by
  simp [releaseFrom, h]

@[simp] theorem acquireTo_memWf (s : State) (core scope) : (acquireTo s core scope).memWf = s.memWf := by simp [acquireTo]

@[simp] theorem resolve_memWf (s : State) (v va a size) : (resolve s v va a size).2.memWf = s.memWf := by
  fun_cases resolve s v va a size <;> grind [checkAccess_memWf, modThread_memWf]

@[simp] theorem failAccess_memWf {s : State} (h : s.memWf = true) (v va a r stc) : (failAccess s v va a r stc).memWf = true := by
  unfold failAccess
  split <;> simp [h]

theorem access_memWf {s : State} (h : s.memWf = true) (v va a size code) {k} (hk : ∀ s x, s.memWf = true → (k s x).memWf = true) :
    (access s v va a size code k).memWf = true := by
  fun_cases access s v va a size code k <;> grind [signalTrap_memWf, resolve_memWf, failAccess_memWf]

@[simp] theorem winRead_memWf {s : State} (h : s.memWf = true) (core w n) : (winRead s core w n).2.memWf = true := by
  unfold winRead
  split <;> simp [h]

@[simp] theorem winWrite_memWf {s : State} (h : s.memWf = true) (core w bs) : (winWrite s core w bs).memWf = true := by
  unfold winWrite
  dsimp only
  (repeat' split) <;> simp [h]

@[simp] theorem loadAcquire_memWf (s : State) (v) : (loadAcquire s v).memWf = s.memWf := by simp [loadAcquire]

@[simp] theorem readMain_memWf {s : State} (h : s.memWf = true) (v l va pa n scope ord) :
    (readMain s v l va pa n scope ord).2.memWf = true := by
  fun_cases readMain s v l va pa n scope ord
  grind [stowTile_memWf, coreRead_memWf, wideRead_memWf, acquireTo_memWf]

@[simp] theorem remoteAsk_memWf {s : State} (h : s.memWf = true) (v va a l rank p) :
    (remoteAsk s v va a l rank p).memWf = true := by
  unfold remoteAsk
  split <;> simp [h]

theorem remoteTake_memWf {s : State} (h : s.memWf = true) (v va a l st bs) {k} (hk : ∀ s x, s.memWf = true → (k s x).memWf = true) :
    (remoteTake s v va a l st bs k).memWf = true := by
  fun_cases remoteTake s v va a l st bs k <;> simp [*]

theorem winLoad_memWf {s : State} (h : s.memWf = true) (v w n) {k} (hk : ∀ s x, s.memWf = true → (k s x).memWf = true) :
    (winLoad s v w n k).memWf = true := by
  fun_cases winLoad s v w n k <;> grind [stallAt_memWf, winRead_memWf, acquireTo_memWf]

@[simp] theorem winStore_memWf {s : State} (h : s.memWf = true) (v w bs) : (winStore s v w bs).memWf = true := by simp [winStore, h]

theorem loadStowed_memWf {s : State} (h : s.memWf = true) (v l va n) {k} (hk : ∀ s x, s.memWf = true → (k s x).memWf = true) :
    (loadStowed s v l va n k).memWf = true := by
  grind [loadStowed, readMain_memWf]

theorem loadAt_memWf {s : State} (h : s.memWf = true) (v va a n r) {k} (hk : ∀ s x, s.memWf = true → (k s x).memWf = true) :
    (loadAt s v va a n r k).memWf = true := by
  unfold loadAt
  grind [winLoad_memWf, loadStowed_memWf, stallAt_memWf, readMain_memWf, loadAcquire_memWf, remoteTake_memWf, remoteAsk_memWf]

@[simp] theorem writeLoad_memWf (s : State) (v n sx bs) : (writeLoad s v n sx bs).memWf = s.memWf := memWf_congr rfl rfl

theorem scratchAccess_memWf {s : State} (h : s.memWf = true) (v a o n code) {k} (hk : ∀ s, s.memWf = true → (k s).memWf = true) :
    (scratchAccess s v a o n code k).memWf = true := by
  fun_cases scratchAccess s v a o n code k <;> simp [*]

@[simp] theorem wakeTagOf_memWf (s : State) (gid unit p) : (wakeTagOf s gid unit p).2.memWf = s.memWf := by
  fun_cases wakeTagOf s gid unit p <;> rfl

@[simp] theorem scratchWrite_memWf (s : State) (unit gid ix o bs) : (scratchWrite s unit gid ix o bs).memWf = s.memWf := by
  simp [scratchWrite]

@[simp] theorem rmwAt_memWf {s : State} (h : s.memWf = true) (core unit cpol scope ord pa n put f) :
    (rmwAt s core unit cpol scope ord pa n put f).2.memWf = true := by
  simp [rmwAt, h, apply_ite Prod.snd]

@[simp] theorem postPeer_memWf (s : State) (ctx filt unit rank q) : (postPeer s ctx filt unit rank q).memWf = s.memWf := by
  simp [postPeer]

@[simp] theorem performStore_memWf {s : State} (h : s.memWf = true) (g ix o) : (performStore s g ix o).memWf = true := by
  have hr : (if o.ord = 2 then releaseFrom s (g.cores.getD ix 0) (scopeIn g o.scope) else s).memWf = true := by simp [h]
  unfold performStore
  dsimp only
  generalize (if o.ord = 2 then releaseFrom s (g.cores.getD ix 0) (scopeIn g o.scope) else s) = s' at hr ⊢
  split
  · simp [h]
  · split
    · simp [hr]
    · simp [hr]
    · exact storeHost_memWf hr ..
    · exact storeHost_memWf hr ..
    · simp [hr]

@[simp] theorem departOldest_memWf {s : State} (h : s.memWf = true) (gid ix) : (departOldest s gid ix).memWf = true := by
  fun_cases departOldest s gid ix <;> grind [modGroup_memWf, performStore_memWf, foldl_keeps]

theorem execStoreQueueDepart_memWf {s : State} (h : s.memWf = true) (gid spreadIx) :
    NextMemWf (execStoreQueueDepart gid spreadIx s) := by
  simp [execStoreQueueDepart, h]

@[simp] theorem drainStores_memWf {s : State} (h : s.memWf = true) (gid n) : (drainStores s gid n).memWf = true := by
  induction n generalizing s with
  | zero => exact h
  | succ n ih =>
    unfold drainStores
    split
    · exact h
    · exact ih (departOldest_memWf h ..)

@[simp] theorem drainCore_memWf {s : State} (h : s.memWf = true) (gid ix n) : (drainCore s gid ix n).memWf = true := by
  induction n generalizing s with
  | zero => exact h
  | succ n ih =>
    unfold drainCore
    split
    · exact h
    · exact ih (departOldest_memWf h ..)

@[simp] theorem groupRelease_memWf {s : State} (h : s.memWf = true) (g w) : (groupRelease s g w).memWf = true := by
  simp [groupRelease, h]

@[simp] theorem groupAcquire_memWf (s : State) (g w) : (groupAcquire s g w).memWf = s.memWf := by simp [groupAcquire]

theorem storeGang_memWf {s : State} (h : s.memWf = true) (vs) {one} (hk : ∀ v s, s.memWf = true → (one v s).2.memWf = true) :
    (storeGang vs s one).memWf = true := by
  unfold storeGang
  grind [stallAt_memWf, modGroup_memWf, foldl_keeps, foldl_snd_keeps]

theorem storeAccess_memWf {s : State} (h : s.memWf = true) (v va n code a) {k}
    (hk : ∀ s r, s.memWf = true → (k s r).2.memWf = true) :
    (storeAccess s v va n code a k).2.memWf = true := by
  fun_cases storeAccess s v va n code a k <;> grind [signalTrap_memWf, resolve_memWf, failAccess_memWf]

/-! ### Control transfer and joining -/

@[simp] theorem completeRound_memWf {s : State} (h : s.memWf = true) (g r) : (completeRound s g r).memWf = true := by
  simp [completeRound, h]

@[simp] theorem settleRounds_memWf {s : State} (h : s.memWf = true) (gid) : (settleRounds s gid).memWf = true := by
  fun_cases settleRounds s gid <;> grind [completeRound_memWf, foldl_keeps]

theorem execWaitjExpiry_memWf {s : State} (h : s.memWf = true) (gid n slot) : NextMemWf (execWaitjExpiry gid n slot s) := by
  simp [execWaitjExpiry, h]

theorem execNop_memWf {s : State} (h : s.memWf = true) (f) : NextMemWf (execNop f s) := issueEach_memWf h _ fun _ _ h => by simp [h]

theorem execLand_memWf {s : State} (h : s.memWf = true) (f) : NextMemWf (execLand f s) :=
  issueEach_memWf h _ fun _ _ h => by simp [h]

@[simp] theorem takeTransfer_memWf (s : State) (v target) : (takeTransfer s v target).memWf = s.memWf := by simp [takeTransfer]

theorem execBra_memWf {s : State} (h : s.memWf = true) (f) : NextMemWf (execBra f s) := issueEach_memWf h _ fun _ _ h => by simp [h]

theorem execCall_memWf {s : State} (h : s.memWf = true) (f) : NextMemWf (execCall f s) :=
  issueEach_memWf h _ fun _ _ h => by simp [h]

theorem registerTransfer_memWf {s : State} (h : s.memWf = true) (v land) {go} (hk : ∀ s x, s.memWf = true → (go s x).memWf = true) :
    (registerTransfer v s land go).memWf = true := by
  fun_cases registerTransfer v s land go <;> grind [signalTrap_memWf, refuseAccess_memWf, landingCheck_memWf, stallFault_memWf,
    raiseCtxFatal_memWf, retryAt_memWf, stallAt_memWf]

theorem execBrx_memWf {s : State} (h : s.memWf = true) (f) : NextMemWf (execBrx f s) :=
  issueEach_memWf h _ fun _ _ h => by grind [registerTransfer_memWf, takeTransfer_memWf]

theorem execCallx_memWf {s : State} (h : s.memWf = true) (f) : NextMemWf (execCallx f s) :=
  issueEach_memWf h _ fun _ _ h => by grind [registerTransfer_memWf, takeTransfer_memWf, applyEff_memWf]

theorem execRet_memWf {s : State} (h : s.memWf = true) (f) : NextMemWf (execRet f s) :=
  issueEach_memWf h _ fun _ _ h => by grind [registerTransfer_memWf, takeTransfer_memWf]

@[simp] theorem modMask_memWf (s : State) (gid n m) : (modMask s gid n m).memWf = s.memWf := memWf_congr rfl rfl

@[simp] theorem thenSettle_memWf {s : State} (h : s.memWf = true) (vs) : (thenSettle vs s).memWf = true := by
  unfold thenSettle
  split <;> simp [h]

theorem execJoin_memWf {s : State} (h : s.memWf = true) (f) : NextMemWf (execJoin f s) :=
  issueGang_memWf h _ fun _ _ h => by simp [h]

@[simp] theorem arriveRound_memWf (s : State) (v) : (arriveRound v s).memWf = s.memWf := by
  unfold arriveRound
  split <;> rfl

theorem execWaitj_memWf {s : State} (h : s.memWf = true) (f) : NextMemWf (execWaitj f s) :=
  issueGang_memWf h _ fun _ _ h => by simp [h]

theorem execJmaskGet_memWf {s : State} (h : s.memWf = true) (f) : NextMemWf (execJmaskGet f s) := issueAlu_memWf h ..

theorem maskUpdate_memWf {s : State} (h : s.memWf = true) (f m) : NextMemWf (maskUpdate f s m) :=
  issueGang_memWf h _ fun _ _ h => by simp [h]

theorem execJmaskSet_memWf {s : State} (h : s.memWf = true) (f) : NextMemWf (execJmaskSet f s) := maskUpdate_memWf h ..

theorem execJmaskOr_memWf {s : State} (h : s.memWf = true) (f) : NextMemWf (execJmaskOr f s) := maskUpdate_memWf h ..

theorem execJmaskAndn_memWf {s : State} (h : s.memWf = true) (f) : NextMemWf (execJmaskAndn f s) := maskUpdate_memWf h ..

@[simp] theorem exitStrand_memWf {s : State} (h : s.memWf = true) (g k) : (exitStrand s g k).memWf = true := by
  unfold exitStrand
  split <;> simp [h]

@[simp] theorem afterExit_memWf {s : State} (h : s.memWf = true) (gid) : (afterExit s gid).memWf = true := by
  grind [afterExit, modGroup_memWf, settleHalt_memWf, serveSlots_memWf, settleRounds_memWf]

theorem execExit_memWf {s : State} (h : s.memWf = true) (f) : NextMemWf (execExit f s) :=
  issueGang_memWf h _ fun _ _ h => by grind [exitStrand_memWf, afterExit_memWf, foldl_memWf, foldl_keeps]

@[simp] theorem leaveGang_memWf (s : State) : (leaveGang s).memWf = s.memWf := memWf_congr rfl rfl

theorem execYield_memWf {s : State} (h : s.memWf = true) (f) : NextMemWf (execYield f s) :=
  issueGang_memWf h _ fun _ _ h => by simp [h]

theorem execNap_memWf {s : State} (h : s.memWf = true) (f) : NextMemWf (execNap f s) := by
  fun_cases execNap f s <;> grind [issueGang_memWf, leaveGang_memWf, issueEach_memWf, parkAt_memWf]

theorem execNapWake_memWf {s : State} (h : s.memWf = true) (t) : NextMemWf (execNapWake t s) := by simp [execNapWake, h]

theorem execTrap_memWf {s : State} (h : s.memWf = true) (f) : NextMemWf (execTrap f s) :=
  issueEach_memWf h _ fun _ _ h => by simp [h]

@[simp] theorem breakGroup_memWf {s : State} (h : s.memWf = true) (code vs) : (breakGroup code vs s).memWf = true := by
  unfold breakGroup
  split <;> simp [h]

theorem execBkpt_memWf {s : State} (h : s.memWf = true) (f) : NextMemWf (execBkpt f s) :=
  issueGang_memWf h _ fun _ _ h => by grind [breakGroup_memWf, signalTrap_memWf, foldl_keeps]

@[simp] theorem trapReturn_memWf {s : State} (h : s.memWf = true) (v) : (trapReturn v s).memWf = true := by
  unfold trapReturn
  (repeat' split) <;> simp [h]

theorem execTrapret_memWf {s : State} (h : s.memWf = true) (f) : NextMemWf (execTrapret f s) :=
  issueEach_memWf h _ fun _ _ h => by simp [h]

@[simp] theorem pilotRelease_memWf {s : State} (h : s.memWf = true) (g) : (pilotRelease s g).memWf = true := by
  simp [pilotRelease, h]

theorem execRelease_memWf {s : State} (h : s.memWf = true) (f) : NextMemWf (execRelease f s) :=
  issueEach_memWf h _ fun _ _ h => by simp [h]

@[simp] theorem wakePops_memWf (s : State) (gid n) : (wakePops s gid n).memWf = s.memWf := by
  fun_cases wakePops s gid n <;> grind [takeTag_memWf, modThread_memWf, State.memWf, foldl_memWf, foldl_keeps]

@[simp] theorem pushEntry_memWf {s : State} (h : s.memWf = true) (v) : (pushEntry s v).memWf = true := by simp [pushEntry, h]

theorem execDqpush_memWf {s : State} (h : s.memWf = true) (f) : NextMemWf (execDqpush f s) :=
  issueEach_memWf h _ fun _ _ h => by simp [h]

theorem execDqpushNb_memWf {s : State} (h : s.memWf = true) (f) : NextMemWf (execDqpushNb f s) :=
  issueEach_memWf h _ fun _ _ h => by simp [h]

@[simp] theorem popEntry_memWf (s : State) (v nb) : (popEntry v nb s).memWf = s.memWf := by
  unfold popEntry
  (repeat' split) <;> simp

theorem popGang_memWf {s : State} (h : s.memWf = true) (f nb) : NextMemWf (popGang f s nb) := by
  refine issueGang_memWf h f fun vs s h => ?_
  exact (memWf_congr rfl rfl).trans (foldl_keeps (sortBy _ vs) s (fun _ _ h => by simp [h]) h)

theorem execDqpop_memWf {s : State} (h : s.memWf = true) (f) : NextMemWf (execDqpop f s) := popGang_memWf h ..

theorem execDqpopNb_memWf {s : State} (h : s.memWf = true) (f) : NextMemWf (execDqpopNb f s) := popGang_memWf h ..

@[simp] theorem pilotHalt_memWf {s : State} (h : s.memWf = true) (v) : (pilotHalt v s).memWf = true := by
  fun_cases pilotHalt v s
  grind [modThread_memWf, exitStrand_memWf, emitGroup_memWf, afterExit_memWf, wakePops_memWf,
    foldl_keeps]

theorem execPhalt_memWf {s : State} (h : s.memWf = true) (f) : NextMemWf (execPhalt f s) :=
  issueEach_memWf h _ fun _ _ h => by simp [h]

/-! ### Floating point -/

theorem flt2_memWf {s : State} (h : s.memWf = true) (f op) : NextMemWf (flt2 f s op) := issueAlu_memWf h ..

theorem execFadd_memWf {s : State} (h : s.memWf = true) (f) : NextMemWf (execFadd f s) := flt2_memWf h ..

theorem execFsub_memWf {s : State} (h : s.memWf = true) (f) : NextMemWf (execFsub f s) := flt2_memWf h ..

theorem execFmul_memWf {s : State} (h : s.memWf = true) (f) : NextMemWf (execFmul f s) := flt2_memWf h ..

theorem execFfma_memWf {s : State} (h : s.memWf = true) (f) : NextMemWf (execFfma f s) := issueAlu_memWf h ..

theorem fltMinMax_memWf {s : State} (h : s.memWf = true) (isMax f) : NextMemWf (fltMinMax isMax f s) := issueAlu_memWf h ..

theorem execFmin_memWf {s : State} (h : s.memWf = true) (f) : NextMemWf (execFmin f s) := fltMinMax_memWf h ..

theorem execFmax_memWf {s : State} (h : s.memWf = true) (f) : NextMemWf (execFmax f s) := fltMinMax_memWf h ..

theorem execFcmp_memWf {s : State} (h : s.memWf = true) (f) : NextMemWf (execFcmp f s) := issueAlu_memWf h ..

theorem execFset_memWf {s : State} (h : s.memWf = true) (f) : NextMemWf (execFset f s) := issueAlu_memWf h ..

theorem execFclass_memWf {s : State} (h : s.memWf = true) (f) : NextMemWf (execFclass f s) := issueAlu_memWf h ..

theorem execFrcp_memWf {s : State} (h : s.memWf = true) (f) : NextMemWf (execFrcp f s) := issueAlu_memWf h ..

theorem execFsqrt_memWf {s : State} (h : s.memWf = true) (f) : NextMemWf (execFsqrt f s) := issueAlu_memWf h ..

theorem execFdiv_memWf {s : State} (h : s.memWf = true) (f) : NextMemWf (execFdiv f s) := issueAlu_memWf h ..

theorem execFrnd_memWf {s : State} (h : s.memWf = true) (f) : NextMemWf (execFrnd f s) := issueAlu_memWf h ..

theorem execFscale_memWf {s : State} (h : s.memWf = true) (f) : NextMemWf (execFscale f s) := issueAlu_memWf h ..

theorem execFcvt_memWf {s : State} (h : s.memWf = true) (f) : NextMemWf (execFcvt f s) := issueAlu_memWf h ..

theorem execFcvti_memWf {s : State} (h : s.memWf = true) (f) : NextMemWf (execFcvti f s) := issueAlu_memWf h ..

theorem execIcvtf_memWf {s : State} (h : s.memWf = true) (f) : NextMemWf (execIcvtf f s) := issueAlu_memWf h ..

theorem execFdot2_memWf {s : State} (h : s.memWf = true) (f) : NextMemWf (execFdot2 f s) := issueAlu_memWf h ..

/-! ### Across lanes -/

theorem laneIssue_memWf {s : State} (h : s.memWf = true) (f eff) : NextMemWf (laneIssue f s eff) :=
  issueGang_memWf h _ fun _ _ h => by simp [h]

theorem execLmov_memWf {s : State} (h : s.memWf = true) (f) : NextMemWf (execLmov f s) := laneIssue_memWf h ..

theorem execBallot_memWf {s : State} (h : s.memWf = true) (f) : NextMemWf (execBallot f s) := laneIssue_memWf h ..

theorem execVote_memWf {s : State} (h : s.memWf = true) (f) : NextMemWf (execVote f s) := laneIssue_memWf h ..

theorem execLrank_memWf {s : State} (h : s.memWf = true) (f) : NextMemWf (execLrank f s) := laneIssue_memWf h ..

theorem execLaneMatch_memWf {s : State} (h : s.memWf = true) (f) : NextMemWf (execLaneMatch f s) := laneIssue_memWf h ..

theorem execLred_memWf {s : State} (h : s.memWf = true) (f) : NextMemWf (execLred f s) := laneIssue_memWf h ..

theorem execLscan_memWf {s : State} (h : s.memWf = true) (f) : NextMemWf (execLscan f s) := laneIssue_memWf h ..

theorem execLbcast_memWf {s : State} (h : s.memWf = true) (f) : NextMemWf (execLbcast f s) := laneIssue_memWf h ..

theorem execLcomp_memWf {s : State} (h : s.memWf = true) (f) : NextMemWf (execLcomp f s) := laneIssue_memWf h ..

theorem execLfirst_memWf {s : State} (h : s.memWf = true) (f) : NextMemWf (execLfirst f s) := laneIssue_memWf h ..

/-! ### The start of an issue -/

@[simp] theorem fetchWords_memWf (s : State) (g core reach off n) : (fetchWords s g core reach off n).2.memWf = s.memWf := by
  induction n generalizing s off with
  | zero => rfl
  | succ n ih =>
    unfold fetchWords
    grind [fetchWord_memWf]

@[simp] theorem fetchInstr_memWf (s : State) (g core reach off) : (fetchInstr s g core reach off).2.memWf = s.memWf := by
  fun_cases fetchInstr s g core reach off <;> grind [fetchWord_memWf, fetchWords_memWf]

@[simp] theorem fetchFailed_memWf {s : State} (h : s.memWf = true) (e va v) : (fetchFailed e va s v).memWf = true := by
  unfold fetchFailed
  split <;> simp [h]

@[simp] theorem refuseFetch_memWf {s : State} (h : s.memWf = true) (n v) : (refuseFetch n s v).memWf = true := by
  unfold refuseFetch
  split <;> simp [h]

@[simp] theorem fetchStopped_memWf {s : State} (h : s.memWf = true) (e va v) : (fetchStopped e va s v).memWf = true := by
  unfold fetchStopped
  split <;> simp [h]

@[simp] theorem applyVerdict_memWf {s : State} (h : s.memWf = true) (op v) : (applyVerdict op s v).memWf = true := by
  unfold applyVerdict
  split <;> simp [h]

@[simp] theorem settleRow_memWf (s : State) (g vs seg) : (settleRow s g vs seg).2.memWf = s.memWf := by
  unfold settleRow
  dsimp only
  (repeat' split) <;> simp

@[simp] theorem selectIssuer_memWf (s : State) (iss op f vs) : (selectIssuer s iss op f vs).2.memWf = s.memWf := by
  unfold selectIssuer
  dsimp only
  (repeat' split) <;> simp

@[simp] theorem prepare_memWf {s : State} (h : s.memWf = true) (iss) : (prepare iss s).1.memWf = true := by
  fun_cases prepare iss s <;> grind [fetchInstr_memWf, fetchStopped_memWf, refuseFetch_memWf, applyVerdict_memWf,
    selectIssuer_memWf, modThread_memWf, State.memWf, foldl_memWf, foldl_keeps]

@[simp] theorem settleStop_memWf {s : State} (h : s.memWf = true) (id) : (settleStop s id).memWf = true := by
  unfold settleStop
  split <;> simp [h]

@[simp] theorem noteIssue_memWf {s : State} (h : s.memWf = true) (u iss e0) : (noteIssue s u iss e0).memWf = true :=
  foldl_keeps _ _ (fun _ _ h => by simp [h]) h

@[simp] theorem noteJoint_memWf {s : State} (h : s.memWf = true) (u iss e0) : (noteJoint s u iss e0).memWf = true :=
  foldl_keeps _ _ (fun _ _ h => by simp [h]) h

theorem execStarvationGuard_memWf {s : State} (h : s.memWf = true) (core part t) :
    NextMemWf (execStarvationGuard core part t s) := by
  fun_cases execStarvationGuard core part t s
  grind [nextMemWf_next, State.memWf]

/-! ### Loads, stores and atomics -/

theorem execLd_memWf {s : State} (h : s.memWf = true) (f) : NextMemWf (execLd f s) :=
  issueEach_memWf h _ fun _ _ h => by grind [access_memWf, loadAt_memWf, writeLoad_memWf]

@[simp] theorem capStore_memWf {s : State} (h : s.memWf = true) (v c r n x) : (capStore s v c r n x).memWf = true := by
  unfold capStore
  split <;> simp [h]

@[simp] theorem storeOne_putStore_memWf {s : State} (h : s.memWf = true) (v n x r) :
    (storeOne.putStore v n x s r).2.memWf = true := by
  unfold storeOne.putStore
  split <;> simp [h]

@[simp] theorem storeOne_memWf {s : State} (h : s.memWf = true) (v) : (storeOne v s).2.memWf = true := by
  fun_cases storeOne v s
  grind [storeAccess_memWf, capStore_memWf, storeOne_putStore_memWf]

theorem execSt_memWf {s : State} (h : s.memWf = true) (f) : NextMemWf (execSt f s) :=
  issueGang_memWf h _ fun _ _ h => by grind [storeGang_memWf, storeOne_memWf]

theorem execLds_memWf {s : State} (h : s.memWf = true) (f) : NextMemWf (execLds f s) :=
  issueEach_memWf h _ fun _ _ h => by grind [scratchAccess_memWf, writeLoad_memWf]

@[simp] theorem stsOne_memWf {s : State} (h : s.memWf = true) (v) : (stsOne v s).2.memWf = true := by
  fun_cases stsOne v s <;> simp [h]

theorem execSts_memWf {s : State} (h : s.memWf = true) (f) : NextMemWf (execSts f s) :=
  issueGang_memWf h _ fun _ _ h => by grind [storeGang_memWf, stsOne_memWf]

theorem execLdu_memWf {s : State} (h : s.memWf = true) (f) : NextMemWf (execLdu f s) :=
  issueEach_memWf h _ fun _ _ h => by grind [access_memWf, loadAt_memWf, applyPend_memWf]

@[simp] theorem stuOne_memWf {s : State} (h : s.memWf = true) (v) : (stuOne v s).2.memWf = true := by
  fun_cases stuOne v s
  grind [storeAccess_memWf, winStore_memWf]

theorem execStu_memWf {s : State} (h : s.memWf = true) (f) : NextMemWf (execStu f s) :=
  issueGang_memWf h _ fun _ _ h => by grind [storeGang_memWf, stuOne_memWf]

@[simp] theorem failRow_memWf {s : State} (h : s.memWf = true) (row va a r stc) : (failRow s row va a r stc).memWf = true :=
  foldl_keeps _ _ (fun _ _ h => by simp [h]) h

@[simp] theorem holdRow_memWf (s : State) (row) : (holdRow row s).memWf = s.memWf := by
  unfold holdRow
  split <;> simp

@[simp] theorem checkRow_memWf (s : State) (row n) : (checkRow s row n).2.memWf = s.memWf := by
  fun_cases checkRow s row n
  grind [resolve_memWf, foldl_snd_memWf]

@[simp] theorem ldeRow_memWf {s : State} (h : s.memWf = true) (row) : (ldeRow row s).memWf = true := by
  unfold ldeRow
  grind [signalTrap_memWf, checkRow_memWf, failRow_memWf, takeRemote_memWf, stallAt_memWf, loadAt_memWf, writeLoad_memWf,
    State.memWf, foldl_memWf, foldl_keeps, foldl_snd_memWf, foldl_snd_keeps]

theorem execLde_memWf {s : State} (h : s.memWf = true) (f) : NextMemWf (execLde f s) :=
  issueGang_memWf h _ fun _ _ h => by grind [holdRow_memWf, ldeRow_memWf, foldl_keeps]

@[simp] theorem setStcres_memWf (s : State) (row k) : (setStcres s row k).memWf = s.memWf := by simp [setStcres]

@[simp] theorem stcFrom_memWf {s : State} (h : s.memWf = true) (row n m k acc) : (stcFrom row n m k acc s).2.memWf = true := by
  induction m generalizing s k acc with
  | zero => simp [stcFrom, h]
  | succ m ih =>
    unfold stcFrom
    grind [setStcres_memWf, resolve_memWf, winStore_memWf, failRow_memWf]

@[simp] theorem stcRow_memWf {s : State} (h : s.memWf = true) (row) : (stcRow row s).2.memWf = true := by
  unfold stcRow
  grind [signalTrap_memWf, storeOne_memWf, stallAt_memWf, stcFrom_memWf, foldl_keeps]

theorem execStc_memWf {s : State} (h : s.memWf = true) (f) : NextMemWf (execStc f s) :=
  issueGang_memWf h _ fun _ _ h => by grind [holdRow_memWf, stallAt_memWf, stcRow_memWf, modGroup_memWf, foldl_memWf, foldl_keeps,
    foldl_snd_keeps]

@[simp] theorem prefOne_memWf (s : State) (v) : (prefOne v s).memWf = s.memWf := by
  fun_cases prefOne v s <;> simp

theorem execPref_memWf {s : State} (h : s.memWf = true) (f) : NextMemWf (execPref f s) :=
  issueEach_memWf h _ fun _ _ h => by simp [h]

@[simp] theorem readyWalks_memWf {s : State} (h : s.memWf = true) (die) : (readyWalks s die).memWf = true :=
  foldl_keeps _ _ (fun _ _ h => by simp [h]) h

theorem execPageWalk_memWf {s : State} (h : s.memWf = true) (die) : NextMemWf (execPageWalk die s) := by
  unfold execPageWalk
  split <;> simp [h]

@[simp] theorem flushLines_memWf {s : State} (h : s.memWf = true) (v) : (flushLines v s).memWf = true := by
  fun_cases flushLines v s <;> grind [stallAt_memWf, translate_memWf, modCtx_memWf, writeBack_memWf, State.memWf]

theorem execCflush_memWf {s : State} (h : s.memWf = true) (f) : NextMemWf (execCflush f s) :=
  issueEach_memWf h _ fun _ _ h => by simp [h]

theorem execCacheWriteBack_memWf {s : State} (h : s.memWf = true) (core line) : NextMemWf (execCacheWriteBack core line s) := by
  simp [execCacheWriteBack, h]

theorem execStowDecode_memWf {s : State} (h : s.memWf = true) (ctx va) : NextMemWf (execStowDecode ctx va s) := by
  unfold execStowDecode
  split <;> simp [h]

@[simp] theorem rmwLanes_memWf {s : State} (h : s.memWf = true) (vs wait) : (rmwLanes vs s wait).2.memWf = true := by
  fun_cases rmwLanes vs s wait
  grind [signalTrap_memWf, stallAt_memWf, resolve_memWf, failAccess_memWf, foldl_memWf,
    foldl_keeps, foldl_snd_memWf, foldl_snd_keeps]

@[simp] theorem giveOlds_memWf (s : State) (set olds) : (giveOlds s set olds).memWf = s.memWf := by simp [giveOlds]

@[simp] theorem rmwRelease_memWf {s : State} (h : s.memWf = true) (v) : (rmwRelease s v).memWf = true := by simp [rmwRelease, h]

@[simp] theorem rmwAcquire_memWf (s : State) (v) : (rmwAcquire s v).memWf = s.memWf := by simp [rmwAcquire]

@[simp] theorem rmwRemote_memWf {s : State} (h : s.memWf = true) (set l rank a atop operands) :
    (rmwRemote s set l rank a atop operands).memWf = true := by
  fun_cases rmwRemote s set l rank a atop operands <;> grind [remoteTake_memWf, giveOlds_memWf, rmwAcquire_memWf, rmwRelease_memWf,
    remoteAsk_memWf, stallAt_memWf, foldl_memWf, foldl_keeps]

@[simp] theorem rmwSet_memWf {s : State} (h : s.memWf = true) (set atop put fn operands) :
    (rmwSet s set atop put fn operands).memWf = true := by
  cases set with
  | nil => exact h
  | cons x r =>
    have hr : (if 3 ≤ ordOf x.v.f then releaseFrom s (coreOf x.v.g x.v.who) 6 else s).memWf = true := by simp [h]
    unfold rmwSet
    dsimp only
    split
    · simp [winWrite_memWf, winRead_memWf, hr]
    · split
      · simp [h]
      · simp [storeHost_memWf, h]
      · simp [h]
    · exact h

theorem execAtom_memWf {s : State} (h : s.memWf = true) (f) : NextMemWf (execAtom f s) :=
  issueGang_memWf h f fun vs s h => foldl_keeps _ (rmwLanes vs s true).2 (fun _ _ h => by simp [h]) (by simp [h])

@[simp] theorem redSet_memWf {s : State} (h : s.memWf = true) (set) : (redSet set s).2.memWf = true := by
  unfold redSet
  grind [winRead_memWf, releaseFrom_memWf, winWrite_memWf]

theorem execRed_memWf {s : State} (h : s.memWf = true) (f) : NextMemWf (execRed f s) :=
  issueGang_memWf h _ fun _ _ h => by grind [stallAt_memWf, rmwLanes_memWf, redSet_memWf, modGroup_memWf, foldl_keeps,
    foldl_snd_keeps]

theorem casIssue_memWf {s : State} (h : s.memWf = true) (f) : NextMemWf (casIssue f s) :=
  issueGang_memWf h f fun vs s h => foldl_keeps _ (rmwLanes vs s true).2 (fun _ _ h => by simp [h]) (by simp [h])

theorem execCas_memWf {s : State} (h : s.memWf = true) (f) : NextMemWf (execCas f s) := casIssue_memWf h ..

theorem execCas2_memWf {s : State} (h : s.memWf = true) (f) : NextMemWf (execCas2 f s) := casIssue_memWf h ..

@[simp] theorem waitOne_memWf {s : State} (h : s.memWf = true) (f v) : (waitOne f v s).memWf = true := by
  fun_cases waitOne f v s <;> grind [stallAt_memWf, access_memWf, loadAt_memWf, writeLoad_memWf, parkAt_memWf]

theorem execWaita_memWf {s : State} (h : s.memWf = true) (f) : NextMemWf (execWaita f s) :=
  issueEach_memWf h _ fun _ _ h => by simp [h]

@[simp] theorem rereadWait_memWf (s : State) (t) : (rereadWait s t).memWf = s.memWf := memWf_congr rfl rfl

theorem execWaitaWake_memWf {s : State} (h : s.memWf = true) (t) : NextMemWf (execWaitaWake t s) := by simp [execWaitaWake, h]

theorem execWaitaReread_memWf {s : State} (h : s.memWf = true) (t) : NextMemWf (execWaitaReread t s) := by simp [execWaitaReread, h]

theorem execArmw_memWf {s : State} (h : s.memWf = true) (f) : NextMemWf (execArmw f s) :=
  issueEach_memWf h _ fun _ _ h => by grind [stallAt_memWf, scratchAccess_memWf, scratchWrite_memWf, applyPend_memWf]

theorem execWaitw_memWf {s : State} (h : s.memWf = true) (f) : NextMemWf (execWaitw f s) :=
  issueEach_memWf h _ fun _ _ h => by grind [stallAt_memWf, scratchAccess_memWf, parkAt_memWf, applyPend_memWf, dropClean_memWf]

@[simp] theorem arriveAt_memWf (s : State) (unit gid off n) : (arriveAt s unit gid off n).memWf = s.memWf := by
  unfold arriveAt
  split <;> simp

theorem execArrivalWordStep_memWf {s : State} (h : s.memWf = true) (gid off bytes) :
    NextMemWf (execArrivalWordStep gid off bytes s) := by
  unfold execArrivalWordStep
  split <;> simp [h]

@[simp] theorem fenceOne_memWf {s : State} (h : s.memWf = true) (f v) : (fenceOne f v s).memWf = true := by simp [fenceOne, h]

theorem execFence_memWf {s : State} (h : s.memWf = true) (f) : NextMemWf (execFence f s) :=
  issueEach_memWf h _ fun _ _ h => by simp [h]

@[simp] theorem dropCovered_memWf (s : State) (ctx hit) : (dropCovered s ctx hit).memWf = s.memWf := memWf_congr rfl rfl

@[simp] theorem drainCtx_memWf {s : State} (h : s.memWf = true) (ctx) : (drainCtx s ctx).memWf = true :=
  foldl_keeps _ _ (fun _ _ h => by simp [h]) h

@[simp] theorem invalidate_memWf {s : State} (h : s.memWf = true) (v hit) : (invalidate s v hit).memWf = true := by
  simp [invalidate, h]

@[simp] theorem tlbinvEnd_memWf (s : State) (vs) : (tlbinvEnd vs s).memWf = s.memWf := by
  fun_cases tlbinvEnd vs s <;> simp

theorem tlbinvIssue_memWf {s : State} (h : s.memWf = true) (f hit) {ok} : NextMemWf (tlbinvIssue f s ok hit) :=
  issueGang_memWf h _ fun _ _ h => by grind [signalTrap_memWf, stallAt_memWf, tlbinvEnd_memWf, invalidate_memWf, foldl_memWf,
    foldl_keeps]

theorem execTlbinvPage_memWf {s : State} (h : s.memWf = true) (f) : NextMemWf (execTlbinvPage f s) := tlbinvIssue_memWf h ..

theorem execTlbinvRange_memWf {s : State} (h : s.memWf = true) (f) : NextMemWf (execTlbinvRange f s) := tlbinvIssue_memWf h ..

theorem execTlbinvCtx_memWf {s : State} (h : s.memWf = true) (f) : NextMemWf (execTlbinvCtx f s) := tlbinvIssue_memWf h ..

theorem execInterlockedResult_memWf {s : State} (h : s.memWf = true) (t) : NextMemWf (execInterlockedResult t s) := by
  simp [execInterlockedResult, h]

theorem execFaultEntryDelayed_memWf {s : State} (h : s.memWf = true) (ctx) : NextMemWf (execFaultEntryDelayed ctx s) := by
  unfold execFaultEntryDelayed
  split <;> simp [h]

theorem execHostMemoryWrite_memWf {s : State} (h : s.memWf = true) (pa bytes) : NextMemWf (execHostMemoryWrite pa bytes s) := by
  unfold execHostMemoryWrite
  split <;> simp [h]

/-! ### Barriers and semaphores -/

theorem barRemote_memWf {s : State} (h : s.memWf = true) (v key ask) {k} (hk : ∀ s x, s.memWf = true → (k s x).memWf = true) :
    (barRemote s v key ask k).memWf = true := by
  fun_cases barRemote s v key ask k <;> grind [takeRemote_memWf, takeTag_memWf, sendRequest_memWf]

@[simp] theorem mirrorAdd_memWf (s : State) (v key cfg phase) : (mirrorAdd s v key cfg phase).memWf = s.memWf := by simp [mirrorAdd]

@[simp] theorem giveStatus_memWf (s : State) (v x pd) : (giveStatus s v x pd).memWf = s.memWf := memWf_congr rfl rfl

@[simp] theorem givePred_memWf (s : State) (v n b) : (givePred s v n b).memWf = s.memWf := memWf_congr rfl rfl

@[simp] theorem giveInit_memWf {s : State} (h : s.memWf = true) (v x) : (giveInit s v x).memWf = true := by simp [giveInit, h]

@[simp] theorem barinitOne_memWf {s : State} (h : s.memWf = true) (v) : (barinitOne v s).memWf = true := by
  fun_cases barinitOne v s <;> grind [signalTrap_memWf, giveInit_memWf, barRemote_memWf, mirrorAdd_memWf, takeTag_memWf,
    barInit_memWf]

theorem execBarinit_memWf {s : State} (h : s.memWf = true) (f) : NextMemWf (execBarinit f s) :=
  issueEach_memWf h _ fun _ _ h => by simp [h]

@[simp] theorem releaseAt_memWf {s : State} (h : s.memWf = true) (v scope) : (releaseAt s v scope).memWf = true := by
  simp [releaseAt, h]

@[simp] theorem acquireAt_memWf (s : State) (v scope) : (acquireAt s v scope).memWf = s.memWf := by simp [acquireAt]

@[simp] theorem baraOne_accepted_memWf (s : State) (v) : (baraOne.accepted v s).memWf = s.memWf := by simp [baraOne.accepted]

@[simp] theorem baraOne_memWf {s : State} (h : s.memWf = true) (f v) : (baraOne f v s).memWf = true := by
  fun_cases baraOne f v s <;> grind [signalTrap_memWf, stallAt_memWf, giveStatus_memWf, barRemote_memWf, releaseAt_memWf,
    baraOne_accepted_memWf, takeTag_memWf, barArrive_memWf]

theorem execBara_memWf {s : State} (h : s.memWf = true) (f) : NextMemWf (execBara f s) :=
  issueEach_memWf h _ fun _ _ h => by simp [h]

@[simp] theorem barwRemote_memWf {s : State} (h : s.memWf = true) (key tok n test v) :
    (barwRemote key tok n test v s).memWf = true := by
  fun_cases barwRemote key tok n test v s <;> grind [barTest_memWf, givePred_memWf, acquireAt_memWf, barRemote_memWf, parkAt_memWf]

@[simp] theorem barwOne_memWf {s : State} (h : s.memWf = true) (f op test v) : (barwOne f op test v s).memWf = true := by
  fun_cases barwOne f op test v s <;> grind [signalTrap_memWf, barwRemote_memWf, barTest_memWf, givePred_memWf, acquireAt_memWf,
    parkAt_memWf]

theorem execBarw_memWf {s : State} (h : s.memWf = true) (f) : NextMemWf (execBarw f s) :=
  issueEach_memWf h _ fun _ _ h => by simp [h]

theorem execBart_memWf {s : State} (h : s.memWf = true) (f) : NextMemWf (execBart f s) :=
  issueEach_memWf h _ fun _ _ h => by simp [h]

@[simp] theorem bardropOne_memWf {s : State} (h : s.memWf = true) (f v) : (bardropOne f v s).memWf = true := by
  fun_cases bardropOne f v s <;> grind [signalTrap_memWf, givePred_memWf, barRemote_memWf, dropMembers_memWf, takeTag_memWf]

theorem execBardrop_memWf {s : State} (h : s.memWf = true) (f) : NextMemWf (execBardrop f s) :=
  issueEach_memWf h _ fun _ _ h => by simp [h]

@[simp] theorem barAnswer_memWf (s : State) (p stat x) : (barAnswer s p stat x).memWf = s.memWf := by simp [barAnswer]

theorem execBarrierPacket_memWf {s : State} (h : s.memWf = true) (p) : NextMemWf (execBarrierPacket p s) := by
  fun_cases execBarrierPacket p s
  grind [nextMemWf_next, barAnswer_memWf, barInit_memWf, barArrive_memWf, dropMembers_memWf,
    barTest_memWf, barExit_exitMember_memWf, failBar_memWf, putBar_memWf]

theorem execBarrierCompletionReceive_memWf {s : State} (h : s.memWf = true) (port p) :
    NextMemWf (execBarrierCompletionReceive port p s) := by
  simp only [execBarrierCompletionReceive, nextMemWf_next]
  (repeat' split) <;> simp [h]

@[simp] theorem logLost_memWf (s : State) (ctx e) : (logLost s ctx e).memWf = s.memWf := by
  fun_cases logLost s ctx e <;> simp

theorem execBearingUpdate_memWf {s : State} (h : s.memWf = true) (ctx) : NextMemWf (execBearingUpdate ctx s) := by
  fun_cases execBearingUpdate ctx s <;> grind [nextMemWf_next, logLost_memWf, memPut_memWf, foldl_keeps]

@[simp] theorem SemWord_get_memWf {s : State} (h : s.memWf = true) (w core) : (SemWord.get w s core).2.memWf = true := by
  unfold SemWord.get
  split <;> simp [h]

@[simp] theorem SemWord_put_memWf {s : State} (h : s.memWf = true) (w core x tag) : (SemWord.put w s core x tag).memWf = true := by
  cases w with
  | main pa => exact homeWrite_memWf h ..
  | host n a => exact storeHost_memWf h ..
  | window y => exact winWrite_memWf h ..

@[simp] theorem sempStep_memWf {s : State} (h : s.memWf = true) (f v va w) : (sempStep f v s va w).memWf = true := by
  fun_cases sempStep f v s va w <;> grind [takeTag_memWf, SemWord_get_memWf, semAsk_memWf, givePred_memWf, acquireAt_memWf,
    SemWord_put_memWf, parkAt_memWf]

@[simp] theorem semNote_memWf (s : State) (ctx pa va w) : (semNote s ctx pa va w).memWf = s.memWf := memWf_congr rfl rfl

@[simp] theorem sempPeer_memWf {s : State} (h : s.memWf = true) (f v va l pa rank a) :
    (sempPeer f v s va l pa rank a).memWf = true := by
  fun_cases sempPeer f v s va l pa rank a <;> grind [remoteTake_memWf, semLeave_memWf, givePred_memWf, acquireAt_memWf,
    parkAt_memWf, semNote_memWf, remoteAsk_memWf]

@[simp] theorem sempOne_memWf {s : State} (h : s.memWf = true) (f v) : (sempOne f v s).memWf = true := by
  fun_cases sempOne f v s <;> grind [stallAt_memWf, access_memWf, sempStep_memWf, sempPeer_memWf]

theorem execSemp_memWf {s : State} (h : s.memWf = true) (f) : NextMemWf (execSemp f s) :=
  issueEach_memWf h _ fun _ _ h => by simp [h]

@[simp] theorem semvOne_memWf {s : State} (h : s.memWf = true) (f v) : (semvOne f v s).memWf = true := by
  fun_cases semvOne f v s <;> grind [stallAt_memWf, access_memWf, releaseAt_memWf, takeTag_memWf, SemWord_get_memWf, semGive_memWf,
    SemWord_put_memWf, remoteTake_memWf, remoteAsk_memWf]

theorem execSemv_memWf {s : State} (h : s.memWf = true) (f) : NextMemWf (execSemv f s) :=
  issueEach_memWf h _ fun _ _ h => by simp [h]

theorem execSempWake_memWf {s : State} (h : s.memWf = true) (t) : NextMemWf (execSempWake t s) := by simp [execSempWake, h]

/-! ### Capsules -/

@[simp] theorem setRecWords_memWf {s : State} (h : s.memWf = true) (pa ws) : (setRecWords s pa ws).memWf = true :=
  foldl_keeps _ _ (fun _ _ h => by simp [h]) h

theorem capAccess_memWf {s : State} (h : s.memWf = true) (v va align code) {k} (hk : ∀ s x, s.memWf = true → (k s x).memWf = true) :
    (capAccess s v va align code k).memWf = true := by
  grind [capAccess, signalTrap_memWf, resolve_memWf, failAccess_memWf]

@[simp] theorem givePreds_memWf (s : State) (v n a b) : (givePreds s v n a b).memWf = s.memWf := memWf_congr rfl rfl

@[simp] theorem enterCapsule_memWf (s : State) (v rec_ pa xs step start) :
    (enterCapsule s v rec_ pa xs step start).memWf = s.memWf :=
  memWf_congr rfl rfl

theorem atRecord_memWf {s : State} (h : s.memWf = true) (v pa n) {k} (hk : ∀ s, s.memWf = true → (k s).memWf = true) :
    (atRecord s v pa n k).memWf = true := by
  fun_cases atRecord s v pa n k <;> simp [*]

@[simp] theorem openRecord_memWf {s : State} (h : s.memWf = true) (v k rec pa pmb) :
    (openRecord v k rec pa pmb s).memWf = true := by
  simp [openRecord, h]

theorem execCapopen_memWf {s : State} (h : s.memWf = true) (f) : NextMemWf (execCapopen f s) :=
  issueEach_memWf h _ fun _ _ h => by grind [capAccess_memWf, atRecord_memWf, openRecord_memWf]

@[simp] theorem applyIntents_memWf {s : State} (h : s.memWf = true) (unit l) : (applyIntents s unit l).memWf = true :=
  foldl_keeps _ _ (fun _ _ h => by simp [h]) h

@[simp] theorem leaveCapsule_memWf (s : State) (v) : (leaveCapsule s v).memWf = s.memWf := memWf_congr rfl rfl

@[simp] theorem emitCap_memWf (s : State) (g ev pa payload) : (emitCap s g ev pa payload).memWf = s.memWf := by simp [emitCap]

@[simp] theorem displace_memWf (s : State) (v c) : (displace s v c).memWf = s.memWf := by simp [displace]

@[simp] theorem commitStep_memWf {s : State} (h : s.memWf = true) (v k c) : (commitStep v k c s).memWf = true := by
  fun_cases commitStep v k c s <;> grind [signalTrap_memWf, stallAt_memWf, setRecWords_memWf, acquireAt_memWf, applyIntents_memWf,
    releaseAt_memWf, modThread_memWf, givePred_memWf, displace_memWf]

@[simp] theorem capstepOne_memWf {s : State} (h : s.memWf = true) (v) : (capstepOne v s).memWf = true := by
  fun_cases capstepOne v s <;> simp [h]

theorem execCapstep_memWf {s : State} (h : s.memWf = true) (f) : NextMemWf (execCapstep f s) := by
  grind [execCapstep, issueWith_memWf, capstepOne_memWf, foldl_keeps]

@[simp] theorem closeCapsule_memWf {s : State} (h : s.memWf = true) (v k c) : (closeCapsule v k c s).memWf = true := by
  simp [closeCapsule, h]

@[simp] theorem capcloseOne_memWf {s : State} (h : s.memWf = true) (v) : (capcloseOne v s).memWf = true := by
  fun_cases capcloseOne v s <;> simp [h]

theorem execCapclose_memWf {s : State} (h : s.memWf = true) (f) : NextMemWf (execCapclose f s) := by
  grind [execCapclose, issueWith_memWf, capcloseOne_memWf, foldl_keeps]

@[simp] theorem adoptRecord_memWf {s : State} (h : s.memWf = true) (v k rec_ pa) : (adoptRecord v k rec_ pa s).memWf = true := by
  simp [adoptRecord, h]

theorem execCapadopt_memWf {s : State} (h : s.memWf = true) (f) : NextMemWf (execCapadopt f s) :=
  issueEach_memWf h _ fun _ _ h => by grind [capAccess_memWf, atRecord_memWf, adoptRecord_memWf]

theorem execCapres_memWf {s : State} (h : s.memWf = true) (f) : NextMemWf (execCapres f s) :=
  issueEach_memWf h _ fun _ _ h => by grind [capAccess_memWf, wideRead_memWf, homeWrite_memWf, applyPend_memWf, acquireAt_memWf,
    givePred_memWf]

/-! ### Links -/

theorem execSlotonlyReceive_memWf {s : State} (h : s.memWf = true) (port p) : NextMemWf (execSlotonlyReceive port p s) := by
  simp [execSlotonlyReceive, h]

@[simp] theorem answer_memWf (s : State) (port p stat data) : (answer s port p stat data).memWf = s.memWf := by simp [answer]

@[simp] theorem syncRequest_memWf {s : State} (h : s.memWf = true) (p pa) : (syncRequest s p pa).2.memWf = true := by
  grind [syncRequest, homeWrite_memWf, semAsk_memWf, semGive_memWf, semLeave_memWf]

theorem execRemoteRequestReceive_memWf {s : State} (h : s.memWf = true) (port p) :
    NextMemWf (execRemoteRequestReceive port p s) := by
  grind [execRemoteRequestReceive, nextMemWf_next, receive_memWf, homeWrite_memWf, answer_memWf, syncRequest_memWf]

@[simp] theorem endTlbinv_memWf (s : State) (tag t) : (endTlbinv s tag t).memWf = s.memWf := by
  fun_cases endTlbinv s tag t <;> simp

@[simp] theorem giveRemote_memWf (s : State) (tag st data wake) : (giveRemote s tag st data wake).memWf = s.memWf := by
  grind [giveRemote, endTlbinv_memWf, modThread_memWf, State.memWf, foldl_memWf, foldl_keeps]

theorem execRemoteResponseReceive_memWf {s : State} (h : s.memWf = true) (port p) :
    NextMemWf (execRemoteResponseReceive port p s) := by
  fun_cases execRemoteResponseReceive port p s <;> grind [nextMemWf_next, receive_memWf, giveRemote_memWf]

theorem execRemoteTimeout_memWf {s : State} (h : s.memWf = true) (tag) : NextMemWf (execRemoteTimeout tag s) := by
  unfold execRemoteTimeout
  split <;> simp [h]

@[simp] theorem requestService_memWf (s : State) : (requestService s).memWf = s.memWf := memWf_congr rfl rfl

@[simp] theorem setLink_memWf (s : State) (port st cause) : (setLink s port st cause).memWf = s.memWf := by simp [setLink]

@[simp] theorem portDown_memWf (s : State) (port st cause) : (portDown s port st cause).memWf = s.memWf := by
  unfold portDown
  split <;> simp

@[simp] theorem drainPort_memWf (s : State) (port) : (drainPort s port).memWf = s.memWf := by simp [drainPort]

theorem execLossOfSignal_memWf {s : State} (h : s.memWf = true) (port) : NextMemWf (execLossOfSignal port s) := by
  unfold execLossOfSignal
  split <;> simp [h]

theorem execTrainingAttempt_memWf {s : State} (h : s.memWf = true) (port) : NextMemWf (execTrainingAttempt port s) := by
  unfold execTrainingAttempt
  split <;> simp [h]

theorem execTrainingComplete_memWf {s : State} (h : s.memWf = true) (port lanes peer) :
    NextMemWf (execTrainingComplete port lanes peer s) := by
  unfold execTrainingComplete
  split <;> simp [h]

@[simp] theorem fenceLane_memWf (s : State) (port lane) : (fenceLane s port lane).memWf = s.memWf := by
  fun_cases fenceLane s port lane <;> grind [modPort_memWf, requestService_memWf, setLink_memWf, State.memWf]

theorem execFlitError_memWf {s : State} (h : s.memWf = true) (port lane) : NextMemWf (execFlitError port lane s) := by
  unfold execFlitError
  split <;> simp [h]

theorem execLaneFence_memWf {s : State} (h : s.memWf = true) (port lane) : NextMemWf (execLaneFence port lane s) := by
  unfold execLaneFence
  split <;> simp [h]

theorem execLinkDrainEnd_memWf {s : State} (h : s.memWf = true) (port) : NextMemWf (execLinkDrainEnd port s) := by
  unfold execLinkDrainEnd
  split <;> simp [h]

theorem execReplayDeliver_memWf {s : State} (h : s.memWf = true) (port) : NextMemWf (execReplayDeliver port s) := by
  fun_cases execReplayDeliver port s
  grind [nextMemWf_next, State.memWf]

/-! ### Narrow formats -/

theorem narrowIssue_memWf {s : State} (h : s.memWf = true) (op f) {body} (hb : ∀ n v s,
  s.memWf = true → (body n v s).memWf = true) :
    NextMemWf (narrowIssue op f s body) :=
  issueEach_memWf h _ fun _ _ h => by grind [raiseCtxFatal_memWf, retryAt_memWf, signalTrap_memWf]

theorem execNcvt_memWf {s : State} (h : s.memWf = true) (f) : NextMemWf (execNcvt f s) := by
  grind [execNcvt, narrowIssue_memWf, modThread_memWf, applyFixed_memWf]

theorem execNexp_memWf {s : State} (h : s.memWf = true) (f) : NextMemWf (execNexp f s) := by
  grind [execNexp, narrowIssue_memWf, applyFixed_memWf]

theorem execBscale_memWf {s : State} (h : s.memWf = true) (f) : NextMemWf (execBscale f s) := by
  grind [execBscale, narrowIssue_memWf, applyFixed_memWf]

theorem execNpack_memWf {s : State} (h : s.memWf = true) (f) : NextMemWf (execNpack f s) := by
  grind [execNpack, narrowIssue_memWf, applyFixed_memWf]

theorem execNunpk_memWf {s : State} (h : s.memWf = true) (f) : NextMemWf (execNunpk f s) := by
  grind [execNunpk, narrowIssue_memWf, applyFixed_memWf]

/-! ### Engines -/

theorem allocSave_memWf {s : State} {ctx n x r} (hr : allocSave s ctx n = some (x, r)) : r.memWf = s.memWf := by
  grind [allocSave, modCtx_memWf]

@[simp] theorem freeSave_memWf (s : State) (ctx at_) : (freeSave s ctx at_).memWf = s.memWf := memWf_congr rfl rfl

@[simp] theorem setChanIndex_memWf (s : State) (unit gid c prod x) : (setChanIndex s unit gid c prod x).memWf = s.memWf := by
  unfold setChanIndex
  split <;> simp

@[simp] theorem engAccess_memWf (s : State) (g reg va a n) : (engAccess s g reg va a n).2.memWf = s.memWf := by
  fun_cases engAccess s g reg va a n <;> grind [checkAccess_memWf]

@[simp] theorem engPiece_memWf (s : State) (g reg va n) : (engPiece s g reg va n).2.memWf = s.memWf := by
  fun_cases engPiece s g reg va n
  grind [engAccess_memWf, stowTile_memWf, eThen_memWf]

@[simp] theorem engRead_memWf (s : State) (g sp off n want) : (engRead s g sp off n want).2.memWf = s.memWf := by
  unfold engRead
  split
  · split <;> rfl
  · refine foldl_snd_memWf _ _ fun r p => eThen_memWf fun bs s => ?_
    refine (eThen_memWf fun x s => ?_).trans (engPiece_memWf ..)
    rw [apply_ite Prod.snd, ite_self]

@[simp] theorem engWrite_memWf (s : State) (g sp off bs) : (engWrite s g sp off bs).2.memWf = s.memWf := by
  unfold engWrite
  grind [engAccess_memWf, foldl_snd_memWf, foldl_snd_keeps, eThen_memWf, eThen_keeps]

@[simp] theorem engPut_memWf {s : State} (h : s.memWf = true) (gid unit w) : (engPut gid unit s w).memWf = true := by
  unfold engPut
  split <;> simp [h]

@[simp] theorem giveD_memWf (s : State) (v x) : (giveD s v x).memWf = s.memWf := memWf_congr rfl rfl

@[simp] theorem engRelease_memWf {s : State} (h : s.memWf = true) (g) : (engRelease s g).memWf = true := by simp [engRelease, h]

@[simp] theorem engIssue_memWf {s : State} (h : s.memWf = true) (v e op blk tiles chans checks) :
    (engIssue v s e op blk tiles chans checks).memWf = true := by
  fun_cases engIssue v s e op blk tiles chans checks <;> grind [signalTrap_memWf, giveD_memWf, stallAt_memWf, modGroup_memWf,
    engRelease_memWf, State.memWf]

@[simp] theorem readyEngine_memWf (s : State) (core) : (readyEngine s core).memWf = s.memWf := memWf_congr rfl rfl

@[simp] theorem popOp_memWf (s : State) (gid e) : (popOp s gid e).memWf = s.memWf := memWf_congr rfl rfl

@[simp] theorem wakeEngwait_memWf (s : State) (gid e tag) : (wakeEngwait s gid e tag).memWf = s.memWf := memWf_congr rfl rfl

@[simp] theorem countRetired_memWf (s : State) (g o c st) : (countRetired s g o c st).memWf = s.memWf := by
  unfold countRetired
  split <;> simp

@[simp] theorem retireOp_memWf (s : State) (g o c st det addr fl) : (retireOp s g o c st det addr fl).memWf = s.memWf := by
  grind [retireOp, takeTag_memWf, emitFilt_memWf, modGroup_memWf, countRetired_memWf, popOp_memWf, setChanIndex_memWf,
    arriveAt_memWf, wakeEngwait_memWf, readyEngine_memWf, closeConvoy_memWf, foldl_memWf]

@[simp] theorem engwaitOne_memWf {s : State} (h : s.memWf = true) (f v) : (engwaitOne f v s).memWf = true := by
  unfold engwaitOne
  dsimp only
  (repeat' split) <;> simp [h]

theorem execEngwait_memWf {s : State} (h : s.memWf = true) (f) : NextMemWf (execEngwait f s) :=
  issueEach_memWf h _ fun _ _ h => by simp [h]

@[simp] theorem chnTrap_memWf {s : State} (h : s.memWf = true) (v c sub) : (chnTrap s v c sub).memWf = true := by simp [chnTrap, h]

theorem execChncfgSet_memWf {s : State} (h : s.memWf = true) (f) : NextMemWf (execChncfgSet f s) :=
  issueEach_memWf h _ fun _ _ h => by simp [h]

theorem execChncfgReset_memWf {s : State} (h : s.memWf = true) (f) : NextMemWf (execChncfgReset f s) :=
  issueEach_memWf h _ fun _ _ h => by simp [h]

theorem execChncfgGet_memWf {s : State} (h : s.memWf = true) (f) : NextMemWf (execChncfgGet f s) :=
  issueEach_memWf h _ fun _ _ h => by simp [h]

@[simp] theorem bindTiles_memWf (s : State) (g want quota) : (bindTiles s g want quota).memWf = s.memWf := memWf_congr rfl rfl

@[simp] theorem accTry_memWf (s : State) (g mask nb) : (accTry s g mask nb).2.memWf = s.memWf := by
  fun_cases accTry s g mask nb <;> grind [allocSave_memWf, emitFilt_memWf, modGroup_memWf, bindTiles_memWf]

@[simp] theorem accWake_memWf (s : State) (core n) : (accWake s core n).memWf = s.memWf := by
  induction n generalizing s with
  | zero => rfl
  | succ n ih =>
    unfold accWake
    dsimp only
    split
    · rfl
    · next g d nx st s' hs =>
      obtain ⟨g', -, hg⟩ := List.exists_of_findSome?_eq_some hs
      have hs' : s'.memWf = s.memWf := by grind [accTry_memWf]
      simp [ih, hs']

@[simp] theorem serveAcc_memWf (s : State) (core) : (serveAcc s core).memWf = s.memWf := by simp [serveAcc]

theorem execAccalloc_memWf {s : State} (h : s.memWf = true) (f) : NextMemWf (execAccalloc f s) :=
  issueEach_memWf h _ fun _ _ h => by grind [stallAt_memWf, accTry_memWf, giveD_memWf, serveAcc_memWf, parkAt_memWf]

theorem execAccfree_memWf {s : State} (h : s.memWf = true) (f) : NextMemWf (execAccfree f s) := by
  fun_cases execAccfree f s
  grind [issueEach_memWf, stallAt_memWf, modGroup_memWf, State.memWf]

theorem execAccfreePerform_memWf {s : State} (h : s.memWf = true) (gid) : NextMemWf (execAccfreePerform gid s) := by
  unfold execAccfreePerform
  split <;> simp [h]

/-! ### The matrix engine and copies -/

@[simp] theorem withFormats_memWf {s go : State} (h : s.memWf = true) (h1 : go.memWf = true) (v fmts) :
    (withFormats v s fmts go).memWf = true := by
  fun_cases withFormats v s fmts go <;> simp [*]

@[simp] theorem engFormat_memWf (s : State) (g k) : (engFormat s g k).2.memWf = s.memWf := by simp [engFormat, apply_ite Prod.snd]

theorem mmaIssue_memWf {s : State} (h : s.memWf = true) (op mmas f) : NextMemWf (mmaIssue op mmas f s) :=
  issueEach_memWf h _ fun _ _ h => by simp [h]

theorem execMma_memWf {s : State} (h : s.memWf = true) (f) : NextMemWf (execMma f s) := mmaIssue_memWf h ..

theorem execMmas_memWf {s : State} (h : s.memWf = true) (f) : NextMemWf (execMmas f s) := mmaIssue_memWf h ..

@[simp] theorem sideOf_memWf (s : State) (g kind fmt geo reach reg x sc sreg) :
    (sideOf s g kind fmt geo reach reg x sc sreg).2.memWf = s.memWf := by
  simp [sideOf, apply_ite Prod.snd]

@[simp] theorem readRows_memWf (s : State) (g sd n k ld elems) {kept} (hk : ∀ i s, (kept i s).2.memWf = s.memWf) :
    (readRows s g sd n k ld elems kept).2.memWf = s.memWf := by
  grind [readRows, engRead_memWf, foldl_snd_memWf, eThen_memWf]

@[simp] theorem keptRow_memWf (s : State) (g x ax i) : (keptRow g x ax i s).2.memWf = s.memWf := by
  fun_cases keptRow g x ax i s <;> grind [engRead_memWf, eThen_memWf]

@[simp] theorem tilePut_memWf (s : State) (gid t v64 l) : (tilePut s gid t v64 l).memWf = s.memWf := memWf_congr rfl rfl

@[simp] theorem runMma_memWf (s : State) (g blk) : (runMma s g blk).2.memWf = s.memWf := by
  unfold runMma
  refine (eThen_memWf fun sa s => ?_).trans (sideOf_memWf ..)
  refine (eThen_memWf fun sb s => ?_).trans (sideOf_memWf ..)
  split
  · rfl
  · rfl
  · refine (eThen_memWf fun as s => ?_).trans (readRows_memWf s _ _ _ _ _ _ (by simp))
    refine (eThen_memWf fun bs s => ?_).trans (readRows_memWf s _ _ _ _ _ _ (by simp))
    simp

theorem accIssue_memWf {s : State} (h : s.memWf = true) (op store f) : NextMemWf (accIssue op store f s) :=
  issueEach_memWf h _ fun _ _ h => by simp [h]

theorem execAccst_memWf {s : State} (h : s.memWf = true) (f) : NextMemWf (execAccst f s) := accIssue_memWf h ..

theorem execAccld_memWf {s : State} (h : s.memWf = true) (f) : NextMemWf (execAccld f s) := accIssue_memWf h ..

@[simp] theorem engWrites_memWf (s : State) (g sp l) : (engWrites s g sp l).2.memWf = s.memWf := by
  grind [engWrites, engWrite_memWf, foldl_snd_memWf, eThen_memWf]

@[simp] theorem engPuts_memWf {s : State} (h : s.memWf = true) (g e ws) : (engPuts s g e ws).memWf = true :=
  foldl_keeps _ _ (fun _ _ h => by simp [h]) h

@[simp] theorem runAccst_memWf {s : State} (h : s.memWf = true) (g blk) : (runAccst s g blk).2.memWf = true := by
  fun_cases runAccst s g blk
  grind [engFormat_memWf, engWrites_memWf, engPuts_memWf, tilePut_memWf, eThen_memWf, eThen_keeps]

@[simp] theorem runAccld_memWf (s : State) (g blk) : (runAccld s g blk).2.memWf = s.memWf := by
  fun_cases runAccld s g blk
  grind [engRead_memWf, engFormat_memWf, tilePut_memWf, foldl_snd_memWf, eThen_memWf]

@[simp] theorem copySource_memWf (s : State) (g x sp ix i) : (copySource s g x sp ix i).2.memWf = s.memWf := by
  simp [copySource, apply_ite Prod.snd]

@[simp] theorem runCopy_memWf {s : State} (h : s.memWf = true) (g blk) : (runCopy s g blk).2.memWf = true := by
  grind [runCopy, copySource_memWf, engWrite_memWf, engPuts_memWf, foldl_snd_memWf, foldl_snd_keeps, eThen_memWf, eThen_keeps]

theorem execMspz_memWf {s : State} (h : s.memWf = true) (f) : NextMemWf (execMspz f s) :=
  issueEach_memWf h _ fun _ _ h => by simp [h]

@[simp] theorem runMspz_memWf {s : State} (h : s.memWf = true) (g blk) : (runMspz s g blk).2.memWf = true := by
  fun_cases runMspz s g blk
  grind [engRead_memWf, engFormat_memWf, engWrites_memWf, engPuts_memWf, foldl_memWf, foldl_keeps,
    foldl_snd_memWf, foldl_snd_keeps, eThen_memWf, eThen_keeps]

/-! ### Scans and carries -/

@[simp] theorem modMember_memWf (s : State) (kid pos f) : (modMember s kid pos f).memWf = s.memWf := memWf_congr rfl rfl

@[simp] theorem useConvoy_memWf (s : State) (kid) : (useConvoy s kid).memWf = s.memWf := by
  unfold useConvoy
  split <;> simp

theorem execScan_memWf {s : State} (h : s.memWf = true) (f) : NextMemWf (execScan f s) :=
  issueEach_memWf h _ fun _ _ h => by simp [h]

@[simp] theorem sendCarry_memWf (s : State) (g x failed bs) : (sendCarry s g x failed bs).memWf = s.memWf := by
  fun_cases sendCarry s g x failed bs <;> rfl

theorem execCarryDelivery_memWf {s : State} (h : s.memWf = true) (kid pos soft) : NextMemWf (execCarryDelivery kid pos soft s) := by
  simp only [execCarryDelivery, nextMemWf_next]
  (repeat' split) <;> simp [h]

@[simp] theorem takeCarry_memWf (s : State) (kid pos ps) : (takeCarry s kid pos ps).memWf = s.memWf := memWf_congr rfl rfl

theorem startScan_memWf {s : State} {g o x r} (hr : startScan s g o = some (x, r)) : r.memWf = s.memWf := by
  grind [startScan, takeCarry_memWf]

@[simp] theorem scanRows_memWf (s : State) (g sp n st bytes) : (scanRows s g sp n st bytes).2.memWf = s.memWf := by
  grind [scanRows, engRead_memWf, foldl_snd_memWf, eThen_memWf]

@[simp] theorem scanInit_memWf (s : State) (g x carry) : (scanInit s g x carry).2.memWf = s.memWf := by
  fun_cases scanInit s g x carry <;> simp

@[simp] theorem runScan_memWf (s : State) (g o) : (runScan s g o).2.memWf = s.memWf := by
  grind [runScan, scanInit_memWf, scanRows_memWf, engWrites_memWf, eThen_memWf]

@[simp] theorem carryputOne_memWf {s : State} (h : s.memWf = true) (f v) : (carryputOne f v s).memWf = true := by
  unfold carryputOne
  dsimp only
  (repeat' split) <;> simp [h]

theorem execCarryput_memWf {s : State} (h : s.memWf = true) (f) : NextMemWf (execCarryput f s) :=
  issueEach_memWf h _ fun _ _ h => by simp [h]

@[simp] theorem carrygetOne_memWf (s : State) (f v) : (carrygetOne f v s).memWf = s.memWf := by
  unfold carrygetOne
  dsimp only
  (repeat' split) <;> simp

theorem execCarryget_memWf {s : State} (h : s.memWf = true) (f) : NextMemWf (execCarryget f s) :=
  issueEach_memWf h _ fun _ _ h => by simp [h]

theorem execCarrybar_memWf {s : State} (h : s.memWf = true) (f) : NextMemWf (execCarrybar f s) :=
  issueEach_memWf h _ fun _ _ h => by simp [h]

theorem startBar_memWf {s : State} {g r} (hr : startBar s g = some r) : r.memWf = s.memWf := by grind [startBar, modMember_memWf]

@[simp] theorem passBar_memWf (s : State) (kid m) : (passBar s kid m).memWf = s.memWf := by
  unfold passBar
  dsimp only
  split <;> simp

theorem execCarrybarComplete_memWf {s : State} (h : s.memWf = true) (kid) : NextMemWf (execCarrybarComplete kid s) := by
  unfold execCarrybarComplete
  split <;> simp [h]

theorem execConvoySealed_memWf {s : State} (h : s.memWf = true) (kid) : NextMemWf (execConvoySealed kid s) := by
  unfold execConvoySealed
  split <;> simp [h]

/-! ### Collectives -/

@[simp] theorem recordArea_memWf {s : State} (h : s.memWf = true) (v d) : (recordArea s v d).2.memWf = true := by
  fun_cases recordArea s v d
  grind [resolve_memWf, failAccess_memWf, foldl_snd_memWf, foldl_snd_keeps]

@[simp] theorem joinUse_memWf (s : State) (g id midx d tag) : (joinUse s g id midx d tag).memWf = s.memWf := by
  unfold joinUse
  dsimp only
  split <;> simp

@[simp] theorem logDup_memWf (s : State) (ctx v chunk ordinal wake) : (logDup s ctx v chunk ordinal wake).memWf = s.memWf := by
  simp [logDup]

@[simp] theorem takeData_memWf (s : State) (p) : (takeData s p).2.memWf = s.memWf := by
  fun_cases takeData s p <;> grind [setView_memWf, logDup_memWf, State.memWf]

@[simp] theorem ackLocal_memWf {s : State} (h : s.memWf = true) (ctx id chunk of_ wake) :
    (ackLocal s ctx id chunk of_ wake).memWf = true := by
  unfold ackLocal
  split <;> simp [h]

@[simp] theorem sendAck_memWf {s : State} (h : s.memWf = true) (r tag) : (sendAck s r tag).memWf = true := by
  fun_cases sendAck s r tag <;> simp [h]

@[simp] theorem completeChunk_memWf (s : State) (ctx id c tag) : (completeChunk s ctx id c tag).memWf = s.memWf := by
  unfold completeChunk
  (repeat' split) <;> simp

@[simp] theorem countContribution_memWf {s : State} (h : s.memWf = true) (r tag) : (countContribution s r tag).memWf = true := by
  simp [countContribution, h]

@[simp] theorem checkRange_memWf {s : State} (h : s.memWf = true) (ctx unit refused capt reach off n) :
    (checkRange s ctx unit refused capt reach off n).2.memWf = true := by
  fun_cases checkRange s ctx unit refused capt reach off n
  grind [devCheck_memWf, foldl_snd_memWf, foldl_snd_keeps]

@[simp] theorem popStep_memWf (s : State) (stack) : (popStep s stack).memWf = s.memWf := memWf_congr rfl rfl

@[simp] theorem settleStep_memWf {s : State} (h : s.memWf = true) (r ends tag) : (settleStep s r ends tag).memWf = true := by
  simp [settleStep, h]

@[simp] theorem checkParts_memWf {s : State} (h : s.memWf = true) (ctx unit refused capt v chunk l) :
    (checkParts s ctx unit refused capt v chunk l).2.2.memWf = true := by
  refine List.foldlRecOn (motive := fun acc : List Nat × DevRes × State => acc.2.2.memWf = true) l _ h fun acc hacc q _ => ?_
  grind [checkRange_memWf]

theorem storePart_memWf (r v c tag q) {acc} (h : acc.2.memWf = true) : (storePart r v c tag acc q).2.memWf = true := by
  simp [storePart, h, apply_ite Prod.snd]

@[simp] theorem applyStep_memWf {s : State} (h : s.memWf = true) (r v c) : (applyStep s r v c).memWf = true := by
  fun_cases applyStep s r v c <;> grind [checkRange_memWf, collFail_memWf, popStep_memWf, checkParts_memWf, raiseCtxFatal_memWf,
    tickFree_memWf, takeTag_memWf, storePart_memWf, modView_memWf, settleStep_memWf, flushView_memWf, State.memWf, foldl_snd_memWf,
    foldl_snd_keeps]

@[simp] theorem reduceHead_memWf {s : State} (h : s.memWf = true) (stack) : (reduceHead s stack).memWf = true := by
  fun_cases reduceHead s stack <;> simp [h]

@[simp] theorem takeJoin_memWf {s : State} (h : s.memWf = true) (p v) : (takeJoin s p v).memWf = true := by simp [takeJoin, h]

@[simp] theorem landData_memWf {s : State} (h : s.memWf = true) (p v) : (landData s p v).memWf = true := by
  fun_cases landData s p v <;> grind [checkRange_memWf, modView_memWf, collFail_memWf, homeWrite_memWf, foldl_memWf, foldl_keeps]

@[simp] theorem takeNotice_memWf {s : State} (h : s.memWf = true) (p v) : (takeNotice s p v).2.memWf = true := by
  unfold takeNotice
  dsimp only
  (repeat' split) <;> simp [h]

@[simp] theorem handlePkt_memWf {s : State} (h : s.memWf = true) (p) : (handlePkt s p).2.memWf = true := by
  fun_cases handlePkt s p <;> simp [h]

@[simp] theorem holdPkt_memWf (s : State) (port p newer) : (holdPkt s port p newer).memWf = s.memWf := by
  unfold holdPkt
  split <;> simp

@[simp] theorem takePkt_memWf {s : State} (h : s.memWf = true) (port p) : (takePkt s port p).memWf = true := by simp [takePkt, h]

@[simp] theorem logStale_memWf (s : State) (port p) : (logStale s port p).memWf = s.memWf := by simp [logStale]

@[simp] theorem gatePkt_memWf {s : State} (h : s.memWf = true) (port p) : (gatePkt s port p).memWf = true := by
  fun_cases gatePkt s port p <;> simp [h]

theorem tryHeld_memWf (ctx m) {acc} (h : acc.2.memWf = true) : (tryHeld ctx acc m).2.memWf = true := by
  unfold tryHeld
  dsimp only
  (repeat' split) <;> simp [h]

@[simp] theorem releaseHeld_memWf {s : State} (h : s.memWf = true) (ctx) : (releaseHeld s ctx).memWf = true := by
  fun_cases releaseHeld s ctx <;> grind [tryHeld_memWf, modCtx_memWf, foldl_snd_keeps]

@[simp] theorem releaseAll_memWf {s : State} (h : s.memWf = true) : (releaseAll s).memWf = true :=
  foldl_keeps _ _ (fun _ _ h => by simp [h]) h

@[simp] theorem confirmPkt_memWf (s : State) (port p) : (confirmPkt s port p).memWf = s.memWf := by simp [confirmPkt]

@[simp] theorem arriveColl_memWf {s : State} (h : s.memWf = true) (port p) : (arriveColl s port p).memWf = true := by
  fun_cases arriveColl s port p <;> grind [receive_memWf, confirmPkt_memWf, gatePkt_memWf]

theorem execColldataReceive_memWf {s : State} (h : s.memWf = true) (port p) : NextMemWf (execColldataReceive port p s) := by
  simp [execColldataReceive, h]

theorem execJoinReceive_memWf {s : State} (h : s.memWf = true) (port p) : NextMemWf (execJoinReceive port p s) := by
  simp [execJoinReceive, h]

theorem execAddAckReceive_memWf {s : State} (h : s.memWf = true) (port p) : NextMemWf (execAddAckReceive port p s) := by
  simp [execAddAckReceive, h]

theorem execCompletionNoticeReceive_memWf {s : State} (h : s.memWf = true) (port p) :
    NextMemWf (execCompletionNoticeReceive port p s) := by
  simp [execCompletionNoticeReceive, h]

theorem execFailNoticeReceive_memWf {s : State} (h : s.memWf = true) (port p) : NextMemWf (execFailNoticeReceive port p s) := by
  simp [execFailNoticeReceive, h]

theorem execCloseNoticeReceive_memWf {s : State} (h : s.memWf = true) (port p) : NextMemWf (execCloseNoticeReceive port p s) := by
  simp [execCloseNoticeReceive, h]

theorem execDeliveryAckReceive_memWf {s : State} (h : s.memWf = true) (port p) : NextMemWf (execDeliveryAckReceive port p s) := by
  fun_cases execDeliveryAckReceive port p s <;> grind [nextMemWf_next, receive_memWf, settleDrain_memWf, modView_memWf]

theorem execCloseNoticeSend_memWf {s : State} (h : s.memWf = true) (ctx id) : NextMemWf (execCloseNoticeSend ctx id s) := by
  unfold execCloseNoticeSend
  split <;> simp [h]

theorem execReductionStep_memWf {s : State} (h : s.memWf = true) (stack) : NextMemWf (execReductionStep stack s) := by
  unfold execReductionStep
  split <;> simp [h]

@[simp] theorem answerProbe_memWf (s : State) (port p) : (answerProbe s port p).memWf = s.memWf := by simp [answerProbe]

theorem execProbeReceive_memWf {s : State} (h : s.memWf = true) (port p) : NextMemWf (execProbeReceive port p s) := by
  fun_cases execProbeReceive port p s <;> grind [nextMemWf_next, receive_memWf, answerProbe_memWf, modView_memWf, confirmPkt_memWf]

theorem execLivenessProbe_memWf {s : State} (h : s.memWf = true) (ctx id) : NextMemWf (execLivenessProbe ctx id s) := by
  unfold execLivenessProbe
  split <;> simp [h]

theorem execProbeTimeout_memWf {s : State} (h : s.memWf = true) (ctx id rank) : NextMemWf (execProbeTimeout ctx id rank s) := by
  unfold execProbeTimeout
  split <;> simp [h]

@[simp] theorem logCollLate_memWf (s : State) (ctx v k) : (logCollLate s ctx v k).memWf = s.memWf := by
  unfold logCollLate
  split <;> simp

@[simp] theorem collopenOne_memWf {s : State} (h : s.memWf = true) (v) : (collopenOne v s).memWf = true := by
  fun_cases collopenOne v s <;> grind [raiseCtxFatal_memWf, retryAt_memWf, giveD_memWf, recordArea_memWf, putView_memWf,
    setView_memWf, flushView_memWf, joinUse_memWf, releaseHeld_memWf]

theorem execCollopen_memWf {s : State} (h : s.memWf = true) (f) : NextMemWf (execCollopen f s) :=
  issueEach_memWf h _ fun _ _ h => by simp [h]

theorem execCollclose_memWf {s : State} (h : s.memWf = true) (f) : NextMemWf (execCollclose f s) :=
  issueEach_memWf h _ fun _ _ h => by simp [h]

@[simp] theorem collSource_memWf (s : State) (g x) : (collSource s g x).2.memWf = s.memWf := by
  fun_cases collSource s g x
  grind [copySource_memWf, foldl_snd_memWf]

@[simp] theorem handData_memWf {s : State} (h : s.memWf = true) (ctx id p) : (handData ctx id s p).memWf = true := by
  simp [handData, h]

@[simp] theorem runContribution_memWf {s : State} (h : s.memWf = true) (g blk) : (runContribution s g blk).2.memWf = true := by
  fun_cases runContribution s g blk <;> grind [collSource_memWf, setView_memWf, takeTag_memWf, modView_memWf, flushView_memWf,
    handData_memWf, foldl_memWf, foldl_keeps]

/-! ### Issue and end of engine operations -/

theorem execTcopy_memWf {s : State} (h : s.memWf = true) (f) : NextMemWf (execTcopy f s) := by
  refine issueEach_memWf h _ fun v s h => ?_
  dsimp only
  split
  · simp [h]
  · split
    · simp [h]
    · split
      · simp [h]
      · split <;> simp [h]

@[simp] theorem modHead_memWf (s : State) (gid e f) : (modHead s gid e f).memWf = s.memWf := by
  unfold modHead
  split <;> rfl

theorem fireOp_memWf {s : State} {gid e r} (hr : fireOp s gid e = some r) : r.memWf = s.memWf := by
  unfold fireOp at hr
  split at hr
  · dsimp only at hr
    split_ifs at hr
    · obtain ⟨⟨c, s'⟩, hs, rfl⟩ := Option.map_eq_some_iff.mp hr
      simp [startScan_memWf hs]
    · obtain ⟨s', hs, rfl⟩ := Option.map_eq_some_iff.mp hr
      simp [startBar_memWf hs]
    · cases hr
      simp
  · cases hr

theorem execOperationFire_memWf {s : State} (h : s.memWf = true) (gid eng) : NextMemWf (execOperationFire gid eng s) :=
  getD_memWf (fun _ hr => (fireOp_memWf hr).trans h) h

@[simp] theorem switchBanks_memWf {s : State} (h : s.memWf = true) (f v) : (switchBanks f v s).memWf = true := by
  have hw : (v.g.cores.foldl (fun s c => writeBack s c fun _ => true) s).memWf = true :=
    foldl_keeps _ _ (fun _ _ h => writeBack_memWf h ..) h
  unfold switchBanks
  dsimp only
  split_ifs <;> simp [h, hw]

theorem execBanksw_memWf {s : State} (h : s.memWf = true) (f) : NextMemWf (execBanksw f s) :=
  issueEach_memWf h _ fun _ _ h => by simp [h]

@[simp] theorem runOp_memWf {s : State} (h : s.memWf = true) (g o) : (runOp s g o).2.memWf = true := by
  fun_cases runOp s g o <;> grind [runMma_memWf, runMspz_memWf, runAccst_memWf, runAccld_memWf, runContribution_memWf,
    runCopy_memWf, eThen_memWf, eThen_keeps]

theorem stopOp_memWf {s : State} (h : s.memWf = true) (g o e fl) {before} (hk : ∀ s, s.memWf = true → (before s).memWf = true) :
    (stopOp s g o e fl before).memWf = true := by
  unfold stopOp
  grind [modHead_memWf, retireOp_memWf, openFault_memWf, countCore_memWf, raiseCtxFatal_memWf]

@[simp] theorem sendOnce_memWf (s : State) (g o failed bs) : (sendOnce s g o failed bs).memWf = s.memWf := by simp [sendOnce]

@[simp] theorem retireScan_memWf {s : State} (h : s.memWf = true) (g o) : (retireScan s g o).memWf = true := by
  fun_cases retireScan s g o <;> grind [runScan_memWf, retireOp_memWf, engPuts_memWf, sendOnce_memWf, stopOp_memWf]

@[simp] theorem endOp_memWf {s : State} (h : s.memWf = true) (g o) : (endOp s g o).memWf = true := by
  fun_cases endOp s g o <;> grind [retireScan_memWf, retireOp_memWf, runOp_memWf, stopOp_memWf]

theorem execEngineRetire_memWf {s : State} (h : s.memWf = true) (gid eng) : NextMemWf (execEngineRetire gid eng s) := by
  unfold execEngineRetire
  split <;> simp [h]

@[simp] theorem abortOps_memWf (s : State) (gid) : (abortOps s gid).memWf = s.memWf := by
  fun_cases abortOps s gid
  grind [popOp_memWf, retireOp_memWf, foldl_memWf]

@[simp] theorem resumeViews_memWf {s : State} (h : s.memWf = true) (ctx) : (resumeViews s ctx).memWf = true := by
  fun_cases resumeViews s ctx <;> grind [releaseHeld_memWf, settleDrain_memWf, flushView_memWf, foldl_keeps]

@[simp] theorem endRefused_memWf (s : State) (ctx) : (endRefused s ctx).memWf = s.memWf := memWf_congr rfl rfl

@[simp] theorem resumeFault_memWf {s : State} (h : s.memWf = true) (ctx tag fail) : (resumeFault s ctx tag fail).memWf = true := by
  simp [resumeFault, h]

theorem execFltrespRetry_memWf {s : State} (h : s.memWf = true) (ctx tag) : NextMemWf (execFltrespRetry ctx tag s) := by
  simp [execFltrespRetry, h]

theorem execFltrespFail_memWf {s : State} (h : s.memWf = true) (ctx tag) : NextMemWf (execFltrespFail ctx tag s) := by
  simp [execFltrespFail, h]

/-! ### Queues and packets -/

@[simp] theorem putQueue_memWf (s : State) (x) : (putQueue s x).memWf = s.memWf := memWf_congr rfl rfl

@[simp] theorem logQueue_memWf (s : State) (x) : (logQueue s x).memWf = s.memWf := by simp [logQueue]

@[simp] theorem setQueueState_memWf (s : State) (x st) : (setQueueState s x st).memWf = s.memWf := by simp [setQueueState]

@[simp] theorem queueError_memWf (s : State) (x code ix) : (queueError s x code ix).memWf = s.memWf := by simp [queueError]

@[simp] theorem setCapt_memWf {s : State} (h : s.memWf = true) (ctx va on) : (setCapt s ctx va on).memWf = true := by
  fun_cases setCapt s ctx va on <;> grind [memPutNat_memWf, State.memWf]

@[simp] theorem clearCapt_memWf {s : State} (h : s.memWf = true) (ctx) : (clearCapt s ctx).memWf = true :=
  foldl_keeps _ _ (fun _ _ h => by simp [h]) h

@[simp] theorem freeGrid_memWf (s : State) (k) : (freeGrid s k).memWf = s.memWf := by simp [freeGrid]

@[simp] theorem modPlan_memWf (s : State) (ctx pass f) : (modPlan s ctx pass f).memWf = s.memWf := memWf_congr rfl rfl

@[simp] theorem planStart_memWf (s : State) (k pass) : (planStart s k pass).memWf = s.memWf := by simp [planStart]

@[simp] theorem planEnd_memWf (s : State) (k pass) : (planEnd s k pass).memWf = s.memWf := memWf_congr rfl rfl

@[simp] theorem planRestore_memWf (s : State) (kid) : (planRestore s kid).memWf = s.memWf := memWf_congr rfl rfl

@[simp] theorem finishKernel_memWf {s : State} (h : s.memWf = true) (kid status detail) :
    (finishKernel s kid status detail).memWf = true := by
  fun_cases finishKernel s kid status detail <;> grind [clearCapt_memWf, planRestore_memWf, modKernel_memWf, freeGrid_memWf,
    State.memWf]

@[simp] theorem endKernel_memWf (s : State) (k) : (endKernel s k).memWf = s.memWf := by
  fun_cases endKernel s k <;> grind [modKernel_memWf, emit_memWf, State.memWf]

@[simp] theorem launchBytes_memWf (s : State) (ctx l va pa n) : (launchBytes s ctx l va pa n).2.memWf = s.memWf := by
  fun_cases launchBytes s ctx l va pa n <;> grind [stowTile_memWf]

@[simp] theorem launchAccess_memWf (s : State) (k off a n) : (launchAccess s k off a n).2.memWf = s.memWf := by
  fun_cases launchAccess s k off a n <;> grind [checkAccess_memWf, launchBytes_memWf, raiseCtxFatal_memWf]

@[simp] theorem launchRead_memWf (s : State) (k off n) : (launchRead s k off n).2.memWf = s.memWf := by
  fun_cases launchRead s k off n <;> grind [launchAccess_memWf]

@[simp] theorem stallKernel_memWf {s : State} (h : s.memWf = true) (k off a kind level) :
    (stallKernel s k off a kind level).memWf = true := by
  simp [stallKernel, h]

@[simp] theorem stallDep_memWf {s : State} (h : s.memWf = true) (k i off kind level) :
    (stallDep s k i off kind level).memWf = true := by
  simp [stallDep, h]

@[simp] theorem logPacketFault_memWf (s : State) (k off) : (logPacketFault s k off).memWf = s.memWf := by simp [logPacketFault]

@[simp] theorem askSignal_memWf (s : State) (k rank a) : (askSignal s k rank a).memWf = s.memWf := by simp [askSignal]

@[simp] theorem signalDone_memWf {s : State} (h : s.memWf = true) (k) : (signalDone s k).memWf = true := by
  grind [signalDone, endKernel_memWf, launchAccess_memWf, writeBack_memWf, writeTag_memWf, physPut_memWf, stallKernel_memWf,
    askSignal_memWf, logPacketFault_memWf, foldl_keeps]

@[simp] theorem goOnCompleting_memWf {s : State} (h : s.memWf = true) (k) : (goOnCompleting s k).memWf = true := by
  unfold goOnCompleting
  split <;> simp [h]

theorem execKernelCompleting_memWf {s : State} (h : s.memWf = true) (kid) : NextMemWf (execKernelCompleting kid s) := by
  simp only [execKernelCompleting, nextMemWf_next]
  (repeat' split) <;> simp [h]

@[simp] theorem abortUndispatched_memWf {s : State} (h : s.memWf = true) (ctx q) : (abortUndispatched s ctx q).memWf = true :=
  foldl_keeps _ _ (fun _ _ h => by simp [h]) h

@[simp] theorem refuseState_memWf (s : State) (ctx) : (refuseState s ctx).memWf = s.memWf := by simp [refuseState]

theorem queueCommand_memWf {s : State} (h : s.memWf = true) (ctx q) {f} (hk : ∀ x s, s.memWf = true → (f x s).memWf = true) :
    NextMemWf (queueCommand ctx q s f) := by
  fun_cases queueCommand ctx q s f
  grind [nextMemWf_next]

theorem execQueueEnable_memWf {s : State} (h : s.memWf = true) (ctx q) : NextMemWf (execQueueEnable ctx q s) := by
  fun_cases execQueueEnable ctx q s
  grind [queueCommand_memWf, refuseState_memWf, logQueue_memWf, putQueue_memWf,
    setQueueState_memWf]

theorem execQueueSuspend_memWf {s : State} (h : s.memWf = true) (ctx q) : NextMemWf (execQueueSuspend ctx q s) := by
  fun_cases execQueueSuspend ctx q s
  grind [queueCommand_memWf, setQueueState_memWf, refuseState_memWf]

theorem execQueueResume_memWf {s : State} (h : s.memWf = true) (ctx q) : NextMemWf (execQueueResume ctx q s) := by
  fun_cases execQueueResume ctx q s
  grind [queueCommand_memWf, setQueueState_memWf, refuseState_memWf]

theorem execQueueDrain_memWf {s : State} (h : s.memWf = true) (ctx q) : NextMemWf (execQueueDrain ctx q s) := by
  fun_cases execQueueDrain ctx q s
  grind [queueCommand_memWf, setQueueState_memWf, refuseState_memWf]

theorem execQueueDisable_memWf {s : State} (h : s.memWf = true) (ctx q) : NextMemWf (execQueueDisable ctx q s) := by
  fun_cases execQueueDisable ctx q s
  grind [queueCommand_memWf, setQueueState_memWf, abortUndispatched_memWf, refuseState_memWf]

theorem execQueueReset_memWf {s : State} (h : s.memWf = true) (ctx q) : NextMemWf (execQueueReset ctx q s) := by
  fun_cases execQueueReset ctx q s
  grind [queueCommand_memWf, abortUndispatched_memWf, putQueue_memWf, refuseState_memWf]

theorem execQueueDrainEnd_memWf {s : State} (h : s.memWf = true) (ctx q) : NextMemWf (execQueueDrainEnd ctx q s) := by
  fun_cases execQueueDrainEnd ctx q s
  grind [queueCommand_memWf, setQueueState_memWf]

theorem execQueueResetEnd_memWf {s : State} (h : s.memWf = true) (ctx q) : NextMemWf (execQueueResetEnd ctx q s) := by
  fun_cases execQueueResetEnd ctx q s
  grind [queueCommand_memWf, setQueueState_memWf]

@[simp] theorem writeWridx_memWf (s : State) (x v) : (writeWridx s x v).memWf = s.memWf := by simp [writeWridx]

theorem execWridxWrite_memWf {s : State} (h : s.memWf = true) (ctx q v) : NextMemWf (execWridxWrite ctx q v s) := by
  grind [execWridxWrite, queueCommand_memWf, writeWridx_memWf]

@[simp] theorem chainFails_memWf {s : State} (h : s.memWf = true) (k) : (chainFails s k).2.memWf = true := by
  fun_cases chainFails s k
  grind [launchRead_memWf, stallDep_memWf, finishKernel_memWf, logPacketFault_memWf, foldl_snd_memWf,
    foldl_snd_keeps]

@[simp] theorem armKernel_memWf {s : State} (h : s.memWf = true) (k) : (armKernel s k).memWf = true := by simp [armKernel, h]

@[simp] theorem waitKernel_memWf (s : State) (kid) : (waitKernel s kid).memWf = s.memWf := memWf_congr rfl rfl

@[simp] theorem settleKernel_memWf {s : State} (h : s.memWf = true) (kid) : (settleKernel s kid).memWf = true := by
  grind [settleKernel, waitKernel_memWf, chainFails_memWf, finishKernel_memWf, armKernel_memWf]

@[simp] theorem testDep_memWf {s : State} (h : s.memWf = true) (kid i) : (testDep s kid i).memWf = true := by
  fun_cases testDep s kid i <;> grind [settleKernel_memWf, launchRead_memWf, modKernel_memWf, stallDep_memWf, finishKernel_memWf,
    logPacketFault_memWf]

theorem execDependenceWrite_memWf {s : State} (h : s.memWf = true) (kid dep) : NextMemWf (execDependenceWrite kid dep s) := by
  simp [execDependenceWrite, h]

theorem execHostDependenceReread_memWf {s : State} (h : s.memWf = true) (kid dep) :
    NextMemWf (execHostDependenceReread kid dep s) := by
  simp [execHostDependenceReread, h]

@[simp] theorem trigOp_memWf {s : State} (h : s.memWf = true) (ctx n f) : (trigOp s ctx n f).memWf = true := by
  grind [trigOp, modCtx_memWf, memPutNat_memWf, settleKernel_memWf, modKernel_memWf, foldl_keeps]

theorem execTriggerWindowAdd_memWf {s : State} (h : s.memWf = true) (func slot n v) :
    NextMemWf (execTriggerWindowAdd func slot n v s) := by
  unfold execTriggerWindowAdd
  split <;> simp [h]

theorem execTriggerWindowSet_memWf {s : State} (h : s.memWf = true) (func slot n v) :
    NextMemWf (execTriggerWindowSet func slot n v s) := by
  unfold execTriggerWindowSet
  split <;> simp [h]

@[simp] theorem takePacket_memWf {s : State} (h : s.memWf = true) (x) : (takePacket s x).memWf = true := by
  fun_cases takePacket s x <;> grind [queueError_memWf, putQueue_memWf, testDep_memWf, settleKernel_memWf, State.memWf,
    foldl_memWf, foldl_keeps]

theorem execPacketIntake_memWf {s : State} (h : s.memWf = true) (ctx q) : NextMemWf (execPacketIntake ctx q s) := by
  grind [execPacketIntake, queueCommand_memWf, takePacket_memWf]

/-! ### Counters and time -/

@[simp] theorem modSession_memWf (s : State) (func f) : (modSession s func f).memWf = s.memWf := memWf_congr rfl rfl

theorem execCntrd_memWf {s : State} (h : s.memWf = true) (f) : NextMemWf (execCntrd f s) :=
  issueEach_memWf h _ fun _ _ h => by simp [h]

theorem cntctl_memWf {s : State} (h : s.memWf = true) (f) {op} (hk : ∀ s a b c, s.memWf = true → (op s a b c).2.memWf = true) :
    NextMemWf (cntctl f s op) :=
  issueEach_memWf h _ fun _ _ h => by grind [applyPend_memWf]

@[simp] theorem ownerOp_memWf (s : State) (ctx st m) : (ownerOp s ctx st m).2.memWf = s.memWf := by
  fun_cases ownerOp s ctx st m <;> rfl

theorem execCntctlOpen_memWf {s : State} (h : s.memWf = true) (f) : NextMemWf (execCntctlOpen f s) := by
  fun_cases execCntctlOpen f s
  grind [cntctl_memWf, State.memWf]

@[simp] theorem endSession_memWf (s : State) (ctx) : (endSession s ctx).memWf = s.memWf := memWf_congr rfl rfl

theorem execCntctlClose_memWf {s : State} (h : s.memWf = true) (f) : NextMemWf (execCntctlClose f s) := by
  fun_cases execCntctlClose f s
  grind [cntctl_memWf, endSession_memWf]

theorem execCntctlSel_memWf {s : State} (h : s.memWf = true) (f) : NextMemWf (execCntctlSel f s) := by
  grind [execCntctlSel, cntctl_memWf, ownerOp_memWf]

theorem execCntctlRun_memWf {s : State} (h : s.memWf = true) (f) : NextMemWf (execCntctlRun f s) := by
  grind [execCntctlRun, cntctl_memWf, ownerOp_memWf]

theorem execCntctlClear_memWf {s : State} (h : s.memWf = true) (f) : NextMemWf (execCntctlClear f s) := by
  grind [execCntctlClear, cntctl_memWf, ownerOp_memWf]

theorem execCntctlOvfen_memWf {s : State} (h : s.memWf = true) (f) : NextMemWf (execCntctlOvfen f s) := by
  grind [execCntctlOvfen, cntctl_memWf, ownerOp_memWf]

theorem execCntctlPlan_memWf {s : State} (h : s.memWf = true) (f) : NextMemWf (execCntctlPlan f s) := by
  grind [execCntctlPlan, cntctl_memWf, ownerOp_memWf]

@[simp] theorem countIssue_memWf (before after : State) (u i) : (countIssue before u i after).memWf = after.memWf := by
  unfold countIssue
  grind [countCore_memWf, State.memWf, foldl_memWf, foldl_keeps, foldl_snd_memWf, foldl_snd_keeps]

@[simp] theorem countJoins_memWf (before after : State) (i) : (countJoins before i after).memWf = after.memWf := by
  unfold countJoins
  grind [countCore_memWf, foldl_memWf, foldl_keeps]

@[simp] theorem countCoreCycles_memWf (s : State) (e core n) : (countCoreCycles s e core n).memWf = s.memWf := by
  simp [countCoreCycles]

@[simp] theorem countCycles_memWf (s : State) (n) : (countCycles s n).memWf = s.memWf := by
  fun_cases countCycles s n <;> grind [countCoreCycles_memWf, State.memWf, foldl_memWf, foldl_keeps]

@[simp] theorem countSlices_memWf (s : State) (n) : (countSlices s n).memWf = s.memWf := by
  fun_cases countSlices s n <;> grind [bumpCounter_memWf, foldl_memWf]

@[simp] theorem passTime_memWf (s : State) (cycles ns) : (passTime s cycles ns).memWf = s.memWf := by
  grind [passTime, countSlices_memWf, countCycles_memWf, answerReads_memWf, tickFree_memWf, State.memWf]

@[simp] theorem wrapSlices_memWf (s : State) (func item) : (wrapSlices s func item).memWf = s.memWf := by
  unfold wrapSlices
  split <;> simp

theorem execCounterWrap_memWf {s : State} (h : s.memWf = true) (func item) : NextMemWf (execCounterWrap func item s) := by
  simp [execCounterWrap, h]

@[simp] theorem unloadSession_memWf {s : State} (h : s.memWf = true) (func) : (unloadSession s func).memWf = true := by
  unfold unloadSession
  split
  · exact h
  · split
    · exact h
    · rw [modSession_memWf]
      refine foldl_keeps _ _ (fun _ _ h => memPutNat_memWf h ..) ?_
      refine foldl_keeps _ _ (fun _ _ h => memPutNat_memWf h ..) ?_
      refine foldl_keeps _ _ (fun _ _ h => memPutNat_memWf h ..) ?_
      exact clearBytes_memWf h _

@[simp] theorem loadSession_memWf (s : State) (func) : (loadSession s func).memWf = s.memWf := by
  unfold loadSession
  split <;> simp

/-! ### Saving groups -/

@[simp] theorem beginMethod_memWf (s : State) (g m bound victimOf) : (beginMethod s g m bound victimOf).memWf = s.memWf :=
  memWf_congr rfl rfl

@[simp] theorem requestPreempt_memWf (s : State) (gid bound launcher victimOf saveOnly) :
    (requestPreempt s gid bound launcher victimOf saveOnly).memWf = s.memWf := by
  unfold requestPreempt
  split <;> simp

theorem execPreemptRequest_memWf {s : State} (h : s.memWf = true) (gid bound fromLauncher) :
    NextMemWf (execPreemptRequest gid bound fromLauncher s) := by
  simp [execPreemptRequest, h]

theorem execDrainOverrun_memWf {s : State} (h : s.memWf = true) (gid) : NextMemWf (execDrainOverrun gid s) := by
  unfold execDrainOverrun
  split <;> simp [h]

theorem execBoundMissed_memWf {s : State} (h : s.memWf = true) (gid) : NextMemWf (execBoundMissed gid s) := by
  unfold execBoundMissed
  split <;> simp [h]

@[simp] theorem writeCsb_memWf {s : State} (h : s.memWf = true) (m) : (writeCsb s m).memWf = true := by
  have words (at_ : Nat) (l : List CarryPkt) {s : State} (h : s.memWf = true) :
      ((l.zip (List.range 8)).foldl (fun s p =>
        (p.1.data.zip (List.range 8)).foldl (fun s w => memPutNat s (at_ + 64 * p.2 + 8 * w.2) 8 w.1.toNat) s) s).memWf = true :=
    foldl_keeps _ _ (fun _ _ h => foldl_keeps _ _ (fun _ _ h => memPutNat_memWf h ..) h) h
  exact foldl_keeps _ _ (fun _ _ h => memPutNat_memWf h ..) (words _ _ (words _ _ (words _ _ (clearBytes_memWf h _))))

@[simp] theorem writeExt_memWf {s : State} (h : s.memWf = true) (g) : (writeExt s g).memWf = true := by
  unfold writeExt
  split
  · exact h
  · exact foldl_keeps _ _ (fun _ _ h => foldl_keeps _ _ (fun _ _ h => memPut_memWf h ..) (clearBytes_memWf h _)) h

@[simp] theorem gateEmpty_memWf (s : State) (die) : (gateEmpty s die).memWf = s.memWf := by
  fun_cases gateEmpty s die <;> rfl

@[simp] theorem coreFreed_memWf (s : State) (cores) : (coreFreed s cores).memWf = s.memWf := by
  grind [coreFreed, gateEmpty_memWf, serveAcc_memWf, readyEngine_memWf, State.memWf]

@[simp] theorem saveGroup_memWf {s : State} (h : s.memWf = true) (g) : (saveGroup s g).memWf = true := by
  grind [saveGroup, writeBack_memWf, leaveSems_memWf, modGroup_memWf, capGroupStatus_memWf, writeExt_memWf, writeRecord_memWf,
    writeCsb_memWf, emitGroup_memWf, barDesched_memWf, coreFreed_memWf, State.memWf, foldl_keeps]

theorem execSaveComplete_memWf {s : State} (h : s.memWf = true) (gid written) : NextMemWf (execSaveComplete gid written s) := by
  unfold execSaveComplete
  split <;> simp [h]

@[simp] theorem freeRecord_memWf (s : State) (g) : (freeRecord s g).memWf = s.memWf := by
  unfold freeRecord
  dsimp only
  split <;> simp

theorem execFlushComplete_memWf {s : State} (h : s.memWf = true) (gid) : NextMemWf (execFlushComplete gid s) := by
  fun_cases execFlushComplete gid s
  grind [nextMemWf_next, writeBack_memWf, collLeave_memWf, barFlush_memWf, leaveSems_memWf,
    freeRecord_memWf, coreFreed_memWf, modGroup_memWf, State.memWf, foldl_memWf, foldl_keeps]

@[simp] theorem endMember_memWf (s : State) (g) : (endMember s g).memWf = s.memWf := by
  unfold endMember
  split <;> simp

theorem execGroupRetire_memWf {s : State} (h : s.memWf = true) (gid) : NextMemWf (execGroupRetire gid s) := by
  unfold execGroupRetire
  split <;> simp [h]

/-! ### Debug events -/

@[simp] theorem takeStates_memWf {s : State} (h : s.memWf = true) (gid) : (takeStates s gid).memWf = true :=
  foldl_keeps _ _ (fun _ _ h => by split <;> simp [h]) h

@[simp] theorem resumeGroup_memWf {s : State} (h : s.memWf = true) (g) : (resumeGroup s g).memWf = true := by
  fun_cases resumeGroup s g <;> grind [memPutNat_memWf, modGroup_memWf, takeStates_memWf, capGroupStatus_memWf, afterExit_memWf]

@[simp] theorem debugOn_memWf {s : State} (h : s.memWf = true) (ctx slot cmd) : (debugOn s ctx slot cmd).2.memWf = true := by
  fun_cases debugOn s ctx slot cmd <;> simp [h]

@[simp] theorem debugCommand_memWf {s : State} (h : s.memWf = true) (ctx slot cmd) :
    (debugCommand s ctx slot cmd).memWf = true := by
  simp [debugCommand, h]

theorem debugEvent_memWf {s : State} (h : s.memWf = true) (ctx slot cmd) : NextMemWf (debugEvent s ctx slot cmd) := by
  unfold debugEvent
  split <;> simp [h]

theorem execDebugHalt_memWf {s : State} (h : s.memWf = true) (ctx slot) : NextMemWf (execDebugHalt ctx slot s) :=
  debugEvent_memWf h ..

theorem execDebugHaltf_memWf {s : State} (h : s.memWf = true) (ctx slot) : NextMemWf (execDebugHaltf ctx slot s) :=
  debugEvent_memWf h ..

theorem execDebugResume_memWf {s : State} (h : s.memWf = true) (ctx slot) : NextMemWf (execDebugResume ctx slot s) :=
  debugEvent_memWf h ..

theorem execDebugBkpton_memWf {s : State} (h : s.memWf = true) (ctx slot) : NextMemWf (execDebugBkpton ctx slot s) :=
  debugEvent_memWf h ..

theorem execDebugBkptoff_memWf {s : State} (h : s.memWf = true) (ctx slot) : NextMemWf (execDebugBkptoff ctx slot s) :=
  debugEvent_memWf h ..

/-! ### Placement -/

@[simp] theorem lotteryWin_memWf {s : State} (h : s.memWf = true) (ctx l) : (lotteryWin s ctx l).2.memWf = true := by
  fun_cases lotteryWin s ctx l <;> simp [h]

theorem pickLottery_memWf {s : State} (h : s.memWf = true) {x r} (hr : pickLottery s = some (x, r)) : r.memWf = true := by
  unfold pickLottery at hr
  split at hr
  · cases hr
  · dsimp only at hr
    split at hr
    · cases hr
    · next w s' hw =>
      have hs' : s'.memWf = true := by
        rw [← show _ = s' from congrArg Prod.snd hw]
        apply lotteryWin_memWf
        exact h
      obtain ⟨k, -, hk⟩ := Option.map_eq_some_iff.mp hr
      cases hk
      simpa using hs'

@[simp] theorem missDeadline_memWf {s : State} (h : s.memWf = true) (k) : (missDeadline s k).memWf = true := by
  simp [missDeadline, h]

theorem execDeadlineMiss_memWf {s : State} (h : s.memWf = true) (kid) : NextMemWf (execDeadlineMiss kid s) := by
  unfold execDeadlineMiss
  split <;> simp [h]

@[simp] theorem startReplay_memWf {s : State} (h : s.memWf = true) (k) : (startReplay s k).memWf = true := by simp [startReplay, h]

@[simp] theorem checkDispatch_memWf {s : State} (h : s.memWf = true) (k) : (checkDispatch s k).memWf = true := by
  grind [checkDispatch, launchRead_memWf, stallKernel_memWf, finishKernel_memWf, modKernel_memWf, startReplay_memWf,
    logPacketFault_memWf]

@[simp] theorem selectKernel_memWf {s : State} (h : s.memWf = true) (k) : (selectKernel s k).memWf = true := by
  fun_cases selectKernel s k <;> grind [modKernel_memWf, checkDispatch_memWf, State.memWf]

theorem chooseKernel_memWf {s : State} (h : s.memWf = true) {x r} (hr : chooseKernel s = some (x, r)) : r.memWf = true := by
  have hl {k} (hk : pickLottery s = some k) : k.2.memWf = true := pickLottery_memWf h hk
  unfold chooseKernel at hr
  split at hr
  · split at hr
    · cases hr
      exact h
    · next hk _ =>
      cases hr
      exact hl hk
  · cases hr
    exact h
  · next hk =>
    cases hr
    exact hl hk
  · cases hr

@[simp] theorem dealRecord_memWf (s : State) (die) : (dealRecord s die).memWf = s.memWf := by
  fun_cases dealRecord s die <;> rfl

theorem execRecordDeal_memWf {s : State} (h : s.memWf = true) (die) : NextMemWf (execRecordDeal die s) := by
  simp [execRecordDeal, h]

theorem execStealRequest_memWf {s : State} (h : s.memWf = true) (core) : NextMemWf (execStealRequest core s) := by
  grind [execStealRequest, nextMemWf_next, modGroup_memWf, State.memWf, foldl_keeps]

@[simp] theorem addMember_memWf (s : State) (g csb) : (addMember s g csb).memWf = s.memWf := memWf_congr rfl rfl

theorem reserveRecord_memWf {s : State} {g x r} (hr : reserveRecord s g = some (x, r)) : r.memWf = s.memWf := by
  unfold reserveRecord at hr
  split at hr
  · cases hr
  · next ha =>
    split at hr
    · obtain ⟨⟨a, s'⟩, ha', hr⟩ := Option.map_eq_some_iff.mp hr
      cases hr
      simp [allocSave_memWf ha', allocSave_memWf ha]
    · cases hr
      exact allocSave_memWf ha

@[simp] theorem logSpace_memWf (s : State) (k) : (logSpace s k).memWf = s.memWf := by simp [logSpace]

theorem placeRecord_memWf {s : State} {k d g p cores r} (hr : placeRecord s k d g p cores = some r) : r.memWf = s.memWf := by
  grind [placeRecord, reserveRecord_memWf, modGroup_memWf, dropClean_memWf, emitGroup_memWf, barDesched_memWf, modKernel_memWf,
    foldl_memWf]

@[simp] theorem startGroup_memWf (s : State) (g p cores) : (startGroup s g p cores).memWf = s.memWf := by
  unfold startGroup
  split
  · rfl
  · split
    · simp
    · split
      · next hp =>
        obtain ⟨d, -, hd⟩ := Option.bind_eq_some_iff.mp hp
        exact placeRecord_memWf hd
      · simp

@[simp] theorem restoreGroup_memWf (s : State) (g p cores) : (restoreGroup s g p cores).memWf = s.memWf := by simp [restoreGroup]

theorem restoreAll_memWf {s : State} {l r} (hr : restoreAll s l = some r) : r.memWf = s.memWf := by
  induction l generalizing s with
  | nil => cases hr; rfl
  | cons g l ih =>
    unfold restoreAll at hr
    split at hr
    · next p cs _ => exact (ih hr).trans (restoreGroup_memWf s g p cs)
    · cases hr

@[simp] theorem reformConvoy_memWf (s : State) (kid) : (reformConvoy s kid).memWf = s.memWf := by
  unfold reformConvoy
  split <;> simp

theorem execRecordStart_memWf {s : State} (h : s.memWf = true) (core gid) : NextMemWf (execRecordStart core gid s) := by
  fun_cases execRecordStart core gid s
  grind [nextMemWf_next, restoreAll_memWf, reformConvoy_memWf, startGroup_memWf]

@[simp] theorem powerUp_memWf (s : State) (g) : (powerUp s g).memWf = s.memWf := memWf_congr rfl rfl

@[simp] theorem resumeCaps_memWf {s : State} (h : s.memWf = true) (g) : (resumeCaps s g).memWf = true := by
  fun_cases resumeCaps s g
  grind [capStatus_memWf, resumeCapsule_memWf, foldl_memWf, foldl_keeps, foldl_snd_memWf,
    foldl_snd_keeps]

@[simp] theorem coolGroup_memWf (s : State) (gid) : (coolGroup s gid).memWf = s.memWf := by
  unfold coolGroup
  split <;> simp

@[simp] theorem readyGroup_memWf {s : State} (h : s.memWf = true) (g) : (readyGroup s g).memWf = true := by
  fun_cases readyGroup s g <;> grind [powerUp_memWf, modGroup_memWf, resumeCaps_memWf, capGroupStatus_memWf, afterExit_memWf,
    takeStates_memWf, coolGroup_memWf, serveSlots_memWf]

theorem execPlacementReady_memWf {s : State} (h : s.memWf = true) (gid) : NextMemWf (execPlacementReady gid s) := by
  unfold execPlacementReady
  split <;> simp [h]

@[simp] theorem cohortRecords_memWf (s : State) (k l) : (cohortRecords s k l).memWf = s.memWf := by
  grind [cohortRecords, State.memWf, foldl_memWf, foldl_keeps]

@[simp] theorem makeGrid_memWf (s : State) (k) : (makeGrid s k).memWf = s.memWf := by
  grind [makeGrid, logBar_memWf, putBar_memWf, State.memWf]

@[simp] theorem makeConvoy_memWf (s : State) (k) : (makeConvoy s k).memWf = s.memWf := by
  grind [makeConvoy, emit_memWf, State.memWf]

theorem startCohort_memWf {s : State} {k d r} (hr : startCohort s k d = some r) : r.memWf = s.memWf :=
  foldl_bind_memWf (fun _ _ _ h => placeRecord_memWf h) _ _ _ hr

theorem reserveCohort_memWf {s : State} {k l r} (hr : reserveCohort s k l = some r) : r.memWf = s.memWf := by
  obtain ⟨d, -, hd⟩ := Option.bind_eq_some_iff.mp hr
  simp [startCohort_memWf hd]

theorem execCohortReservation_memWf {s : State} (h : s.memWf = true) (kid) : NextMemWf (execCohortReservation kid s) := by
  have hr (k l) : ((reserveCohort s k l).getD (logSpace s k)).memWf = true :=
    getD_memWf (fun _ hr => (reserveCohort_memWf hr).trans h) (by simp [h])
  simp only [execCohortReservation, nextMemWf_next]
  (repeat' split) <;> simp [h, hr]

theorem execCohortWait_memWf {s : State} (h : s.memWf = true) (kid) : NextMemWf (execCohortWait kid s) := by
  unfold execCohortWait
  split <;> simp [h]

theorem execPlacementOpportunity_memWf {s : State} (h : s.memWf = true) : NextMemWf (execPlacementOpportunity s) := by
  fun_cases execPlacementOpportunity s
  grind [nextMemWf_next, checkDispatch_memWf, requestPreempt_memWf, missDeadline_memWf,
    chooseKernel_memWf, selectKernel_memWf, foldl_keeps]

/-! ### Multi-pass replay -/

@[simp] theorem sendGranule_memWf (s : State) (ctx dst bs) : (sendGranule s ctx dst bs).memWf = s.memWf := by simp [sendGranule]

@[simp] theorem copyGranule_memWf {s : State} (h : s.memWf = true) (ctx src dst) : (copyGranule s ctx src dst).memWf = true := by
  unfold copyGranule
  dsimp only
  split
  · exact withHostMem_memWf h (swf_putGranule (swf_hostMem h) ..)
  · split
    · simp [h]
    · exact withMem_memWf h (swf_putGranule (swf_mem h) ..)

@[simp] theorem endCapture_memWf {s : State} (h : s.memWf = true) (ctx) : (endCapture s ctx).memWf = true := by
  fun_cases endCapture s ctx
  grind [resumeFault_memWf, State.memWf]

theorem execCaptureCopyDone_memWf {s : State} (h : s.memWf = true) (ctx granule) :
    NextMemWf (execCaptureCopyDone ctx granule s) := by
  unfold execCaptureCopyDone
  -- held opaque, or checking the proof evaluates it in the state that the copy leaves
  generalize captureUnit = unitAndFilter
  grind [nextMemWf_next, modCtx_memWf, writeBack_memWf, copyGranule_memWf, memPutNat_memWf, ctxRegWrite_memWf, setCapt_memWf,
    emitFilt_memWf, endCapture_memWf, foldl_keeps]

@[simp] theorem dropCopies_memWf {s : State} (h : s.memWf = true) (ctx) : (dropCopies s ctx).memWf = true := by
  grind [dropCopies, dropClean_memWf, writeBack_memWf, modCtx_memWf, State.memWf, foldl_memWf, foldl_keeps]

@[simp] theorem restoreSlots_memWf {s : State} (h : s.memWf = true) (ctx is) : (restoreSlots s ctx is).2.memWf = true := by
  induction is generalizing s with
  | nil => exact h
  | cons i r ih =>
    unfold restoreSlots
    split
    · exact h
    · exact ih (copyGranule_memWf h ..)

@[simp] theorem restoreWrites_memWf {s : State} (h : s.memWf = true) (ctx) : (restoreWrites s ctx).2.memWf = true := by
  simp [restoreWrites, h]

@[simp] theorem mismatch_memWf (s : State) (k g) : (mismatch s k g).memWf = s.memWf := by simp [mismatch]

@[simp] theorem signatures_memWf {s : State} (h : s.memWf = true) (k) : (signatures s k).memWf = true := by
  simp +contextual [signatures, h, foldl_keeps]

@[simp] theorem nextPass_memWf (s : State) (k) : (nextPass s k).memWf = s.memWf := by
  grind [nextPass, freeGrid_memWf, modKernel_memWf, planStart_memWf, State.memWf]

theorem execReplayPassEnd_memWf {s : State} (h : s.memWf = true) (kid) : NextMemWf (execReplayPassEnd kid s) := by
  fun_cases execReplayPassEnd kid s
  grind [nextMemWf_next, planEnd_memWf, signatures_memWf, restoreWrites_memWf,
    nextPass_memWf, finishKernel_memWf, clearCapt_memWf]

/-! ### System instructions -/

@[simp] theorem writeCtxReg_memWf {s : State} (h : s.memWf = true) (ctx n x) : (writeCtxReg s ctx n x).memWf = true := by
  simp [writeCtxReg, h]

@[simp] theorem sysWrite_memWf {s : State} (h : s.memWf = true) (v n x) : (sysWrite s v n x).memWf = true := by simp [sysWrite, h]

@[simp] theorem sysrdOne_memWf {s : State} (h : s.memWf = true) (v) : (sysrdOne v s).memWf = true := by simp [sysrdOne, h]

theorem execSysrd_memWf {s : State} (h : s.memWf = true) (f) : NextMemWf (execSysrd f s) :=
  issueEach_memWf h _ fun _ _ h => by simp [h]

@[simp] theorem syswrOne_memWf {s : State} (h : s.memWf = true) (v) : (syswrOne v s).memWf = true := by simp [syswrOne, h]

theorem execSyswr_memWf {s : State} (h : s.memWf = true) (f) : NextMemWf (execSyswr f s) :=
  issueEach_memWf h _ fun _ _ h => by simp [h]

theorem execHostCtxregWrite_memWf {s : State} (h : s.memWf = true) (func slot n v) :
    NextMemWf (execHostCtxregWrite func slot n v s) := by
  unfold execHostCtxregWrite
  split <;> simp [h]

@[simp] theorem logevOne_memWf (s : State) (v) : (logevOne v s).memWf = s.memWf := by simp [logevOne]

theorem execLogev_memWf {s : State} (h : s.memWf = true) (f) : NextMemWf (execLogev f s) :=
  issueEach_memWf h _ fun _ _ h => by simp [h]

theorem chronRead_memWf {s : State} (h : s.memWf = true) (f x) : NextMemWf (chronRead f s x) :=
  issueEach_memWf h _ fun _ _ h => by simp [h]

theorem execChron_memWf {s : State} (h : s.memWf = true) (f) : NextMemWf (execChron f s) := chronRead_memWf h ..

theorem execChronQ_memWf {s : State} (h : s.memWf = true) (f) : NextMemWf (execChronQ f s) := chronRead_memWf h ..

@[simp] theorem placePacket_memWf {s : State} (h : s.memWf = true) (v q bs) : (placePacket s v q bs).memWf = true := by
  simp [placePacket, h]

@[simp] theorem loadPacket_memWf {s : State} (h : s.memWf = true) (v va q) : (loadPacket s v va q).memWf = true := by
  unfold loadPacket
  grind [resolve_memWf, winLoad_memWf, placePacket_memWf, readMain_memWf, acquireAt_memWf, remoteTake_memWf, remoteAsk_memWf,
    failAccess_memWf]

@[simp] theorem launchOne_memWf {s : State} (h : s.memWf = true) (v) : (launchOne v s).memWf = true := by simp [launchOne, h]

theorem execLaunch_memWf {s : State} (h : s.memWf = true) (f) : NextMemWf (execLaunch f s) :=
  issueEach_memWf h _ fun _ _ h => by simp [h]

theorem trigOne_memWf {s : State} (h : s.memWf = true) (v) {k} (hk : ∀ s x, s.memWf = true → (k s x).memWf = true) :
    (trigOne v s k).memWf = true := by
  fun_cases trigOne v s k <;> simp [*]

theorem execQsig_memWf {s : State} (h : s.memWf = true) (f) : NextMemWf (execQsig f s) :=
  issueEach_memWf h _ fun _ _ h => by grind [trigOne_memWf, trigOp_memWf]

theorem execTrigarm_memWf {s : State} (h : s.memWf = true) (f) : NextMemWf (execTrigarm f s) :=
  issueEach_memWf h _ fun _ _ h => by grind [trigOne_memWf, giveD_memWf, trigOp_memWf]

/-! ### Contexts and functions -/

@[simp] theorem setCst_memWf {s : State} (h : s.memWf = true) (ctx st) : (setCst s ctx st).memWf = true := by
  unfold setCst
  dsimp only
  split <;> simp [h]

@[simp] theorem setStat_memWf (s : State) (b ctx res) : (setStat s b ctx res).memWf = s.memWf := by
  unfold setStat
  split <;> rfl

@[simp] theorem endBusy_memWf (s : State) (ctx) : (endBusy s ctx).memWf = s.memWf := memWf_congr rfl rfl

@[simp] theorem refuse_memWf (s : State) (b ctx res) : (refuse s b ctx res).memWf = s.memWf := by simp [refuse]

@[simp] theorem openPart_memWf (s : State) (ctx) : (openPart s ctx).memWf = s.memWf := memWf_congr rfl rfl

@[simp] theorem bindContext_memWf {s : State} (h : s.memWf = true) (n func slot area debug) :
    (bindContext s n func slot area debug).memWf = true := by
  grind [bindContext, setCst_memWf, memPutNat_memWf, openPart_memWf, memPut_memWf, State.memWf]

theorem execCtxCreate_memWf {s : State} (h : s.memWf = true) (by_ slot num area debug) :
    NextMemWf (execCtxCreate by_ slot num area debug s) := by
  unfold execCtxCreate
  grind [nextMemWf_next, refuse_memWf, setStat_memWf, bindContext_memWf]

theorem execCtxActivate_memWf {s : State} (h : s.memWf = true) (by_ slot num) : NextMemWf (execCtxActivate by_ slot num s) := by
  simp only [execCtxActivate, nextMemWf_next]
  (repeat' split) <;> simp [h]

@[simp] theorem abortGroup_memWf {s : State} (h : s.memWf = true) (g) : (abortGroup s g).memWf = true := by
  grind [abortGroup, leaveSems_memWf, capGroupStatus_memWf, abortOps_memWf, coreFreed_memWf, State.memWf]

@[simp] theorem abortKernels_memWf {s : State} (h : s.memWf = true) (ctx status) : (abortKernels s ctx status).memWf = true :=
  foldl_keeps _ _ (fun _ _ h => by simp [h]) h

@[simp] theorem endStalled_memWf (s : State) (ctx) : (endStalled s ctx).memWf = s.memWf := by
  fun_cases endStalled s ctx
  grind [retryFault_memWf, foldl_memWf]

@[simp] theorem teardownCtx_memWf {s : State} (h : s.memWf = true) (ctx) : (teardownCtx s ctx).memWf = true := by
  grind [teardownCtx, setCst_memWf, setQueueState_memWf, freeBars_memWf, collCtxEnd_memWf, endStalled_memWf, abortGroup_memWf,
    modCtx_memWf, setConvoy_memWf, abortKernels_memWf, State.memWf, foldl_keeps]

theorem execCtxTeardown_memWf {s : State} (h : s.memWf = true) (by_ slot num) : NextMemWf (execCtxTeardown by_ slot num s) := by
  simp only [execCtxTeardown, nextMemWf_next]
  (repeat' split) <;> simp [h]

theorem execTeardownComplete_memWf {s : State} (h : s.memWf = true) (ctx) : NextMemWf (execTeardownComplete ctx s) := by
  fun_cases execTeardownComplete ctx s
  grind [nextMemWf_next, endBusy_memWf, endSession_memWf, setCst_memWf, State.memWf]

@[simp] theorem errorQueues_memWf (s : State) (ctx) : (errorQueues s ctx).memWf = s.memWf := by simp [errorQueues]

@[simp] theorem faultOrDrop_memWf {s : State} (h : s.memWf = true) (g) : (faultOrDrop s g).memWf = true := by
  fun_cases faultOrDrop s g <;> grind [groupFault_memWf, State.memWf]

theorem execContextFault_memWf {s : State} (h : s.memWf = true) (ctx cause) : NextMemWf (execContextFault ctx cause s) := by
  fun_cases execContextFault ctx cause s
  grind [nextMemWf_next, setCst_memWf, modCtx_memWf, collCtxEnd_memWf, emit_memWf,
    abortOps_memWf, barFailCtx_memWf, faultOrDrop_memWf, abortKernels_memWf, errorQueues_memWf, raiseInt_memWf, foldl_keeps]

@[simp] theorem preemptAll_memWf (s : State) (all) : (preemptAll s all).memWf = s.memWf := by simp [preemptAll]

theorem execSliceEnd_memWf {s : State} (h : s.memWf = true) : NextMemWf (execSliceEnd s) := by
  fun_cases execSliceEnd s
  grind [nextMemWf_next, preemptAll_memWf, State.memWf]

theorem execSwitchOutComplete_memWf {s : State} (h : s.memWf = true) (ctx) : NextMemWf (execSwitchOutComplete ctx s) := by
  simp [execSwitchOutComplete, h]

@[simp] theorem bringIn_memWf {s : State} (h : s.memWf = true) (f) : (bringIn s f).memWf = true := by
  unfold bringIn
  dsimp only
  refine foldl_keeps _ _ (fun _ _ h => ?_) (by simp [h])
  simp [h]

theorem execSwitchIn_memWf {s : State} (h : s.memWf = true) (func) : NextMemWf (execSwitchIn func s) := by
  fun_cases execSwitchIn func s
  grind [nextMemWf_next, bringIn_memWf, unloadSession_memWf, State.memWf]

/-! ### Fixes and watchdogs -/

@[simp] theorem doFix_memWf {s : State} (h : s.memWf = true) (trigger) : (doFix s trigger).memWf = true := by
  grind [doFix, emit_memWf, State.memWf]

@[simp] theorem autoFix_memWf {s : State} (h : s.memWf = true) (trigger) : (autoFix s trigger).memWf = true := by
  fun_cases autoFix s trigger <;> grind [doFix_memWf, State.memWf]

theorem execBarrierLate_memWf {s : State} (h : s.memWf = true) (ctx key) : NextMemWf (execBarrierLate ctx key s) := by
  simp only [execBarrierLate, nextMemWf_next]
  (repeat' split) <;> simp [h]

theorem execCollLate_memWf {s : State} (h : s.memWf = true) (ctx id) : NextMemWf (execCollLate ctx id s) := by
  simp only [execCollLate, nextMemWf_next]
  (repeat' split) <;> simp [h]

@[simp] theorem reply_memWf (s : State) (st data) : (reply s st data).memWf = s.memWf := by
  fun_cases reply s st data <;> grind [answerReads_memWf, emit_memWf, State.memWf]

theorem command_memWf {s k : State} (h : s.memWf = true) (h1 : k.memWf = true) (inRecovery) :
    NextMemWf (command s inRecovery k) := by
  fun_cases command s inRecovery k
  simp [*]

theorem execChronrd_memWf {s : State} (h : s.memWf = true) : NextMemWf (execChronrd s) := by simp [execChronrd, h]

theorem execLoghdr_memWf {s : State} (h : s.memWf = true) (part) : NextMemWf (execLoghdr part s) := by
  grind [execLoghdr, command_memWf, reply_memWf]

theorem execLogrd_memWf {s : State} (h : s.memWf = true) (part index count) : NextMemWf (execLogrd part index count s) := by
  fun_cases execLogrd part index count s
  grind [command_memWf, reply_memWf]

theorem execTakeFix_memWf {s : State} (h : s.memWf = true) (age autofix) : NextMemWf (execTakeFix age autofix s) := by
  grind [execTakeFix, doFix_memWf, command_memWf, reply_memWf, State.memWf]

theorem execFixrd_memWf {s : State} (h : s.memWf = true) (slot offset length) : NextMemWf (execFixrd slot offset length s) := by
  fun_cases execFixrd slot offset length s
  grind [command_memWf, reply_memWf]

theorem execPhysrd_memWf {s : State} (h : s.memWf = true) (pa length) : NextMemWf (execPhysrd pa length s) := by
  fun_cases execPhysrd pa length s
  grind [command_memWf, reply_memWf, State.memWf]

/-! ### Management -/

@[simp] theorem mapCore_memWf (s : State) (core) : (mapCore s core).memWf = s.memWf := by
  fun_cases mapCore s core <;> rfl

@[simp] theorem mapDie_memWf (s : State) (die) : (mapDie s die).memWf = s.memWf := by
  fun_cases mapDie s die <;> grind [mapCore_memWf, requestService_memWf, State.memWf, foldl_memWf, foldl_keeps]

@[simp] theorem logReset_memWf (s : State) (level thermal) : (logReset s level thermal).memWf = s.memWf := by
  grind [logReset, emit_memWf, setPart_memWf, State.memWf]

@[simp] theorem boot_memWf (s : State) : (boot s).memWf = s.memWf := memWf_congr rfl rfl

@[simp] theorem packageReset_memWf {s : State} (h : s.memWf = true) (keepMem) : (packageReset s keepMem).memWf = true := by
  grind [packageReset, State_reset_memWf, mapDie_memWf, State.memWf, foldl_keeps]

@[simp] theorem coldResetOp_memWf {s : State} (h : s.memWf = true) (thermal) : (coldResetOp s thermal).memWf = true := by
  simp [coldResetOp, h]

@[simp] theorem warmResetOp_memWf {s : State} (h : s.memWf = true) : (warmResetOp s).memWf = true := by simp [warmResetOp, h]

@[simp] theorem dieResetOp_memWf (s : State) (die) : (dieResetOp s die).memWf = s.memWf := by
  grind [dieResetOp, logReset_memWf, mapDie_memWf, State.memWf]

theorem execPowerReset_memWf {s : State} (h : s.memWf = true) : NextMemWf (execPowerReset s) := by
  grind [execPowerReset, nextMemWf_next, logReset_memWf, packageReset_memWf, boot_memWf, State.memWf]

theorem execColdReset_memWf {s : State} (h : s.memWf = true) (thermal) : NextMemWf (execColdReset thermal s) := by
  simp [execColdReset, h]

theorem execWarmReset_memWf {s : State} (h : s.memWf = true) : NextMemWf (execWarmReset s) := by simp [execWarmReset, h]

theorem execDieReset_memWf {s : State} (h : s.memWf = true) (die) : NextMemWf (execDieReset die s) := by simp [execDieReset, h]

theorem execFunctionReset_memWf {s : State} (h : s.memWf = true) (vf) : NextMemWf (execFunctionReset vf s) := by
  fun_cases execFunctionReset vf s
  grind [nextMemWf_next, teardownCtx_memWf, logReset_memWf, foldl_keeps]

theorem execFwload_memWf {s : State} (h : s.memWf = true) (bank offset bytes final) :
    NextMemWf (execFwload bank offset bytes final s) := by
  fun_cases execFwload bank offset bytes final s
  grind [command_memWf, reply_memWf, coldResetOp_memWf, State.memWf]

theorem execColdrst_memWf {s : State} (h : s.memWf = true) : NextMemWf (execColdrst s) := by
  grind [execColdrst, command_memWf, coldResetOp_memWf, reply_memWf]

theorem execWarmrst_memWf {s : State} (h : s.memWf = true) : NextMemWf (execWarmrst s) := by
  grind [execWarmrst, command_memWf, warmResetOp_memWf, reply_memWf]

theorem execDierst_memWf {s : State} (h : s.memWf = true) (die) : NextMemWf (execDierst die s) := by
  fun_cases execDierst die s
  grind [command_memWf, reply_memWf, dieResetOp_memWf]

theorem execSessionChallenge_memWf {s : State} (h : s.memWf = true) (signature) : NextMemWf (execSessionChallenge signature s) := by
  fun_cases execSessionChallenge signature s
  grind [nextMemWf_next, reply_memWf, State.memWf]

theorem execAttest_memWf {s : State} (h : s.memWf = true) (nonce func) : NextMemWf (execAttest nonce func s) := by
  simp [execAttest, h]

theorem portCommand_memWf {s : State} (h : s.memWf = true) (port) {k} (hk : ∀ q r, k q = some r → r.memWf = true) :
    NextMemWf (portCommand s port k) := by
  fun_cases portCommand s port k
  grind [command_memWf, reply_memWf]

theorem execPortDrain_memWf {s : State} (h : s.memWf = true) (port) : NextMemWf (execPortDrain port s) := by
  grind [execPortDrain, portCommand_memWf, drainPort_memWf]

theorem execPortFence_memWf {s : State} (h : s.memWf = true) (port) : NextMemWf (execPortFence port s) := by
  grind [execPortFence, portCommand_memWf, requestService_memWf, portDown_memWf]

theorem execPortUnfence_memWf {s : State} (h : s.memWf = true) (port) : NextMemWf (execPortUnfence port s) := by
  grind [execPortUnfence, portCommand_memWf, setLink_memWf]

theorem enterReplay_memWf {s : State} {port q r} (hr : enterReplay s port q = some r) : r.memWf = s.memWf := by
  grind [enterReplay, setLink_memWf, modPort_memWf, State.memWf]

theorem leaveReplay_memWf {s : State} {port q r} (hr : leaveReplay s port q = some r) : r.memWf = s.memWf := by
  grind [leaveReplay, portDown_memWf]

theorem execPortReplay_memWf {s : State} (h : s.memWf = true) (port) : NextMemWf (execPortReplay port s) := by
  grind [execPortReplay, portCommand_memWf, enterReplay_memWf]

theorem execPortReplayclr_memWf {s : State} (h : s.memWf = true) (port) : NextMemWf (execPortReplayclr port s) := by
  grind [execPortReplayclr, portCommand_memWf, leaveReplay_memWf]

theorem execPortTrainoff_memWf {s : State} (h : s.memWf = true) (port) : NextMemWf (execPortTrainoff port s) := by
  grind [execPortTrainoff, portCommand_memWf, modPort_memWf]

theorem execPortTrainon_memWf {s : State} (h : s.memWf = true) (port) : NextMemWf (execPortTrainon port s) := by
  grind [execPortTrainon, portCommand_memWf, modPort_memWf]

theorem execRoutewr_memWf {s : State} (h : s.memWf = true) (first dirs) : NextMemWf (execRoutewr first dirs s) := by
  fun_cases execRoutewr first dirs s
  grind [command_memWf, reply_memWf, failUnreachable_memWf, State.memWf]

theorem execMgmtPowcap_memWf {s : State} (h : s.memWf = true) (watts) : NextMemWf (execMgmtPowcap watts s) := by
  fun_cases execMgmtPowcap watts s
  grind [command_memWf, reply_memWf, State.memWf]

theorem execChroncfg_memWf {s : State} (h : s.memWf = true) (ptp pps domain) : NextMemWf (execChroncfg ptp pps domain s) := by
  grind [execChroncfg, command_memWf, reply_memWf, State.memWf]

@[simp] theorem setChron_memWf (s : State) (st) : (setChron s st).memWf = s.memWf := by
  fun_cases setChron s st <;> grind [emit_memWf, State.memWf]

@[simp] theorem stepChron_memWf (s : State) (time) : (stepChron s time).memWf = s.memWf := by
  grind [stepChron, emit_memWf, State.memWf]

@[simp] theorem discipline_memWf (s : State) (src time err) : (discipline s src time err).memWf = s.memWf := by
  fun_cases discipline s src time err <;> grind [setChron_memWf, stepChron_memWf, State.memWf]

theorem execPtpMessage_memWf {s : State} (h : s.memWf = true) (time err) : NextMemWf (execPtpMessage time err s) := by
  simp [execPtpMessage, h]

theorem execPpsPulse_memWf {s : State} (h : s.memWf = true) (time err) : NextMemWf (execPpsPulse time err s) := by
  simp [execPpsPulse, h]

theorem execHoldoverEntry_memWf {s : State} (h : s.memWf = true) : NextMemWf (execHoldoverEntry s) := by
  fun_cases execHoldoverEntry s
  grind [nextMemWf_next, setChron_memWf, tickFree_memWf, State.memWf]

theorem execPacingChange_memWf {s : State} (h : s.memWf = true) (level) : NextMemWf (execPacingChange level s) := by
  fun_cases execPacingChange level s
  grind [nextMemWf_next, emit_memWf, State.memWf]

theorem execThermalLimit_memWf {s : State} (h : s.memWf = true) (die) : NextMemWf (execThermalLimit die s) := by
  fun_cases execThermalLimit die s
  grind [nextMemWf_next, requestService_memWf, requestPreempt_memWf, State.memWf, foldl_keeps]

theorem execThermalRecover_memWf {s : State} (h : s.memWf = true) (die) : NextMemWf (execThermalRecover die s) := by
  grind [execThermalRecover, nextMemWf_next, State.memWf]

theorem execThermalShutdown_memWf {s : State} (h : s.memWf = true) (die) : NextMemWf (execThermalShutdown die s) := by
  simp [execThermalShutdown, h]

@[simp] theorem addFence_memWf (s : State) (p) : (addFence s p).memWf = s.memWf := memWf_congr rfl rfl

@[simp] theorem poisonLeaf_memWf {s : State} (h : s.memWf = true) (pa) : (poisonLeaf s pa).memWf = true := by simp [poisonLeaf, h]

@[simp] theorem fenceCore_memWf {s : State} (h : s.memWf = true) (n) : (fenceCore s n).memWf = true := by
  fun_cases fenceCore s n <;> grind [requestService_memWf, addFence_memWf, groupFault_memWf, State.memWf, foldl_keeps]

@[simp] theorem fenceSpare_memWf {s : State} (h : s.memWf = true) (phys) : (fenceSpare s phys).memWf = true := by
  fun_cases fenceSpare s phys <;> simp [h]

theorem execPartFence_memWf {s : State} (h : s.memWf = true) (part) : NextMemWf (execPartFence part s) := by
  unfold execPartFence
  grind [nextMemWf_next, fenceCore_memWf, fenceSpare_memWf, requestService_memWf, addFence_memWf, modPort_memWf, setLink_memWf,
    poisonLeaf_memWf, State.memWf, foldl_memWf, foldl_keeps]

theorem execRestitch_memWf {s : State} (h : s.memWf = true) (region shape) : NextMemWf (execRestitch region shape s) := by
  fun_cases execRestitch region shape s
  grind [nextMemWf_next, emit_memWf, State.memWf]

theorem execDropEmit_memWf {s : State} (h : s.memWf = true) (unit) : NextMemWf (execDropEmit unit s) := by simp [execDropEmit, h]

theorem execLogHeadWrite_memWf {s : State} (h : s.memWf = true) (unit) : NextMemWf (execLogHeadWrite unit s) := by
  simp [execLogHeadWrite, h]

/-! ### The host port -/

theorem execIntcauseClear_memWf {s : State} (h : s.memWf = true) (func v) : NextMemWf (execIntcauseClear func v s) := by
  simp [execIntcauseClear, h]

theorem execVfdiesWrite_memWf {s : State} (h : s.memWf = true) (vf v) : NextMemWf (execVfdiesWrite vf v s) := by
  simp [execVfdiesWrite, h]

theorem execPowcapWrite_memWf {s : State} (h : s.memWf = true) (v) : NextMemWf (execPowcapWrite v s) := by
  grind [execPowcapWrite, nextMemWf_next, State.memWf]

theorem execResetreqWrite_memWf {s : State} (h : s.memWf = true) (v) : NextMemWf (execResetreqWrite v s) := by
  simp [execResetreqWrite, h]

@[simp] theorem writeRecctl_memWf (s : State) (v) : (writeRecctl s v).memWf = s.memWf := memWf_congr rfl rfl

@[simp] theorem writeRepctl_memWf (s : State) (v) : (writeRepctl s v).memWf = s.memWf := by
  refine (foldl_memWf _ _ fun s n => ?_).trans (memWf_congr rfl rfl)
  split
  · refine getD_memWf (fun r hr => ?_) rfl
    split at hr
    · exact enterReplay_memWf hr
    · exact leaveReplay_memWf hr
  · rfl

@[simp] theorem writeControl_memWf (s : State) (o v) : (writeControl s o v).memWf = s.memWf := by
  unfold writeControl
  grind [writeRecctl_memWf, writeRepctl_memWf, modFunc_memWf, State.memWf]

@[simp] theorem writeQueueReg_memWf (s : State) (may ctx q o v) : (writeQueueReg s may ctx q o v).memWf = s.memWf := by
  unfold writeQueueReg
  split <;> simp

theorem writeCtxcmd_memWf {s : State} (h : s.memWf = true) (func v) : NextMemWf (writeCtxcmd func v s) := by
  fun_cases writeCtxcmd func v s <;> grind [nextMemWf_next, execCtxCreate_memWf, execCtxActivate_memWf, execCtxTeardown_memWf]

theorem writeQcmd_memWf {s : State} (h : s.memWf = true) (ctx q v) : NextMemWf (writeQcmd ctx q v s) := by
  grind [writeQcmd, nextMemWf_next, execQueueEnable_memWf, execQueueSuspend_memWf, execQueueResume_memWf, execQueueDrain_memWf,
    execQueueDisable_memWf, execQueueReset_memWf]

theorem writeQueuePage_memWf {s : State} (h : s.memWf = true) (may ctx q o v) : NextMemWf (writeQueuePage may ctx q o v s) := by
  unfold writeQueuePage
  grind [nextMemWf_next, execWridxWrite_memWf, writeQcmd_memWf, writeQueueReg_memWf]

theorem writeTrigger_memWf {s : State} (h : s.memWf = true) (func slot o v) : NextMemWf (writeTrigger func slot o v s) := by
  grind [writeTrigger, nextMemWf_next, execTriggerWindowAdd_memWf, execTriggerWindowSet_memWf]

theorem writeFunction_memWf {s : State} (h : s.memWf = true) (func o v) : NextMemWf (writeFunction func o v s) := by
  unfold writeFunction
  grind [nextMemWf_next, writeCtxcmd_memWf, modFunc_memWf, execIntcauseClear_memWf]

theorem writeControlPage_memWf {s : State} (h : s.memWf = true) (o v) : NextMemWf (writeControlPage o v s) := by
  unfold writeControlPage
  grind [nextMemWf_next, execResetreqWrite_memWf, execPowcapWrite_memWf, execVfdiesWrite_memWf, writeControl_memWf]

theorem execRegisterWrite_memWf {s : State} (h : s.memWf = true) (func page offset v) :
    NextMemWf (execRegisterWrite func page offset v s) := by
  unfold execRegisterWrite
  grind [nextMemWf_next, writeFunction_memWf, writeControlPage_memWf, writeTrigger_memWf, execHostCtxregWrite_memWf,
    writeQueuePage_memWf]

/-! ### Approximated functions -/

theorem approxAlu_memWf {s : State} (h : s.memWf = true) (code f fn) : NextMemWf (approxAlu code f s fn) := issueAlu_memWf h ..

theorem execFrsq_memWf {s : State} (h : s.memWf = true) (f) : NextMemWf (execFrsq f s) := approxAlu_memWf h ..

theorem execFexp2_memWf {s : State} (h : s.memWf = true) (f) : NextMemWf (execFexp2 f s) := approxAlu_memWf h ..

theorem execFlog2_memWf {s : State} (h : s.memWf = true) (f) : NextMemWf (execFlog2 f s) := approxAlu_memWf h ..

theorem execFsin_memWf {s : State} (h : s.memWf = true) (f) : NextMemWf (execFsin f s) := approxAlu_memWf h ..

theorem execFcos_memWf {s : State} (h : s.memWf = true) (f) : NextMemWf (execFcos f s) := approxAlu_memWf h ..

theorem execFtanh_memWf {s : State} (h : s.memWf = true) (f) : NextMemWf (execFtanh f s) := approxAlu_memWf h ..

/-! ### The dispatch of an instruction -/

theorem exec_memWf {s : State} (h : s.memWf = true) (i) : NextMemWf (exec i s) := by
  cases i with
  | nop f => exact execNop_memWf h ..
  | bra f => exact execBra_memWf h ..
  | brx f => exact execBrx_memWf h ..
  | call f => exact execCall_memWf h ..
  | callx f => exact execCallx_memWf h ..
  | ret f => exact execRet_memWf h ..
  | land f => exact execLand_memWf h ..
  | join f => exact execJoin_memWf h ..
  | waitj f => exact execWaitj_memWf h ..
  | waitjExpiry gid n slot => exact execWaitjExpiry_memWf h ..
  | jmaskGet f => exact execJmaskGet_memWf h ..
  | jmaskSet f => exact execJmaskSet_memWf h ..
  | jmaskOr f => exact execJmaskOr_memWf h ..
  | jmaskAndn f => exact execJmaskAndn_memWf h ..
  | exit f => exact execExit_memWf h ..
  | yield f => exact execYield_memWf h ..
  | nap f => exact execNap_memWf h ..
  | napWake t => exact execNapWake_memWf h ..
  | trap f => exact execTrap_memWf h ..
  | bkpt f => exact execBkpt_memWf h ..
  | trapret f => exact execTrapret_memWf h ..
  | release f => exact execRelease_memWf h ..
  | dqpush f => exact execDqpush_memWf h ..
  | dqpushNb f => exact execDqpushNb_memWf h ..
  | dqpop f => exact execDqpop_memWf h ..
  | dqpopNb f => exact execDqpopNb_memWf h ..
  | phalt f => exact execPhalt_memWf h ..
  | launch f => exact execLaunch_memWf h ..
  | qsig f => exact execQsig_memWf h ..
  | trigarm f => exact execTrigarm_memWf h ..
  | iadd f => exact execIadd_memWf h ..
  | isub f => exact execIsub_memWf h ..
  | imul f => exact execImul_memWf h ..
  | imulh f => exact execImulh_memWf h ..
  | imad f => exact execImad_memWf h ..
  | imadw f => exact execImadw_memWf h ..
  | idiv f => exact execIdiv_memWf h ..
  | irem f => exact execIrem_memWf h ..
  | imin f => exact execImin_memWf h ..
  | imax f => exact execImax_memWf h ..
  | iabs f => exact execIabs_memWf h ..
  | ineg f => exact execIneg_memWf h ..
  | isad f => exact execIsad_memWf h ..
  | iadc f => exact execIadc_memWf h ..
  | isbc f => exact execIsbc_memWf h ..
  | clamp f => exact execClamp_memWf h ..
  | iand f => exact execIand_memWf h ..
  | ior f => exact execIor_memWf h ..
  | ixor f => exact execIxor_memWf h ..
  | inot f => exact execInot_memWf h ..
  | lop3 f => exact execLop3_memWf h ..
  | shl f => exact execShl_memWf h ..
  | shr f => exact execShr_memWf h ..
  | sar f => exact execSar_memWf h ..
  | rol f => exact execRol_memWf h ..
  | fshr f => exact execFshr_memWf h ..
  | popc f => exact execPopc_memWf h ..
  | clz f => exact execClz_memWf h ..
  | ctz f => exact execCtz_memWf h ..
  | brev f => exact execBrev_memWf h ..
  | bfx f => exact execBfx_memWf h ..
  | bfi f => exact execBfi_memWf h ..
  | prmb f => exact execPrmb_memWf h ..
  | icmp f => exact execIcmp_memWf h ..
  | iset f => exact execIset_memWf h ..
  | sel f => exact execSel_memWf h ..
  | mov f => exact execMov_memWf h ..
  | movi f => exact execMovi_memWf h ..
  | movl f => exact execMovl_memWf h ..
  | lea f => exact execLea_memWf h ..
  | cvti f => exact execCvti_memWf h ..
  | fadd f => exact execFadd_memWf h ..
  | fsub f => exact execFsub_memWf h ..
  | fmul f => exact execFmul_memWf h ..
  | ffma f => exact execFfma_memWf h ..
  | fmin f => exact execFmin_memWf h ..
  | fmax f => exact execFmax_memWf h ..
  | fcmp f => exact execFcmp_memWf h ..
  | fset f => exact execFset_memWf h ..
  | fclass f => exact execFclass_memWf h ..
  | frcp f => exact execFrcp_memWf h ..
  | frsq f => exact execFrsq_memWf h ..
  | fsqrt f => exact execFsqrt_memWf h ..
  | fdiv f => exact execFdiv_memWf h ..
  | fexp2 f => exact execFexp2_memWf h ..
  | flog2 f => exact execFlog2_memWf h ..
  | fsin f => exact execFsin_memWf h ..
  | fcos f => exact execFcos_memWf h ..
  | ftanh f => exact execFtanh_memWf h ..
  | frnd f => exact execFrnd_memWf h ..
  | fscale f => exact execFscale_memWf h ..
  | fcvt f => exact execFcvt_memWf h ..
  | fcvti f => exact execFcvti_memWf h ..
  | icvtf f => exact execIcvtf_memWf h ..
  | fdot2 f => exact execFdot2_memWf h ..
  | ncvt f => exact execNcvt_memWf h ..
  | nexp f => exact execNexp_memWf h ..
  | bscale f => exact execBscale_memWf h ..
  | npack f => exact execNpack_memWf h ..
  | nunpk f => exact execNunpk_memWf h ..
  | lmov f => exact execLmov_memWf h ..
  | ballot f => exact execBallot_memWf h ..
  | vote f => exact execVote_memWf h ..
  | lrank f => exact execLrank_memWf h ..
  | laneMatch f => exact execLaneMatch_memWf h ..
  | lred f => exact execLred_memWf h ..
  | lscan f => exact execLscan_memWf h ..
  | lbcast f => exact execLbcast_memWf h ..
  | lcomp f => exact execLcomp_memWf h ..
  | lfirst f => exact execLfirst_memWf h ..
  | ld f => exact execLd_memWf h ..
  | st f => exact execSt_memWf h ..
  | lds f => exact execLds_memWf h ..
  | sts f => exact execSts_memWf h ..
  | ldu f => exact execLdu_memWf h ..
  | stu f => exact execStu_memWf h ..
  | lde f => exact execLde_memWf h ..
  | stc f => exact execStc_memWf h ..
  | pref f => exact execPref_memWf h ..
  | cflush f => exact execCflush_memWf h ..
  | atom f => exact execAtom_memWf h ..
  | red f => exact execRed_memWf h ..
  | cas f => exact execCas_memWf h ..
  | cas2 f => exact execCas2_memWf h ..
  | waita f => exact execWaita_memWf h ..
  | waitaWake t => exact execWaitaWake_memWf h ..
  | waitaReread t => exact execWaitaReread_memWf h ..
  | fence f => exact execFence_memWf h ..
  | armw f => exact execArmw_memWf h ..
  | waitw f => exact execWaitw_memWf h ..
  | banksw f => exact execBanksw_memWf h ..
  | tlbinvPage f => exact execTlbinvPage_memWf h ..
  | tlbinvRange f => exact execTlbinvRange_memWf h ..
  | tlbinvCtx f => exact execTlbinvCtx_memWf h ..
  | barinit f => exact execBarinit_memWf h ..
  | bara f => exact execBara_memWf h ..
  | barw f => exact execBarw_memWf h ..
  | bart f => exact execBart_memWf h ..
  | bardrop f => exact execBardrop_memWf h ..
  | semp f => exact execSemp_memWf h ..
  | semv f => exact execSemv_memWf h ..
  | sempWake t => exact execSempWake_memWf h ..
  | capopen f => exact execCapopen_memWf h ..
  | capstep f => exact execCapstep_memWf h ..
  | capclose f => exact execCapclose_memWf h ..
  | capadopt f => exact execCapadopt_memWf h ..
  | capres f => exact execCapres_memWf h ..
  | mma f => exact execMma_memWf h ..
  | mmas f => exact execMmas_memWf h ..
  | mspz f => exact execMspz_memWf h ..
  | accalloc f => exact execAccalloc_memWf h ..
  | accfree f => exact execAccfree_memWf h ..
  | accfreePerform gid => exact execAccfreePerform_memWf h ..
  | accst f => exact execAccst_memWf h ..
  | accld f => exact execAccld_memWf h ..
  | chncfgSet f => exact execChncfgSet_memWf h ..
  | chncfgReset f => exact execChncfgReset_memWf h ..
  | chncfgGet f => exact execChncfgGet_memWf h ..
  | tcopy f => exact execTcopy_memWf h ..
  | collopen f => exact execCollopen_memWf h ..
  | collclose f => exact execCollclose_memWf h ..
  | scan f => exact execScan_memWf h ..
  | carryput f => exact execCarryput_memWf h ..
  | carryget f => exact execCarryget_memWf h ..
  | carrybar f => exact execCarrybar_memWf h ..
  | carrybarComplete kid => exact execCarrybarComplete_memWf h ..
  | engwait f => exact execEngwait_memWf h ..
  | sysrd f => exact execSysrd_memWf h ..
  | syswr f => exact execSyswr_memWf h ..
  | logev f => exact execLogev_memWf h ..
  | chron f => exact execChron_memWf h ..
  | chronQ f => exact execChronQ_memWf h ..
  | cntrd f => exact execCntrd_memWf h ..
  | cntctlOpen f => exact execCntctlOpen_memWf h ..
  | cntctlClose f => exact execCntctlClose_memWf h ..
  | cntctlSel f => exact execCntctlSel_memWf h ..
  | cntctlRun f => exact execCntctlRun_memWf h ..
  | cntctlClear f => exact execCntctlClear_memWf h ..
  | cntctlOvfen f => exact execCntctlOvfen_memWf h ..
  | cntctlPlan f => exact execCntctlPlan_memWf h ..
  | interlockedResult t => exact execInterlockedResult_memWf h ..
  | starvationGuard core part t => exact execStarvationGuard_memWf h ..
  | ctxCreate by_ slot num area debug => exact execCtxCreate_memWf h ..
  | ctxActivate by_ slot num => exact execCtxActivate_memWf h ..
  | ctxTeardown by_ slot num => exact execCtxTeardown_memWf h ..
  | teardownComplete ctx => exact execTeardownComplete_memWf h ..
  | contextFault ctx cause => exact execContextFault_memWf h ..
  | sliceEnd => exact execSliceEnd_memWf h
  | switchOutComplete ctx => exact execSwitchOutComplete_memWf h ..
  | switchIn func => exact execSwitchIn_memWf h ..
  | wridxWrite ctx q v => exact execWridxWrite_memWf h ..
  | queueEnable ctx q => exact execQueueEnable_memWf h ..
  | queueSuspend ctx q => exact execQueueSuspend_memWf h ..
  | queueResume ctx q => exact execQueueResume_memWf h ..
  | queueDrain ctx q => exact execQueueDrain_memWf h ..
  | queueDisable ctx q => exact execQueueDisable_memWf h ..
  | queueReset ctx q => exact execQueueReset_memWf h ..
  | queueDrainEnd ctx q => exact execQueueDrainEnd_memWf h ..
  | queueResetEnd ctx q => exact execQueueResetEnd_memWf h ..
  | packetIntake ctx q => exact execPacketIntake_memWf h ..
  | dependenceWrite kid dep => exact execDependenceWrite_memWf h ..
  | hostDependenceReread kid dep => exact execHostDependenceReread_memWf h ..
  | triggerWindowAdd func slot n v => exact execTriggerWindowAdd_memWf h ..
  | triggerWindowSet func slot n v => exact execTriggerWindowSet_memWf h ..
  | placementOpportunity => exact execPlacementOpportunity_memWf h
  | deadlineMiss kid => exact execDeadlineMiss_memWf h ..
  | recordDeal die => exact execRecordDeal_memWf h ..
  | stealRequest core => exact execStealRequest_memWf h ..
  | recordStart core gid => exact execRecordStart_memWf h ..
  | placementReady gid => exact execPlacementReady_memWf h ..
  | cohortReservation kid => exact execCohortReservation_memWf h ..
  | cohortWait kid => exact execCohortWait_memWf h ..
  | groupRetire gid => exact execGroupRetire_memWf h ..
  | kernelCompleting kid => exact execKernelCompleting_memWf h ..
  | preemptRequest gid bound fromLauncher => exact execPreemptRequest_memWf h ..
  | drainOverrun gid => exact execDrainOverrun_memWf h ..
  | saveComplete gid written => exact execSaveComplete_memWf h ..
  | flushComplete gid => exact execFlushComplete_memWf h ..
  | pageWalk die => exact execPageWalk_memWf h ..
  | faultEntryDelayed ctx => exact execFaultEntryDelayed_memWf h ..
  | fltrespRetry ctx tag => exact execFltrespRetry_memWf h ..
  | fltrespFail ctx tag => exact execFltrespFail_memWf h ..
  | stowDecode ctx va => exact execStowDecode_memWf h ..
  | captureCopyDone ctx granule => exact execCaptureCopyDone_memWf h ..
  | storeQueueDepart gid spreadIx => exact execStoreQueueDepart_memWf h ..
  | cacheWriteBack core line => exact execCacheWriteBack_memWf h ..
  | arrivalWordStep gid off bytes => exact execArrivalWordStep_memWf h ..
  | barrierPacket p => exact execBarrierPacket_memWf h ..
  | barrierLate ctx key => exact execBarrierLate_memWf h ..
  | bearingUpdate ctx => exact execBearingUpdate_memWf h ..
  | operationFire gid eng => exact execOperationFire_memWf h ..
  | engineRetire gid eng => exact execEngineRetire_memWf h ..
  | carryDelivery kid pos soft => exact execCarryDelivery_memWf h ..
  | convoySealed kid => exact execConvoySealed_memWf h ..
  | joinReceive port p => exact execJoinReceive_memWf h ..
  | colldataReceive port p => exact execColldataReceive_memWf h ..
  | reductionStep stack => exact execReductionStep_memWf h ..
  | addAckReceive port p => exact execAddAckReceive_memWf h ..
  | completionNoticeReceive port p => exact execCompletionNoticeReceive_memWf h ..
  | failNoticeReceive port p => exact execFailNoticeReceive_memWf h ..
  | livenessProbe ctx id => exact execLivenessProbe_memWf h ..
  | probeTimeout ctx id rank => exact execProbeTimeout_memWf h ..
  | collLate ctx id => exact execCollLate_memWf h ..
  | deliveryAckReceive port p => exact execDeliveryAckReceive_memWf h ..
  | closeNoticeSend ctx id => exact execCloseNoticeSend_memWf h ..
  | closeNoticeReceive port p => exact execCloseNoticeReceive_memWf h ..
  | flitError port lane => exact execFlitError_memWf h ..
  | slotonlyReceive port p => exact execSlotonlyReceive_memWf h ..
  | remoteRequestReceive port p => exact execRemoteRequestReceive_memWf h ..
  | remoteResponseReceive port p => exact execRemoteResponseReceive_memWf h ..
  | remoteTimeout tag => exact execRemoteTimeout_memWf h ..
  | lossOfSignal port => exact execLossOfSignal_memWf h ..
  | trainingAttempt port => exact execTrainingAttempt_memWf h ..
  | trainingComplete port lanes peer => exact execTrainingComplete_memWf h ..
  | laneFence port lane => exact execLaneFence_memWf h ..
  | linkDrainEnd port => exact execLinkDrainEnd_memWf h ..
  | replayDeliver port => exact execReplayDeliver_memWf h ..
  | hostCtxregWrite func slot n v => exact execHostCtxregWrite_memWf h ..
  | intcauseClear func v => exact execIntcauseClear_memWf h ..
  | vfdiesWrite vf v => exact execVfdiesWrite_memWf h ..
  | powcapWrite v => exact execPowcapWrite_memWf h ..
  | resetreqWrite v => exact execResetreqWrite_memWf h ..
  | registerWrite func page offset v => exact execRegisterWrite_memWf h ..
  | ptpMessage time err => exact execPtpMessage_memWf h ..
  | ppsPulse time err => exact execPpsPulse_memWf h ..
  | holdoverEntry => exact execHoldoverEntry_memWf h
  | dropEmit unit => exact execDropEmit_memWf h ..
  | logHeadWrite unit => exact execLogHeadWrite_memWf h ..
  | chronrd => exact execChronrd_memWf h
  | loghdr part => exact execLoghdr_memWf h ..
  | logrd part index count => exact execLogrd_memWf h ..
  | takeFix age autofix => exact execTakeFix_memWf h ..
  | fixrd slot offset length => exact execFixrd_memWf h ..
  | physrd pa length => exact execPhysrd_memWf h ..
  | fwload bank offset bytes final => exact execFwload_memWf h ..
  | coldrst => exact execColdrst_memWf h
  | warmrst => exact execWarmrst_memWf h
  | dierst die => exact execDierst_memWf h ..
  | portDrain port => exact execPortDrain_memWf h ..
  | portFence port => exact execPortFence_memWf h ..
  | portUnfence port => exact execPortUnfence_memWf h ..
  | portReplay port => exact execPortReplay_memWf h ..
  | portReplayclr port => exact execPortReplayclr_memWf h ..
  | portTrainoff port => exact execPortTrainoff_memWf h ..
  | portTrainon port => exact execPortTrainon_memWf h ..
  | routewr first dirs => exact execRoutewr_memWf h ..
  | mgmtPowcap watts => exact execMgmtPowcap_memWf h ..
  | chroncfg ptp pps domain => exact execChroncfg_memWf h ..
  | attest nonce func => exact execAttest_memWf h ..
  | sessionChallenge signature => exact execSessionChallenge_memWf h ..
  | powerReset => exact execPowerReset_memWf h
  | coldReset thermal => exact execColdReset_memWf h ..
  | warmReset => exact execWarmReset_memWf h
  | dieReset die => exact execDieReset_memWf h ..
  | functionReset vf => exact execFunctionReset_memWf h ..
  | pacingChange level => exact execPacingChange_memWf h ..
  | thermalLimit die => exact execThermalLimit_memWf h ..
  | thermalRecover die => exact execThermalRecover_memWf h ..
  | thermalShutdown die => exact execThermalShutdown_memWf h ..
  | partFence part => exact execPartFence_memWf h ..
  | restitch region shape => exact execRestitch_memWf h ..
  | debugHalt ctx slot => exact execDebugHalt_memWf h ..
  | debugHaltf ctx slot => exact execDebugHaltf_memWf h ..
  | debugResume ctx slot => exact execDebugResume_memWf h ..
  | debugBkpton ctx slot => exact execDebugBkpton_memWf h ..
  | debugBkptoff ctx slot => exact execDebugBkptoff_memWf h ..
  | replayPassEnd kid => exact execReplayPassEnd_memWf h ..
  | hostMemoryWrite pa bytes => exact execHostMemoryWrite_memWf h ..
  | barrierCompletionReceive port p => exact execBarrierCompletionReceive_memWf h ..
  | probeReceive port p => exact execProbeReceive_memWf h ..
  | boundMissed gid => exact execBoundMissed_memWf h ..
  | counterWrap func item => exact execCounterWrap_memWf h ..

/-! ### After an issue -/

@[simp] theorem markWaits_memWf (s : State) (i ids) : (markWaits i ids s).memWf = s.memWf := by simp [markWaits]

@[simp] theorem afterIssue_memWf {t r : State} (h : r.memWf = true) (u iss e i) : (afterIssue t u iss e i r).memWf = true := by
  simp [afterIssue, h]

@[simp] theorem afterJoint_memWf {t r : State} (h : r.memWf = true) (u iss e i) : (afterJoint t u iss e i r).memWf = true := by
  simp [afterJoint, h]

@[simp] theorem afterEvent_memWf (s r : State) (i) : (afterEvent i s r).memWf = r.memWf := by simp [afterEvent]

/-! ### One step -/

theorem issueStep_memWf {s : State} (h : s.memWf = true) (u iss) : NextMemWf (issueStep u iss s) := by
  grind [issueStep, nextMemWf_next, prepare_memWf, noteIssue_memWf, exec_memWf, afterIssue_memWf]

theorem jointStep_memWf {s : State} (h : s.memWf = true) (u iss) : NextMemWf (jointStep u iss s) := by
  grind [jointStep, nextMemWf_next, prepare_memWf, noteJoint_memWf, exec_memWf, afterJoint_memWf]

theorem eventStep_memWf {s : State} (h : s.memWf = true) (i) : NextMemWf (eventStep i s) := by
  fun_cases eventStep i s <;> grind [nextMemWf_next, exec_memWf, afterEvent_memWf]

theorem step_memWf {s : State} (h : s.memWf = true) : NextMemWf (step s) := by
  unfold step
  split
  · next i r _ => exact eventStep_memWf (s := { s with agenda := r }) h i
  · next c n r _ => exact (passTime_memWf { s with agenda := r } c n).trans h
  · next iss r _ =>
    split
    · split
      · exact eventStep_memWf h ..
      · exact (passTime_memWf ..).trans h
    · exact issueStep_memWf (s := { s with agenda := r }) h ..
  · next iss r _ => exact jointStep_memWf (s := { s with agenda := r }) h ..
  · split
    · exact eventStep_memWf h ..
    · split
      · next u iss more _ => exact issueStep_memWf (s := { s with agenda := more.map Turn.joint }) h ..
      · exact (passTime_memWf ..).trans h

/-! ### The obligation -/

/-- Settles O30: `step_memWf`, of a step that goes on. -/
theorem stepKeepsMemory : Obligations.StepKeepsMemory := by
  intro s t h ht
  have hn : NextMemWf (step s) := step_memWf h
  rw [ht] at hn
  exact hn

end Sys2Proof.Machine
end

section
/-! PROOFS. What most of the machine leaves alone.

The log, the counters, the interrupts, memory, the page walk, the ports and the objects of a context change neither the
cycle, nor the management processor, nor the fenced cores, nor any group's number, cores and state. Those four are the
`standing` of a state, and there is one equation `<function>_standing` for each function that keeps it, in the order of the
model's files. Functions of the log, of the counters and of the interrupts change so little that they are `Noted`. -/

namespace Sys2Proof.Machine

open Sys2Proof Sys2Proof.Rules

/-! ### Nothing but counters, interrupts and records differs -/

theorem noted_refl (s : State) : Noted s s := rfl

theorem noted_trans {s t u : State} (h : Noted s t) (k : Noted t u) : Noted s u := by
  unfold Noted at *
  rw [k, h]

theorem foldl_noted {α : Type} {f : State → α → State} (l : List α) (s : State) (hf : ∀ s a, Noted s (f s a)) :
    Noted s (l.foldl f s) :=
  List.foldlRecOn (motive := Noted s) l f (noted_refl s) fun t h a _ => noted_trans h (hf t a)

theorem setUnit_noted (s : State) (u) : Noted s (setUnit s u) := rfl

theorem takeTag_noted (s : State) (unit) : Noted s (takeTag s unit).2 := rfl

theorem flushDrop_noted (s : State) (unit) : Noted s (flushDrop s unit) := by
  unfold flushDrop
  dsimp only
  split <;> rfl

theorem losePart_noted (s : State) (x) : Noted s (losePart s x) := by
  unfold losePart
  split <;> rfl

theorem emitTagged_noted (s : State) (unit ctx ev obj payload cause own) : Noted s (emitTagged s unit ctx ev obj payload cause own) :=
  noted_trans (flushDrop_noted s unit) (noted_trans (setUnit_noted ..) (losePart_noted ..))

theorem emitFilt_noted (s : State) (filt unit ctx ev obj payload cause) : Noted s (emitFilt s filt unit ctx ev obj payload cause).2 := by
  unfold emitFilt
  split
  · exact noted_trans (flushDrop_noted s unit) (noted_trans (takeTag_noted ..) (emitTagged_noted ..))
  · exact noted_refl s

theorem emit_noted (s : State) (unit ctx ev obj payload cause) : Noted s (emit s unit ctx ev obj payload cause) := emitFilt_noted ..

theorem raiseInt_noted (s : State) (func b) : Noted s (raiseInt s func b) := rfl

theorem setOvf_noted (s : State) (func bit) : Noted s (setOvf s func bit) := by
  unfold setOvf
  dsimp only
  split <;> rfl

theorem bumpCounter_noted (s : State) (func key bit n) : Noted s (bumpCounter s func key bit n) := by
  fun_cases bumpCounter s func key bit n
  case case1 => exact noted_refl s
  case case2 t _ => exact noted_trans (t := t) rfl (setOvf_noted ..)
  case case3 => rfl

theorem countEvent_noted (s : State) (cls unit ctx kid ev n) : Noted s (countEvent s cls unit ctx kid ev n) := by
  refine foldl_noted _ _ fun s e => ?_
  split
  · refine foldl_noted _ _ fun s k => ?_
    dsimp only
    split
    · exact bumpCounter_noted ..
    · exact noted_refl s
  · exact noted_refl s

/-! ### The standing of a state -/

/-- What says where a group stands: its number, its cores and its state. -/
def place (g : Group) : Nat × List Nat × GState := (g.gid, g.cores, g.gst)

/-- The cycle, the management processor, the fenced cores, and where each group stands. -/
def standing (s : State) : Nat × Mgmt × List Nat × List (Nat × List Nat × GState) :=
  (s.cycle, s.mgmt, s.fencedCores, s.groups.map place)

theorem standing_iff {s t : State} : standing t = standing s ↔
    t.cycle = s.cycle ∧ t.mgmt = s.mgmt ∧ t.fencedCores = s.fencedCores ∧ t.groups.map place = s.groups.map place := by
  simp [standing]

theorem noted_standing {s t : State} (h : Noted s t) : standing t = standing s := by
  unfold Noted at h
  rw [h]
  rfl

@[simp] theorem foldl_standing {α : Type} {f : State → α → State} (l : List α) (s : State)
    (hf : ∀ s a, standing (f s a) = standing s) : standing (l.foldl f s) = standing s :=
  List.foldlRecOn (motive := fun t => standing t = standing s) l f rfl fun t h a _ => (hf t a).trans h

@[simp] theorem foldl_snd_standing {α β : Type} {f : β × State → α → β × State} (l : List α) (p : β × State)
    (hf : ∀ p a, standing (f p a).2 = standing p.2) : standing (l.foldl f p).2 = standing p.2 :=
  List.foldlRecOn (motive := fun t => standing t.2 = standing p.2) l f rfl fun t h a _ => (hf t a).trans h

@[simp] theorem standing_ite (c : Prop) [Decidable c] (s t : State) :
    standing (if c then s else t) = if c then standing s else standing t := apply_ite standing c s t

/-- The groups may change in all but where they stand. -/
theorem mapGroups_standing (s : State) {f : Group → Group} (hf : ∀ g, place (f g) = place g) :
    standing { s with groups := s.groups.map f } = standing s := by
  simp [standing, Function.comp_def, hf]

theorem modGroup_standing (s : State) (gid) {f : Group → Group} (hf : ∀ g, place (f g) = place g) :
    standing (modGroup s gid f) = standing s :=
  mapGroups_standing s fun g => by split <;> simp [hf]

@[simp] theorem modThread_standing (s : State) (t f) : standing (modThread s t f) = standing s :=
  modGroup_standing s _ fun g => by cases t.who <;> rfl

@[simp] theorem modCtx_standing (s : State) (n f) : standing (modCtx s n f) = standing s := rfl

@[simp] theorem modPort_standing (s : State) (n f) : standing (modPort s n f) = standing s := rfl

@[simp] theorem takeTag_standing (s : State) (unit) : standing (takeTag s unit).2 = standing s := rfl

@[simp] theorem emitFilt_standing (s : State) (filt unit ctx ev obj payload cause) :
    standing (emitFilt s filt unit ctx ev obj payload cause).2 = standing s := noted_standing (emitFilt_noted ..)

@[simp] theorem emit_standing (s : State) (unit ctx ev obj payload cause) :
    standing (emit s unit ctx ev obj payload cause) = standing s := noted_standing (emit_noted ..)

@[simp] theorem emitGet_standing (s : State) (unit ctx ev obj payload cause) :
    standing (emitGet s unit ctx ev obj payload cause).2 = standing s := emitFilt_standing ..

@[simp] theorem emitGroup_standing (s : State) (g ev payload) : standing (emitGroup s g ev payload).2 = standing s := emitFilt_standing ..

@[simp] theorem raiseInt_standing (s : State) (func b) : standing (raiseInt s func b) = standing s := rfl

@[simp] theorem countEvent_standing (s : State) (cls unit ctx kid ev n) : standing (countEvent s cls unit ctx kid ev n) = standing s :=
  noted_standing (countEvent_noted ..)

/-! ### Memory, the walk and the checks of an access -/

@[simp] theorem memPut_standing (s : State) (pa bs) : standing (memPut s pa bs) = standing s := by
  unfold memPut
  split <;> rfl

@[simp] theorem memPutNat_standing (s : State) (pa n v) : standing (memPutNat s pa n v) = standing s := memPut_standing ..

@[simp] theorem wakeWatchers_standing (s : State) (pa n tag) : standing (wakeWatchers s pa n tag) = standing s :=
  foldl_standing _ s fun _ _ => modThread_standing ..

@[simp] theorem overtake_standing (s : State) (pa n) : standing (overtake s pa n) = standing s := rfl

@[simp] theorem homeWrite_none_standing (s : State) (pa bs tag) : standing (homeWrite s none pa bs tag) = standing s := by
  simp [homeWrite]

@[simp] theorem fetchUnits_standing (s : State) (core pa n) : standing (fetchUnits s core pa n) = standing s := rfl

@[simp] theorem ctxRegWrite_standing (s : State) (ctx n v) : standing (ctxRegWrite s ctx n v) = standing s := by
  unfold ctxRegWrite
  dsimp only
  split
  · rfl
  · split
    · exact memPutNat_standing ..
    · rfl

@[simp] theorem tlbFill_standing (s : State) (core ctx va l) : standing (tlbFill s core ctx va l) = standing s := rfl

@[simp] theorem stowTile_standing (s : State) (ctx l va) : standing (stowTile s ctx l va).2 = standing s := by
  fun_cases stowTile s ctx l va <;> simp

@[simp] theorem checkLeaf_standing (s : State) (ctx l va a size capt) : standing (checkLeaf s ctx l va a size capt).2 = standing s := by
  fun_cases checkLeaf s ctx l va a size capt <;> grind [modCtx_standing, stowTile_standing, standing]

@[simp] theorem prefetch_standing (s : State) (u l) : standing (prefetch s u l) = standing s := by
  fun_cases prefetch s u l <;> grind [checkLeaf_standing, fetchUnits_standing]

@[simp] theorem serveWalk_standing (s : State) (q) : standing (serveWalk s q) = standing s := by
  refine foldl_standing _ _ fun s u => ?_
  split <;> simp

@[simp] theorem translate_standing (s : State) (core ctx va) : standing (translate s core ctx va).2 = standing s := by
  unfold translate
  dsimp only
  (repeat' split) <;> simp

@[simp] theorem checkAccess_standing (s : State) (core ctx va a size capt) :
    standing (checkAccess s core ctx va a size capt).2 = standing s := by
  fun_cases checkAccess s core ctx va a size capt <;> grind [translate_standing, checkLeaf_standing]

@[simp] theorem writeRing_standing (s : State) (ctx f) : standing (writeRing s ctx f) = standing s := by simp [writeRing]

@[simp] theorem openFault_standing (s : State) (ctx unit filt kind level va a logIt stc) :
    standing (openFault s ctx unit filt kind level va a logIt stc).2 = standing s := by
  unfold openFault
  dsimp only
  (repeat' split) <;> simp

@[simp] theorem raiseCtxFatal_standing (s : State) (ctx cause) : standing (raiseCtxFatal s ctx cause) = standing s := rfl

/-! ### Packets and ports -/

theorem withRecctl_standing (s : State) (x : W64) : standing { s with recctl := x } = standing s := rfl

/-- The new value stays a variable: no check of this equation then computes it. -/
@[simp] theorem stopRecording_standing (s : State) : standing (stopRecording s) = standing s := withRecctl_standing s _

@[simp] theorem emitPacket_standing (s : State) (port ev p payload) : standing (emitPacket s port ev p payload) = standing s := by
  simp [emitPacket]

@[simp] theorem replaySend_standing (s : State) (port p) : standing (replaySend s port p) = standing s := by
  fun_cases replaySend s port p
  · rfl
  · exact emit_standing ..

@[simp] theorem portEmit_standing (s : State) (port p) : standing (portEmit s port p) = standing s := by
  fun_cases portEmit s port p <;> grind [modPort_standing, countEvent_standing, replaySend_standing, emitPacket_standing, standing]

@[simp] theorem portSend_standing (s : State) (port p) : standing (portSend s port p) = standing s := by
  unfold portSend
  split <;> simp

@[simp] theorem dropPacket_standing (s : State) (p) : standing (dropPacket s p) = standing s := by
  fun_cases dropPacket s p
  · rfl
  · exact emit_standing ..

@[simp] theorem sendNow_standing (s : State) (p) : standing (sendNow s p) = standing s := by
  fun_cases sendNow s p <;> simp

@[simp] theorem sendPacket_standing (s : State) (p) : standing (sendPacket s p) = standing s := by
  fun_cases sendPacket s p
  · simp
  · rfl
  · simp

@[simp] theorem sendSlots_standing (s : State) (port) : standing (sendSlots s port) = standing s := by
  unfold sendSlots
  split <;> simp

@[simp] theorem freeKept_standing (s : State) (port p) : standing (freeKept s port p) = standing s := by simp [freeKept]

/-! ### Barrier objects and semaphores -/

@[simp] theorem putBar_standing (s : State) (ctx b) : standing (putBar s ctx b) = standing s := rfl

@[simp] theorem logBar_standing (s : State) (ctx k code phase) : standing (logBar s ctx k code phase) = standing s := emit_standing ..

@[simp] theorem wakeBar_standing (s : State) (ctx k tag) : standing (wakeBar s ctx k tag) = standing s :=
  mapGroups_standing s fun g => by split <;> rfl

@[simp] theorem tellState_standing (s : State) (ctx b code ranks tag) : standing (tellState s ctx b code ranks tag) = standing s := by
  unfold tellState
  (repeat' split) <;> simp

@[simp] theorem failBar_standing (s : State) (ctx b) : standing (failBar s ctx b) = standing s := by simp [failBar]

@[simp] theorem tellHomes_standing (s : State) (g ask tag) : standing (tellHomes s g ask tag) = standing s := by
  unfold tellHomes
  split <;> simp

@[simp] theorem barFailGroup_standing (s : State) (g) : standing (barFailGroup s g) = standing s := by simp [barFailGroup]

@[simp] theorem settleSem_standing (s : State) (ctx m) : standing (settleSem s ctx m) = standing s := by
  unfold settleSem
  split <;> rfl

@[simp] theorem semLeave_standing (s : State) (ctx pa p) : standing (semLeave s ctx pa p) = standing s := by
  unfold semLeave
  split <;> simp

@[simp] theorem leaveSems_standing (s : State) (gid) : standing (leaveSems s gid) = standing s := by
  fun_cases leaveSems s gid <;> grind [takeTag_standing, sendPacket_standing, semLeave_standing, foldl_standing]

/-! ### Collective views -/

@[simp] theorem modView_standing (s : State) (ctx id f) : standing (modView s ctx id f) = standing s := rfl

@[simp] theorem setView_standing (s : State) (ctx id st cause) : standing (setView s ctx id st cause).2 = standing s := by
  unfold setView
  dsimp only
  split <;> simp

@[simp] theorem devCheck_standing (s : State) (ctx unit refused va n capt) :
    standing (devCheck s ctx unit refused va n capt).2 = standing s := by
  fun_cases devCheck s ctx unit refused va n capt <;> grind [checkAccess_standing, openFault_standing, raiseCtxFatal_standing]

@[simp] theorem flushOne_standing (ctx id acc i) : standing (flushOne ctx id acc i).2 = standing acc.2 := by
  grind [flushOne, modView_standing, devCheck_standing, homeWrite_none_standing]

@[simp] theorem flushRaw_standing (s : State) (ctx id) : standing (flushRaw s ctx id).2 = standing s := by
  fun_cases flushRaw s ctx id
  · exact foldl_snd_standing _ _ fun p i => flushOne_standing ctx id p i
  · rfl

@[simp] theorem sendColl_standing (s : State) (ctx id p) : standing (sendColl s ctx id p) = standing s := sendPacket_standing ..

@[simp] theorem letGo_standing (s : State) (ctx m) : standing (letGo s ctx m) = standing s := by
  unfold letGo
  dsimp only
  (repeat' split) <;> simp

@[simp] theorem dropHeld_standing (s : State) (ctx id) : standing (dropHeld s ctx id) = standing s := by
  unfold dropHeld
  split <;> simp

@[simp] theorem collFail_standing (s : State) (ctx id cause rank wake) : standing (collFail s ctx id cause rank wake) = standing s := by
  fun_cases collFail s ctx id cause rank wake <;> grind [emitGet_standing, setView_standing, modView_standing, dropHeld_standing,
    sendColl_standing, flushRaw_standing, standing, foldl_standing]

@[simp] theorem flushView_standing (s : State) (ctx id) : standing (flushView s ctx id) = standing s := by
  fun_cases flushView s ctx id <;> grind [flushRaw_standing, collFail_standing]

@[simp] theorem settleDrain_standing (s : State) (ctx id wake) : standing (settleDrain s ctx id wake) = standing s := by
  unfold settleDrain
  split <;> simp

@[simp] theorem closeMember_standing (s : State) (ctx id gid) : standing (closeMember s ctx id gid).2 = standing s := by
  unfold closeMember
  dsimp only
  (repeat' split) <;> simp

@[simp] theorem collLeave_standing (s : State) (g faulted) : standing (collLeave s g faulted) = standing s := by
  fun_cases collLeave s g faulted
  · rfl
  · exact foldl_standing _ _ fun s v => by simp

/-! ### Records, capsules and convoys -/

@[simp] theorem writeRecord_standing (s : State) (g) : standing (writeRecord s g) = standing s :=
  foldl_standing _ _ fun _ _ => memPutNat_standing ..

@[simp] theorem capStatus_standing (s : State) (g k pa ost lease) : standing (capStatus s g k pa ost lease) = standing s := by
  simp [capStatus, setRecWord]

@[simp] theorem capGroupStatus_standing (s : State) (g ost) : standing (capGroupStatus s g ost) = standing s :=
  foldl_standing _ s fun _ _ => by split <;> simp

@[simp] theorem countEnded_standing (s : State) (kid faulted) : standing (countEnded s kid faulted) = standing s := rfl

@[simp] theorem setConvoy_standing (s : State) (kid st) : standing (setConvoy s kid st) = standing s := by
  unfold setConvoy
  split
  · rfl
  · split
    · rfl
    · exact emit_standing ..

@[simp] theorem closeConvoy_standing (s : State) (kid) : standing (closeConvoy s kid) = standing s := by
  fun_cases closeConvoy s kid <;> grind [setConvoy_standing, standing]

@[simp] theorem markEnded_standing (s : State) (kid gid) : standing (markEnded s kid gid) = standing s := closeConvoy_standing ..

@[simp] theorem readyCarry_standing (s : State) (kid tag parked) : standing (readyCarry s kid tag parked) = standing s :=
  mapGroups_standing s fun g => by split <;> rfl

@[simp] theorem breakConvoy_standing (s : State) (kid) : standing (breakConvoy s kid) = standing s := by
  fun_cases breakConvoy s kid <;> grind [setConvoy_standing, readyCarry_standing, standing]

/-! ### Fetch -/

@[simp] theorem fetchPeer_standing (s : State) (g core pa l) : standing (fetchPeer s g core pa l).2 = standing s := by
  fun_cases fetchPeer s g core pa l <;> grind [takeTag_standing, sendPacket_standing, standing]

@[simp] theorem fetchWord_standing (s : State) (g core reach off) : standing (fetchWord s g core reach off).2 = standing s := by
  fun_cases fetchWord s g core reach off <;> grind [checkAccess_standing, fetchPeer_standing]

@[simp] theorem fetchWords_standing (s : State) (g core reach off n) : standing (fetchWords s g core reach off n).2 = standing s := by
  fun_induction fetchWords s g core reach off n <;> grind [fetchWord_standing]

@[simp] theorem fetchInstr_standing (s : State) (g core reach off) : standing (fetchInstr s g core reach off).2 = standing s := by
  fun_cases fetchInstr s g core reach off <;> grind [fetchWord_standing, fetchWords_standing]

end Sys2Proof.Machine
end

section
/-! PROOFS. A step runs the instruction that it decodes, or the event on the agenda.

One executor that issues undisturbed passes every check at issue (`judge_go`), so `prepare` gives the fetched state, in which
a capsule's count has gone up, and the instruction that its words decode to (`prepare_one`). What is left are the two forms of
a step that issues, for the unit's choice and for a further group of a gang. -/

namespace Sys2Proof.Machine

open Sys2Proof Sys2Proof.Rules

/-! ### Decode -/

/-- Words that decode are those of a legal instruction (R55). -/
theorem decodeWords_ok {pilot priv cap : Bool} {ws : List W32} {i : Instr} (h : decodeWords pilot priv cap ws = .ok i) :
    ∃ op f, splitRaw ws = some (op, f) ∧ check op.toNat pilot priv cap f = none ∧ ofOp op.toNat f = some i := by
  unfold decodeWords at h
  split at h
  · cases h
  · next op f hs =>
    split at h
    · cases h
    · next hc =>
      split at h
      · next j hj =>
        cases h
        exact ⟨op, f, hs, hc, hj⟩
      · cases h

theorem shapeOf_of_check {op : Nat} {pilot priv cap : Bool} {f : Fields} (h : check op pilot priv cap f = none) :
    ∃ sh, shapeOf op pilot f = some sh ∧ (pilot = false → sh.strand = true) := by
  unfold check at h
  split at h
  · cases h
  · next sh hsh =>
    refine ⟨sh, hsh, fun hp => ?_⟩
    by_contra hs
    rw [Bool.not_eq_true] at hs
    simp only [hp, hs, and_self, if_true] at h
    split at h <;> cases h

/-- RELEASE and DQPUSH are legal in pilot code alone (R55). -/
theorem releases_of_strand {op : Nat} {priv cap : Bool} {f : Fields} (h : check op false priv cap f = none) : releases op = false := by
  obtain ⟨sh, hsh, hstrand⟩ := shapeOf_of_check h
  by_contra hr
  have hop : op = 0x010 ∨ op = 0x011 := by simpa [releases, or_iff_not_imp_left] using hr
  rcases hop with rfl | rfl <;> simp [shapeOf, shapeControl] at hsh <;> simp [← hsh] at hstrand

/-! ### The checks at issue -/

/-- Nothing blocks an executor without pending results, of its own or, for a strand, of its pilot (R46). -/
theorem blocking_nil {pilot cap : Bool} {sh : Shape} {f : Fields} {t : Thread} {l : List Pend} (ht : t.pend = [])
    (hl : pilot = false → l = []) : blocking pilot cap sh f t l = [] := by
  cases pilot <;> simp [blocking, ht, hl]

theorem retiredAt_le {v : View} {n : Nat} (h : ∀ e ∈ v.t.fixed, ∀ k, e.reg = .s k → e.ripe + spreadLag v.g ≤ n) : retiredAt v ≤ n := by
  refine List.foldlRecOn (motive := fun m => m ≤ n) v.t.fixed _ (Nat.zero_le n) fun m hm e he => ?_
  split
  · next k hk => exact max_le hm (h e he k hk)
  · exact hm

/-- An undisturbed executor of a group without the checking scoreboard goes on to the meaning of a legal instruction. -/
theorem judge_go {op : Nat} {v : View} (ht : issues v.t) (hc : check op (isPilot v) v.g.priv false v.f = none)
    (hsb : v.g.vals.chksb = false) (hp : isPilot v = false → v.g.pilot.pend = []) (hr : releases op = true → retiredAt v ≤ v.s.cycle) :
    judge op v = .go := by
  obtain ⟨-, -, hcaps, hpend, -⟩ := ht
  obtain ⟨sh, hsh, -⟩ := shapeOf_of_check hc
  have hcap : capCode v.t = false := by simp [capCode, inCap, inSkip, hcaps]
  have hskip : inSkip v.t = false := by simp [inSkip, hcaps]
  have hb : blocking (isPilot v) false sh v.f v.t v.g.pilot.pend = [] := blocking_nil hpend hp
  have hlate : (releases op && decide (v.s.cycle < retiredAt v)) = false := by
    simpa using hr
  simp [judge, hcap, hc, hsh, hskip, hsb, hcaps, hb, hpend, hlate]

/-! ### One executor is prepared -/

theorem issueViews_pilot {s : State} {gid : Nat} {g : Group} (hg : getGroup s gid = some g) (ht : issues g.pilot) (f : Fields) :
    issueViews s (.pilot gid) f = [{ s := s, g := g, who := .pilot, t := g.pilot, f := f }] := by
  obtain ⟨hrun, hstop, -⟩ := ht
  simp [issueViews, hg, hrun, hstop]

theorem issueViews_strand {s : State} {gid k : Nat} {g : Group} {t : Thread} (hg : getGroup s gid = some g)
    (hk : g.strands[k]? = some t) (ht : issues t) (f : Fields) :
    issueViews s (.gang gid [k]) f = [{ s := s, g := g, who := .strand k, t := t, f := f }] := by
  obtain ⟨hrun, hstop, -⟩ := ht
  simp [issueViews, hg, hk, hrun, hstop]

/-- The pilot goes on alone. -/
theorem selectIssuer_pilot (s : State) (gid op : Nat) (f : Fields) (v : View) :
    selectIssuer s (.pilot gid) op f [v] = (some (.pilot gid), s) := rfl

/-- A strand whose instruction waits for no row goes on alone (R42). -/
theorem selectIssuer_strand {s : State} {gid k op : Nat} {f : Fields} {v : View}
    (hrow : ((shapeOf op false f).bind fun sh => rowSeg op sh f) = none) (hv : v.who = .strand k) :
    selectIssuer s (.gang gid [k]) op f [v] = (some (.gang gid [k]), s) := by
  simp [selectIssuer, hrow, hv]

/-- The preparation of one executor that passes the checks: the fetched state, in which its meaning begins, and its instruction. -/
theorem prepare_one {b u : State} {iss : Issuer} {g : Group} {who : Who} {t : Thread} {ws : List W32} {op : BitVec 9} {f : Fields}
    {i : Instr} (hv : ∀ f, issueViews b iss f = [{ s := b, g := g, who := who, t := t, f := f }])
    (hg : g.gst = .running ∨ g.gst = .draining) (hf : fetchInstr b g (coreOf g who) (codeReachOf g t) t.pc = (.words ws, u))
    (hs : splitRaw ws = some (op, f)) (hfail : t.failed = none)
    (hj : judge op.toNat { s := u, g := g, who := who, t := t, f := f } = .go)
    (hsel : selectIssuer u iss op.toNat f [{ s := u, g := g, who := who, t := t, f := f }] = (some iss, u))
    (hid : issuerIds iss = [{ gid := g.gid, who := who }]) (hi : ofOp op.toNat f = some i) :
    prepare iss b = (begun u { gid := g.gid, who := who } iss
      (if f.yld && !isPilot { s := u, g := g, who := who, t := t, f := f } then 1 else 0), some i) := by
  have hgo : groupIssues g = true := by simpa [groupIssues] using hg
  have hpass (n : Nat) (f' : Fields) : fetchRefused { s := b, g := g, who := who, t := t, f := f' } n = none := by
    simp [fetchRefused, refusedAt, hfail]
  simp only [prepare, hv, hgo, hf, hs, refuseFetch, hpass, List.foldl_cons, List.foldl_nil, List.filter_cons, List.filter_nil,
    List.map_cons, List.map_nil, Option.isNone_none, if_true, hj, applyVerdict, beq_self_eq_true, hsel, hid, hi, reduceCtorEq, if_false]
  rfl

/-! ### Steps -/

theorem issueStep_runs {s b m : State} {u : Nat} {iss : Issuer} {i : Instr} (hs : step s = issueStep u iss b)
    (hp : prepare iss b = (m, some i)) : StepRuns s m (afterIssue m u iss (issueEntry b iss) i) i := by
  simp only [StepRuns, hs, issueStep, hp]
  refine ⟨fun t h => ?_, fun e h => ?_, fun e h => ?_⟩ <;> rw [h]

theorem jointStep_runs {s b m : State} {u : Nat} {iss : Issuer} {i : Instr} (hs : step s = jointStep u iss b)
    (hp : prepare iss b = (m, some i)) : StepRuns s m (afterJoint m u iss (issueEntry b iss) i) i := by
  simp only [StepRuns, hs, jointStep, hp]
  refine ⟨fun t h => ?_, fun e h => ?_, fun e h => ?_⟩ <;> rw [h]

theorem eventStep_runs {s b : State} {i : Instr} (hs : step s = eventStep i b) : StepRuns s b (afterEvent i b) i := by
  simp only [StepRuns, hs, eventStep]
  refine ⟨fun t h => ?_, fun e h => ?_, fun e h => ?_⟩ <;> rw [h]

/-- Where an issue is next, the step is that issue; the cycle has not passed. -/
theorem step_of_next {s b : State} {u : Nat} {iss : Issuer} (h : Next s b u iss) : step s = issueStep u iss b ∧ b.cycle = s.cycle := by
  obtain ⟨r, ha, rfl, rfl, hturn⟩ | ⟨ha, hd, more, hp, rfl⟩ := h
  · simp [step, ha, hturn]
  · simp [step, ha, hd, hp]

theorem fetchInstr_cycle {s u : State} {g : Group} {core : Nat} {reach : BitVec 8} {off : W64} {r : Fetched}
    (h : fetchInstr s g core reach off = (r, u)) : u.cycle = s.cycle := by
  have hc : standing u = standing s := by simpa [h] using fetchInstr_standing s g core reach off
  exact (standing_iff.mp hc).1

theorem prepare_pilot {b u : State} {gid : Nat} {g : Group} {ws : List W32} {i : Instr} (hg : getGroup b gid = some g)
    (hgst : g.gst = .running ∨ g.gst = .draining) (ht : issues g.pilot) (hsb : g.vals.chksb = false)
    (hfix : ∀ e ∈ g.pilot.fixed, ∀ n, e.reg = .s n → e.ripe + spreadLag g ≤ b.cycle)
    (hf : fetchInstr b g (coreOf g .pilot) (codeReachOf g g.pilot) g.pilot.pc = (.words ws, u))
    (hd : decodeWords true g.priv false ws = .ok i) :
    prepare (.pilot gid) b = (begun u { gid := gid, who := .pilot } (.pilot gid) 0, some i) := by
  obtain ⟨op, f, hs, hc, hi⟩ := decodeWords_ok hd
  obtain rfl := getGroup_gid hg
  have hj : judge op.toNat { s := u, g := g, who := .pilot, t := g.pilot, f := f } = .go :=
    judge_go ht hc hsb nofun fun _ => (fetchInstr_cycle hf).symm ▸ retiredAt_le hfix
  have ⟨_, _, _, _, hfail⟩ := ht
  rw [prepare_one (issueViews_pilot hg ht) hgst hf hs hfail hj (selectIssuer_pilot ..) rfl hi]
  simp [isPilot]

theorem prepare_strand {b u : State} {gid k : Nat} {g : Group} {t : Thread} {ws : List W32} {op : BitVec 9} {f : Fields} {i : Instr}
    (hg : getGroup b gid = some g) (hk : g.strands[k]? = some t) (hgst : g.gst = .running ∨ g.gst = .draining) (ht : issues t)
    (hpend : g.pilot.pend = []) (hsb : g.vals.chksb = false)
    (hf : fetchInstr b g (coreOf g (.strand k)) (codeReachOf g t) t.pc = (.words ws, u)) (hs : splitRaw ws = some (op, f))
    (hrow : ((shapeOf op.toNat false f).bind fun sh => rowSeg op.toNat sh f) = none) (hd : decodeWords false g.priv false ws = .ok i) :
    prepare (.gang gid [k]) b = (begun u { gid := gid, who := .strand k } (.gang gid [k]) (if f.yld then 1 else 0), some i) := by
  obtain ⟨op', f', hs', hc, hi⟩ := decodeWords_ok hd
  obtain ⟨rfl, rfl⟩ : op = op' ∧ f = f' := by simpa [hs] using hs'
  obtain rfl := getGroup_gid hg
  have hj : judge op.toNat { s := u, g := g, who := .strand k, t := t, f := f } = .go :=
    judge_go ht hc hsb (fun _ => hpend) fun hr => by simp [releases_of_strand hc] at hr
  have ⟨_, _, _, _, hfail⟩ := ht
  rw [prepare_one (issueViews_strand hg hk ht) hgst hf hs hfail hj (selectIssuer_strand hrow rfl) rfl hi]
  simp [isPilot]

/-! ### The obligation -/

/-- Settles O28: `prepare_pilot` and `prepare_strand` for the issues; the other steps are the branches of `step`. -/
theorem stepRunsDecoded : Obligations.StepRunsDecoded := by
  refine ⟨?event, ?pilot, ?strand, ?joint, ?due, ?pass, ?turn, ?idle⟩
  case event =>
    intro s i r ha
    exact eventStep_runs (by simp [step, ha])
  case pilot =>
    intro s b u' u gid g ws i hn hg hgst ht hsb hfix hf hd
    obtain ⟨hstep, hcycle⟩ := step_of_next hn
    exact issueStep_runs hstep (prepare_pilot hg hgst ht hsb (hcycle ▸ hfix) hf hd)
  case strand =>
    intro s b u' u gid k g t ws op f i hn hg hk hgst ht hpend hsb hf hs hrow hd
    have ⟨hstep, _⟩ := step_of_next hn
    exact issueStep_runs hstep (prepare_strand hg hk hgst ht hpend hsb hf hs hrow hd)
  case joint =>
    intro s u' gid k r g t ws op f i ha b hg hk hgst ht hpend hsb hf hs hrow hd
    exact jointStep_runs (by simp [step, ha, b]) (prepare_strand hg hk hgst ht hpend hsb hf hs hrow hd)
  case due =>
    intro s i ha hd
    exact eventStep_runs (by simp [step, ha, hd])
  case pass =>
    intro s c n r ha
    simp [step, ha]
  case turn =>
    intro s iss r ha hturn hd
    simp [step, ha, hturn, hd]
  case idle =>
    intro s ha hd hp
    simp [step, ha, hd, hp]

end Sys2Proof.Machine
end

section
/-! PROOFS. Pacing, temperature, the fencing of parts and re-stitching.

Three operations need more than a look at their definition. A die that is too hot has its groups saved one after another,
each by a request that leaves the others as they were (`saveAll_groups`). A fenced core has its groups put into FAULTED one
after another; each of these touches, beside its own group, only what leaves every group's standing alone
(`groupFault_standing`). A fenced lane retrains its port, which fails barrier objects only where one is homed elsewhere
(`failUnreachable_of_noMirror`). -/

namespace Sys2Proof.Machine

open Sys2Proof Sys2Proof.Rules

/-! ### Groups by number -/

theorem getGroup_congr {s t : State} (h : t.groups = s.groups) (k : Nat) : getGroup t k = getGroup s k := by simp only [getGroup, h]

theorem noted_groups {s t : State} (h : Noted s t) : t.groups = s.groups := by
  unfold Noted at h
  rw [h]

theorem noted_mgmt {s t : State} (h : Noted s t) : t.mgmt = s.mgmt := by
  unfold Noted at h
  rw [h]

theorem noted_ports {s t : State} (h : Noted s t) : t.ports = s.ports := by
  unfold Noted at h
  rw [h]

theorem noted_contexts {s t : State} (h : Noted s t) : t.contexts = s.contexts := by
  unfold Noted at h
  rw [h]

theorem mem_of_getGroup {s : State} {k : Nat} {g : Group} (h : getGroup s k = some g) : g ∈ s.groups := List.mem_of_find?_eq_some h

/-- Where no number occurs twice, a group is found under its number. -/
theorem getGroup_of_mem {s : State} {g : Group} (hd : (s.groups.map (·.gid)).Nodup) (hg : g ∈ s.groups) : getGroup s g.gid = some g := by
  obtain ⟨h, hh⟩ : ∃ h, getGroup s g.gid = some h := Option.isSome_iff_exists.mp (List.find?_isSome.mpr ⟨g, hg, by simp⟩)
  rw [hh, List.inj_on_of_nodup_map hd (mem_of_getGroup hh) hg (getGroup_gid hh)]

/-! ### Pacing and temperature (R462, R499, R500) -/

theorem pacingChange_answers {s : State} {level : BitVec 4} (h : s.mgmt.pacing ≠ level) :
    Answers (.pacingChange level) s { s with mgmt := { s.mgmt with pacing := level } } := by
  refine ⟨_, rfl, ?_⟩
  rw [if_neg h]
  exact emit_noted ..

/-- A group that can be pre-empted (R155). -/
def Preemptible (g : Group) : Prop := g.gst ∈ [GState.running, .halted, .draining]

theorem beginMethod_other {s : State} {g : Group} {m : Method} {bound k : Nat} {victimOf : Option Nat} (hk : k ≠ g.gid) :
    getGroup (beginMethod s g m bound victimOf) k = getGroup s k := by
  unfold beginMethod
  rw [getGroup_modGroup, if_neg hk]
  exact fun _ => rfl

theorem beginSave_self {s : State} {g : Group} {bound : Nat} {victimOf : Option Nat} (hg : getGroup s g.gid = some g) :
    ∃ h, getGroup (beginMethod s g .save bound victimOf) g.gid = some h ∧ h.gst = .saving := by
  unfold beginMethod
  rw [getGroup_modGroup, if_pos rfl, hg]
  · exact ⟨_, rfl, rfl⟩
  · exact fun _ => rfl

/-- A request to save a group makes it SAVING, and leaves every other group as it was (R155, R158). -/
theorem requestSave_groups {s : State} {g : Group} (hg : getGroup s g.gid = some g) (hp : Preemptible g) :
    let t := requestPreempt s g.gid 0 false none true
    t.mgmt = s.mgmt ∧ (∀ k, k ≠ g.gid → getGroup t k = getGroup s k) ∧ ∃ h, getGroup t g.gid = some h ∧ h.gst = .saving := by
  have hr : g.gst = .running ∨ g.gst = .halted ∨ g.gst = .draining := by simpa [Preemptible] using hp
  obtain ⟨u, hu, ht⟩ : ∃ u, Noted s u ∧ requestPreempt s g.gid 0 false none true = beginMethod u g .save 0 none := by
    simp only [requestPreempt, hg, if_pos hr, true_or, if_true, ne_eq, not_true_eq_false, and_false, if_false]
    refine ⟨_, ?_, rfl⟩
    split
    · exact emitFilt_noted ..
    · exact noted_trans (emitFilt_noted ..) (emitFilt_noted ..)
  have hsame (k : Nat) : getGroup u k = getGroup s k := getGroup_congr (noted_groups hu) k
  rw [ht]
  exact ⟨show u.mgmt = _ from noted_mgmt hu, fun k hk => (beginMethod_other hk).trans (hsame k), beginSave_self ((hsame _).trans hg)⟩

/-- Groups are saved one after another: those of the list are SAVING, and every other group is as it was. -/
theorem saveAll_groups (l : List Group) (s : State) (hd : (l.map (·.gid)).Nodup)
    (hl : ∀ g ∈ l, getGroup s g.gid = some g ∧ Preemptible g) :
    let t := l.foldl (fun s g => requestPreempt s g.gid 0 false none true) s
    t.mgmt = s.mgmt ∧ (∀ k ∉ l.map (·.gid), getGroup t k = getGroup s k) ∧ ∀ g ∈ l, ∃ h, getGroup t g.gid = some h ∧ h.gst = .saving := by
  induction l generalizing s with
  | nil => simp
  | cons a r ih =>
    obtain ⟨hna, hdr⟩ := List.nodup_cons.mp hd
    obtain ⟨ha, hpa⟩ := hl a (by simp)
    obtain ⟨hm, hother, h, hh, hsav⟩ := requestSave_groups ha hpa
    have hr : ∀ g ∈ r, getGroup (requestPreempt s a.gid 0 false none true) g.gid = some g ∧ Preemptible g := fun g hg => by
      obtain ⟨hs, hp⟩ := hl g (by simp [hg])
      have hne : g.gid ≠ a.gid := fun he => hna (List.mem_map.mpr ⟨g, hg, he⟩)
      exact ⟨(hother _ hne).trans hs, hp⟩
    obtain ⟨hm', hother', hsave⟩ := ih _ hdr hr
    refine ⟨hm'.trans hm, fun k hk => ?_, fun g hg => ?_⟩
    · simp only [List.map_cons, List.mem_cons, not_or] at hk
      exact (hother' k hk.2).trans (hother k hk.1)
    · rcases List.mem_cons.mp hg with rfl | hg
      · exact ⟨h, (hother' _ hna).trans hh, hsav⟩
      · exact hsave g hg

theorem mem_dieGroups {s : State} {die : Nat} {g : Group} :
    g ∈ dieGroups s die ↔ g ∈ s.groups ∧ Preemptible g ∧ ∃ c ∈ g.cores, c / 32 = die := by
  simp [dieGroups, Preemptible, dieOf, or_assoc]

theorem thermalLimit_ignored {s : State} {die : Nat} (h : s.mgmt.pacing ≠ 15 ∨ 4 ≤ die ∨ die ∈ s.mgmt.hotDies) :
    exec (.thermalLimit die) s = .next s := by
  show execThermalLimit die s = _
  rw [execThermalLimit, if_pos (by simpa using h)]

theorem thermalLimit_saves {s : State} {die : Nat} (hdie : die < 4) (hp : s.mgmt.pacing = 15) (hh : die ∉ s.mgmt.hotDies)
    (hd : (s.groups.map (·.gid)).Nodup) : ∃ t, exec (.thermalLimit die) s = .next t ∧
      t.mgmt = { s.mgmt with hotDies := s.mgmt.hotDies ++ [die], service := true } ∧
      ∀ gid g, getGroup s gid = some g → ∃ h, getGroup t gid = some h ∧
        (g.gst ∈ [.running, .halted, .draining] → (∃ c ∈ g.cores, c / 32 = die) → h.gst = .saving) ∧
        ((g.gst ∉ [.running, .halted, .draining] ∨ ∀ c ∈ g.cores, c / 32 ≠ die) → h = g) := by
  let u := requestService { s with mgmt := { s.mgmt with hotDies := s.mgmt.hotDies ++ [die] } }
  have hgroups : u.groups = s.groups := rfl
  have hl : ∀ g ∈ dieGroups u die, getGroup u g.gid = some g ∧ Preemptible g := fun g hg => by
    obtain ⟨hm, hpre, -⟩ := mem_dieGroups.mp hg
    exact ⟨getGroup_of_mem hd hm, hpre⟩
  obtain ⟨hm, hother, hsave⟩ := saveAll_groups (dieGroups u die) u (hd.sublist (List.filter_sublist.map _)) hl
  refine ⟨_, ?_, hm, fun gid g hg => ?_⟩
  · show execThermalLimit die s = _
    rw [execThermalLimit, if_neg (by simp [hp, hh, hdie])]
  obtain rfl := getGroup_gid hg
  by_cases hin : g ∈ dieGroups u die
  · obtain ⟨-, hpre, c, hc, hcd⟩ := mem_dieGroups.mp hin
    obtain ⟨h, hget, hsav⟩ := hsave g hin
    refine ⟨h, hget, fun _ _ => hsav, fun hno => ?_⟩
    rcases hno with hno | hno
    · exact absurd hpre hno
    · exact absurd hcd (hno c hc)
  · have hnot : g.gid ∉ (dieGroups u die).map (·.gid) := fun hmem => by
      obtain ⟨g', hg', he⟩ := List.mem_map.mp hmem
      obtain rfl : g' = g := Option.some.inj ((hl g' hg').1.symm.trans (he ▸ hg))
      exact hin hg'
    exact ⟨g, (hother _ hnot).trans hg, fun hpre hc => absurd (mem_dieGroups.mpr ⟨mem_of_getGroup hg, hpre, hc⟩) hin, fun _ => rfl⟩

/-! ### Groups that enter FAULTED (R148, R501) -/

/-- What becomes of a group's standing when the groups of some numbers enter FAULTED: one that is RETIRED stays so. -/
def faultPlace (gids : List Nat) (p : Nat × List Nat × GState) : Nat × List Nat × GState :=
  if p.1 ∈ gids ∧ p.2.2 ≠ .retired then (p.1, p.2.1, .faulted) else p

theorem faultPlace_cons (a : Nat) (l : List Nat) (p : Nat × List Nat × GState) : faultPlace l (faultPlace [a] p) = faultPlace (a :: l) p := by
  unfold faultPlace
  grind

theorem faultPlace_fst (gids : List Nat) (p : Nat × List Nat × GState) : (faultPlace gids p).1 = p.1 := by
  unfold faultPlace
  split <;> rfl

theorem modGroup_places (s : State) (gid : Nat) {f : Group → Group} (hf : ∀ g, place (f g) = (g.gid, g.cores, .faulted)) :
    (modGroup s gid f).groups.map place = (s.groups.map place).map fun p => if p.1 = gid then (p.1, p.2.1, .faulted) else p := by
  simp only [modGroup, replaceIf, List.map_map, Function.comp_def, beq_iff_eq, apply_ite place, hf]
  rfl

theorem modGroup_faulted_standing {s t : State} (h : standing t = standing s) (gid : Nat) {f : Group → Group}
    (hf : ∀ g, place (f g) = (g.gid, g.cores, .faulted)) :
    standing (modGroup t gid f) = standing (modGroup s gid fun g => { g with gst := .faulted }) := by
  obtain ⟨hc, hm, hfc, hp⟩ := standing_iff.mp h
  refine standing_iff.mpr ⟨hc, hm, hfc, ?_⟩
  rw [modGroup_places t gid hf, modGroup_places s gid fun _ => rfl, hp]

/-- Of the group that faults, the standing changes in its state alone; beside it, no standing changes. -/
theorem groupFault_live {s : State} {gid reason : Nat} {g : Group} (hg : getGroup s gid = some g) (hf : g.gst ≠ .faulted)
    (hr : g.gst ≠ .retired) : standing (groupFault s gid reason) = standing (modGroup s gid fun g => { g with gst := .faulted }) := by
  simp only [groupFault, hg, hf, hr, or_self, if_false, countEnded_standing, markEnded_standing, breakConvoy_standing, collLeave_standing,
    barFailGroup_standing, leaveSems_standing]
  split
  · rw [writeRecord_standing]
    exact modGroup_faulted_standing ((capGroupStatus_standing ..).trans (emitGroup_standing ..)) gid fun _ => rfl
  · exact modGroup_faulted_standing ((capGroupStatus_standing ..).trans (emitGroup_standing ..)) gid fun _ => rfl

theorem groupFault_ended {s : State} {gid reason : Nat} (h : ∀ g, getGroup s gid = some g → g.gst = .faulted ∨ g.gst = .retired) :
    groupFault s gid reason = s := by
  unfold groupFault
  split
  · rfl
  · next g hg => exact if_pos (h g hg)

theorem groupFault_standing {s : State} (hd : (s.groups.map (·.gid)).Nodup) (gid reason : Nat) :
    standing (groupFault s gid reason) = (s.cycle, s.mgmt, s.fencedCores, (s.groups.map place).map (faultPlace [gid])) := by
  by_cases hlive : ∃ g, getGroup s gid = some g ∧ g.gst ≠ .faulted ∧ g.gst ≠ .retired
  · obtain ⟨g, hg, hf, hr⟩ := hlive
    have hplace : ∀ x ∈ s.groups, place (if x.gid == gid then { x with gst := .faulted } else x) = faultPlace [gid] (place x) := by
      intro x hx
      by_cases he : x.gid = gid
      · subst he
        obtain rfl : x = g := Option.some.inj ((getGroup_of_mem hd hx).symm.trans hg)
        simp [faultPlace, place, hr]
      · simp [faultPlace, place, he]
    rw [groupFault_live hg hf hr]
    simpa [standing, modGroup, replaceIf] using hplace
  · have hsame : ∀ x ∈ s.groups, place x = faultPlace [gid] (place x) := by
      intro x hx
      by_cases he : x.gid = gid
      · subst he
        have := not_exists.mp hlive x
        grind [faultPlace, place, getGroup_of_mem]
      · simp [faultPlace, place, he]
    rw [groupFault_ended fun g hg => by grind]
    simpa [standing] using hsame

theorem faultAll_standing (l : List Group) (s : State) (hd : (s.groups.map (·.gid)).Nodup) (reason : Nat) :
    standing (l.foldl (fun s g => groupFault s g.gid reason) s) =
      (s.cycle, s.mgmt, s.fencedCores, (s.groups.map place).map (faultPlace (l.map (·.gid)))) := by
  induction l generalizing s with
  | nil => simp [standing, faultPlace]
  | cons a r ih =>
    have hs := groupFault_standing hd a.gid reason
    obtain ⟨hc, hm, hf, hp⟩ : _ ∧ _ ∧ _ ∧ _ := by simpa only [standing, Prod.mk.injEq] using hs
    have hgids : (groupFault s a.gid reason).groups.map (·.gid) = s.groups.map (·.gid) := by
      simpa [Function.comp_def, faultPlace_fst, place] using congrArg (List.map Prod.fst) hp
    rw [List.foldl_cons, ih _ (hgids ▸ hd), hc, hm, hf, hp, List.map_map]
    simp [Function.comp_def, faultPlace_cons]

/-- Of a group that is not FAULTED, its state alone says whether it holds its place. -/
theorem holdsPlace_congr {s t : State} {g h : Group} (hgst : h.gst = g.gst) (hf : g.gst ≠ .faulted) :
    holdsPlace t h = holdsPlace s g := by
  unfold holdsPlace
  rw [hgst]
  cases hg : g.gst <;> simp_all

theorem not_retired_of_holdsPlace {s : State} {g : Group} (h : holdsPlace s g = true) : g.gst ≠ .retired := by
  intro hr
  simp [holdsPlace, hr] at h

/-- Once the groups of a core have faulted, whatever holds a place on that core is FAULTED. -/
theorem faultAll_core {s : State} (hd : (s.groups.map (·.gid)).Nodup) (n reason : Nat) :
    let t := (s.groups.filter fun g => holdsPlace s g && g.cores.contains n).foldl (fun s g => groupFault s g.gid reason) s
    t.mgmt = s.mgmt ∧ t.fencedCores = s.fencedCores ∧ ∀ g ∈ t.groups, holdsPlace t g = true → n ∈ g.cores → g.gst = .faulted := by
  intro t
  let gids := (s.groups.filter fun g => holdsPlace s g && g.cores.contains n).map (·.gid)
  obtain ⟨-, hm, hf, hp⟩ : _ ∧ t.mgmt = _ ∧ t.fencedCores = _ ∧ t.groups.map place = (s.groups.map place).map (faultPlace gids) := by
    simpa only [standing, Prod.mk.injEq] using faultAll_standing _ s hd reason
  refine ⟨hm, hf, fun g hg hold hn => ?_⟩
  have hmem : place g ∈ (s.groups.map place).map (faultPlace gids) := hp ▸ List.mem_map_of_mem hg
  obtain ⟨x, hx, hxg⟩ : ∃ x ∈ s.groups, faultPlace gids (place x) = place g := by simpa using hmem
  by_contra hne
  have hin : ¬ (x.gid ∈ gids ∧ x.gst ≠ .retired) := fun h => by
    have hfaulted : GState.faulted = g.gst := by simpa [faultPlace, place, h] using congrArg (·.2.2) hxg
    exact hne hfaulted.symm
  obtain ⟨-, hcores, hgst⟩ : x.gid = g.gid ∧ x.cores = g.cores ∧ x.gst = g.gst := by simpa [faultPlace, place, hin] using hxg
  have hxhold : holdsPlace s x = true := (holdsPlace_congr (t := t) hgst.symm (hgst ▸ hne)).symm.trans hold
  exact hin ⟨List.mem_map_of_mem (List.mem_filter.mpr ⟨hx, by simp [hxhold, hcores, hn]⟩), not_retired_of_holdsPlace hxhold⟩

/-! ### The fencing of parts (R501) -/

/-- A part that goes on the fence list has no other effect but the request for service. -/
theorem addFence_noted (s : State) (p : Part) : Noted { s with mgmt := fenced_ s p } (requestService (addFence s p)) := raiseInt_noted ..

theorem partFence_core_ignored {s : State} {n : Nat} (h : 128 ≤ n ∨ n ∈ s.vacant ∨ n ∈ s.fencedCores) :
    exec (.partFence (.core n)) s = .next s := by
  show Host.Outcome.next (fenceCore s n) = _
  rw [fenceCore, if_pos (by simpa using h)]

theorem partFence_core {s : State} {n : Nat} (hn : n < 128) (hv : n ∉ s.vacant) (hf : n ∉ s.fencedCores)
    (hd : (s.groups.map (·.gid)).Nodup) : ∃ t, exec (.partFence (.core n)) s = .next t ∧ t.fencedCores = s.fencedCores ++ [n] ∧
      t.mgmt = fenced_ s (.core (physOfCore s n)) ∧ ∀ g ∈ t.groups, holdsPlace t g = true → n ∈ g.cores → g.gst = .faulted := by
  let u := requestService (addFence { s with fencedCores := s.fencedCores ++ [n] } (.core (physOfCore s n)))
  obtain ⟨hm, hfc, hg⟩ := faultAll_core (s := u) hd n 4
  refine ⟨_, ?_, hfc, hm, hg⟩
  show Host.Outcome.next (fenceCore s n) = _
  rw [fenceCore, if_neg (by simp [hv, hf, hn])]

theorem partFence_spare_ignored {s : State} {n : Nat} (h : 136 ≤ n ∨ .core n ∈ s.mgmt.fences) :
    exec (.partFence (.spare n)) s = .next s := by
  show Host.Outcome.next (fenceSpare s n) = _
  rw [fenceSpare, if_pos (by simpa [coreFenced] using h)]

theorem partFence_spare {s : State} {n : Nat} (hn : n < 136) (hf : .core n ∉ s.mgmt.fences)
    (hfree : ∀ c < 128, c ∉ s.vacant → physOfCore s c ≠ n) :
    Answers (.partFence (.spare n)) s { s with mgmt := fenced_ s (.core n) } := by
  have hnone : ((List.range 128).find? fun c => !s.vacant.contains c && physOfCore s c == n) = none := by
    simpa using hfree
  refine ⟨_, ?_, addFence_noted s (.core n)⟩
  show Host.Outcome.next (fenceSpare s n) = _
  rw [fenceSpare, if_neg (by simp [coreFenced, hf, hn]), hnone]

theorem partFence_slice_ignored {s : State} {n : Nat} (h : 512 ≤ n ∨ .slice n ∈ s.mgmt.fences) :
    exec (.partFence (.slice n)) s = .next s := by
  show execPartFence (.slice n) s = _
  simp only [execPartFence]
  rw [if_pos (by simpa using h)]

theorem partFence_slice {s : State} {n : Nat} (hn : n < 512) (hf : .slice n ∉ s.mgmt.fences) :
    Answers (.partFence (.slice n)) s { s with mgmt := fenced_ s (.slice n) } := by
  refine ⟨_, ?_, addFence_noted s (.slice n)⟩
  show execPartFence (.slice n) s = _
  simp only [execPartFence]
  rw [if_neg (by simp [hf, hn])]

/-! ### The fencing of a lane (R444, R445, R501) -/

theorem getPort_congr {s t : State} (h : t.ports = s.ports) (n : Nat) : getPort t n = getPort s n := by simp only [getPort, h]

theorem getPort_modPort {s : State} {n : Nat} {q : Port} {f : Port → Port} (hq : getPort s n = some q) (hf : ∀ p, (f p).num = p.num) :
    getPort (modPort s n f) n = some (f q) := by
  have hnum : q.num = n := by simpa using List.find?_some hq
  unfold getPort at hq
  simp only [getPort, modPort]
  rw [find?_replaceIf _ _ _ _ fun p => by rw [hf], hq]
  simp [hnum]

theorem failUnreachable_standing (s : State) : standing (failUnreachable s) = standing s := by simp [failUnreachable]

/-- Where no barrier object is the copy of one homed elsewhere, none fails for a rank that has become unreachable (R329). -/
theorem failUnreachable_of_noMirror {s : State} (h : noMirror s) : failUnreachable s = s := by
  refine List.foldlRecOn (motive := (· = s)) s.contexts _ rfl fun t ht c hc => ?_
  refine List.foldlRecOn (motive := (· = s)) c.barriers _ ht fun t ht b hb => ?_
  simp [h c hc b hb, ht]

theorem noMirror_congr {s t : State} (h : t.contexts = s.contexts) (hs : noMirror s) : noMirror t := by
  unfold noMirror
  rw [h]
  exact hs

theorem turnDir_eq (s : State) (port : Nat) :
    turnDir s port = { s with droppedTo := [], turning := (turnDir s port).turning } := by
  unfold turnDir
  dsimp only
  split <;> rfl

theorem turnDir_ports (s : State) (port : Nat) : (turnDir s port).ports = s.ports := by rw [turnDir_eq]

theorem turnDir_contexts (s : State) (port : Nat) : (turnDir s port).contexts = s.contexts := by rw [turnDir_eq]

theorem turnDir_standing (s : State) (port : Nat) : standing (turnDir s port) = standing s := by
  rw [turnDir_eq]
  rfl

theorem setLink_standing (s : State) (port st cause) : standing (setLink s port st cause) = standing s := by
  simp [setLink, failUnreachable_standing, turnDir_standing]

/-- The port enters the state (R444). -/
theorem getPort_setLink {s : State} {port : Nat} {q : Port} (h : noMirror s) (hq : getPort s port = some q) (st : LinkState) (cause : LinkCause) :
    getPort (setLink s port st cause) port = some { q with lst := st, downAt := if st = .down then (now s).toNat else q.downAt } := by
  have hn (ev pay : Nat) (f : Port → Port) : Noted (modPort s port f) (emit (modPort s port f) (unitPort port) none ev 0 pay) :=
    emit_noted ..
  unfold setLink
  rw [failUnreachable_of_noMirror (noMirror_congr ((turnDir_contexts ..).trans (noted_contexts (hn ..))) h),
    getPort_congr ((turnDir_ports ..).trans (noted_ports (hn ..)))]
  exact getPort_modPort hq fun _ => rfl

theorem partFence_lane {s : State} {port lane : Nat} {q : Port} (hq : getPort s port = some q) (hl : lane < 8) (hf : lane ∉ q.fencedLanes)
    (hm : noMirror s) : ∃ t, exec (.partFence (.lane port lane)) s = .next t ∧ t.mgmt = fenced_ s (.lane port lane) ∧
      getPort t port = some { q with
        fencedLanes := q.fencedLanes ++ [lane]
        lanes := if q.lanes = 0 then 0 else 8 - (q.fencedLanes.length + 1)
        lst := if q.lst = .up ∨ q.lst = .degraded then .training else q.lst } := by
  let x : Port := { q with fencedLanes := q.fencedLanes ++ [lane], lanes := if q.lanes = 0 then 0 else 8 - (q.fencedLanes.length + 1) }
  let u := requestService (addFence (modPort s port fun q =>
    { q with fencedLanes := q.fencedLanes ++ [lane], lanes := if q.lanes = 0 then 0 else 8 - (q.fencedLanes.length + 1) }) (.lane port lane))
  have hu : getPort u port = some x := getPort_modPort hq fun _ => rfl
  have hstep : exec (.partFence (.lane port lane)) s =
      .next (if q.lst = .up ∨ q.lst = .degraded then setLink u port .training .lanes else u) := by
    show execPartFence (.lane port lane) s = _
    simp only [execPartFence, hq]
    rw [if_neg (by simp [hf, hl])]
  refine ⟨_, hstep, ?_⟩
  by_cases hup : q.lst = .up ∨ q.lst = .degraded
  · obtain ⟨-, hmgmt, -⟩ := standing_iff.mp (setLink_standing u port .training .lanes)
    rw [if_pos hup, getPort_setLink (show noMirror u from hm) hu]
    exact ⟨hmgmt, by simp [x, hup]⟩
  · rw [if_neg hup]
    exact ⟨rfl, by simp [hu, x, hup]⟩

/-! ### The fencing of a stack (R501) -/

theorem partFence_stack {s : State} {n : Nat} (units : List Nat) (hn : n < 12) : ∃ t, exec (.partFence (.stack n units [])) s = .next t ∧
    t.mgmt = fenced_ s (.stack n (units.filter fun u => stackOf s (16 * u) == n) []) ∧ t.mem = s.mem ∧
    ∀ u, u ∈ t.poison ↔ u ∈ s.poison ∨ (u ∈ units ∧ stackOf s (16 * u) = n) := by
  let us := units.filter fun u => stackOf s (16 * u) == n
  have hstep : exec (.partFence (.stack n units [])) s =
      .next (requestService (addFence { s with poison := (s.poison ++ us).dedup } (.stack n us []))) := by
    show execPartFence (.stack n units []) s = _
    simp only [execPartFence, List.foldl_nil]
    rw [if_neg (by omega)]
  refine ⟨_, hstep, rfl, rfl, fun u => ?_⟩
  show u ∈ (s.poison ++ us).dedup ↔ _
  simp [us]

/-! ### Re-stitching (R19) -/

theorem mem_upsert {α : Type} (p : α → Bool) (a : α) (l : List α) : a ∈ upsert p a l := by
  unfold upsert
  split
  · next h =>
    obtain ⟨x, hx, hp⟩ := List.any_eq_true.mp h
    exact List.mem_map.mpr ⟨x, hx, if_pos hp⟩
  · simp

theorem restitch_waits {s : State} {region : List Nat} {shape : BitVec 8} (h : s.restitch = none ∨ s.restitch = some (region, shape))
    (he : regionEmpty s region = false) : exec (.restitch region shape) s = .next { s with restitch := some (region, shape) } := by
  show execRestitch region shape s = _
  rcases h with h | h <;> simp [execRestitch, h, he]

theorem restitch_done {s : State} {region : List Nat} {shape : BitVec 8} (h : s.restitch = none ∨ s.restitch = some (region, shape))
    (he : regionEmpty s region = true) : ∃ t, exec (.restitch region shape) s = .next t ∧ t.restitch = none ∧
      (region, shape) ∈ t.stitched ∧ t.groups = s.groups := by
  let u : State := { s with restitch := none, stitched := upsert (fun e => e.1 == region) (region, shape) s.stitched }
  obtain ⟨t, ht, hn⟩ : Answers (.restitch region shape) s u := by
    refine ⟨_, ?_, emit_noted u unitMgmt none evRestitch (Config.recordWord evRestitch region).toNat
      (Config.recordWord evRestitch (shape.toNat :: region)).toNat 0⟩
    show execRestitch region shape s = _
    rcases h with h | h <;> simp [execRestitch, h, he, u]
  refine ⟨t, ht, ?_⟩
  unfold Noted at hn
  rw [hn]
  exact ⟨rfl, mem_upsert .., rfl⟩

theorem restitch_ignored {s : State} {region : List Nat} {shape : BitVec 8} {other : List Nat × BitVec 8} (h : s.restitch = some other)
    (hne : other ≠ (region, shape)) : exec (.restitch region shape) s = .next s := by
  show execRestitch region shape s = _
  simp [execRestitch, h, hne]

/-! ### The obligation -/

/-- Settles O24, by one lemma for each operation and case; where an operation ends at once its definition says so. -/
theorem powerAndFencing : Obligations.PowerAndFencing := by
  intro s
  refine ⟨?same, fun level => pacingChange_answers, fun die => thermalLimit_ignored, fun die => thermalLimit_saves, ?recover, ?shutdown,
    ?noDie, fun n => partFence_core_ignored, fun n => partFence_core, fun n => partFence_spare_ignored, fun n => partFence_spare,
    fun n => partFence_slice_ignored, fun n => partFence_slice, fun port lane q => partFence_lane, ?noStack,
    fun n units => partFence_stack units, fun region shape h => ⟨restitch_waits h, restitch_done h⟩,
    fun region shape other => restitch_ignored⟩
  case same =>
    intro level h
    show execPacingChange level s = _
    rw [execPacingChange, if_pos h]
  case recover =>
    intro die
    have hne : (fun d : Nat => d != die) = fun d => decide (d ≠ die) := by
      funext d
      by_cases h : d = die <;> simp [h]
    show execThermalRecover die s = _
    rw [execThermalRecover, hne]
  case shutdown =>
    intro die h
    show execThermalShutdown die s = execColdReset true s
    rw [execThermalShutdown, if_pos h, execColdReset]
  case noDie =>
    intro die h
    show execThermalShutdown die s = _
    rw [execThermalShutdown, if_neg (Nat.not_lt.mpr h)]
  case noStack =>
    intro n units leaves h
    show execPartFence (.stack n units leaves) s = _
    simp only [execPartFence]
    rw [if_pos h]

end Sys2Proof.Machine
end

section
/-! PROOFS. Decoding takes an encoded instruction apart again.

The words of an instruction give back its opcode and fields: every field of a word is cut out where `packWords` put it
(`splitWords_packed`), and a word that a shorter encoding leaves out is read as what R43 says its fields hold
(`splitRaw_encodeRaw`). A well-formed instruction passes the decode checks, and its opcode and fields name it. -/

namespace Sys2Proof

open Sys2Proof.Machine

/-! ### Fields and words -/

/-- Word 0 and word 1 of an instruction (R26, R29). -/
def word0 (op : BitVec 9) (f : Fields) : W32 :=
  (BitVec.ofBool f.x ++ f.a ++ f.d ++ op ++ BitVec.ofBool f.yld ++ f.stall ++ f.len).cast rfl
def word1 (f : Fields) : W32 := (f.sub ++ BitVec.ofBool f.neg ++ f.pnum ++ f.c ++ f.b).cast rfl

theorem packWords_eq (op : BitVec 9) (f : Fields) :
    packWords op f = [word0 op f, word1 f, f.w2, f.lit.extractLsb' 0 32, f.lit.extractLsb' 32 32] := rfl

theorem word0_len (op : BitVec 9) (f : Fields) : (word0 op f).extractLsb' 0 2 = f.len := by
  rw [word0, BitVec.extractLsb'_cast, BitVec.extractLsb'_append_eq_right]

/-- The packed words hold every field at its place (R26, R29, R33, R37). -/
theorem splitWords_packed (op : BitVec 9) (f : Fields) :
    splitWords (word0 op f) (word1 f) f.w2 (f.lit.extractLsb' 0 32) (f.lit.extractLsb' 32 32) = (op, f) := by
  have hlit : f.lit.extractLsb' 32 32 ++ f.lit.extractLsb' 0 32 = f.lit :=
    (BitVec.extractLsb'_append_extractLsb'_eq_extractLsb' (Nat.zero_add _).symm).trans BitVec.extractLsb'_eq_self
  simp only [splitWords, word0, word1, hlit, BitVec.extractLsb'_cast, BitVec.getLsbD_cast, BitVec.extractLsb'_append_eq_ite,
    BitVec.getLsbD_append]
  simp

/-- The lengths of an instruction, each with the fields of the words that it leaves out (R23, R43). -/
theorem absentOk_cases {f : Fields} (h : f.absentOk = true) :
    (f.len = 0 ∧ word1 f = absentWord1 ∧ f.w2 = 0 ∧ f.lit = 0) ∨ (f.len = 1 ∧ f.w2 = 0 ∧ f.lit = 0) ∨ (f.len = 2 ∧ f.lit = 0) ∨
      f.len = 3 := by
  have hl : f.len = 0 ∨ f.len = 1 ∨ f.len = 2 ∨ f.len = 3 := by
    generalize f.len = n
    revert n
    decide
  rcases hl with hl | hl | hl | hl
  · obtain ⟨⟨⟨⟨⟨⟨hsub, hneg⟩, hpnum⟩, hc⟩, hb⟩, hw2⟩, hlit⟩ :
        (((((f.sub = 0 ∧ f.neg = false) ∧ f.pnum = 7) ∧ f.c = 0) ∧ f.b = 0) ∧ f.w2 = 0) ∧ f.lit = 0 := by
      simpa [Fields.absentOk, lenWords, hl] using h
    exact .inl ⟨hl, by rw [word1, hsub, hneg, hpnum, hc, hb]; rfl, hw2, hlit⟩
  · exact .inr (.inl ⟨hl, by simpa [Fields.absentOk, lenWords, hl] using h⟩)
  · exact .inr (.inr (.inl ⟨hl, by simpa [Fields.absentOk, lenWords, hl] using h⟩))
  · exact .inr (.inr (.inr hl))

/-- The words of an instruction give back its opcode and its fields. -/
theorem splitRaw_encodeRaw (op : BitVec 9) {f : Fields} (h : f.absentOk = true) : splitRaw (encodeRaw op f) = some (op, f) := by
  have hw := splitWords_packed op f
  rcases absentOk_cases h with ⟨hl, h1, h2, h3⟩ | ⟨hl, h2, h3⟩ | ⟨hl, h3⟩ | hl
  · simpa [encodeRaw, packWords_eq, splitRaw, word0_len, lenWords, hl, h1, h2, h3] using hw
  · simpa [encodeRaw, packWords_eq, splitRaw, word0_len, lenWords, hl, h2, h3] using hw
  · simpa [encodeRaw, packWords_eq, splitRaw, word0_len, lenWords, hl, h3] using hw
  · simpa [encodeRaw, packWords_eq, splitRaw, word0_len, lenWords, hl] using hw

/-! ### Opcodes -/

theorem opTable_lt : ∀ e ∈ opTable, e.1 < 2 ^ 9 := by decide +kernel

/-- An assigned opcode fits its nine bits (R52). -/
theorem lt_of_ofOp {op : Nat} {f : Fields} {i : Instr} (h : ofOp op f = some i) : op < 2 ^ 9 := by
  obtain ⟨e, he, -⟩ := Option.map_eq_some_iff.mp h
  obtain ⟨hop, -⟩ : e.1 = op ∧ e.2.1 f = true := by simpa using List.find?_some he
  exact hop ▸ opTable_lt e (List.mem_of_find?_eq_some he)

/-! ### The obligation -/

/-- Settles O26: the words split into opcode and fields again, and these pass the decode checks and name the instruction, because
it is well-formed. -/
theorem decodeEncodeRoundTrip : Obligations.DecodeEncodeRoundTrip := by
  intro i hwf op f henc
  simp only [Instr.wellFormed, henc, Bool.and_eq_true, Option.isNone_iff_eq_none, beq_iff_eq] at hwf
  obtain ⟨⟨habsent, hcheck⟩, hop⟩ := hwf
  have hraw := splitRaw_encodeRaw (BitVec.ofNat 9 op) habsent
  have hnat : (BitVec.ofNat 9 op).toNat = op := by rw [BitVec.toNat_ofNat, Nat.mod_eq_of_lt (lt_of_ofOp hop)]
  simp [decodeWords, encode, henc, hraw, hnat, hcheck, hop]

end Sys2Proof
end

section
/-! PROOFS. A result that arrives is written, and what waited for it alone goes on; a held fault's ring entry is written.

What the stores of a result leave of a group is what writes of fixed latency leave, but for the list of open results
(`storeRegs_withFixed`), so that `writeFixed_all` says what the registers hold. After it every executor of the group is looked at once
(`getThread_updateAll`), and it goes on exactly where it has waited for this result alone (`resultEnds_self`, `resultEnds_other`). -/

namespace Sys2Proof.Machine

open Sys2Proof Sys2Proof.Rules

/-! ### Storing the registers of a result -/

/-- An executor with another list of open results. -/
def withFixed (l : List Fixed) (t : Thread) : Thread := { t with fixed := l }

/-- The registers of a result, stored one after another. -/
def storeRegs (w : Who) (ws : List (RegId × W64)) (g : Group) : Group := ws.foldl (fun g e => storeReg g w e.1 e.2) g

theorem modThreadOf_eq_self {g : Group} {w : Who} {t : Thread} {f : Thread → Thread} (ht : getThread g w = some t) (hf : f t = t) :
    modThreadOf g w f = g := by
  cases w with
  | pilot =>
    cases ht
    simp only [modThreadOf, hf]
  | strand k =>
    have hl : modNth g.strands k f = g.strands := by
      refine List.ext_getElem? fun j => ?_
      rw [getElem?_modNth]
      split
      · next hj => rw [hj, show g.strands[k]? = some t from ht, Option.map_some, hf]
      · rfl
    simp only [modThreadOf, hl]

/-- A store does not look at the list of open results. -/
theorem storeReg_withFixed (l : List Fixed) (w : Who) (g : Group) (r : RegId) (x : W64) :
    storeReg (modThreadOf g w (withFixed l)) w r x = modThreadOf (storeReg g w r x) w (withFixed l) := by
  cases r with
  | v n => simp only [storeReg]; split <;> simp only [modThreadOf_modThreadOf, withFixed]
  | s n => cases w <;> rfl
  | p n => simp only [storeReg]; split <;> simp only [modThreadOf_modThreadOf, withFixed]
  | x n => simp only [storeReg, modThreadOf_modThreadOf, withFixed]

/-- A write of fixed latency is a store, but for the list of open results. -/
theorem writeFixed_withFixed (s : State) (lat : Nat) (l : List Fixed) {w : Who} {g : Group} {t : Thread} {e : RegId × W64}
    (ht : getThread g w = some t) (hn : ∀ x ∈ t.fixed, x.reg ≠ e.1) :
    modThreadOf (writeFixed s w lat g e) w (withFixed l) = storeReg (modThreadOf g w (withFixed l)) w e.1 e.2 := by
  have hlate : (t.fixed.any fun x => x.reg == e.1 && decide (lat ≤ x.left)) = false := by
    rw [List.any_eq_false]
    intro x hx
    simp [hn x hx]
  rw [storeReg_withFixed]
  simp only [writeFixed, ht, Option.getD_some, hlate, Bool.false_eq_true, false_and, if_false]
  exact modThreadOf_modThreadOf ..

theorem storeRegs_withFixed (s : State) (lat : Nat) (l : List Fixed) {w : Who} (ws : List (RegId × W64)) {g : Group} {t : Thread}
    (ht : getThread g w = some t) (hw : swf t.regs = true) (hs : swf g.sregs = true) (hn : ∀ x ∈ t.fixed, x.reg ∉ ws.map (·.1))
    (hd : (ws.map (·.1)).Nodup) :
    modThreadOf (ws.foldl (writeFixed s w lat) g) w (withFixed l) = storeRegs w ws (modThreadOf g w (withFixed l)) := by
  induction ws generalizing g t with
  | nil => rfl
  | cons e rest ih =>
    simp only [List.map_cons, List.nodup_cons, List.mem_cons, not_or] at hd hn
    have hne : ∀ x ∈ t.fixed, x.reg ≠ e.1 := fun x hx => (hn x hx).1
    obtain ⟨t1, h1⟩ := writeFixed_one s lat w g t e.1 e.2 ht hw hs hne
    have hn1 : ∀ x ∈ t1.fixed, x.reg ∉ rest.map (·.1) := by
      rw [h1.fixed]
      exact List.forall_mem_cons.mpr ⟨hd.1, fun x hx => (hn x hx).2⟩
    rw [List.foldl_cons, ih h1.thread h1.wf.1 h1.wf.2 hn1 hd.2, writeFixed_withFixed s lat l ht hne]
    rfl

/-- What the stores of a result leave of a group. -/
structure Stored (w : Who) (ws : List (RegId × W64)) (g : Group) (t : Thread) (g' : Group) (t' : Thread) : Prop where
  thread : getThread g' w = some t'
  others : ∀ u, u ≠ w → getThread g' u = getThread g u
  held : ∀ q, heldReg g' t' q = match ws.lookup q with | some x => kept t q x | none => heldReg g t q
  frame : t' = { t with regs := t'.regs, preds := t'.preds, caps := t'.caps }

theorem heldReg_congr {g h : Group} {t x : Thread} (hs : h.sregs = g.sregs) (hr : x.regs = t.regs) (hp : x.preds = t.preds)
    (hc : x.caps = t.caps) (r : RegId) : heldReg h x r = heldReg g t r := by
  cases r <;> simp only [heldReg, hs, hr, hp, hc]

theorem kept_congr {t x : Thread} (hc : x.caps = t.caps) (r : RegId) (y : W64) : kept x r y = kept t r y := by
  cases r <;> simp only [kept, hc]

/-- The stores of a result write its registers; the state only lends `writeFixed` its clock. -/
theorem storeRegs_stored (s : State) {w : Who} {ws : List (RegId × W64)} {g : Group} {t : Thread} (ht : getThread g w = some t)
    (hg : g.wf = true) (hd : (ws.map (·.1)).Nodup) : ∃ t', Stored w ws g t (storeRegs w ws g) t' := by
  have ht0 : getThread (modThreadOf g w (withFixed [])) w = some (withFixed [] t) := modNth_pilot_some g w t _ ht
  have hs0 : swf (modThreadOf g w (withFixed [])).sregs = true := by rw [modThreadOf_sregs]; exact swf_sregs hg
  have hn0 : ∀ x ∈ (withFixed [] t).fixed, x.reg ∉ ws.map (·.1) := fun x hx => by cases hx
  have hw : swf t.regs = true := swf_thread hg ht
  obtain ⟨t1, h1⟩ := writeFixed_all s 1 w ws _ _ ht0 hw hs0 hn0 hd
  have hback : modThreadOf (modThreadOf g w (withFixed [])) w (withFixed t.fixed) = g :=
    (modThreadOf_modThreadOf ..).trans (modThreadOf_eq_self ht rfl)
  have heq := hback ▸ storeRegs_withFixed s 1 t.fixed ws ht0 hw hs0 hn0 hd
  rw [← heq]
  refine ⟨withFixed t.fixed t1, modNth_pilot_some _ w t1 _ h1.thread, ?_, ?_, ?_⟩
  · intro u hu
    rw [getThread_modThreadOf, if_neg hu, h1.others u hu, getThread_modThreadOf, if_neg hu]
  · intro q
    rw [heldReg_congr (t := t1) (x := withFixed t.fixed t1) (modThreadOf_sregs ..) rfl rfl rfl, h1.held q]
    cases ws.lookup q with
    | some x => exact kept_congr rfl q x
    | none => exact heldReg_congr (modThreadOf_sregs ..) rfl rfl rfl q
  · rw [h1.frame]
    rfl

/-! ### Looking at every executor once -/

/-- An update of each executor of a list. -/
def updateAll (f : Who → Thread → Thread) (l : List Who) (g : Group) : Group := l.foldl (fun h w => modThreadOf h w (f w)) g

theorem getThread_updateAll (f : Who → Thread → Thread) (l : List Who) (g : Group) (u : Who) (hd : l.Nodup) :
    getThread (updateAll f l g) u = if u ∈ l then (getThread g u).map (f u) else getThread g u := by
  induction l generalizing g with
  | nil => simp [updateAll]
  | cons w rest ih =>
    obtain ⟨hw, hrest⟩ := List.nodup_cons.mp hd
    have hcons : updateAll f (w :: rest) g = updateAll f rest (modThreadOf g w (f w)) := rfl
    rw [hcons, ih _ hrest, getThread_modThreadOf]
    by_cases hu : u = w
    · subst hu
      simp [hw]
    · simp [hu]

theorem updateAll_sregs (f : Who → Thread → Thread) (l : List Who) (g : Group) : (updateAll f l g).sregs = g.sregs :=
  foldl_sregs l (fun w h => modThreadOf h w (f w)) (fun _ _ _ => modThreadOf_sregs ..) g

theorem updateAll_gid (f : Who → Thread → Thread) (l : List Who) (g : Group) : (updateAll f l g).gid = g.gid :=
  base_gid (foldl_base l (fun w h => modThreadOf h w (f w)) (fun _ _ _ => modThreadOf_base ..) g)

theorem storeRegs_gid (w : Who) (ws : List (RegId × W64)) (g : Group) : (storeRegs w ws g).gid = g.gid :=
  base_gid (foldl_base ws (fun e h => storeReg h w e.1 e.2) (fun _ _ _ => storeReg_base ..) g)

theorem allWho_nodup (g : Group) : (allWho g).Nodup := by
  have hs : ((List.range g.strands.length).map Who.strand).Nodup := List.nodup_range.map fun _ _ h => by injection h
  exact List.nodup_cons.mpr ⟨by simp, hs⟩

theorem mem_allWho {g : Group} {w : Who} {t : Thread} (ht : getThread g w = some t) : w ∈ allWho g := by
  cases w with
  | pilot => simp [allWho]
  | strand k =>
    obtain ⟨hk, -⟩ := List.getElem?_eq_some_iff.mp ht
    simpa [allWho] using hk

/-! ### What waits for a result -/

theorem strand_beq_pilot (k : Nat) : (Who.strand k == Who.pilot) = false := rfl

/-- The executor of a result waits for its own results, and a strand for those of the pilot too. -/
theorem resultEnds_self (g : Group) (w : Who) (p : Pend) (t : Thread) :
    resultEnds g w p w t = waitedFor t p (if w = .pilot then t.pend else t.pend ++ g.pilot.pend) := by
  unfold resultEnds waitedFor
  cases t.run with
  | stalled cause =>
    cases cause with
    | result leaf on => cases w <;> simp [strand_beq_pilot, bne, Bool.and_assoc]
    | _ => rfl
  | _ => rfl

/-- Another executor waits for a result of the pilot alone. -/
theorem resultEnds_other (g : Group) {w u : Who} (hu : u ≠ w) (p : Pend) (t : Thread) :
    resultEnds g w p u t = (w == .pilot && waitedFor t p (t.pend ++ g.pilot.pend)) := by
  have hne : (u == w) = false := by simpa using hu
  unfold resultEnds waitedFor
  cases t.run with
  | stalled cause =>
    cases cause with
    | result leaf on =>
      cases w with
      | strand k => simp [hne, strand_beq_pilot]
      | pilot => simp [hne, bne, Bool.and_assoc]
    | _ => simp
  | _ => simp

/-! ### Delivery of a result -/

/-- The executor whose result has been stored: the result is no longer on its way, and FLAGS and OVFCNT have taken its own. -/
def accepted (p : Pend) (t : Thread) : Thread := addOvf (orFlags { t with pend := t.pend.drop 1 } p.flags) p.ovf

/-- The group once the oldest result of an executor is written (R46). -/
def written (w : Who) (p : Pend) (g : Group) : Group := modThreadOf (storeRegs w p.dst g) w (accepted p)

/-- An executor that a result wakes, or does not (R460). -/
def wokenIf (p : Pend) (b : Bool) (t : Thread) : Thread := if b then { t with run := .ready, lastwake := p.cause } else t

/-- An executor after a look at whether its wait for a result is over (R46). -/
def wokenBy (g : Group) (w : Who) (p : Pend) (u : Who) (t : Thread) : Thread := wokenIf p (resultEnds g w p u t) t

/-- The group once a result is written and what waited for it alone goes on. -/
def deliver (w : Who) (p : Pend) (g : Group) : Group := updateAll (wokenBy (written w p g) w p) (allWho (written w p g)) (written w p g)

/-- What INTERLOCKED_RESULT does to the group of its executor. -/
def deliverNext (w : Who) (g : Group) : Group :=
  match (getThread g w).bind fun t => t.pend.head? with
  | none => g
  | some p => deliver w p g

theorem exec_interlockedResult (id : ThreadId) (s : State) :
    exec (.interlockedResult id) s = .next (modGroup s id.gid (deliverNext id.who)) := rfl

theorem deliverNext_of_pend {w : Who} {g : Group} {t : Thread} {p : Pend} {rest : List Pend} (ht : getThread g w = some t)
    (hp : t.pend = p :: rest) : deliverNext w g = deliver w p g := by
  simp [deliverNext, ht, hp]

theorem written_gid (w : Who) (p : Pend) (g : Group) : (written w p g).gid = g.gid := by
  rw [written, modThreadOf_gid, storeRegs_gid]

theorem deliverNext_gid (w : Who) (g : Group) : (deliverNext w g).gid = g.gid := by
  unfold deliverNext
  split
  · rfl
  · rw [deliver, updateAll_gid, written_gid]

theorem getThread_deliver {w u : Who} {p : Pend} {g : Group} {x : Thread} (h : getThread (written w p g) u = some x) :
    getThread (deliver w p g) u = some (wokenBy (written w p g) w p u x) := by
  rw [deliver, getThread_updateAll _ _ _ _ (allWho_nodup _), if_pos (mem_allWho h), h, Option.map_some]

theorem heldReg_wokenBy (g h : Group) (w u : Who) (p : Pend) (t : Thread) (r : RegId) :
    heldReg h (wokenBy g w p u t) r = heldReg h t r := by
  unfold wokenBy wokenIf
  split
  · exact heldReg_congr rfl rfl rfl rfl r
  · rfl

/-- An executor with the registers that another one holds, whose oldest result is written (R46, R78, R79). -/
def afterResult (p : Pend) (rest : List Pend) (t x : Thread) : Thread :=
  { t with regs := x.regs, preds := x.preds, caps := x.caps, pend := rest, flags := t.flags ||| p.flags,
           ovfcnt := BitVec.ofNat 32 (min (t.ovfcnt.toNat + p.ovf) 0xFFFFFFFF) }

theorem wokenIf_afterResult (p : Pend) (rest : List Pend) (t x : Thread) (b : Bool) :
    wokenIf p b (afterResult p rest t x) = wokenIf p b (afterResult p rest t (wokenIf p b (afterResult p rest t x))) := by
  cases b <;> rfl

/-- The group and the executor of a result after its stores, and what FLAGS, OVFCNT and the results on their way are then. -/
theorem written_spec (s : State) {w : Who} {g : Group} {t : Thread} {p : Pend} {rest : List Pend} (ht : getThread g w = some t)
    (hp : t.pend = p :: rest) (hd : (p.dst.map (·.1)).Nodup) (hg : g.wf = true) :
    ∃ x, getThread (written w p g) w = some (afterResult p rest t x) ∧ (∀ u, u ≠ w → getThread (written w p g) u = getThread g u) ∧
      ∀ r, heldReg (written w p g) x r = match p.dst.lookup r with | some y => kept t r y | none => heldReg g t r := by
  obtain ⟨x, hthread, hothers, hheld, hframe⟩ := storeRegs_stored s ht hg hd
  have hacc : accepted p x = afterResult p rest t x := by
    rw [hframe]
    simp [accepted, afterResult, addOvf, orFlags, hp]
  refine ⟨x, hacc ▸ modNth_pilot_some _ w x _ hthread, fun u hu => ?_, fun r => ?_⟩
  · rw [written, getThread_modThreadOf, if_neg hu, hothers u hu]
  · rw [← hheld r]
    exact heldReg_congr (modThreadOf_sregs ..) rfl rfl rfl r

/-- What the executor of a result holds afterwards. -/
theorem deliver_self (s : State) {w : Who} {g : Group} {t : Thread} {p : Pend} {rest : List Pend} (ht : getThread g w = some t)
    (hp : t.pend = p :: rest) (hd : (p.dst.map (·.1)).Nodup) (hg : g.wf = true) :
    ∃ x, getThread (deliver w p g) w = some x ∧
      (∀ r, heldReg (deliver w p g) x r = match p.dst.lookup r with | some y => kept t r y | none => heldReg g t r) ∧
      x = wokenIf p (waitedFor t p (if w = .pilot then rest else rest ++ g.pilot.pend)) (afterResult p rest t x) := by
  obtain ⟨x, hthread, hothers, hheld⟩ := written_spec s ht hp hd hg
  have hwait : resultEnds (written w p g) w p w (afterResult p rest t x) =
      waitedFor t p (if w = .pilot then rest else rest ++ g.pilot.pend) := by
    rw [resultEnds_self]
    split
    · rfl
    · next hw =>
      have hpilot : (written w p g).pilot = g.pilot := Option.some.inj (hothers .pilot (Ne.symm hw))
      rw [hpilot]
      rfl
  refine ⟨_, getThread_deliver hthread, fun r => ?_, ?_⟩
  · rw [heldReg_wokenBy, ← hheld r]
    exact heldReg_congr (updateAll_sregs ..) rfl rfl rfl r
  · rw [wokenBy, hwait, ← wokenIf_afterResult]

/-- What another executor of the group holds afterwards. -/
theorem deliver_other (s : State) {w u : Who} {g : Group} {t y : Thread} {p : Pend} {rest : List Pend} (ht : getThread g w = some t)
    (hp : t.pend = p :: rest) (hd : (p.dst.map (·.1)).Nodup) (hg : g.wf = true) (hu : u ≠ w) (hy : getThread g u = some y) :
    getThread (deliver w p g) u = some (wokenIf p (w == .pilot && waitedFor y p (y.pend ++ rest)) y) := by
  obtain ⟨x, hthread, hothers, -⟩ := written_spec s ht hp hd hg
  rw [getThread_deliver ((hothers u hu).trans hy), wokenBy, resultEnds_other _ hu]
  cases w with
  | strand k => rfl
  | pilot =>
    have hpilot : (written .pilot p g).pilot = afterResult p rest t x := Option.some.inj hthread
    rw [hpilot]
    rfl

/-! ### The obligation -/

/-- Settles O17, by the delivery seen at the executor of the result and at another one; for a held entry, by its two cases. -/
theorem resultDelivery : Obligations.ResultDelivery := by
  refine ⟨?result, ?entry⟩
  case result =>
    intro s id g t p rest hg ht hp hd hwf _
    have hgroup (n : Nat) : getGroup (modGroup s id.gid (deliverNext id.who)) n =
        if n = id.gid then some (deliver id.who p g) else getGroup s n := by
      rw [getGroup_modGroup _ _ _ _ (deliverNext_gid id.who), hg, Option.map_some, deliverNext_of_pend ht hp]
    obtain ⟨x, hx, hheld, hframe⟩ := deliver_self s ht hp hd hwf
    exact ⟨_, exec_interlockedResult id s, rfl, fun n hn => by rw [hgroup, if_neg hn], _, x, by rw [hgroup, if_pos rfl], hx, hheld,
      hframe, fun u y hu hy => deliver_other s ht hp hd hwf hu hy⟩
  case entry =>
    intro s ctx c x hc hx
    have hexec : exec (.faultEntryDelayed ctx) s = .next (if ringRoom s ctx then writeRing s ctx x else s) := by
      show execFaultEntryDelayed ctx s = _
      simp [execFaultEntryDelayed, hc, hx]
    exact ⟨fun hroom => by rw [hexec, if_pos hroom], fun hroom => by simp [hexec, hroom]⟩

end Sys2Proof.Machine
end

section
/-! PROOFS. Rounding to a grid, and the patterns of a format.

Powers of two are `zpow` (`pow2_eq`), and `ilog2` is `Int.log` (`ilog2_eq`). A number is a multiple of 2^q, which rounding
leaves alone, or lies strictly between two neighbouring ones (`multiple_or_between`), and then each mode chooses between those
two. A pattern is its sign, exponent and fraction put together (`pattern_eq`), and `encodeF` gives these back for a subnormal
and for a normal. -/

namespace Sys2Proof.Machine

open Sys2Proof Sys2Proof.Rules

/-! ### Powers and logarithms -/

theorem pow2_eq (e : Int) : pow2 e = (2 : Rat) ^ e := by
  unfold pow2
  split
  · next he =>
    lift e to Nat using he
    simp
  · next he =>
    obtain ⟨n, rfl⟩ : ∃ n : Nat, e = -n := ⟨(-e).toNat, by omega⟩
    simp [Rat.mkRat_eq_div]

/-- The logarithms of numerator and denominator leave two binades for a positive number. -/
theorem zpow_log_num_den {x : Rat} (hx : 0 < x) :
    let e : Int := Nat.log2 x.num.natAbs - Nat.log2 x.den
    (2 : Rat) ^ (e - 1) < x ∧ x < 2 ^ (e + 1) := by
  intro e
  have hn : x.num.natAbs ≠ 0 := by simp [hx.ne']
  have hnum : (x.num.natAbs : Rat) = x * x.den := by
    rw [Rat.mul_den_eq_num, Nat.cast_natAbs, abs_of_nonneg (Rat.num_nonneg.mpr hx.le)]
  have hden : (0 : Rat) < x.den := by exact_mod_cast x.den_pos
  have hnl : (2 : Rat) ^ (Nat.log2 x.num.natAbs : Int) ≤ x * x.den := by
    rw [← hnum]; exact_mod_cast Nat.log2_self_le hn
  have hnu : x * x.den < (2 : Rat) ^ (Nat.log2 x.num.natAbs + 1 : Int) := by
    rw [← hnum]; exact_mod_cast Nat.lt_log2_self
  have hdl : (2 : Rat) ^ (Nat.log2 x.den : Int) ≤ x.den := by exact_mod_cast Nat.log2_self_le x.den_ne_zero
  have hdu : (x.den : Rat) < 2 ^ (Nat.log2 x.den + 1 : Int) := by exact_mod_cast Nat.lt_log2_self
  constructor
  · refine lt_of_mul_lt_mul_right ?_ hden.le
    calc (2 : Rat) ^ (e - 1) * x.den < 2 ^ (e - 1) * 2 ^ (Nat.log2 x.den + 1 : Int) := by gcongr
      _ = 2 ^ (Nat.log2 x.num.natAbs : Int) := by rw [← zpow_add₀ two_ne_zero]; congr 1; omega
      _ ≤ x * x.den := hnl
  · refine lt_of_mul_lt_mul_right ?_ hden.le
    calc x * x.den < (2 : Rat) ^ (Nat.log2 x.num.natAbs + 1 : Int) := hnu
      _ = 2 ^ (e + 1) * 2 ^ (Nat.log2 x.den : Int) := by rw [← zpow_add₀ two_ne_zero]; congr 1; omega
      _ ≤ 2 ^ (e + 1) * x.den := by gcongr

theorem ilog2_eq {x : Rat} (hx : 0 < x) : ilog2 x = Int.log 2 x := by
  obtain ⟨hlo, hhi⟩ := zpow_log_num_den hx
  have hlt (e : Int) : x < 2 ^ e ↔ Int.log 2 x < e := by exact_mod_cast Int.lt_zpow_iff_log_lt one_lt_two hx
  have hle (e : Int) : 2 ^ e ≤ x ↔ e ≤ Int.log 2 x := by exact_mod_cast Int.zpow_le_iff_le_log one_lt_two hx
  have hge := (hle _).mp hlo.le
  have hsmall := (hlt _).mp hhi
  unfold ilog2
  dsimp only
  rw [pow2_eq]
  split
  · next h => rw [hlt] at h; omega
  · next h => rw [hlt] at h; omega

theorem ilog2_lt_iff {x : Rat} (hx : 0 < x) (e : Int) : ilog2 x < e ↔ x < 2 ^ e := by
  rw [ilog2_eq hx]
  exact_mod_cast (Int.lt_zpow_iff_log_lt one_lt_two hx).symm

theorem zpow_natCast_add (i : Nat) (q : Int) : (2 : Rat) ^ (i + q) = (2 ^ i : Nat) * 2 ^ q := by
  rw [zpow_add₀ two_ne_zero, zpow_natCast, Nat.cast_pow, Nat.cast_ofNat]

theorem ilog2_mul_zpow {n k : Nat} (q : Int) (hlo : 2 ^ k ≤ n) (hhi : n < 2 ^ (k + 1)) : ilog2 (n * 2 ^ q) = k + q := by
  have hn : 0 < n := lt_of_lt_of_le (by positivity) hlo
  have hpos : (0 : Rat) < n * 2 ^ q := by positivity
  have hge : ¬ ilog2 (n * 2 ^ q) < k + q := by
    rw [ilog2_lt_iff hpos, zpow_natCast_add, not_lt]
    gcongr
  have hlt : ilog2 (n * 2 ^ q) < (k + 1 : Nat) + q := by
    rw [ilog2_lt_iff hpos, zpow_natCast_add]
    gcongr
  omega

theorem floor_eq_intFloor (x : Rat) : x.floor = ⌊x⌋ := rfl

/-- A natural scaled by a power of two comes back, where it is scaled by the inverse power. -/
theorem floor_unscaled (n : Nat) {p q : Int} (h : p + q = 0) : ((n * pow2 p) * pow2 q).floor.toNat = n := by
  rw [pow2_eq, pow2_eq, mul_assoc, ← zpow_add₀ two_ne_zero, h, zpow_zero, mul_one, floor_eq_intFloor,
    Int.floor_natCast, Int.toNat_natCast]

/-! ### Rounding to a grid (R80, R84) -/

/-- A number is a multiple of 2^q, or lies strictly between two neighbouring multiples. -/
theorem multiple_or_between (x : Rat) (q : Int) :
    ∃ n : Int, x = n * (2 : Rat) ^ q ∨ (n * (2 : Rat) ^ q < x ∧ x < (n + 1) * (2 : Rat) ^ q) := by
  have hq : (0 : Rat) < 2 ^ q := by positivity
  refine ⟨⌊x / 2 ^ q⌋, ?_⟩
  have hlo := (le_div_iff₀ hq).mp (Int.floor_le (x / 2 ^ q))
  have hhi := (div_lt_iff₀ hq).mp (Int.lt_floor_add_one (x / 2 ^ q))
  rcases hlo.eq_or_lt with he | he
  · exact .inl he.symm
  · exact .inr ⟨he, hhi⟩

theorem multiple_outside (n k q : Int) : k * (2 : Rat) ^ q ≤ n * 2 ^ q ∨ (n + 1) * (2 : Rat) ^ q ≤ k * 2 ^ q := by
  rcases lt_or_ge n k with hk | hk
  · refine .inr ?_
    gcongr
    exact_mod_cast hk
  · refine .inl ?_
    gcongr

/-- The multiple of 2^q at or below a number, as `roundGrid` computes it. -/
theorem floor_scaled {x : Rat} {q n : Int} (hlo : n * (2 : Rat) ^ q ≤ x) (hhi : x < (n + 1) * (2 : Rat) ^ q) :
    (x * pow2 (-q)).floor = n := by
  have hq : (0 : Rat) < 2 ^ q := by positivity
  rw [pow2_eq, zpow_neg, ← div_eq_mul_inv, floor_eq_intFloor, Int.floor_eq_iff]
  exact ⟨(le_div_iff₀ hq).mpr hlo, (div_lt_iff₀ hq).mpr hhi⟩

theorem roundGrid_multiple (k q : Int) (m : Rm) : roundGrid (k * 2 ^ q) q m = k * 2 ^ q := by
  have hn : ((k * (2 : Rat) ^ q) * pow2 (-q)).floor = k := floor_scaled le_rfl (by gcongr; exact lt_add_one _)
  unfold roundGrid
  dsimp only
  rw [hn, pow2_eq, if_pos rfl]

section
variable {x : Rat} {q n : Int} (hlo : n * (2 : Rat) ^ q < x) (hhi : x < (n + 1) * (2 : Rat) ^ q)
include hlo hhi

theorem roundGrid_rtz : roundGrid x q .rtz = if 0 < x then n * (2 : Rat) ^ q else (n + 1) * (2 : Rat) ^ q := by
  unfold roundGrid
  simp only [floor_scaled hlo.le hhi, if_neg hlo.ne', pow2_eq q, add_one_mul]

theorem roundGrid_rup : roundGrid x q .rup = (n + 1) * (2 : Rat) ^ q := by
  unfold roundGrid
  simp only [floor_scaled hlo.le hhi, if_neg hlo.ne', pow2_eq q, add_one_mul]

theorem roundGrid_rdn : roundGrid x q .rdn = n * (2 : Rat) ^ q := by
  unfold roundGrid
  simp only [floor_scaled hlo.le hhi, if_neg hlo.ne', pow2_eq q]

theorem roundGrid_rne : roundGrid x q .rne =
    if x - n * (2 : Rat) ^ q < (n + 1) * (2 : Rat) ^ q - x then n * (2 : Rat) ^ q
    else if (n + 1) * (2 : Rat) ^ q - x < x - n * (2 : Rat) ^ q then (n + 1) * (2 : Rat) ^ q
    else if n % 2 = 0 then n * (2 : Rat) ^ q else (n + 1) * (2 : Rat) ^ q := by
  unfold roundGrid
  simp only [floor_scaled hlo.le hhi, if_neg hlo.ne', pow2_eq q, add_one_mul]

theorem roundGrid_neighbour (m : Rm) : roundGrid x q m = n * (2 : Rat) ^ q ∨ roundGrid x q m = (n + 1) * (2 : Rat) ^ q := by
  cases m with
  | rne => rw [roundGrid_rne hlo hhi]; split_ifs <;> simp
  | rtz => rw [roundGrid_rtz hlo hhi]; split_ifs <;> simp
  | rup => exact .inr (roundGrid_rup hlo hhi)
  | rdn => exact .inl (roundGrid_rdn hlo hhi)
  | sr u =>
    unfold roundGrid
    simp only [floor_scaled hlo.le hhi, if_neg hlo.ne', pow2_eq q, add_one_mul]
    split_ifs <;> simp

theorem roundGrid_dist_lt (m : Rm) : |roundGrid x q m - x| < 2 ^ q := by
  have hstep := add_one_mul (n : Rat) (2 ^ q)
  rcases roundGrid_neighbour hlo hhi m with h | h <;> rw [h, abs_lt] <;> constructor <;> linarith

theorem roundGrid_rne_dist : |roundGrid x q .rne - x| = min (x - n * (2 : Rat) ^ q) ((n + 1) * (2 : Rat) ^ q - x) := by
  rw [roundGrid_rne hlo hhi]
  split_ifs with h1 h2
  · rw [abs_of_neg (sub_neg.mpr hlo), neg_sub, min_eq_left h1.le]
  · rw [abs_of_pos (sub_pos.mpr hhi), min_eq_right h2.le]
  · rw [abs_of_neg (sub_neg.mpr hlo), neg_sub, min_eq_left (not_lt.mp h2)]
  · rw [abs_of_pos (sub_pos.mpr hhi), min_eq_right (not_lt.mp h1)]

theorem roundGrid_rne_nearest (k : Int) : |roundGrid x q .rne - x| ≤ |k * (2 : Rat) ^ q - x| := by
  rw [roundGrid_rne_dist hlo hhi]
  rcases multiple_outside n k q with h | h
  · exact (min_le_left ..).trans (le_abs.mpr (.inr (by linarith)))
  · exact (min_le_right ..).trans (le_abs.mpr (.inl (by linarith)))

/-- Where another multiple is as near, it is the other neighbour. -/
theorem tie_of_equidistant {k : Int} (hk : k * (2 : Rat) ^ q ≠ roundGrid x q .rne)
    (hd : |k * (2 : Rat) ^ q - x| = |roundGrid x q .rne - x|) : x - n * (2 : Rat) ^ q = (n + 1) * (2 : Rat) ^ q - x := by
  have hmin := roundGrid_rne_dist hlo hhi
  have hleft := hmin.trans_le (min_le_left ..)
  have hright := hmin.trans_le (min_le_right ..)
  rcases multiple_outside n k q with h | h
  · rw [abs_of_neg (by linarith)] at hd
    rcases roundGrid_neighbour hlo hhi .rne with hy | hy
    · rw [hy, abs_of_neg (sub_neg.mpr hlo), neg_sub] at hd
      exact absurd (by linarith) (hy ▸ hk)
    · rw [hy, abs_of_pos (sub_pos.mpr hhi)] at hd hleft
      linarith
  · rw [abs_of_pos (by linarith)] at hd
    rcases roundGrid_neighbour hlo hhi .rne with hy | hy
    · rw [hy, abs_of_neg (sub_neg.mpr hlo), neg_sub] at hd hright
      linarith
    · rw [hy, abs_of_pos (sub_pos.mpr hhi)] at hd
      exact absurd (by linarith) (hy ▸ hk)

theorem roundGrid_rne_even (htie : x - n * (2 : Rat) ^ q = (n + 1) * (2 : Rat) ^ q - x) :
    ∃ j : Int, roundGrid x q .rne = 2 * j * (2 : Rat) ^ q := by
  rw [roundGrid_rne hlo hhi, if_neg htie.not_lt, if_neg htie.not_gt]
  split_ifs with hn
  · obtain ⟨j, rfl⟩ : ∃ j, n = 2 * j := ⟨n / 2, by omega⟩
    exact ⟨j, by push_cast; rfl⟩
  · obtain ⟨j, rfl⟩ : ∃ j, n = 2 * j - 1 := ⟨(n + 1) / 2, by omega⟩
    exact ⟨j, by push_cast; ring⟩

theorem roundGrid_rtz_abs_le : |roundGrid x q .rtz| ≤ |x| := by
  have hzero := multiple_outside n 0 q
  rw [Int.cast_zero, zero_mul] at hzero
  rw [roundGrid_rtz hlo hhi]
  split_ifs with h
  · rw [abs_of_nonneg (hzero.resolve_right (by linarith)), abs_of_pos h]
    exact hlo.le
  · rw [abs_of_nonpos (hzero.resolve_left (by linarith)), abs_of_nonpos (not_lt.mp h)]
    exact neg_le_neg hhi.le

end

theorem roundingIsCorrect : Clauses.RoundingIsCorrect := by
  intro x q m
  obtain ⟨n, rfl | ⟨hlo, hhi⟩⟩ := multiple_or_between x q
  · rw [roundGrid_multiple]
    dsimp only
    rw [sub_self, abs_zero]
    refine ⟨⟨n, rfl⟩, by positivity, fun _ => rfl, fun _ _ => by positivity, fun _ k hk hd => ?_, fun _ => le_rfl, fun _ => le_rfl,
      fun _ => le_rfl⟩
    rw [abs_eq_zero, sub_eq_zero] at hd
    exact absurd hd hk
  · refine ⟨?multiple, roundGrid_dist_lt hlo hhi m, ?exact, ?nearest, ?even, ?rtz, ?rup, ?rdn⟩
    case multiple =>
      rcases roundGrid_neighbour hlo hhi m with h | h
      · exact ⟨n, h⟩
      · exact ⟨n + 1, by rw [h]; push_cast; rfl⟩
    case exact =>
      rintro ⟨k, rfl⟩
      exact roundGrid_multiple k q m
    case nearest =>
      rintro rfl k
      exact roundGrid_rne_nearest hlo hhi k
    case even =>
      rintro rfl k hk hd
      exact roundGrid_rne_even hlo hhi (tie_of_equidistant hlo hhi hk hd)
    case rtz =>
      rintro rfl
      exact roundGrid_rtz_abs_le hlo hhi
    case rup =>
      rintro rfl
      exact (roundGrid_rup hlo hhi).symm ▸ hhi.le
    case rdn =>
      rintro rfl
      exact (roundGrid_rdn hlo hhi).symm ▸ hlo.le

/-! ### Patterns and values (R75) -/

/-- A pattern is its sign, exponent and fraction fields. -/
theorem pattern_eq (f : FloatFmt) {x : Nat} (hx : x < 2 ^ fmtW f) :
    (if fneg f x then 2 ^ (fmtW f - 1) else 0) + fexp f x * 2 ^ f.fb + ffrac f x = x := by
  have hw : fmtW f - 1 = f.fb + f.eb := by simp only [fmtW]; omega
  have htop : x / 2 ^ f.fb / 2 ^ f.eb = x / 2 ^ (f.fb + f.eb) := by rw [Nat.div_div_eq_div_mul, pow_add]
  have hlt : x / 2 ^ (f.fb + f.eb) < 2 := by
    rw [Nat.div_lt_iff_lt_mul (by positivity), ← pow_succ']
    rwa [fmtW, show 1 + f.eb + f.fb = f.fb + f.eb + 1 by omega] at hx
  have hsign : (if fneg f x then 2 ^ (fmtW f - 1) else 0) = 2 ^ f.fb * (2 ^ f.eb * (x / 2 ^ f.fb / 2 ^ f.eb)) := by
    rw [fneg, hw, htop, ← mul_assoc, ← pow_add]
    rcases Nat.lt_or_ge (x / 2 ^ (f.fb + f.eb)) 1 with h | h
    · simp [Nat.lt_one_iff.mp h]
    · simp [show x / 2 ^ (f.fb + f.eb) = 1 by omega]
  calc _ = 2 ^ f.fb * (2 ^ f.eb * (x / 2 ^ f.fb / 2 ^ f.eb) + x / 2 ^ f.fb % 2 ^ f.eb) + x % 2 ^ f.fb := by
        rw [hsign, fexp, ffrac]; ring
    _ = x := by rw [Nat.div_add_mod, Nat.div_add_mod]

theorem encodeF_subnormal (f : FloatFmt) (s : Bool) {r : Nat} (hr : r < 2 ^ f.fb) :
    encodeF f (.fin s (r * pow2 (fmtEmin f - f.fb))) = (if s then 2 ^ (fmtW f - 1) else 0) + r := by
  rcases Nat.eq_zero_or_pos r with rfl | hpos
  · simp [encodeF]
  · have hm : (0 : Rat) < r * pow2 (fmtEmin f - f.fb) := by rw [pow2_eq]; positivity
    have hsub : ilog2 (r * pow2 (fmtEmin f - f.fb)) < fmtEmin f := by
      rw [ilog2_lt_iff hm, pow2_eq, ← add_sub_cancel (f.fb : Int) (fmtEmin f), zpow_natCast_add, add_sub_cancel]
      gcongr
    simp only [encodeF, if_neg hm.ne', if_pos hsub, floor_unscaled r (show fmtEmin f - f.fb + (f.fb - fmtEmin f) = 0 by omega)]

theorem encodeF_normal (f : FloatFmt) (s : Bool) {e r : Nat} (he : e ≠ 0) (hr : r < 2 ^ f.fb) :
    encodeF f (.fin s ((2 ^ f.fb + r : Nat) * pow2 ((e : Int) - fmtBias f - f.fb))) =
      (if s then 2 ^ (fmtW f - 1) else 0) + e * 2 ^ f.fb + r := by
  have hm : (0 : Rat) < (2 ^ f.fb + r : Nat) * pow2 ((e : Int) - fmtBias f - f.fb) := by rw [pow2_eq]; positivity
  have hlog : ilog2 ((2 ^ f.fb + r : Nat) * pow2 ((e : Int) - fmtBias f - f.fb)) = e - fmtBias f := by
    rw [pow2_eq, ilog2_mul_zpow (k := f.fb) _ (by omega) (by rw [pow_succ]; omega)]
    omega
  simp only [encodeF, if_neg hm.ne', hlog, if_neg (show ¬ (e : Int) - fmtBias f < fmtEmin f by simp only [fmtEmin]; omega),
    floor_unscaled _ (show (e : Int) - fmtBias f - f.fb + (f.fb - (e - fmtBias f)) = 0 by omega), Int.sub_add_cancel, Int.toNat_natCast,
    Nat.add_sub_cancel_left]

/-- The pattern of a pattern's value, in every format. -/
theorem encodeF_decodeF (f : FloatFmt) {x : Nat} (hx : x < 2 ^ fmtW f) (hn : fIsNan f x = false) : encodeF f (decodeF f x) = x := by
  have hfrac : ffrac f x < 2 ^ f.fb := Nat.mod_lt _ (by positivity)
  unfold decodeF
  split_ifs with hexp hz he
  · calc encodeF f (.inf (fneg f x)) = (if fneg f x then 2 ^ (fmtW f - 1) else 0) + fexp f x * 2 ^ f.fb + ffrac f x := by
          rw [hexp, hz]; rfl
      _ = x := pattern_eq f hx
  · simp [fIsNan, hexp, hz] at hn
  · rw [encodeF_subnormal f _ hfrac]
    simpa [he] using pattern_eq f hx
  · rw [encodeF_normal f _ he hfrac, pattern_eq f hx]

/-! ### The obligation -/

/-- Settles O34, by `encodeF_decodeF` and `roundingIsCorrect`. -/
theorem formatsAndRounding : Obligations.FormatsAndRounding :=
  ⟨fun f _ _ hx hn => encodeF_decodeF f hx hn, roundingIsCorrect⟩

end Sys2Proof.Machine
end

section
/-! PROOFS. Matrix products.

Exact products and sums of finite values are the products and sums of the numbers that they stand for (`stands_mulX`,
`stands_addX`), so a dot group without scales stands for the sum of its products (`stands_sumTerms`); `mmaElem_succ` is the step from one
group to the next. -/

namespace Sys2Proof.Machine

open Sys2Proof Sys2Proof.Rules

/-! ### Finite values as numbers (R77, R81) -/

/-- The value is finite, and x is the number that it is. -/
def Stands (e : Ext) (x : Rat) : Prop := (∃ s m, e = .fin s m) ∧ Rules.number e = x

theorem number_fin (s : Bool) (m : Rat) : Rules.number (.fin s m) = signedVal s m := rfl

theorem stands_fin (s : Bool) (m : Rat) : Stands (.fin s m) (signedVal s m) := ⟨⟨s, m, rfl⟩, rfl⟩

theorem stands_mulX {p q : Ext × BitVec 6} {x y : Rat} (hp : Stands p.1 x) (hq : Stands q.1 y) : Stands (mulX p q).1 (x * y) := by
  obtain ⟨⟨s, m, hp⟩, rfl⟩ := hp
  obtain ⟨⟨t, n, hq⟩, rfl⟩ := hq
  refine ⟨⟨s != t, m * n, by simp [mulX, nvIf, mulE, hp, hq]⟩, ?_⟩
  rw [hp, hq]
  cases s <;> cases t <;> simp [mulX, nvIf, mulE, hp, hq, Rules.number]

/-- The sum of two numbers that is not zero carries its own sign. -/
theorem addX_of_ne_zero {p q : Ext × BitVec 6} {x y : Rat} (hp : Stands p.1 x) (hq : Stands q.1 y) (h : x + y ≠ 0) :
    (addX p q).1 = .fin (decide (x + y < 0)) |x + y| := by
  obtain ⟨⟨s, m, hp⟩, rfl⟩ := hp
  obtain ⟨⟨t, n, hq⟩, rfl⟩ := hq
  rw [hp, hq, number_fin, number_fin] at h ⊢
  simp only [addX, nvIf, addE, hp, hq, if_neg h]
  split_ifs with hneg
  · rw [abs_of_neg hneg]
  · rw [abs_of_nonneg (not_lt.mp hneg)]

theorem stands_addX {p q : Ext × BitVec 6} {x y : Rat} (hp : Stands p.1 x) (hq : Stands q.1 y) : Stands (addX p q).1 (x + y) := by
  by_cases h : x + y = 0
  · obtain ⟨⟨s, m, hp⟩, rfl⟩ := hp
    obtain ⟨⟨t, n, hq⟩, rfl⟩ := hq
    rw [hp, hq, number_fin, number_fin] at h ⊢
    rw [h]
    simp [addX, nvIf, addE, hp, hq, h, Stands, Rules.number]
  · rw [addX_of_ne_zero hp hq h]
    refine ⟨⟨_, _, rfl⟩, ?_⟩
    rcases lt_or_ge (x + y) 0 with hneg | hpos
    · simp [Rules.number, hneg, abs_of_neg hneg]
    · simp [Rules.number, hpos.not_gt, abs_of_nonneg hpos]

/-- A running sum of the products at some positions. -/
theorem stands_foldl_terms {a b : MRow} {w : Nat → Rat} (ds : List Nat) {p : Ext × BitVec 6} {x : Rat} (hp : Stands p.1 x)
    (hw : ∀ d ∈ ds, ∃ t, termAt a b d = some t ∧ Stands t.1 (w d)) :
    Stands ((ds.filterMap (termAt a b)).foldl addX p).1 (x + (ds.map w).sum) := by
  induction ds generalizing p x with
  | nil => simpa using hp
  | cons d r ih =>
    obtain ⟨t, ht, hstands⟩ := hw d (by simp)
    rw [List.filterMap_cons_some ht, List.foldl_cons, List.map_cons, List.sum_cons, ← add_assoc]
    exact ih (stands_addX hp hstands) fun e he => hw e (List.mem_cons_of_mem _ he)

theorem stands_sumTerms {a b : MRow} {w : Nat → Rat} {ds : List Nat} (hds : ds ≠ [])
    (hw : ∀ d ∈ ds, ∃ t, termAt a b d = some t ∧ Stands t.1 (w d)) :
    ∃ t, sumTerms (ds.filterMap (termAt a b)) = some t ∧ Stands t.1 (ds.map w).sum := by
  obtain ⟨d, r, rfl⟩ := List.exists_cons_of_ne_nil hds
  obtain ⟨t, ht, hstands⟩ := hw d (by simp)
  rw [List.filterMap_cons_some ht, List.map_cons, List.sum_cons]
  exact ⟨_, rfl, stands_foldl_terms r hstands fun e he => hw e (List.mem_cons_of_mem _ he)⟩

/-! ### Dot groups (R94, R390) -/

/-- The positions of dot group n. -/
def groupOf (c : MClass) (n : Nat) : List Nat := (List.range ((classG c).getD 1)).map fun j => n * (classG c).getD 1 + j

theorem classG_pos (c : MClass) : 0 < (classG c).getD 1 := by cases c <;> decide

theorem groupOf_ne_nil (c : MClass) (n : Nat) : groupOf c n ≠ [] := by
  simp [groupOf, (classG_pos c).ne']

theorem mem_groupOf {c : MClass} {n d : Nat} (h : d ∈ groupOf c n) : n * (classG c).getD 1 ≤ d ∧ d < (n + 1) * (classG c).getD 1 := by
  simp only [groupOf, List.mem_map, List.mem_range] at h
  obtain ⟨j, hj, rfl⟩ := h
  rw [add_one_mul]
  omega

/-- One more dot group, without scales. -/
theorem mmaElem_succ {c : MClass} {a b : MRow} {n : Nat} {t : Ext × BitVec 6} (acc : Ext) (snan : Bool)
    (ht : sumTerms ((groupOf c n).filterMap (termAt a b)) = some t) :
    (mmaElem c 0 0 ((n + 1) * (classG c).getD 1) a b acc snan).1 =
      (accRound (if c = .f64 then fp64 else fp32) (addX ((mmaElem c 0 0 (n * (classG c).getD 1) a b acc snan).1, 0)
        (mulX (mulX t (.fin false 1, 0)) (.fin false 1, 0)))).1 := by
  unfold groupOf at ht
  simp only [mmaElem, Nat.mul_div_cancel _ (classG_pos c), List.range_succ, List.foldl_append, List.foldl_cons, List.foldl_nil, ht,
    scaleAt, if_true]

/-- The number at a position of a row. -/
def elemNumber (r : MRow) (d : Nat) : Rat := (r.elems.getD d none).elim 0 fun x => Rules.number x.v

/-- The position of a row holds a finite number. -/
def HoldsFinite (r : MRow) (d : Nat) : Prop := ∃ s m, r.elems.getD d none = some { v := .fin s m, snan := false }

theorem termAt_finite {a b : MRow} {d : Nat} (ha : HoldsFinite a d) (hb : HoldsFinite b d) :
    ∃ t, termAt a b d = some t ∧ Stands t.1 (elemNumber a d * elemNumber b d) := by
  obtain ⟨s, m, ha⟩ := ha
  obtain ⟨t, k, hb⟩ := hb
  simp only [termAt, elemNumber, ha, hb]
  exact ⟨_, rfl, stands_mulX (stands_fin s m) (stands_fin t k)⟩

/-- The exact sum of a dot group and of the value before it, rounded once. -/
theorem mmaElem_group {c : MClass} {a b : MRow} {acc : Ext} {snan : Bool} {n : Nat} {x : Rat}
    (hbefore : Stands (mmaElem c 0 0 (n * (classG c).getD 1) a b acc snan).1 x)
    (hfin : ∀ d ∈ groupOf c n, HoldsFinite a d ∧ HoldsFinite b d) :
    let e := x + ((groupOf c n).map fun d => elemNumber a d * elemNumber b d).sum
    e ≠ 0 → (mmaElem c 0 0 ((n + 1) * (classG c).getD 1) a b acc snan).1 =
      (roundF (if c = .f64 then fp64 else fp32) { rm := .rne, ftz := false, sat := false, infIn := true }
        (.fin (decide (e < 0)) |e|)).val := by
  intro e hne
  obtain ⟨t, ht, hsum⟩ := stands_sumTerms (groupOf_ne_nil c n) fun d hd => termAt_finite (hfin d hd).1 (hfin d hd).2
  have hone : Stands (.fin false 1) 1 := stands_fin false 1
  have hscaled := stands_mulX (q := (_, 0)) (stands_mulX (q := (_, 0)) hsum hone) hone
  rw [mul_one, mul_one] at hscaled
  rw [mmaElem_succ acc snan ht, accRound, addX_of_ne_zero (p := (_, 0)) hbefore hscaled hne]

theorem matrixProducts : Clauses.MatrixProducts := by
  intro c a b acc snan n g fm finite val before e hbefore hfin hne
  have hval : val = elemNumber := by
    funext r d
    simp only [val, elemNumber]
    cases r.elems.getD d none <;> rfl
  have he : e = Rules.number before + ((groupOf c n).map fun d => elemNumber a d * elemNumber b d).sum := by
    simp only [e, hval, groupOf, List.map_map]
    rfl
  rw [he] at hne ⊢
  exact mmaElem_group ⟨hbefore, rfl⟩ (fun d hd => hfin d (mem_groupOf hd).1 (mem_groupOf hd).2) hne

end Sys2Proof.Machine
end

section
/-! PROOFS. The start and the end of an engine operation.

A head operation starts unless a BANKSW or a channel holds it (`fireOp_eq`). What a retirement leaves is followed through its parts: the
records, the counters and a convoy that closes leave the groups, the queues of the engines and memory alone (`workload`); what is ready again
and what ENGWAIT wakes changes a group in its pilot alone (`getGroup_readyEngine`, `getGroup_wakeEngwait`). -/

namespace Sys2Proof.Machine

open Sys2Proof Sys2Proof.Rules

/-! ### The start of an operation (R286, R385) -/

theorem bankHeld_iff {s : State} {g : Group} {o : EngineOp} :
    bankHeld s g o = true ↔ ∃ banks, g.pilot.run = .stalled (.bankSwitch banks) ∧ banks.any (opBank s g o) = true := by
  unfold bankHeld
  split
  · next banks h => simp [h]
  · next h => simpa using fun banks hb => absurd hb (h banks)

theorem chansReady_iff {g : Group} {o : EngineOp} :
    chansReady g o = true ↔ (∀ c ∈ (opChans o).1, chanFull g c = true) ∧ ∀ c ∈ (opChans o).2, chanFree g c = true := by
  simp [chansReady]

theorem modHead_eq {s : State} {gid : Nat} {e : Engine} {o : EngineOp} (h : headOp s gid e = some o) (f : EngineOp → EngineOp) :
    modHead s gid e f = { s with engineQ := s.engineQ.map fun x => if x = o then f x else x } := by
  simp [modHead, h]

theorem opsRun_of_running (s : State) {g : Group} (h : g.gst = .running) : opsRun s g = true := by simp [opsRun, h]

theorem exec_operationFire (s : State) (gid : Nat) (e : Engine) :
    exec (.operationFire gid e) s = .next ((fireOp s gid e).getD s) := rfl

/-- An operation that is no ACCFREE, SCAN or CARRYBAR has no fire condition of its own. -/
theorem fireOp_eq {s : State} {gid : Nat} {e : Engine} {g : Group} {o : EngineOp} (hg : getGroup s gid = some g)
    (ho : headOp s gid e = some o) (hrun : g.gst = .running) (hfree : o.op ≠ 0x1E4) (hscan : o.op ≠ 0x1EB) (hbar : o.op ≠ 0x1EE)
    (hs : o.started = false) : fireOp s gid e =
      if bankHeld s g o = true ∨ chansReady g o = false then none
      else some (modHead s gid e fun x => { x with started := true, carry := none }) := by
  simp only [fireOp, hg, ho, opsRun_of_running s hrun, hs, if_neg hscan, if_neg hbar, Bool.false_eq_true, Bool.true_eq_false, false_or,
    or_iff_right hfree]

/-! ### The end of an operation (R376, R385) -/

theorem endOp_eq (s : State) (g : Group) {o : EngineOp} (hscan : o.op ≠ 0x1EB) (hbar : o.op ≠ 0x1EE) :
    (∀ fl u, runOp s g o = (.ok fl, u) → endOp s g o = retireOp u g o (compOf u g o) 0 0 0 fl) ∧
      ∀ st det a u, runOp s g o = (.error (.fail st det a), u) → endOp s g o = retireOp u g o (compOf u g o) st det a 0 := by
  unfold endOp
  rw [if_neg hscan, if_neg hbar]
  exact ⟨fun fl u h => by rw [h], fun st det a u h => by rw [h]; rfl⟩

theorem exec_engineRetire {s : State} {gid : Nat} {e : Engine} {g : Group} {o : EngineOp} (hg : getGroup s gid = some g)
    (ho : headOp s gid e = some o) (hrun : g.gst = .running) (hscan : o.op ≠ 0x1EB) (hbar : o.op ≠ 0x1EE)
    (hs : o.started = true) (hstall : o.stall = none) : exec (.engineRetire gid e) s = .next (endOp s g o) := by
  have hcan : canRetire s g o = true := by
    rw [canRetire, if_neg hscan, if_neg hbar, hs, hstall, opsRun_of_running s hrun]
    rfl
  show execEngineRetire gid e s = _
  simp only [execEngineRetire, hg, ho, hcan, if_true]

/-! ### What a retirement leaves alone -/

/-- The groups, the queues of the engines, and main memory. -/
def workload (s : State) : List Group × List EngineOp × Sparse 8 := (s.groups, s.engineQ, s.mem)

theorem noted_workload {s t : State} (h : Noted s t) : workload t = workload s := by
  unfold Noted at h
  rw [h]
  rfl

theorem setConvoy_workload (s : State) (kid st) : workload (setConvoy s kid st) = workload s := by
  unfold setConvoy
  split
  · rfl
  · split
    · rfl
    · exact (noted_workload (emit_noted ..)).trans rfl

theorem closeConvoy_workload (s : State) (kid) : workload (closeConvoy s kid) = workload s := by
  unfold closeConvoy
  split
  · rfl
  · split
    · dsimp only
      split <;> exact setConvoy_workload ..
    · rfl

theorem countRetired_noted (s : State) (g o c st) : Noted s (countRetired s g o c st) := by
  unfold countRetired
  split
  · exact countEvent_noted ..
  · split
    · exact countEvent_noted ..
    · exact noted_refl s
  · split
    · exact countEvent_noted ..
    · exact noted_refl s

theorem ite_noted {s : State} {p : Prop} [Decidable p] {q r : BitVec 48 × State} (hq : Noted s q.2) (hr : Noted s r.2) :
    Noted s (if p then q else r).2 := by split <;> assumption

theorem popOp_modGroup_workload {s t : State} (h : workload t = workload s) (n : Nat) (f : Group → Group) (e : Engine) :
    workload (popOp (modGroup t n f) n e) = workload (popOp (modGroup s n f) n e) := by
  simp only [workload, Prod.mk.injEq] at h
  obtain ⟨hgroups, hqueue, hmem⟩ := h
  simp only [workload, popOp, modGroup, hgroups, hqueue, hmem]

/-! ### The group that retires -/

/-- The engine of a group after a retirement. -/
def retiredEng (o : EngineOp) (st det : Nat) (fl : BitVec 6) (x : EngState) : EngState :=
  { seq := x.seq, retired := o.seq, flags := x.flags ||| fl
    first := x.first.or (if st = 0 then none else some { status := BitVec.ofNat 8 st, detail := BitVec.ofNat 8 det, seq := o.seq }) }

theorem getEng_setEng (g : Group) (e d : Engine) (x : EngState) : getEng (setEng g e x) d = if d = e then x else getEng g d := by
  cases e <;> cases d <;> rfl

theorem setEng_frame (g : Group) (e : Engine) (x : EngState) : (setEng g e x).gid = g.gid ∧ (setEng g e x).pilot = g.pilot ∧
    (setEng g e x).scratch = g.scratch ∧ (setEng g e x).acc = g.acc := by
  cases e <;> exact ⟨rfl, rfl, rfl, rfl⟩

/-- Two groups agree in their engines, scratch banks and tiles. -/
def SameData (g h : Group) : Prop := (∀ e, getEng h e = getEng g e) ∧ h.scratch = g.scratch ∧ h.acc = g.acc

theorem sameData_pilot (g : Group) (p : Thread) : SameData g { g with pilot := p } := ⟨fun e => by cases e <;> rfl, rfl, rfl⟩

theorem getGroup_mapGroups (s : State) (f : Group → Group) (n : Nat) (hf : ∀ h, (f h).gid = h.gid) :
    getGroup { s with groups := s.groups.map f } n = (getGroup s n).map f := by
  simp [getGroup, List.find?_map, hf]

theorem getGroup_readyEngine {s : State} {n : Nat} {g : Group} (core : Nat) (hg : getGroup s n = some g) :
    ∃ h, getGroup (readyEngine s core) n = some h ∧ SameData g h ∧ ∀ w, g.pilot.run = .parked w → h.pilot = g.pilot := by
  unfold readyEngine
  rw [getGroup_mapGroups, hg, Option.map_some]
  · split
    · refine ⟨_, rfl, sameData_pilot g _, fun w hw => ?_⟩
      dsimp only
      rw [hw]
    · exact ⟨g, rfl, sameData_pilot g g.pilot, fun _ _ => rfl⟩
  · intro h
    split <;> rfl

theorem getGroup_wakeEngwait {s : State} {n : Nat} {g : Group} (e : Engine) (tag : BitVec 48) (hg : getGroup s n = some g) :
    ∃ h, getGroup (wakeEngwait s n e tag) n = some h ∧ SameData g h ∧
      ∀ q, tokenDone (getEng g e) q = true → g.pilot.run = .parked (.engwait e q) → h.pilot.run = .ready := by
  unfold wakeEngwait
  rw [getGroup_modGroup, if_pos rfl, hg, Option.map_some]
  · split
    · next d q hrun =>
      split
      · exact ⟨_, rfl, sameData_pilot g _, fun _ _ _ => rfl⟩
      · next hne =>
        refine ⟨g, rfl, sameData_pilot g g.pilot, fun r hr hp => absurd ?_ hne⟩
        obtain ⟨rfl, rfl⟩ : e = d ∧ r = q := by simpa [hrun] using hp.symm
        exact ⟨rfl, hr⟩
    · next hne => exact ⟨g, rfl, sameData_pilot g g.pilot, fun q _ hp => absurd hp (hne e q)⟩
  · intro h
    split
    · split <;> rfl
    · rfl

/-- A retirement without arrival word and channels. -/
theorem retireOp_eq (s : State) (g : Group) (o : EngineOp) {c : Completion} (st det a : Nat) (fl : BitVec 6) (harr : c.arrive = none)
    (hins : c.ins = []) (houts : c.outs = []) : ∃ u tag,
      workload u = workload (popOp (modGroup s g.gid fun h => setEng h o.eng (retiredEng o st det fl (getEng h o.eng))) g.gid o.eng) ∧
      retireOp s g o c st det a fl = wakeEngwait (readyEngine u (engCore g)) g.gid o.eng tag := by
  unfold retireOp
  simp only [harr, hins, houts, List.foldl_nil, ite_self]
  refine ⟨_, _, ?_, rfl⟩
  rw [closeConvoy_workload, noted_workload (countRetired_noted ..)]
  refine (popOp_modGroup_workload (noted_workload (ite_noted (takeTag_noted ..) (emitFilt_noted ..))) ..).trans ?_
  congr 3
  funext h
  unfold retiredEng
  cases (getEng h o.eng).first <;> rfl

/-- The retiring group: its engine has counted the operation, and where its pilot has waited for it in ENGWAIT it goes on. -/
theorem getGroup_retireOp {s : State} {g : Group} (o : EngineOp) {c : Completion} (st det a : Nat) (fl : BitVec 6)
    (hg : getGroup s g.gid = some g) (harr : c.arrive = none) (hins : c.ins = []) (houts : c.outs = []) :
    ∃ h, getGroup (retireOp s g o c st det a fl) g.gid = some h ∧
      (∀ e, getEng h e = if e = o.eng then retiredEng o st det fl (getEng g o.eng) else getEng g e) ∧
      (g.pilot.run = .parked (.engwait o.eng o.seq) → h.pilot.run = .ready) ∧ h.scratch = g.scratch ∧ h.acc = g.acc := by
  obtain ⟨u, tag, hwork, heq⟩ := retireOp_eq s g o st det a fl harr hins houts
  obtain ⟨-, hpilot, hscratch, hacc⟩ := setEng_frame g o.eng (retiredEng o st det fl (getEng g o.eng))
  have hu : getGroup u g.gid = some (setEng g o.eng (retiredEng o st det fl (getEng g o.eng))) := by
    rw [getGroup_congr (congrArg Prod.fst hwork)]
    exact (getGroup_modGroup _ _ _ _ fun h => (setEng_frame ..).1).trans (by rw [if_pos rfl, hg]; rfl)
  obtain ⟨i, hi, ⟨hieng, hiscratch, hiacc⟩, hkept⟩ := getGroup_readyEngine (engCore g) hu
  obtain ⟨h, hh, ⟨hheng, hhscratch, hhacc⟩, hwake⟩ := getGroup_wakeEngwait o.eng tag hi
  refine ⟨h, heq ▸ hh, fun e => ?_, fun hrun => hwake o.seq ?_ ?_,
    hhscratch.trans (hiscratch.trans hscratch), hhacc.trans (hiacc.trans hacc)⟩
  · rw [hheng, hieng, getEng_setEng]
  · rw [hieng, getEng_setEng, if_pos rfl]
    simp [tokenDone, retiredEng]
  · rw [hkept _ (hpilot ▸ hrun), hpilot, hrun]

/-- The queues of the engines and main memory after a retirement. -/
theorem retireOp_frame (s : State) (g : Group) (o : EngineOp) {c : Completion} (st det a : Nat) (fl : BitVec 6) (harr : c.arrive = none)
    (hins : c.ins = []) (houts : c.outs = []) :
    (retireOp s g o c st det a fl).engineQ = s.engineQ.eraseP (fun x => x.gid == g.gid && x.eng == o.eng) ∧
      (retireOp s g o c st det a fl).mem = s.mem := by
  obtain ⟨u, tag, hwork, heq⟩ := retireOp_eq s g o st det a fl harr hins houts
  simp only [workload, Prod.mk.injEq] at hwork
  obtain ⟨-, hqueue, hmem⟩ := hwork
  rw [heq]
  exact ⟨hqueue, hmem⟩

/-! ### The obligation -/

theorem engineOperations : Clauses.EngineOperations := by
  refine ⟨fun s gid e g o hg ho hrun hfree hscan hbar => ⟨?fires, ?held, ?ends⟩, ?retires⟩
  case fires =>
    intro hs hswitch hins houts
    have hbank : bankHeld s g o ≠ true := mt bankHeld_iff.mp hswitch
    have hready := chansReady_iff.mpr ⟨hins, houts⟩
    rw [exec_operationFire, fireOp_eq hg ho hrun hfree hscan hbar hs, if_neg (by simp [hbank, hready]), modHead_eq ho]
    rfl
  case held =>
    intro hs hheld
    have hblocked : bankHeld s g o = true ∨ chansReady g o = false := by
      rw [← Bool.not_eq_true, chansReady_iff, bankHeld_iff]
      refine hheld.imp_right fun h hready => ?_
      rcases h with ⟨c, hc, hfull⟩ | ⟨c, hc, hfree⟩
      · simp [hready.1 c hc] at hfull
      · simp [hready.2 c hc] at hfree
    rw [exec_operationFire, fireOp_eq hg ho hrun hfree hscan hbar hs, if_pos hblocked]
    rfl
  case ends =>
    intro hs hstall
    rw [exec_engineRetire hg ho hrun hscan hbar hs hstall]
    obtain ⟨hok, hfail⟩ := endOp_eq s g hscan hbar
    exact ⟨fun fl u h => by rw [hok fl u h], fun st det a u h => by rw [hfail st det a u h]⟩
  case retires =>
    intro s g o c st det a fl hg harr hins houts _ t
    obtain ⟨h, hh, heng, hwake, hscratch, hacc⟩ := getGroup_retireOp o st det a fl hg harr hins houts
    obtain ⟨hqueue, hmem⟩ := retireOp_frame s g o st det a fl harr hins houts
    refine ⟨h, hh, ?_, fun e he => by rw [heng, if_neg he], hwake, hqueue, hmem, hscratch, hacc⟩
    rw [heng, if_pos rfl, retiredEng]
    cases (getEng g o.eng).first <;> rfl

/-- Settles O48, by `matrixProducts` and `engineOperations`. -/
theorem matrixEngine : Obligations.MatrixEngine := ⟨matrixProducts, engineOperations⟩

end Sys2Proof.Machine
end

section
/-! PROOFS. Trigger counters and LAUNCH.

Each of these instructions is issued by one executor, so its answer is its body at the state past the instruction
(`exec_issued`). A register operand fits its width (`readA_lt`), so QSIG's saturating sum is the one of R132. -/

namespace Sys2Proof.Machine

open Sys2Proof Sys2Proof.Rules

/-! ### One executor's instruction -/

/-- What one executor's instruction answers is settled by its body at the state past the instruction. -/
theorem exec_issued {i : Instr} {f : Fields} {s : State} {v : View} {body : View → State → State} {effect : State → State}
    (hi : exec i s = issueEach f s body) (h : Solo s f v) (he : body v (past s v) = effect (past s v)) :
    exec i s = .next (issued s v effect) := by
  rw [hi, issued_each f s v body h]
  exact congrArg (fun u => Host.Outcome.next (tickFree (modThread u (vid v) (ageExecuted v)))) he

/-- The executor's instruction is the one that is issued. -/
theorem solo_fields {s : State} {f : Fields} {v : View} (h : Solo s f v) : v.f = f := by
  obtain ⟨hv, -⟩ := h
  obtain ⟨g, hg, -⟩ := viewsOf_spec hv
  exact (hg v (by simp)).2.2.1

theorem readGroup_lt (v : View) (t : Thread) (n w : Nat) : readGroup v t n w < 2 ^ w := by
  unfold readGroup
  (repeat' split) <;> exact Nat.mod_lt _ (Nat.two_pow_pos w)

/-- A source operand fits the width at which it is read. -/
theorem readA_lt (v : View) (w : Nat) : readA v w < 2 ^ w := by
  unfold readA
  split
  · exact readGroup_lt ..
  · exact Nat.two_pow_pos w

theorem fld_eq_bits {n : Nat} (x : BitVec n) (hi lo : Nat) : fld x hi lo = bits x hi lo := by
  simp [fld, bits, Nat.shiftRight_eq_div_pow]

/-! ### Trigger counters (R126, R132, R451) -/

theorem trigAdd_readA (a : W64) (v : View) :
    trigAdd a (BitVec.ofNat 64 (readA v 64)) = BitVec.ofNat 64 (min (a.toNat + readA v 64) (2 ^ 64 - 1)) := by
  rw [trigAdd, BitVec.toNat_ofNat, Nat.mod_eq_of_lt (readA_lt v 64)]

theorem trigOne_held {v : View} {s : State} (h : ownQueued s v = true) (k : State → Nat → State) :
    trigOne v s k = stallAt s v .storeQueue := if_pos h

theorem trigOne_free {v : View} {s : State} (h : ownQueued s v = false) (k : State → Nat → State) :
    trigOne v s k = k (writeBack s (coreOf v.g v.who) fun _ => true) (readB v 32 % 256) := if_neg (by simp [h])

/-- QSIG and TRIGARM wait for the pilot's own queued stores. -/
theorem triggers_wait {f : Fields} {s : State} {v : View} (h : Solo s f v) (hq : ownQueued (past s v) v = true) :
    ∀ i ∈ [Instr.qsig f, .trigarm f], exec i s = .next (issued s v fun u => stallAt u v .storeQueue) := by
  intro i hi
  rcases List.mem_pair.mp hi with rfl | rfl
  · exact exec_issued rfl h (trigOne_held hq _)
  · exact exec_issued rfl h (trigOne_held hq _)

theorem memPutNat_contexts (s : State) (pa n v : Nat) : (memPutNat s pa n v).contexts = s.contexts := by
  unfold memPutNat memPut
  split <;> rfl

theorem getCtx_congr {s t : State} (h : t.contexts = s.contexts) (n : Nat) : getCtx t n = getCtx s n := by simp only [getCtx, h]

theorem getCtx_num {s : State} {n : Nat} {c : Context} (h : getCtx s n = some c) : c.num = n := by simpa using List.find?_some h

/-- A context after an update of it. -/
theorem getCtx_modCtx {s : State} {n : Nat} {c : Context} (h : getCtx s n = some c) {f : Context → Context} (hf : ∀ c, (f c).num = c.num) :
    getCtx (modCtx s n f) n = some (f c) := by
  have hnum := getCtx_num h
  unfold getCtx at h
  simp only [getCtx, modCtx]
  rw [find?_replaceIf _ _ _ _ fun c => by rw [hf], h]
  simp [hnum]

/-- Where no packet of the context names the counter, an operation changes its value and nothing else of the context. -/
theorem getCtx_trigOp {s : State} {ctx n : Nat} {c : Context} (h : W64 → W64) (hc : getCtx s ctx = some c)
    (hk : s.kernels.all (fun k => !(k.ctx == ctx && k.pkt.trig && k.pkt.trigix == n)) = true) :
    getCtx (trigOp s ctx n h) ctx = some { c with trig := sset c.trig n (h (sget c.trig n)) } := by
  have hnone (v : W64) : (s.kernels.filter fun k => k.ctx == ctx && (k.kst == .queued || k.kst == .waiting) && k.pkt.trig &&
      k.pkt.trigix == n && !k.fired && decide (k.pkt.trigth.toNat ≤ v.toNat)) = [] := by
    refine List.filter_eq_nil_iff.mpr fun k hmem => ?_
    have := List.all_eq_true.mp hk k hmem
    simp at this ⊢
    grind
  have hker (u : State) (pa v : Nat) : (memPutNat u pa 8 v).kernels = u.kernels := by
    unfold memPutNat memPut
    split <;> rfl
  simp only [trigOp, hc, hker, modCtx_kernels, hnone, List.foldl_nil]
  rw [getCtx_congr (memPutNat_contexts ..)]
  exact getCtx_modCtx hc fun _ => rfl

theorem triggerCounters : Clauses.TriggerCounters := by
  refine ⟨fun f s v h => ⟨triggers_wait h, fun hq => ⟨?qsig, ?trigarm⟩⟩, ?windows, ?counter⟩
  case qsig =>
    refine exec_issued rfl h ((trigOne_free hq _).trans ?_)
    simp only [trigAdd_readA]
  case trigarm =>
    refine exec_issued rfl h ((trigOne_free hq _).trans ?_)
    show giveD _ v (trigValue (writeBack (past s v) _ _) _ _).toNat = give _ v 64 _
    unfold trigValue
    dsimp only
    cases getCtx (writeBack (past s v) (coreOf v.g v.who) fun _ => true) v.g.ctx <;> rfl
  case windows =>
    intro s func slot n x c hc hn
    constructor
    · show Host.Outcome.next _ = _
      simp only [hc, if_pos hn, trigAdd]
    · show Host.Outcome.next _ = _
      simp only [hc, if_pos hn]
  case counter =>
    intro s ctx n c h hc hw hk m
    rw [getCtx_trigOp h hc hk]
    by_cases hm : m = n
    · rw [if_pos hm, hm]
      exact sget_sset_same _ _ _ hw
    · rw [if_neg hm]
      exact sget_sset_other _ _ _ _ hw hm

/-! ### LAUNCH (R131) -/

/-- LAUNCH as a chain of checks, the parts that the checks speak of under names. -/
theorem launchOne_eq {v : View} {u : State} {off : W64} {va : BitVec 72} {q : Nat} {x : Queue} (hoff : BitVec.ofNat 64 (readA v 64) = off)
    (hva : vaOf (reachReg v.g (fld v.f.sub 2 0)) off = va) (hq : readB v 32 % 256 = q) (hx : queueOfCtx u v.g.ctx q = x) :
    launchOne v u =
      if off.toNat % 128 ≠ 0 then signalTrap u v causeMisalign va 0
      else if x.qst ≠ .enabled ∧ x.qst ≠ .suspended then give (takeRemote u v) v 64 2
      else if x.cfg.getLsbD 7 = true ∧ v.g.priv = false then give (takeRemote u v) v 64 4
      else if (x.wridx - x.rdidx).toNat = ringPackets x then give (takeRemote u v) v 64 1
      else if ownQueued u v then stallAt u v .storeQueue
      else loadPacket u v va q := by
  subst hoff hva hq hx
  rfl

theorem loadPacket_main {v : View} {s u : State} {va : BitVec 72} {l : Leaf} {pa : Nat} (q : Nat)
    (hr : resolve s v va .read 128 = (.mem l pa, u)) (hm : placeOf u pa = .main) :
    loadPacket s v va q = placePacket (readMain u v l va pa 128 4 2).2 v q (readMain u v l va pa 128 4 2).1 := by
  simp only [loadPacket, hr, hm, ite_self]

theorem launchPacket : Clauses.LaunchPacket := by
  intro f s v h off va q x open_
  have hva : vaOf (reachReg v.g (fld v.f.sub 2 0)) off = va := by
    rw [solo_fields h, vaOf, reachReg, fld_eq_bits]
    congr 2
    simp [bits, BitVec.toNat_setWidth]
  have hbody := launchOne_eq (u := past s v) (rfl : _ = off) hva (rfl : _ = q) (rfl : _ = x)
  have hclosed : ¬ open_ → x.qst ≠ .enabled ∧ x.qst ≠ .suspended := not_or.mp
  have hopen (ho : open_) : ¬ (x.qst ≠ .enabled ∧ x.qst ≠ .suspended) := fun ⟨he, hs⟩ => ho.elim he hs
  have hallowed (hp : x.cfg.getLsbD 7 = true → v.g.priv = true) : ¬ (x.cfg.getLsbD 7 = true ∧ v.g.priv = false) := fun ⟨hq, hn⟩ => by
    simp [hp hq] at hn
  clear_value open_ x q va off
  refine ⟨fun ha => ?misaligned, fun ha ho => ?badState, fun ha ho hp hv => ?denied, fun ha ho hp hfull => ?full,
    fun ha ho hp hroom hq l pa u hr hm => ?placed⟩
  case misaligned => exact exec_issued rfl h (hbody.trans (if_pos ha))
  case badState => exact exec_issued rfl h (by rw [hbody, if_neg (not_not.mpr ha), if_pos (hclosed ho)])
  case denied => exact exec_issued rfl h (by rw [hbody, if_neg (not_not.mpr ha), if_neg (hopen ho), if_pos ⟨hp, hv⟩])
  case full => exact exec_issued rfl h (by rw [hbody, if_neg (not_not.mpr ha), if_neg (hopen ho), if_neg (hallowed hp), if_pos hfull])
  case placed =>
    refine exec_issued rfl h ?_
    rw [hbody, if_neg (not_not.mpr ha), if_neg (hopen ho), if_neg (hallowed hp), if_neg hroom, if_neg (by simp [hq]),
      loadPacket_main q hr hm, placePacket, show unitOf v.g v.who = 4 * coreOf v.g v.who from Nat.mul_comm ..]
    rfl

/-- Settles O49, by `triggerCounters` and `launchPacket`. -/
theorem countersAndLaunches : Obligations.CountersAndLaunches := ⟨triggerCounters, launchPacket⟩

end Sys2Proof.Machine
end

section
/-! PROOFS. What a dependence's test leaves of a second kernel with the same number.

A test that is met while something else is not leaves the kernel WAITING. What waits is a kernel in QUEUED; the state of any
other kernel of the number stays. A state may hold the number twice, for a kernel in QUEUED that the test speaks of and for
one that is ARMED already, and the clause of the test has no premise against it: it makes both WAITING. -/

namespace Sys2Proof.Machine

open Sys2Proof Sys2Proof.Rules

/-- Six table levels that map the 64 KiB page at address 0 to 0x500000, readable and writable. -/
def sixLevels : Sparse 8 :=
  ssets ((List.range 5).foldl (fun m n => ssets m (0x400000 + 0x10000 * n) (toBytes 16 (0x410001 + 0x10000 * n))) []) 0x450000
    (toBytes 16 0x50063B)

/-- A kernel that waits for the word at 0x40 to reach 0, which it has, and for a trigger that has not fired. -/
def depKernel (st : KState) : Kernel :=
  { kernelFresh 1 1 0 0 { packetFresh with trig := true, deps := [(0x40, 0)] } with kst := st }

/-- Number 1 stands for a QUEUED kernel and, after it, for an ARMED one. -/
def twoOfOneNumber : State :=
  { State.reset with
    mem := sixLevels
    contexts := [{ placeContext with sys := [(0x213, 0x400000)] }]
    kernels := [depKernel .queued, depKernel .armed] }

/-- The read of the dependence's word is performed. -/
theorem launchAccess_twoOfOneNumber :
    (launchAccess twoOfOneNumber (depKernel .queued) 0x40 .read 8).1 = .ok 0x500040 (toBytes 8 0) := by decide +kernel

/-- The read leaves the kernels as they are. -/
theorem kernels_launchAccess_twoOfOneNumber :
    (launchAccess twoOfOneNumber (depKernel .queued) 0x40 .read 8).2.kernels = [depKernel .queued, depKernel .armed] := by decide +kernel

/-- The states of a next state's kernels. -/
def kernelStates (o : Host.Outcome State Fault Refusal) : List KState := match o with | .next t => t.kernels.map (·.kst) | _ => []

/-- The test makes the QUEUED kernel WAITING and leaves the ARMED one. -/
theorem kernelStates_dependenceWrite : kernelStates (exec (.dependenceWrite 1 0) twoOfOneNumber) = [.waiting, .armed] := by decide +kernel

/-- Refutes O56: in `twoOfOneNumber` the clause of a dependence's test makes both kernels of number 1 WAITING, the model's test one. -/
theorem not_queuesAndPackets : ¬ Obligations.QueuesAndPackets := by
  rintro ⟨-, -, htest, -⟩
  have hunmet : ¬ restMet (depKernel .queued) 0 := fun h => absurd (h.2 rfl) (by decide)
  obtain ⟨-, -, hwaits⟩ := htest twoOfOneNumber (launchAccess twoOfOneNumber (depKernel .queued) 0x40 .read 8).2 1 0 0x500040
    (depKernel .queued) 0x40 0 (toBytes 8 0) rfl rfl (.inl rfl) rfl (by decide) (by decide)
    (Prod.ext launchAccess_twoOfOneNumber rfl) kernels_launchAccess_twoOfOneNumber (.dependenceWrite 1 0) (by simp)
  have hboth := congrArg kernelStates (hwaits (by decide) (.inl hunmet))
  rw [kernelStates_dependenceWrite, kernelStates, modKernel_kernels, kernels_launchAccess_twoOfOneNumber] at hboth
  exact absurd hboth (by decide)

end Sys2Proof.Machine
end

section
/-! PROOFS. What a packet that leaves changes.

Sending touches the ports, the log, the counters and the recorders, and never the state of a link: `Sent` says both at once,
with one lemma `<function>_sent` for each function that sends, in the order of the model's files. -/

namespace Sys2Proof.Machine

open Sys2Proof Sys2Proof.Rules

/-- The number and the link state of every port. -/
def linkStates (s : State) : List (Nat × LinkState) := s.ports.map fun q => (q.num, q.lst)

/-- Nothing differs but ports, in all but their link states, and what is recorded, counted, logged or held back of packets. -/
def Sent (s t : State) : Prop :=
  linkStates t = linkStates s ∧
    t = { s with
      ports := t.ports, units := t.units, parts := t.parts, sessions := t.sessions, funcs := t.funcs, recctl := t.recctl,
      repctl := t.repctl, replayPos := t.replayPos, sentPkts := t.sentPkts, turning := t.turning, droppedTo := t.droppedTo }

theorem sent_refl (s : State) : Sent s s := ⟨rfl, rfl⟩

theorem sent_trans {s t u : State} (h : Sent s t) (k : Sent t u) : Sent s u := by
  obtain ⟨hl, ht⟩ := h
  obtain ⟨kl, hu⟩ := k
  refine ⟨kl.trans hl, ?_⟩
  rw [hu, ht]

theorem noted_sent {s t : State} (h : Noted s t) : Sent s t := by
  unfold Noted at h
  rw [h]
  exact ⟨rfl, rfl⟩

theorem foldl_sent {α : Type} {f : State → α → State} (l : List α) (s : State) (hf : ∀ s a, Sent s (f s a)) : Sent s (l.foldl f s) :=
  List.foldlRecOn (motive := Sent s) l f (sent_refl s) fun t h a _ => sent_trans h (hf t a)

theorem modPort_sent (s : State) (port : Nat) {f : Port → Port} (hf : ∀ q, ((f q).num, (f q).lst) = (q.num, q.lst)) :
    Sent s (modPort s port f) := by
  refine ⟨?_, rfl⟩
  simp only [linkStates, modPort, replaceIf, List.map_map]
  refine List.map_congr_left fun q _ => ?_
  simp only [Function.comp]
  split
  · exact hf q
  · rfl

/-- The new value stays a variable, which no check of this lemma computes. -/
theorem withRecctl_sent (s : State) (x : W64) : Sent s { s with recctl := x } := ⟨rfl, rfl⟩

theorem stopRecording_sent (s : State) : Sent s (stopRecording s) := withRecctl_sent s _

theorem emitPacket_sent (s : State) (port ev p payload) : Sent s (emitPacket s port ev p payload) := by
  have h := noted_sent (emit_noted s (unitPort port) (packetCtx p) ev (portObj port p) payload p.wake)
  unfold emitPacket
  dsimp only
  split
  · exact sent_trans h (stopRecording_sent _)
  · exact h

theorem withReplay_sent (s : State) (x : Sparse 32) (y : W64) : Sent s { s with replayPos := x, repctl := y } := ⟨rfl, rfl⟩

theorem replaySend_sent (s : State) (port p) : Sent s (replaySend s port p) := by
  fun_cases replaySend s port p
  · exact withReplay_sent s _ s.repctl
  · exact sent_trans (withReplay_sent s _ _) (noted_sent (emit_noted ..))

theorem portEmit_sent (s : State) (port p) : Sent s (portEmit s port p) := by
  unfold portEmit
  split
  · exact sent_refl s
  next q _ =>
    have hport (x : Packet) : Sent s (modPort s port fun q => { q with
        lseq := q.lseq + 1, sent := q.sent + 1, returns := q.returns.map fun n => n - min n 255,
        retry := if q.lst = .replay then q.retry else q.retry ++ [x] }) := modPort_sent _ _ fun _ => rfl
    have hcount (x : Packet) := sent_trans (hport x) (noted_sent (countEvent_noted _ 3 port 0 0 selFlittx (1 + plenOf x)))
    have hsent (x : Packet) {u : State} (hu : Sent s u) : Sent s { u with sentPkts := u.sentPkts ++ [(port, x)] } := sent_trans hu ⟨rfl, rfl⟩
    dsimp only
    split <;> split
    · exact sent_trans (sent_trans (hcount _) (replaySend_sent ..)) (emitPacket_sent ..)
    · exact sent_trans (hcount _) (replaySend_sent ..)
    · exact sent_trans (hsent _ (hcount _)) (emitPacket_sent ..)
    · exact hsent _ (hcount _)

theorem spendSlots_link (q : Port) (p : Packet) : ((spendSlots q p).num, (spendSlots q p).lst) = (q.num, q.lst) := by
  unfold spendSlots
  split <;> rfl

theorem portSend_sent (s : State) (port p) : Sent s (portSend s port p) := by
  unfold portSend
  split
  · exact sent_refl s
  · split
    · exact sent_trans (modPort_sent _ _ fun q => spendSlots_link q p) (portEmit_sent ..)
    · exact modPort_sent _ _ fun _ => rfl

theorem dropPacket_sent (s : State) (p) : Sent s (dropPacket s p) := by
  unfold dropPacket
  split
  · exact sent_refl s
  · exact sent_trans (t := { s with droppedTo := s.droppedTo ++ [p.drank] }) ⟨rfl, rfl⟩ (noted_sent (emit_noted ..))

theorem sendNow_sent (s : State) (p) : Sent s (sendNow s p) := by
  fun_cases sendNow s p
  · exact dropPacket_sent ..
  · exact portSend_sent ..
  · exact dropPacket_sent ..

theorem sendPacket_sent (s : State) (p) : Sent s (sendPacket s p) := by
  fun_cases sendPacket s p
  · exact dropPacket_sent ..
  · exact ⟨rfl, rfl⟩
  · exact sendNow_sent ..

theorem releaseDirs_sent (s : State) : Sent s (releaseDirs s) :=
  sent_trans (t := { s with turning := s.turning.filter fun e => !dirClean s e.1 }) ⟨rfl, rfl⟩
    (foldl_sent _ _ fun s e => foldl_sent e.2 s sendNow_sent)

theorem turnDir_sent (s : State) (port : Nat) : Sent s (turnDir s port) := by
  rw [turnDir_eq]
  exact ⟨rfl, rfl⟩

theorem sendTagged_sent (s : State) (tag : BitVec 48) (unit : Nat) (p : State → BitVec 48 → Packet) :
    Sent s (let x := if tag = 0 then takeTag s unit else (tag, s); sendPacket x.2 (p x.2 x.1)) := by
  dsimp only
  split
  · exact sent_trans (noted_sent (takeTag_noted ..)) (sendPacket_sent ..)
  · exact sendPacket_sent ..

theorem tellState_sent (s : State) (ctx b code ranks tag) : Sent s (tellState s ctx b code ranks tag) := by
  unfold tellState
  split
  · exact foldl_sent _ _ fun s r => sendTagged_sent s tag (barUnit s b.key) fun s tag => { pkt0 s r .barCtl 3 ctx tag with
      tag := postedTag, aux := keyAux b.key, opinfo := barKindInfo 2, opnd := BitVec.ofNat 128 (b.phase.toNat + code * 2 ^ 16) }
  · exact sent_refl s

theorem tellHomes_sent (s : State) (g ask tag) : Sent s (tellHomes s g ask tag) :=
  foldl_sent _ _ fun s b => sendTagged_sent s tag (unitCore (firstCore g)) fun s tag =>
    barMsg s g.ctx b.key g.gid g.lin (firstCore g) .pilot ask tag

end Sys2Proof.Machine
end

section
/-! PROOFS. The host's registers.

A place in BAR0 names a page and an offset in it (`barPage_function` and its like), and a read or write there is the page's.
The writes are the events that their places name, by the definition of the page; what is left to prove is arithmetic of offsets
and bit fields, and that REPCTL moves each port by its own bit alone (`link_writeRepctl`). -/

namespace Sys2Proof.Machine

open Sys2Proof Sys2Proof.Rules

/-! ### Places in BAR0 (R118, R451) -/

theorem barPage_function {o : Nat} (h : o < 0x1000) : barPage o = some (.function, o) := by
  simp only [barPage]
  rw [if_pos h, Nat.mod_eq_of_lt h]

theorem barPage_control {o : Nat} (h : o < 0x1000) : barPage (0x1000 + o) = some (.control, o) := by
  simp only [barPage]
  rw [if_neg (by omega), if_pos (by omega)]
  congr 2
  omega

theorem barPage_trigger {o slot : Nat} (h : o < 0x1000) (hs : slot < 64) : barPage (0x10000 + 0x1000 * slot + o) = some (.trigger slot, o) := by
  simp only [barPage]
  rw [if_neg (by omega), if_neg (by omega), if_pos (by omega), show (0x10000 + 0x1000 * slot + o - 0x10000) / 0x1000 = slot by omega]
  congr 2
  omega

theorem barPage_context {o slot : Nat} (h : o < 0x1000) (hs : slot < 64) : barPage (0x100000 + 0x1000 * slot + o) = some (.context slot, o) := by
  simp only [barPage]
  rw [if_neg (by omega), if_neg (by omega), if_neg (by omega), if_pos (by omega),
    show (0x100000 + 0x1000 * slot + o - 0x100000) / 0x1000 = slot by omega]
  congr 2
  omega

theorem barPage_queue {o slot q : Nat} (h : o < 0x1000) (hs : slot < 64) (hq : q < 256) :
    barPage (0x4000000 + 0x100000 * slot + 0x1000 * q + o) = some (.queue slot q, o) := by
  simp only [barPage]
  rw [if_neg (by omega), if_neg (by omega), if_neg (by omega), if_neg (by omega), if_pos (by omega),
    show (0x4000000 + 0x100000 * slot + 0x1000 * q + o - 0x4000000) / 0x100000 = slot by omega,
    show (0x4000000 + 0x100000 * slot + 0x1000 * q + o) % 0x100000 / 0x1000 = q by omega]
  congr 2
  omega

/-- A read or write at a place is one of the page there. -/
theorem bar_of_page {a o : Nat} {page : HostPage} (h : barPage a = some (page, o)) (s : State) (func : Nat) :
    barRead s func a = pageRead s func page o ∧ ∀ v, barWrite func a v s = exec (.registerWrite func page o v) s := by
  refine ⟨by simp only [barRead, h], fun v => ?_⟩
  simp only [barWrite, h]
  rfl

/-! ### Reads (R118, R126, R451-R454) -/

section
variable {s : State} {func : Nat} (hf : func < 16)
include hf

theorem pageRead_function (o : Nat) : pageRead s func .function o = if s.mgmt.recovery then 0 else
    match o with
    | 0x008 => (getFunc s func).ctxarg | 0x010 => (getFunc s func).ctxstat | 0x018 => (getFunc s func).intcause.zeroExtend 64 | _ => 0 := by
  unfold pageRead
  exact if_neg (Nat.not_le.mpr hf)

theorem pageRead_control (o : Nat) : pageRead s func .control o = if func = 0 then readControl s o else 0 := by
  rw [pageRead, if_neg (Nat.not_le.mpr hf)]

/-- The pages of a slot without a context read zero. -/
theorem pageRead_unbound {slot : Nat} (hs : slotCtx s func slot = none) (o q : Nat) :
    pageRead s func (.trigger slot) o = 0 ∧ pageRead s func (.context slot) o = 0 ∧ pageRead s func (.queue slot q) o = 0 := by
  simp only [pageRead, if_neg (Nat.not_le.mpr hf), hs, and_self]

variable {slot : Nat} {c : Context} (hs : slotCtx s func slot = some c)
include hs

theorem pageRead_trigger (o : Nat) :
    pageRead s func (.trigger slot) o = if o < 0x1000 ∧ o % 8 = 0 then sget c.trig (o % 0x800 / 8) else 0 := by
  simp only [pageRead, if_neg (Nat.not_le.mpr hf), hs]

theorem pageRead_context (o : Nat) :
    pageRead s func (.context slot) o = if o < 0x800 ∧ o % 8 = 0 then ctxRegRead s c.num (0x200 + o / 8) else 0 := by
  simp only [pageRead, if_neg (Nat.not_le.mpr hf), hs]

theorem pageRead_queue {q : Nat} (hq : q < 256) (o : Nat) : pageRead s func (.queue slot q) o = queuePageRead (queueOfCtx s c.num q) o := by
  simp only [pageRead, if_neg (Nat.not_le.mpr hf), hs, if_pos hq]

end

/-- The state's code stands in the low bits of QSTATE. -/
theorem bits_qstateWord (x : Queue) : bits (BitVec.ofNat 64 (qstateWord x)) 2 0 = qCode x.qst := by
  have hcode : qCode x.qst < 8 := by cases x.qst <;> decide
  simp only [bits, qstateWord, BitVec.toNat_ofNat]
  omega

theorem queuePageRead_beyond (x : Queue) {o : Nat} (h : 0x028 ≤ o) : queuePageRead x o = 0 := by
  unfold queuePageRead
  split
  · omega
  · omega
  · omega
  · omega
  · omega
  · rfl

theorem hostReads : Clauses.HostReads := by
  intro s func hf
  refine ⟨fun slot hs o q => pageRead_unbound hf hs o q, fun slot c hs => ⟨?trigger, ?context, ?key, ?queue⟩, ?vf, ?recovery, ?function,
    ?rank, ?resetreq, ?powcap, ?dies, ?flags, ?repctl, ?places⟩
  case trigger =>
    intro n hn
    rw [pageRead_trigger hf hs, pageRead_trigger hf hs, if_pos (by omega), if_pos (by omega), show 8 * n % 0x800 / 8 = n by omega,
      show (0x800 + 8 * n) % 0x800 / 8 = n by omega]
    exact ⟨rfl, rfl⟩
  case context =>
    intro n hn hkey
    rw [pageRead_context hf hs, if_pos (by omega), show 8 * n / 8 = n by omega, ctxRegRead, if_neg (by omega)]
  case key =>
    rw [pageRead_context hf hs]
    rfl
  case queue =>
    intro q hq
    simp only [pageRead_queue hf hs hq]
    refine ⟨rfl, rfl, rfl, rfl, ?_, fun o ho => queuePageRead_beyond _ ho⟩
    refine (bits_qstateWord _).trans ?_
    unfold qCode
    rfl
  case vf =>
    intro h o
    rw [pageRead_control hf, if_neg h]
  case recovery =>
    intro h o
    rw [pageRead_function hf, if_pos h]
  case function =>
    intro h
    simp only [pageRead_function hf, h, Bool.false_eq_true, if_false]
    exact ⟨trivial, trivial, trivial⟩
  case rank => rfl
  case resetreq => rfl
  case powcap => rfl
  case dies => rfl
  case flags => rfl
  case repctl => rfl
  case places =>
    intro o ho
    have hfunction : barPage (0 + o) = some (.function, o) := by rw [Nat.zero_add, barPage_function ho]
    refine ⟨bar_of_page hfunction s func, bar_of_page (barPage_control ho) s func, fun slot hslot => ⟨bar_of_page (barPage_trigger ho hslot) s func,
      bar_of_page (barPage_context ho hslot) s func, fun q hq => bar_of_page (barPage_queue ho hslot hq) s func⟩⟩

/-! ### Writes (R118, R451, R453, R454) -/

/-- Bit 7 of a word taken from another one. -/
theorem getLsbD_setFld_seven (w y : W64) {i : Nat} (hi : i < 64) :
    (setFld w 7 7 (fld y 7 7)).getLsbD i = if i = 7 then y.getLsbD 7 else w.getLsbD i := by
  have hsplit (h b l : Nat) (hb : b < 2) (hl : l < 128) : (256 * h + 128 * b + l).testBit i =
      if i < 7 then l.testBit i else if i = 7 then b.testBit 0 else h.testBit (i - 8) := by
    rw [show 256 * h + 128 * b + l = 2 ^ 7 * (2 ^ 1 * h + b) + l by ring, Nat.testBit_two_pow_mul_add _ (by omega),
      Nat.testBit_two_pow_mul_add _ (by omega)]
    grind
  have hold := hsplit (w.toNat / 256) (w.toNat / 128 % 2) (w.toNat % 128) (by omega) (by omega)
  have hnew := hsplit (w.toNat / 256) (y.toNat / 128 % 2) (w.toNat % 128) (by omega) (by omega)
  have hw : w.toNat = 256 * (w.toNat / 256) + 128 * (w.toNat / 128 % 2) + w.toNat % 128 := by omega
  have hset : w.toNat - fld w 7 7 * 2 ^ 7 + fld y 7 7 % 2 ^ (7 + 1 - 7) * 2 ^ 7 =
      256 * (w.toNat / 256) + 128 * (y.toNat / 128 % 2) + w.toNat % 128 := by
    simp only [fld_eq_bits, bits]
    omega
  have hbit : y.getLsbD 7 = (y.toNat / 128 % 2).testBit 0 := by
    simp [BitVec.getLsbD, Nat.testBit, Nat.shiftRight_eq_div_pow]
  rw [setFld, BitVec.getLsbD_ofNat, hset, hnew, hbit, BitVec.getLsbD, hw, hold]
  grind

theorem vfdiesWrite_refused {s : State} {vf : Nat} {v : W64} (h1 : 1 ≤ vf) (h16 : vf < 16)
    (h : ∃ c ∈ s.contexts, c.func = vf ∧ c.cst = .active) : Answers (.vfdiesWrite vf v) s s := by
  refine ⟨_, rfl, ?_⟩
  rw [if_neg (by omega), if_pos (by simpa using h)]
  exact emit_noted ..

theorem vfdiesWrite_done {s : State} {vf : Nat} {v : W64} (h1 : 1 ≤ vf) (h16 : vf < 16)
    (h : ¬ ∃ c ∈ s.contexts, c.func = vf ∧ c.cst = .active) :
    exec (.vfdiesWrite vf v) s = .next (modFunc s vf fun f => { f with dies := v.setWidth 4 }) := by
  show execVfdiesWrite vf v s = _
  rw [execVfdiesWrite, if_neg (by omega), if_neg (by simpa using h)]

/-- A write at a page is the write of the page where the function is one of the 16. -/
theorem exec_registerWrite {func : Nat} (hf : func < 16) (page : HostPage) (o : Nat) (v : W64) (s : State) :
    exec (.registerWrite func page o v) s =
      match page with
      | .function => writeFunction func o v s
      | .control => if func = 0 then writeControlPage o v s else .next s
      | .trigger slot => writeTrigger func slot o v s
      | .context slot => if o < 0x800 ∧ o % 8 = 0 then execHostCtxregWrite func slot (BitVec.ofNat 8 (o / 8)) v s else .next s
      | .queue slot q => (match slotCtx s func slot with | some c => writeQueuePage (func == 0) c.num q o v s | none => .next s)
      | .managed ctx q => if (getCtx s ctx).isSome then writeQueuePage true ctx q o v s else .next s := by
  show execRegisterWrite func page o v s = _
  unfold execRegisterWrite
  exact if_neg (Nat.not_le.mpr hf)

theorem writeFunction_other {func o : Nat} (h : o ∉ [0x000, 0x008, 0x018]) (v : W64) (s : State) : writeFunction func o v s = .next s := by
  unfold writeFunction
  split <;> simp_all

theorem writeCtxcmd_none {func : Nat} {v : W64} (h : bits v 2 0 ∉ [1, 2, 3]) (s : State) : writeCtxcmd func v s = .next s := by
  rw [← fld_eq_bits] at h
  unfold writeCtxcmd
  dsimp only
  split <;> simp_all

theorem writeQcmd_none {ctx q : Nat} {v : W64} (h : bits v 2 0 ∈ [0, 7]) (s : State) : writeQcmd ctx q v s = .next s := by
  rw [← fld_eq_bits] at h
  unfold writeQcmd
  split <;> simp_all

/-- The registers of a function in the control page. -/
theorem writeControlPage_func {f : Nat} (hf : f < 16) (v : W64) (s : State) :
    writeControlPage (0x40 * f) v s = .next (modFunc s f fun x => { x with slice := v.setWidth 32 }) ∧
    writeControlPage (0x40 * f + 8) v s = .next (modFunc s f fun x => { x with bound := v.setWidth 32 }) ∧
    writeControlPage (0x40 * f + 0x10) v s = execVfdiesWrite f v s ∧
    (f ≠ 0 → writeControlPage (0x40 * f + 0x18) v s = .next (modFunc s f fun x => { x with vfflags := v.setWidth 2 })) := by
  have hplain {o : Nat} (ho : o < 0x400) (hne : o % 0x40 ≠ 0x10) : writeControlPage o v s = .next (writeControl s o v) := by
    unfold writeControlPage
    split
    · omega
    · omega
    · rw [if_neg (by omega)]
  have hreg (k : Nat) : k < 0x40 → writeControl s (0x40 * f + k) v = match k with
      | 0x00 => modFunc s f fun x => { x with slice := v.setWidth 32 }
      | 0x08 => modFunc s f fun x => { x with bound := v.setWidth 32 }
      | 0x18 => if f = 0 then s else modFunc s f fun x => { x with vfflags := v.setWidth 2 }
      | _ => s := by
    intro hk
    have hf' : (0x40 * f + k) / 0x40 = f := by omega
    have hk' : (0x40 * f + k) % 0x40 = k := by omega
    unfold writeControl
    split
    · omega
    · omega
    · omega
    · omega
    · dsimp only
      rw [hf', hk']
      exact if_neg (Nat.not_le.mpr hf)
  refine ⟨(hplain (by omega) (by omega)).trans (congrArg _ (hreg 0 (by omega))),
    (hplain (by omega) (by omega)).trans (congrArg _ (hreg _ (by omega))), ?_, fun h => ?_⟩
  · unfold writeControlPage
    split
    · omega
    · omega
    · rw [if_pos (by omega), show (0x40 * f + 0x10) / 0x40 = f by omega]
  · rw [hplain (by omega) (by omega), hreg _ (by omega)]
    simp only [if_neg h]

/-! ### REPCTL (R444, R450, R454) -/

/-- The link state of a port. -/
def linkOf (s : State) (n : Nat) : Option LinkState := (getPort s n).map (·.lst)

theorem linkOf_eq (s : State) (n : Nat) : linkOf s n = ((linkStates s).find? fun p => p.1 == n).map (·.2) := by
  simp [linkOf, getPort, linkStates, List.find?_map, Function.comp_def]

theorem linkOf_congr {s t : State} (h : linkStates t = linkStates s) (n : Nat) : linkOf t n = linkOf s n := by rw [linkOf_eq, linkOf_eq, h]

theorem linkOf_modPort (s : State) (port n : Nat) {f : Port → Port} {st : LinkState} (hf : ∀ q, (f q).num = q.num ∧ (f q).lst = st) :
    linkOf (modPort s port f) n = if n = port then (linkOf s n).map fun _ => st else linkOf s n := by
  simp only [linkOf, getPort, modPort]
  rw [find?_replaceIf _ _ _ _ fun q => by rw [(hf q).1]]
  cases hq : s.ports.find? fun q => q.num == n with
  | none => simp
  | some q =>
    have hnum : q.num = n := by simpa using List.find?_some hq
    by_cases hn : n = port <;> simp [hnum, hn, hf]

theorem failBar_linkStates (s : State) (ctx b) : linkStates (failBar s ctx b) = linkStates s := by
  unfold failBar
  split
  · rfl
  · refine (tellState_sent ..).1.trans ?_
    show linkStates (if _ then _ else _) = _
    split
    · rfl
    · exact (noted_sent (emit_noted ..)).1

theorem failUnreachable_linkStates (s : State) : linkStates (failUnreachable s) = linkStates s := by
  refine List.foldlRecOn (motive := fun t => linkStates t = linkStates s) s.contexts _ rfl fun t ht c _ => ?_
  refine List.foldlRecOn (motive := fun t => linkStates t = linkStates s) c.barriers _ ht fun t ht b _ => ?_
  split
  · exact (noted_sent (emit_noted ..)).1.trans ((failBar_linkStates ..).trans ht)
  · exact ht

/-- A port enters a state, and no other port does (R444). -/
theorem linkOf_setLink (s : State) (port n : Nat) (st : LinkState) (cause : LinkCause) :
    linkOf (setLink s port st cause) n = if n = port then (linkOf s n).map fun _ => st else linkOf s n := by
  unfold setLink
  dsimp only
  rw [linkOf_congr (failUnreachable_linkStates _), linkOf_congr (turnDir_sent ..).1, linkOf_congr (noted_sent (emit_noted ..)).1]
  exact linkOf_modPort _ _ _ fun _ => ⟨rfl, rfl⟩

theorem linkOf_portDown (s : State) (port n : Nat) (st : LinkState) (cause : LinkCause) :
    linkOf (portDown s port st cause) n = if n = port then (linkOf s n).map fun _ => st else linkOf s n := by
  unfold portDown
  split
  · next h => by_cases hn : n = port <;> simp [linkOf, hn, h]
  · dsimp only
    rw [linkOf_congr (releaseDirs_sent _).1, linkOf_congr (foldl_sent _ _ sendNow_sent).1]
    refine Eq.trans (linkOf_congr (modPort_sent _ _ ?_).1 n) (linkOf_setLink ..)
    exact fun _ => rfl

/-- What a write of REPCTL makes of a port's state. -/
def repctlLink (v : W64) (n : Nat) (st : LinkState) : LinkState :=
  if v.getLsbD n = true ∧ (st = .down ∨ st = .fenced) then .replay else if v.getLsbD n = false ∧ st = .replay then .down else st

/-- A port enters or leaves REPLAY as its bit of REPCTL says, and no other port changes its state. -/
theorem linkOf_replayBit (v : W64) (s : State) {n : Nat} {q : Port} (hq : getPort s n = some q) (m : Nat) :
    linkOf ((if bit1 v n then enterReplay s n q else leaveReplay s n q).getD s) m =
      if m = n then (linkOf s m).map (repctlLink v m) else linkOf s m := by
  have hlink : linkOf s n = some q.lst := by rw [linkOf, hq]; rfl
  have hstay (h : repctlLink v n q.lst = q.lst) : linkOf s m = if m = n then (linkOf s m).map (repctlLink v m) else linkOf s m := by
    split
    · next hm => rw [hm, hlink, Option.map_some, h]
    · rfl
  have hmove {t : State} {st : LinkState} (ht : linkOf t m = if m = n then (linkOf s m).map fun _ => st else linkOf s m)
      (h : repctlLink v n q.lst = st) : linkOf t m = if m = n then (linkOf s m).map (repctlLink v m) else linkOf s m := by
    rw [ht]
    split
    · next hm => rw [hm, hlink, Option.map_some, Option.map_some, h]
    · rfl
  unfold enterReplay leaveReplay bit1
  cases hb : v.getLsbD n
  · by_cases hr : q.lst = .replay
    · simp only [hr, Bool.false_eq_true, if_false, if_true, Option.getD_some]
      exact hmove (linkOf_portDown ..) (by simp [repctlLink, hb, hr])
    · simp only [hr, Bool.false_eq_true, if_false, Option.getD_none]
      exact hstay (by simp [repctlLink, hb, hr])
  · by_cases hd : q.lst = .down ∨ q.lst = .fenced
    · simp only [hd, if_true, Option.getD_some]
      refine hmove (st := .replay) ?_ (by simp [repctlLink, hb, hd])
      refine Eq.trans (linkOf_setLink ..) ?_
      have hrest : linkOf (modPort { s with replayPos := skeep s.replayPos fun k => k / 2 != n } n fun q => { q with sent := 0, rcvd := 0 }) m =
          linkOf s m := by
        refine Eq.trans (linkOf_congr (modPort_sent _ _ ?_).1 m) rfl
        exact fun _ => rfl
      rw [hrest]
    · simp only [hd, if_true, if_false, Option.getD_none]
      exact hstay (by simp [repctlLink, hb, hd])

/-- A step for each of several ports, each of which moves its own port alone. -/
theorem linkOf_foldl {f : State → Nat → State} {g : Nat → LinkState → LinkState}
    (hf : ∀ s n m, linkOf (f s n) m = if m = n then (linkOf s m).map (g m) else linkOf s m) {l : List Nat} (hl : l.Nodup) (s : State) (m : Nat) :
    linkOf (l.foldl f s) m = if m ∈ l then (linkOf s m).map (g m) else linkOf s m := by
  induction l generalizing s with
  | nil => simp
  | cons n r ih =>
    obtain ⟨hn, hr⟩ := List.nodup_cons.mp hl
    rw [List.foldl_cons, ih hr, hf]
    by_cases hm : m = n
    · subst hm
      simp [hn]
    · simp [hm]

theorem linkOf_withRepctl (s : State) (x : W64) (n : Nat) : linkOf { s with repctl := x } n = linkOf s n := rfl

theorem linkOf_writeRepctl (s : State) (v : W64) {n : Nat} (hn : n < 18) :
    linkOf (writeRepctl s v) n = (linkOf s n).map (repctlLink v n) := by
  unfold writeRepctl
  dsimp only
  rw [linkOf_foldl (g := repctlLink v) _ List.nodup_range, if_pos (List.mem_range.mpr hn), linkOf_withRepctl]
  · intro t k m
    split
    · next q hq => exact linkOf_replayBit v t hq m
    · next h => by_cases hk : m = k <;> simp [linkOf, hk, h]

theorem writeRepctl_ports (s : State) (v : W64) {n : Nat} (hn : n < 18) {q : Port} (hq : getPort s n = some q) :
    ∃ x, getPort (writeRepctl s v) n = some x ∧ x.lst = repctlLink v n q.lst := by
  have hlink := linkOf_writeRepctl s v hn
  rw [linkOf, linkOf, hq] at hlink
  simpa using hlink

/-! ### The chronometer (R455-R457) -/

theorem advanceChron_eq (c : Chron) (d : Nat) :
    let x := advanceChron c d
    x.ns = BitVec.ofInt 64 (c.ns.toNat + d + (c.slew - x.slew)) ∧ (c.slew - x.slew).natAbs ≤ (c.rest + d) / 5000 ∧
    (c.slew.natAbs ≤ (c.rest + d) / 5000 → x.slew = 0) ∧ x.rest = (c.rest + d) % 5000 := by
  simp only [advanceChron]
  refine ⟨by rw [sub_sub_cancel], ?_, ?_, trivial⟩ <;> split <;> omega

theorem emit_chron (s : State) (u : Nat) (g : Option Nat) (ev i j k : Nat) : (emit s u g ev i j k).chron = s.chron ∧
    (emit s u g ev i j k).mem = s.mem ∧ (emit s u g ev i j k).groups = s.groups := by
  have h := emit_noted s u g ev i j k
  unfold Noted at h
  rw [h]
  exact ⟨rfl, rfl, rfl⟩

theorem setChron_chron (s : State) (st : BitVec 2) : (setChron s st).chron = { s.chron with st := st } ∧ (setChron s st).mem = s.mem ∧
    (setChron s st).groups = s.groups := by
  unfold setChron
  split
  · next h => subst h; exact ⟨rfl, rfl, rfl⟩
  · exact emit_chron ..

theorem stepChron_chron (s : State) (time : W64) : (stepChron s time).chron = { s.chron with ns := time, slew := 0 } ∧
    (stepChron s time).mem = s.mem ∧ (stepChron s time).groups = s.groups := emit_chron ..

section
variable (s : State) (src : BitVec 2) (time : W64) (err : W32)

/-- The state in which a source has been heard, the offset to slew away given. -/
def heardState (slew : Int) : State :=
  { s with chron := { s.chron with src := s.chron.src ||| src, lastSrc := s.chron.ns, errb := err, slew := slew } }

/-- The time of the last message is the chronometer's own. -/
def stamped (t : State) : State := { t with chron := { t.chron with lastSrc := t.chron.ns } }

/-- The offset of the source, to be slewed away. -/
def chronOffset : Int := (time.toNat : Int) - s.chron.ns.toNat

/-- What each state of the chronometer makes of a message (R455, R456). -/
theorem discipline_eq : discipline s src time err =
    match s.chron.st.toNat with
    | 0 => setChron (heardState s src err s.chron.slew) 1
    | 1 => stamped (setChron (if (s.contexts.any fun c => c.cst == .active || c.cst == .switchedOut) then heardState s src err (chronOffset s time)
        else stepChron (heardState s src err s.chron.slew) time) 2)
    | _ => setChron (heardState s src err (chronOffset s time)) 2 := rfl

/-- The source has been heard: the chronometer is `c` but for what it notes of the source, and no memory or group has changed. -/
def Heard (t : State) (c : Chron) : Prop :=
  t.mem = s.mem ∧ t.groups = s.groups ∧ ∃ l, t.chron = { c with src := s.chron.src ||| src, lastSrc := l, errb := err }

variable {s src err} in
theorem stamped_heard {t : State} {c : Chron} (h : Heard s src err t c) : Heard s src err (stamped t) c := by
  obtain ⟨hmem, hgroups, l, hchron⟩ := h
  refine ⟨hmem, hgroups, t.chron.ns, ?_⟩
  rw [stamped, hchron]

/-- The first message only names the source. -/
theorem discipline_first (h : s.chron.st.toNat = 0) : Heard s src err (discipline s src time err) { s.chron with st := 1 } := by
  obtain ⟨hchron, hmem, hgroups⟩ := setChron_chron (heardState s src err s.chron.slew) 1
  simp only [discipline_eq, h]
  exact ⟨hmem, hgroups, s.chron.ns, hchron⟩

/-- While nothing runs, a message in state 1 steps the chronometer. -/
theorem discipline_step (h : s.chron.st.toNat = 1) (hlive : ¬ ∃ c ∈ s.contexts, c.cst = .active ∨ c.cst = .switchedOut) :
    Heard s src err (discipline s src time err) { s.chron with ns := time, slew := 0, st := 2 } := by
  have hany : (s.contexts.any fun c => c.cst == .active || c.cst == .switchedOut) = false := by
    simpa [List.any_eq_false] using hlive
  obtain ⟨hchron, hmem, hgroups⟩ := setChron_chron (stepChron (heardState s src err s.chron.slew) time) 2
  obtain ⟨hstep, hstepMem, hstepGroups⟩ := stepChron_chron (heardState s src err s.chron.slew) time
  rw [hstep] at hchron
  rw [hstepMem] at hmem
  rw [hstepGroups] at hgroups
  simp only [discipline_eq, h, hany, Bool.false_eq_true, if_false]
  exact stamped_heard ⟨hmem, hgroups, s.chron.ns, hchron⟩

/-- Otherwise it gives the offset to slew away. -/
theorem discipline_slew (h : 2 ≤ s.chron.st.toNat ∨ (s.chron.st.toNat = 1 ∧ ∃ c ∈ s.contexts, c.cst = .active ∨ c.cst = .switchedOut)) :
    Heard s src err (discipline s src time err) { s.chron with slew := chronOffset s time, st := 2 } := by
  obtain ⟨hchron, hmem, hgroups⟩ := setChron_chron (heardState s src err (chronOffset s time)) 2
  rw [discipline_eq]
  rcases h with h | ⟨h, hlive⟩
  · split
    · omega
    · omega
    · exact ⟨hmem, hgroups, s.chron.ns, hchron⟩
  · have hany : (s.contexts.any fun c => c.cst == .active || c.cst == .switchedOut) = true := by simpa using hlive
    simp only [h, hany, if_true]
    exact stamped_heard ⟨hmem, hgroups, s.chron.ns, hchron⟩

/-- The chronometer after a message of a source, in each of its states (R455-R457). -/
theorem discipline_spec :
    let t := discipline s src time err
    t.chron.src = s.chron.src ||| src ∧ t.chron.errb = err ∧ t.mem = s.mem ∧ t.groups = s.groups ∧
    (s.chron.st = 0 → t.chron.st = 1 ∧ t.chron.ns = s.chron.ns) ∧ (s.chron.st ≠ 0 → t.chron.st = 2) ∧
    (s.chron.st = 1 → (∀ c ∈ s.contexts, c.cst ≠ .active ∧ c.cst ≠ .switchedOut) → t.chron.ns = time ∧ t.chron.slew = 0) ∧
    ((2 ≤ s.chron.st.toNat ∨ (s.chron.st = 1 ∧ ∃ c ∈ s.contexts, c.cst = .active ∨ c.cst = .switchedOut)) →
      t.chron.ns = s.chron.ns ∧ t.chron.slew = (time.toNat : Int) - s.chron.ns.toNat) := by
  have hst (k : Nat) (hk : k < 4) : s.chron.st = BitVec.ofNat 2 k ↔ s.chron.st.toNat = k := by
    rw [← BitVec.toNat_inj, BitVec.toNat_ofNat, Nat.mod_eq_of_lt hk]
  have h0 : s.chron.st = 0 ↔ s.chron.st.toNat = 0 := hst 0 (by decide)
  have h1 : s.chron.st = 1 ↔ s.chron.st.toNat = 1 := hst 1 (by decide)
  intro t
  rw [ne_eq, h0, h1]
  by_cases hfirst : s.chron.st.toNat = 0
  · obtain ⟨hmem, hgroups, l, hchron⟩ : Heard s src err t _ := discipline_first s src time err hfirst
    rw [hchron]
    exact ⟨rfl, rfl, hmem, hgroups, fun _ => ⟨rfl, rfl⟩, fun h => absurd hfirst h, fun h => by omega, fun h => by omega⟩
  · by_cases hslew : 2 ≤ s.chron.st.toNat ∨ (s.chron.st.toNat = 1 ∧ ∃ c ∈ s.contexts, c.cst = .active ∨ c.cst = .switchedOut)
    · obtain ⟨hmem, hgroups, l, hchron⟩ : Heard s src err t _ := discipline_slew s src time err hslew
      rw [hchron]
      refine ⟨rfl, rfl, hmem, hgroups, fun h => absurd h hfirst, fun _ => rfl, fun h hidle => ?_, fun _ => ⟨rfl, rfl⟩⟩
      obtain h2 | ⟨_, c, hc, hlive⟩ := hslew
      · omega
      · obtain ⟨ha, hb⟩ := hidle c hc
        exact absurd hlive (not_or.mpr ⟨ha, hb⟩)
    · have hone : s.chron.st.toNat = 1 := by omega
      obtain ⟨hmem, hgroups, l, hchron⟩ : Heard s src err t _ :=
        discipline_step s src time err hone fun hlive => hslew (.inr ⟨hone, hlive⟩)
      rw [hchron]
      exact ⟨rfl, rfl, hmem, hgroups, fun h => absurd h hfirst, fun _ => rfl, fun _ _ => ⟨rfl, rfl⟩, fun h => absurd h hslew⟩

end

theorem sourceLost_iff (s : State) : sourceLost s = true ↔ s.chron.st = 2 ∧ s.chron.lastSrc.toNat + 2000000000 ≤ s.chron.ns.toNat := by
  rw [sourceLost, Bool.and_eq_true, beq_iff_eq, decide_eq_true_iff]
  rfl

theorem hostWritesAndChronometer : Clauses.HostWritesAndChronometer := by
  refine ⟨?intcause, ?vfdies, ?powcap, ?reset, ?resets, ?beyond, ?function, ?control, ?repctl, ?queue, ?managed, ?windows, ?advance, ?source, ?holdover⟩
  case intcause => exact fun s func v => rfl
  case vfdies =>
    refine fun s vf v => ⟨fun h => ?_, vfdiesWrite_refused, vfdiesWrite_done⟩
    show execVfdiesWrite vf v s = _
    rw [execVfdiesWrite, if_pos h]
  case powcap =>
    intro s v
    show execPowcapWrite v s = _
    rw [execPowcapWrite, fld_eq_bits]
  case reset =>
    intro s v h
    show execResetreqWrite v s = _
    rw [execResetreqWrite, fld_eq_bits, if_neg h]
  case resets =>
    intro s v h
    show execResetreqWrite v s = _
    rw [execResetreqWrite, fld_eq_bits, if_pos h]
    rfl
  case beyond =>
    intro s func o v page h
    show execRegisterWrite func page o v s = _
    unfold execRegisterWrite
    rw [if_pos h]
  case function =>
    intro s func v hf
    simp only [exec_registerWrite hf]
    refine ⟨rfl, rfl, ⟨?_, ?_, ?_, fun h => writeCtxcmd_none h s⟩, fun o h => writeFunction_other h v s, fun o h => if_neg h⟩
    all_goals
      intro h
      rw [← fld_eq_bits] at h
      show writeCtxcmd func v s = _
      unfold writeCtxcmd
      simp only [h, fld_eq_bits]
      rfl
  case control =>
    intro s f v hf
    simp only [exec_registerWrite (show (0 : Nat) < 16 by decide), if_true]
    obtain ⟨hslice, hbound, hdies, hflags⟩ := writeControlPage_func hf v s
    exact ⟨hslice, hbound, hdies, rfl, rfl, hflags⟩
  case repctl =>
    intro s v
    exact ⟨writeRepctl s v, rfl, fun n hn q hq => writeRepctl_ports s v hn hq⟩
  case queue =>
    intro s func slot q v c hf hs hq
    have hpage (o : Nat) : exec (.registerWrite func (.queue slot q) o v) s = writeQueuePage (func == 0) c.num q o v s := by
      simp only [exec_registerWrite hf, hs]
    have hq' : ¬ 256 ≤ q := Nat.not_le.mpr hq
    simp only [hpage]
    refine ⟨?_, ?_, ?_, ?_, ?_, ?_, ?_⟩
    · simp only [writeQueuePage, if_neg hq', writeQueueReg]
    · intro h
      simp only [writeQueuePage, if_neg hq', writeQueueReg, if_pos h]
    · intro h hfn
      simp only [writeQueuePage, if_neg hq', writeQueueReg, h, hfn, ne_eq, not_true_eq_false, if_false, beq_self_eq_true, if_true]
      rfl
    · intro h hfn
      refine ⟨setFld (keepBits v (2 ^ 52 - 2 ^ 4)) 7 7 (fld (queueOfCtx s c.num q).cfg 7 7), ?_, fun i hi => getLsbD_setFld_seven _ _ hi⟩
      simp only [writeQueuePage, if_neg hq', writeQueueReg, h, ne_eq, not_true_eq_false, if_false, beq_eq_false_iff_ne.mpr hfn, Bool.false_eq_true]
    · simp only [writeQueuePage, if_neg hq']
      rfl
    · intro e he hcode
      rw [← fld_eq_bits] at hcode
      simp only [writeQueuePage, if_neg hq', writeQcmd, hcode]
      simp only [List.mem_cons, List.not_mem_nil, or_false] at he
      rcases he with rfl | rfl | rfl | rfl | rfl | rfl <;> rfl
    · intro h
      simp only [writeQueuePage, if_neg hq']
      exact writeQcmd_none h s
  case managed =>
    intro s func ctx q v hf hctx hq
    have hq' : ¬ 256 ≤ q := Nat.not_le.mpr hq
    simp only [exec_registerWrite hf, hctx, if_true, writeQueuePage, if_neg hq', writeQueueReg]
    refine ⟨trivial, ?_⟩
    rw [ite_not]
    rfl
  case windows =>
    intro s func slot v o hf
    simp only [exec_registerWrite hf]
    refine ⟨fun n hn => ⟨?_, ?_, ?_⟩, fun h => ?_, fun h => ?_⟩
    · rw [writeTrigger, if_neg (by omega), if_pos (by omega), show 8 * n / 8 = n by omega]
      rfl
    · rw [writeTrigger, if_neg (by omega), if_neg (by omega), show (0x800 + 8 * n) % 0x800 / 8 = n by omega]
      rfl
    · rw [if_pos (by omega), show 8 * n / 8 = n by omega]
      rfl
    · rw [writeTrigger, if_pos h]
    · rw [if_neg (by omega)]
  case advance => exact advanceChron_eq
  case source =>
    intro s time err
    have hoff (b : Bool) (src : BitVec 2) (h : b = false) : (if b then discipline s src time err else s) = s := by rw [h]; rfl
    refine ⟨fun h => congrArg _ (hoff _ 1 h), fun h => congrArg _ (hoff _ 2 h), fun e he hon => ?_⟩
    refine ⟨discipline s e.2.2 time err, ?_, discipline_spec ..⟩
    simp only [List.mem_cons, List.not_mem_nil, or_false] at he
    rcases he with rfl | rfl
    · show Host.Outcome.next (if s.chron.ptp then _ else s) = _
      rw [if_pos hon]
    · show Host.Outcome.next (if s.chron.pps then _ else s) = _
      rw [if_pos hon]
  case holdover =>
    refine fun s => ⟨fun hst hlost => ?_, fun h => ?_⟩
    · refine ⟨_, rfl, ?_⟩
      rw [if_pos ((sourceLost_iff s).mpr ⟨hst, hlost⟩), (setChron_chron _ _).1]
      exact ⟨rfl, rfl, rfl⟩
    · show Host.Outcome.next (if sourceLost s then _ else s) = _
      rw [if_neg fun hlost => ?_]
      obtain ⟨hst, hold⟩ := (sourceLost_iff s).mp hlost
      exact h.elim (absurd hst) (Nat.not_lt_of_le hold)

/-- Settles O22: the reads and writes of the host's pages, and the messages of the time sources. -/
theorem hostPortAndChronometer : Obligations.HostPortAndChronometer := ⟨hostReads, hostWritesAndChronometer⟩

end Sys2Proof.Machine
end

section
/-! PROOFS. What the launcher goes by.

Groups, kernels, queues, the time and the states of contexts decide what the launcher does next; what it does on the way, such as an access
to a packet, a log record or a fault, leaves them alone. -/

namespace Sys2Proof.Machine

open Sys2Proof Sys2Proof.Rules

/-- The number and the state of every context. -/
def ctxStates (s : State) : List (Nat × CState) := s.contexts.map fun c => (c.num, c.cst)

/-- The groups, the kernels, the queues, the chronometer and the states of the contexts. -/
def launchView (s : State) : List Group × List Kernel × List Queue × Chron × List (Nat × CState) :=
  (s.groups, s.kernels, s.queues, s.chron, ctxStates s)

theorem launchView_iff {s t : State} : launchView t = launchView s ↔
    t.groups = s.groups ∧ t.kernels = s.kernels ∧ t.queues = s.queues ∧ t.chron = s.chron ∧ ctxStates t = ctxStates s := by
  simp [launchView]

theorem noted_launchView {s t : State} (h : Noted s t) : launchView t = launchView s := by
  unfold Noted at h
  rw [h]
  rfl

theorem sent_launchView {s t : State} (h : Sent s t) : launchView t = launchView s := by
  obtain ⟨_, ht⟩ := h
  rw [ht]
  rfl

@[simp] theorem foldl_launchView {α : Type} {f : State → α → State} (l : List α) (s : State)
    (hf : ∀ s a, launchView (f s a) = launchView s) : launchView (l.foldl f s) = launchView s :=
  List.foldlRecOn (motive := fun t => launchView t = launchView s) l f rfl fun t h a _ => (hf t a).trans h

theorem modCtx_launchView (s : State) (n : Nat) {f : Context → Context} (hf : ∀ c, ((f c).num, (f c).cst) = (c.num, c.cst)) :
    launchView (modCtx s n f) = launchView s := by
  have hctx : ctxStates (modCtx s n f) = ctxStates s := by
    simp only [ctxStates, modCtx, replaceIf, List.map_map]
    refine List.map_congr_left fun c _ => ?_
    simp only [Function.comp]
    split
    · exact hf c
    · rfl
  exact launchView_iff.mpr ⟨rfl, rfl, rfl, rfl, hctx⟩

@[simp] theorem emitFilt_launchView (s : State) (filt unit ctx ev obj payload cause) :
    launchView (emitFilt s filt unit ctx ev obj payload cause).2 = launchView s := noted_launchView (emitFilt_noted ..)

@[simp] theorem emit_launchView (s : State) (unit ctx ev obj payload cause) :
    launchView (emit s unit ctx ev obj payload cause) = launchView s := noted_launchView (emit_noted ..)

@[simp] theorem takeTag_launchView (s : State) (unit) : launchView (takeTag s unit).2 = launchView s := rfl

@[simp] theorem countEvent_launchView (s : State) (cls unit ctx kid ev n) :
    launchView (countEvent s cls unit ctx kid ev n) = launchView s := noted_launchView (countEvent_noted ..)

@[simp] theorem raiseInt_launchView (s : State) (func b) : launchView (raiseInt s func b) = launchView s := rfl

@[simp] theorem memPut_launchView (s : State) (pa bs) : launchView (memPut s pa bs) = launchView s := by
  unfold memPut
  split <;> rfl

@[simp] theorem memPutNat_launchView (s : State) (pa n v) : launchView (memPutNat s pa n v) = launchView s := memPut_launchView ..

@[simp] theorem modCtxReg_launchView (s : State) (ctx n v) : launchView (modCtxReg s ctx n v) = launchView s :=
  modCtx_launchView s ctx fun _ => rfl

@[simp] theorem ctxRegWrite_launchView (s : State) (ctx n v) : launchView (ctxRegWrite s ctx n v) = launchView s := by
  unfold ctxRegWrite
  dsimp only
  split
  · rfl
  · split <;> simp

@[simp] theorem logBar_launchView (s : State) (ctx k code phase) : launchView (logBar s ctx k code phase) = launchView s :=
  emit_launchView ..

@[simp] theorem putBar_launchView (s : State) (ctx b) : launchView (putBar s ctx b) = launchView s := modCtx_launchView s ctx fun _ => rfl

@[simp] theorem delBar_launchView (s : State) (ctx k) : launchView (delBar s ctx k) = launchView s := modCtx_launchView s ctx fun _ => rfl

@[simp] theorem modConvoy_launchView (s : State) (kid f) : launchView (modConvoy s kid f) = launchView s := rfl

@[simp] theorem dropClean_launchView (s : State) (core) : launchView (dropClean s core) = launchView s := rfl

@[simp] theorem raiseCtxFatal_launchView (s : State) (ctx cause) : launchView (raiseCtxFatal s ctx cause) = launchView s := rfl

/-! ### Accesses of the launcher and their faults -/

@[simp] theorem stowTile_launchView (s : State) (ctx l va) : launchView (stowTile s ctx l va).2 = launchView s := by
  unfold stowTile
  dsimp only
  split
  · rfl
  · split
    · rfl
    · split
      · rw [countEvent_launchView]
        exact modCtx_launchView s ctx fun _ => rfl
      · exact emit_launchView ..

@[simp] theorem checkLeaf_launchView (s : State) (ctx l va a size capt) : launchView (checkLeaf s ctx l va a size capt).2 = launchView s := by
  have hstow := stowTile_launchView s ctx l va
  have hcapture := modCtx_launchView s ctx (f := fun c => { c with capturing := c.capturing ++ [granuleOf va] }) fun _ => rfl
  fun_cases checkLeaf s ctx l va a size capt <;> grind [launchView, ctxStates]

/-- The launcher walks by itself: its accesses fill no TLB. -/
@[simp] theorem checkAccess_launchView (s : State) (ctx va a size capt) :
    launchView (checkAccess s none ctx va a size capt).2 = launchView s := by
  have htranslate : (translate s none ctx va).2 = s := rfl
  fun_cases checkAccess s none ctx va a size capt <;> grind [checkLeaf_launchView]

@[simp] theorem launchBytes_launchView (s : State) (ctx l va pa n) : launchView (launchBytes s ctx l va pa n).2 = launchView s := by
  fun_cases launchBytes s ctx l va pa n <;> grind [stowTile_launchView]

@[simp] theorem launchAccess_launchView (s : State) (k off a n) : launchView (launchAccess s k off a n).2 = launchView s := by
  fun_cases launchAccess s k off a n <;> grind [checkAccess_launchView, launchBytes_launchView, raiseCtxFatal_launchView]

@[simp] theorem launchRead_launchView (s : State) (k off n) : launchView (launchRead s k off n).2 = launchView s := by
  fun_cases launchRead s k off n <;> grind [launchAccess_launchView]

@[simp] theorem writeRing_launchView (s : State) (ctx f) : launchView (writeRing s ctx f) = launchView s := by
  unfold writeRing
  dsimp only
  rw [raiseInt_launchView, modCtx_launchView, ctxRegWrite_launchView, memPut_launchView]
  exact fun _ => rfl

@[simp] theorem openFault_launchView (s : State) (ctx unit filt kind level va a logIt stc) :
    launchView (openFault s ctx unit filt kind level va a logIt stc).2 = launchView s := by
  have hctx (t : State) {f : Context → Context} (hf : ∀ c, ((f c).num, (f c).cst) = (c.num, c.cst)) := modCtx_launchView t ctx hf
  unfold openFault
  dsimp only
  (repeat' split) <;> simp [hctx]

@[simp] theorem logPacketFault_launchView (s : State) (k off) : launchView (logPacketFault s k off) = launchView s := emit_launchView ..

/-! ### The end of a kernel -/

@[simp] theorem setCapt_launchView (s : State) (ctx va on) : launchView (setCapt s ctx va on) = launchView s := by
  unfold setCapt
  split
  · exact memPutNat_launchView ..
  · rfl

@[simp] theorem clearCapt_launchView (s : State) (ctx) : launchView (clearCapt s ctx) = launchView s :=
  foldl_launchView _ s fun _ _ => setCapt_launchView ..

@[simp] theorem planRestore_launchView (s : State) (kid) : launchView (planRestore s kid) = launchView s := rfl

@[simp] theorem planStart_launchView (s : State) (k pass) : launchView (planStart s k pass) = launchView s := by
  unfold planStart
  split <;> rfl

@[simp] theorem freeGrid_launchView (s : State) (k) : launchView (freeGrid s k) = launchView s :=
  foldl_launchView _ s fun _ _ => by split <;> simp

@[simp] theorem startReplay_launchView (s : State) (k) : launchView (startReplay s k) = launchView s := by
  unfold startReplay
  split <;> simp

/-! ### Placement -/

theorem allocSave_launchView {s t : State} {ctx n a : Nat} (h : allocSave s ctx n = some (a, t)) : launchView t = launchView s := by
  unfold allocSave at h
  split at h
  · cases h
  · split at h
    · cases h
    · cases h
      exact modCtx_launchView s ctx fun _ => rfl

@[simp] theorem addMember_launchView (s : State) (g csb) : launchView (addMember s g csb) = launchView s := rfl

theorem reserveRecord_launchView {s t : State} {g : Group} {a : Nat} (h : reserveRecord s g = some (a, t)) : launchView t = launchView s := by
  unfold reserveRecord at h
  split at h
  · cases h
  · next hsave =>
    split at h
    · obtain ⟨⟨b, u⟩, hcarry, h⟩ := Option.map_eq_some_iff.mp h
      cases h
      exact (addMember_launchView ..).trans ((allocSave_launchView hcarry).trans (allocSave_launchView hsave))
    · cases h
      exact allocSave_launchView hsave

@[simp] theorem emitGroup_launchView (s : State) (g ev payload) : launchView (emitGroup s g ev payload).2 = launchView s := emitFilt_launchView ..

@[simp] theorem barDesched_launchView (s : State) (g d tag) : launchView (barDesched s g d tag) = launchView s := by
  unfold barDesched
  dsimp only
  rw [modCtx_launchView]
  · exact sent_launchView (tellHomes_sent ..)
  · exact fun _ => rfl

end Sys2Proof.Machine
end

section
/-! PROOFS. The checks of a descriptor.

The launcher computes the checks of R135 from the descriptor's fields; the statement names the bytes. Check by check the two conditions
are the same (`descCheck_eq_failedCheck`). -/

namespace Sys2Proof.Machine

open Sys2Proof Sys2Proof.Rules

/-! ### The checks of a descriptor (R133, R135) -/

theorem ofBytes_lt (b : List Byte) {n : Nat} (h : b.length ≤ n) : ofBytes b < 256 ^ n := by
  refine lt_of_lt_of_le ?_ (Nat.pow_le_pow_right (by decide) h)
  induction b generalizing n with
  | nil => decide
  | cons x r ih =>
    have hr := ih (Nat.le_refl r.length)
    have hx := x.isLt
    rw [ofBytes, List.length_cons, Nat.pow_succ]
    omega

theorem pkf_lt (b : List Byte) (o n : Nat) : pkf b o n < 256 ^ n := ofBytes_lt _ (List.length_take_le ..)

theorem ofBytes_eq_zero_iff (b : List Byte) : ofBytes b = 0 ↔ b = List.replicate b.length 0 := by
  induction b with
  | nil => simp [ofBytes]
  | cons x r ih =>
    rw [ofBytes, List.length_cons, List.replicate_succ, List.cons.injEq, ← ih, ← BitVec.toNat_inj]
    show _ ↔ x.toNat = 0 ∧ _
    omega

/-- A field is zero where all its bytes are. -/
theorem pkf_eq_zero_iff {b : List Byte} {o n : Nat} (h : o + n ≤ b.length) : pkf b o n = 0 ↔ (b.drop o).take n = List.replicate n 0 := by
  rw [pkf, ofBytes_eq_zero_iff, List.length_take, List.length_drop, Nat.min_eq_left (by omega)]

theorem spreadOf_isNone (depth regs : Nat) : (spreadOf depth regs).isNone = true ↔
    ¬ (ceilDiv depth 1 * regs ≤ 1024 ∨ ceilDiv depth 2 * regs ≤ 1024 ∨ ceilDiv depth 4 * regs ≤ 1024) := by
  simp [spreadOf]

theorem spreadOf_ne_one (depth regs : Nat) : (spreadOf depth regs).getD 4 ≠ 1 ↔ ¬ ceilDiv depth 1 * regs ≤ 1024 := by
  by_cases h1 : ceilDiv depth 1 * regs ≤ 1024
  · simp [spreadOf, List.find?, h1]
  · by_cases h2 : ceilDiv depth 2 * regs ≤ 1024 <;> by_cases h4 : ceilDiv depth 4 * regs ≤ 1024 <;> simp [spreadOf, List.find?, h1, h2, h4]

/-- A count of registers that check 3 passes, as it is reserved. -/
theorem reservation_eq {r : Nat} (h : r = 255 ∨ r % 8 = 0) : reservation r = if r = 255 then 256 else r := by
  simp only [reservation, ceilDiv]
  split <;> omega

/-- The checks of R135, taken in turn. -/
theorem descCheck_eq_failedCheck (s : State) (k : Kernel) {b : List Byte} (hb : b.length = 256) : descCheck s k b = failedCheck s k b := by
  have hflags : (BitVec.ofNat 8 (pkf b 2 1)).toNat = pkf b 2 1 := Nat.mod_eq_of_lt (pkf_lt b 2 1)
  have hbase : (BitVec.ofNat 64 (pkf b 8 8)).toNat = pkf b 8 8 := Nat.mod_eq_of_lt (pkf_lt b 8 8)
  have hbit (i : Nat) : bit1 (BitVec.ofNat 8 (pkf b 2 1)) i = (pkf b 2 1).testBit i := by
    rw [bit1, BitVec.getLsbD, hflags]
  have hzero := pkf_eq_zero_iff (b := b) (o := 48) (n := 80) (by omega)
  unfold descCheck failedCheck
  refine ite_congr (propext ?_) (fun _ => rfl) fun h2 => ?_
  · show _ ↔ pkf b 0 2 ≠ 1 ∨ 32 ≤ pkf b 2 1 ∨ 16 ≤ pkf b 33 1 ∨ pkf b 34 2 ≠ 0 ∨ pkf b 48 80 ≠ 0
    rw [ne_eq (pkf b 48 80), hzero]
    simp only [descOf, hflags]
  refine ite_congr (propext ?_) (fun _ => rfl) fun h3 => ?_
  · show _ ↔ pkf b 5 1 ∉ [8, 16, 32, 64] ∨ pkf b 6 2 = 0 ∨ 256 < pkf b 6 2 ∨ ¬ (pkf b 4 1 = 255 ∨ (pkf b 4 1 ≠ 0 ∧ pkf b 4 1 % 8 = 0))
    simp only [descOf, List.contains_eq_mem, decide_eq_false_iff_not]
    tauto
  have hregs : reservation (pkf b 4 1) = if pkf b 4 1 = 255 then 256 else pkf b 4 1 := by
    refine reservation_eq ?_
    change ¬ (_ ∨ _ ∨ _ ∨ ¬ (pkf b 4 1 = 255 ∨ (pkf b 4 1 ≠ 0 ∧ pkf b 4 1 % 8 = 0))) at h3
    tauto
  refine ite_congr (propext ?_) (fun _ => rfl) fun _ => ?_
  · simp only [descOf, hbase]
    rfl
  refine ite_congr (propext Iff.rfl) (fun _ => rfl) fun _ => ?_
  refine ite_congr (propext ?_) (fun _ => rfl) fun _ => ?_
  · show _ ↔ pkf b 33 1 ≠ 0 ∧ (pkf b 2 1).testBit 4 = false
    have hpasses : pkf b 33 1 < 16 := by
      refine Nat.lt_of_not_le fun h => h2 (.inr (.inr (.inl h)))
    rw [← hbit]
    show pkf b 33 1 % 16 + 1 ≠ 1 ∧ _ ↔ _
    rw [Nat.mod_eq_of_lt hpasses, ne_eq, Nat.add_eq_right]
    rfl
  refine ite_congr (propext ?_) (fun _ => rfl) fun _ => ?_
  · show _ ↔ ¬ (ceilDiv (pkf b 6 2) 1 * (if pkf b 4 1 = 255 then 256 else pkf b 4 1) ≤ 1024 ∨
      ceilDiv (pkf b 6 2) 2 * (if pkf b 4 1 = 255 then 256 else pkf b 4 1) ≤ 1024 ∨
      ceilDiv (pkf b 6 2) 4 * (if pkf b 4 1 = 255 then 256 else pkf b 4 1) ≤ 1024)
    rw [← hregs]
    exact spreadOf_isNone ..
  refine ite_congr (propext ?_) (fun _ => rfl) fun _ => ?_
  · show _ ↔ (pkf b 2 1).testBit 1 = true ∧ (¬ ceilDiv (pkf b 6 2) 1 * (if pkf b 4 1 = 255 then 256 else pkf b 4 1) ≤ 1024 ∨ 128 < gridSize k)
    rw [← hregs, ← spreadOf_ne_one, ← hbit]
    rfl
  refine ite_congr (propext ?_) (fun _ => rfl) fun _ => rfl
  show _ ↔ ((pkf b 2 1).testBit 0 = true ∨ (pkf b 2 1).testBit 1 = true) ∧
    cohortFits s (ctxFunc s k.ctx) (shapeOfDesc (descOf b)) ((pkf b 2 1).testBit 1) (gridSize k) = false
  simp only [← hbit]
  rfl

section
variable {s u : State} {k : Kernel} {pa : Nat} {b : List Byte} (hk : s.kernels.find? unchecked = some k)
include hk

theorem placementOpportunity_unchecked : exec .placementOpportunity s = .next (checkDispatch s k) := by
  show execPlacementOpportunity s = _
  rw [execPlacementOpportunity, hk]

variable (hread : launchAccess s k k.pkt.kdesc .read 256 = (.ok pa b, u)) (hb : b.length = 256)
include hread hb

/-- A kernel whose descriptor fails a check ends with its status. -/
theorem placementOpportunity_failed {n st : Nat} (h : failedCheck u k b = some (n, st)) :
    exec .placementOpportunity s = .next (finishKernel u k.kid st n) := by
  simp only [placementOpportunity_unchecked hk, checkDispatch, launchRead, hread, descCheck_eq_failedCheck u k hb, h]

/-- One whose descriptor passes them has it. -/
theorem placementOpportunity_passed (h : failedCheck u k b = none) (hreplay : (b.getD 2 0).getLsbD 4 = false) :
    exec .placementOpportunity s = .next (modKernel u k.kid fun k => { k with desc := some (descOf b), holdSince := u.chron.ns.toNat }) := by
  have hbyte : pkf b 2 1 = (b.getD 2 0).toNat := by
    match b, hb with
    | x :: y :: z :: r, _ => simp [pkf, ofBytes]
  have hflag : kflag { k with desc := some (descOf b) } 4 = false := by
    show (BitVec.ofNat 8 (pkf b 2 1)).getLsbD 4 = false
    rw [hbyte, BitVec.ofNat_toNat, BitVec.setWidth_eq]
    exact hreplay
  simp only [placementOpportunity_unchecked hk, checkDispatch, launchRead, hread, descCheck_eq_failedCheck u k hb, h, startReplay, hflag,
    Bool.false_eq_true, if_false]
  rfl

end

end Sys2Proof.Machine
end

section
/-! PROOFS. The kernel that an opportunity takes. -/

namespace Sys2Proof.Machine

open Sys2Proof Sys2Proof.Rules

/-! ### The first of the best -/

/-- One step of a search for the best element: the first one stays on a tie. -/
def keep {α : Type} (better : α → α → Bool) : Option α → α → Option α
  | none, k => some k
  | some x, k => if better k x then some k else some x

/-- The first of the best elements of a list. -/
def best {α : Type} (better : α → α → Bool) (l : List α) : Option α := l.foldl (keep better) none

section
variable {α : Type} {better : α → α → Bool}

theorem best_cons (x : α) (l : List α) : best better (x :: l) = l.foldl (keep better) (some x) := rfl

/-- The element that is better than every other one. -/
theorem best_eq_some {l : List α} {e : α} (he : e ∈ l) (hbest : ∀ k ∈ l, k ≠ e → better e k = true ∧ better k e = false) :
    best better l = some e := by
  have hstay (r : List α) (hr : ∀ k ∈ r, k ≠ e → better e k = true ∧ better k e = false) : r.foldl (keep better) (some e) = some e := by
    refine List.foldlRecOn (motive := fun b => b = some e) r _ rfl fun b hb k hk => ?_
    subst hb
    by_cases hke : k = e
    · simp [keep, hke]
    · simp [keep, (hr k hk hke).2]
  have hfind (r : List α) (b : Option α) (hb : ∀ x ∈ b, x ≠ e → better e x = true) (he : e ∈ r)
      (hr : ∀ k ∈ r, k ≠ e → better e k = true ∧ better k e = false) : r.foldl (keep better) b = some e := by
    induction r generalizing b with
    | nil => simp at he
    | cons k r ih =>
      rw [List.foldl_cons]
      by_cases hke : k = e
      · have hnow : keep better b k = some e := by
          cases b with
          | none => simp [keep, hke]
          | some x => by_cases hx : x = e <;> simp [keep, hke, hx, hb]
        rw [hnow]
        exact hstay r fun y hy => hr y (List.mem_cons_of_mem k hy)
      · refine ih _ ?_ (by simpa [Ne.symm hke] using he) fun y hy => hr y (List.mem_cons_of_mem k hy)
        cases b with
        | none => simpa [keep] using fun h => (hr k (by simp) h).1
        | some x =>
          simp only [keep]
          split
          · simpa using fun h => (hr k (by simp) h).1
          · exact hb
  exact hfind l none (by simp) he hbest

theorem best_mem {l : List α} {x : α} (h : best better l = some x) : x ∈ l := by
  have hfold (r : List α) (b : Option α) (hb : ∀ y ∈ b, y ∈ l) (hr : ∀ y ∈ r, y ∈ l) : ∀ y ∈ r.foldl (keep better) b, y ∈ l := by
    refine List.foldlRecOn (motive := fun b => ∀ y ∈ b, y ∈ l) r _ hb fun b hb k hk => ?_
    cases b with
    | none => simpa [keep] using hr k hk
    | some z =>
      simp only [keep]
      split
      · simpa using hr k hk
      · exact hb
  exact hfold l none (by simp) (fun _ hy => hy) x h

variable {f : α → Int} (hf : ∀ a b, better a b = true ↔ f a < f b)
include hf

theorem foldl_keep (l : List α) (z : α) : ∃ x, l.foldl (keep better) (some z) = some x ∧ ∃ a b, z :: l = a ++ x :: b ∧
    (∀ y ∈ a, f x < f y) ∧ ∀ y ∈ b, f x ≤ f y := by
  induction l generalizing z with
  | nil => exact ⟨z, rfl, [], [], rfl, by simp, by simp⟩
  | cons k r ih =>
    rw [List.foldl_cons]
    by_cases hk : f k < f z
    · obtain ⟨x, hx, a, b, hab, ha, hb⟩ := ih k
      have hxk : f x ≤ f k := by
        cases a with
        | nil => simp_all
        | cons y a => simp_all; omega
      refine ⟨x, by rw [keep, if_pos ((hf k z).mpr hk)]; exact hx, z :: a, b, by rw [hab]; rfl, ?_, hb⟩
      simpa using ⟨by omega, ha⟩
    · obtain ⟨x, hx, a, b, hab, ha, hb⟩ := ih z
      refine ⟨x, by rw [keep, if_neg (mt (hf k z).mp hk)]; exact hx, ?_⟩
      cases a with
      | nil =>
        obtain ⟨rfl, rfl⟩ : z = x ∧ r = b := by simpa using hab
        exact ⟨[], k :: r, rfl, by simp, by simpa using ⟨Int.not_lt.mp hk, hb⟩⟩
      | cons y a =>
        obtain ⟨rfl, rfl⟩ : z = y ∧ r = a ++ x :: b := by simpa using hab
        have hxz : f x < f z := ha z (by simp)
        refine ⟨z :: k :: a, b, rfl, ?_, hb⟩
        simp only [List.mem_cons, forall_eq_or_imp] at ha ⊢
        exact ⟨hxz, by omega, ha.2⟩

/-- Where the search ends: before the element every one is worse, after it none is better. -/
theorem best_spec {l : List α} {x : α} (h : best better l = some x) :
    ∃ a b, l = a ++ x :: b ∧ (∀ y ∈ a, f x < f y) ∧ ∀ y ∈ b, f x ≤ f y := by
  cases l with
  | nil => cases h
  | cons z r =>
    obtain ⟨y, hy, hspec⟩ := foldl_keep hf r z
    obtain rfl : y = x := by simpa [best_cons, hy] using h
    exact hspec

theorem best_isSome {l : List α} (h : l ≠ []) : ∃ x, best better l = some x := by
  cases l with
  | nil => exact absurd rfl h
  | cons z r =>
    obtain ⟨y, hy, _⟩ := foldl_keep hf r z
    exact ⟨y, hy⟩

/-- It is one of the list, and none is better. -/
theorem best_le {l : List α} {x : α} (h : best better l = some x) : x ∈ l ∧ ∀ y ∈ l, f x ≤ f y := by
  obtain ⟨a, b, rfl, ha, hb⟩ := best_spec hf h
  refine ⟨by simp, fun y hy => ?_⟩
  obtain hy | rfl | hy : y ∈ a ∨ y = x ∨ y ∈ b := by simpa using hy
  · exact Int.le_of_lt (ha y hy)
  · exact Int.le_refl _
  · exact hb y hy

end

/-! ### EDF (R127, R128) -/

/-- The order of EDF kernels as the launcher computes it. -/
def earlierB (a b : Kernel) : Bool :=
  decide (a.pkt.deadline.toNat < b.pkt.deadline.toNat) ||
    (a.pkt.deadline == b.pkt.deadline && (decide (a.ctx < b.ctx) ||
      (a.ctx == b.ctx && (decide (a.q < b.q) || (a.q == b.q && decide (a.kid < b.kid))))))

theorem earlierB_iff (a b : Kernel) : earlierB a b = true ↔ earlier a b := by simp [earlierB, earlier]

theorem earlier_asymm {a b : Kernel} (h : earlier a b) : ¬ earlier b a := by
  simp only [earlier, ← BitVec.toNat_inj] at h ⊢
  omega

theorem pickEdf_eq (s : State) : pickEdf s = best earlierB (s.kernels.filter fun k => selectable s k && edfKernel s k) := by
  unfold pickEdf best
  dsimp only
  congr 1
  funext b k
  cases b <;> rfl

theorem mem_edf_iff (s : State) (k : Kernel) : (k ∈ s.kernels.filter fun k => selectable s k && edfKernel s k) ↔ edfReady s k := by
  simp [edfReady]

/-- The EDF kernel that is earlier than every other one. -/
theorem pickEdf_earliest {s : State} {e : Kernel} (he : edfReady s e) (hall : ∀ k, edfReady s k → k ≠ e → earlier e k) : pickEdf s = some e := by
  rw [pickEdf_eq]
  refine best_eq_some ((mem_edf_iff s e).mpr he) fun k hk hne => ?_
  have hek := hall k ((mem_edf_iff s k).mp hk) hne
  exact ⟨(earlierB_iff e k).mpr hek, by rw [Bool.eq_false_iff, ne_eq, earlierB_iff]; exact earlier_asymm hek⟩

theorem pickEdf_none {s : State} (h : ∀ e, ¬ edfReady s e) : pickEdf s = none := by
  have hnone : (s.kernels.filter fun k => selectable s k && edfKernel s k) = [] :=
    List.eq_nil_iff_forall_not_mem.mpr fun k hk => h k ((mem_edf_iff s k).mp hk)
  rw [pickEdf_eq, hnone]
  rfl

/-! ### An opportunity (R127, R128) -/

theorem newlyLate_iff (s : State) (k : Kernel) : newlyLate s k = true ↔ edfKernel s k = true ∧ k.pkt.marker = false ∧ k.late = false ∧
    kernelOver k = false ∧ k.kst ≠ .completing ∧ ctxActive s k.ctx = true ∧ k.pkt.deadline.toNat < s.chron.ns.toNat := by
  rw [show s.chron.ns = now s from rfl]
  simp [newlyLate, and_assoc]

theorem missDeadline_notLate {s : State} {k : Kernel} (h : newlyLate s k = false) : missDeadline s k = s := by
  rw [missDeadline, h]
  rfl

/-- Where no kernel is late unseen, the comparison at the selection changes nothing. -/
theorem foldl_missDeadline {s : State} (h : noneLate s) : s.kernels.foldl missDeadline s = s := by
  refine List.foldlRecOn (motive := fun t => t = s) s.kernels _ rfl fun t ht k hk => ?_
  subst ht
  refine missDeadline_notLate (Bool.eq_false_iff.mpr fun hlate => ?_)
  obtain ⟨hedf, hmarker, hnew, hover, hrun, hctx, hdue⟩ := (newlyLate_iff t k).mp hlate
  have hseen := h k hk hdue
  simp_all

theorem exec_placementOpportunity {s : State} (hchecked : s.kernels.find? unchecked = none) (hrequest : launcherRequest s = none)
    (hroom : opportunity s = true) {k : Kernel} {t : State} (h : chooseKernel (s.kernels.foldl missDeadline s) = some (k, t)) :
    exec .placementOpportunity s = .next (selectKernel t k) := by
  show execPlacementOpportunity s = _
  simp only [execPlacementOpportunity, hchecked, hrequest, hroom, if_true, h]

theorem chooseKernel_edf {s : State} {e : Kernel} (hedf : pickEdf s = some e) (h : pickLottery s = none ∨ s.edfRun < 7) :
    chooseKernel s = some (e, { s with edfRun := min 7 (s.edfRun + 1) }) := by
  rw [chooseKernel, hedf]
  rcases hlot : pickLottery s with _ | l
  · rfl
  · have hrun : s.edfRun < 7 := h.resolve_left (by simp [hlot])
    simp only [if_pos hrun, Nat.min_eq_right (show s.edfRun + 1 ≤ 7 by omega)]

theorem chooseKernel_lottery {s u : State} {k : Kernel} (hlot : pickLottery s = some (k, u)) (h : pickEdf s = none ∨ 7 ≤ s.edfRun) :
    chooseKernel s = some (k, { u with edfRun := 0 }) := by
  rw [chooseKernel, hlot]
  rcases hedf : pickEdf s with _ | e
  · rfl
  · have hrun : 7 ≤ s.edfRun := h.resolve_left (by simp [hedf])
    simp only [if_neg (Nat.not_lt.mpr hrun)]

theorem mem_lottery_iff (s : State) (k : Kernel) : (k ∈ s.kernels.filter fun k => selectable s k && !edfKernel s k) ↔ lotReady s k := by
  simp [lotReady]

theorem pickLottery_none {s : State} (h : ∀ k, ¬ lotReady s k) : pickLottery s = none := by
  have hnone : (s.kernels.filter fun k => selectable s k && !edfKernel s k) = [] :=
    List.eq_nil_iff_forall_not_mem.mpr fun k hk => h k ((mem_lottery_iff s k).mp hk)
  have hctx : nextLotCtx s = none := by
    rw [nextLotCtx, lotteryCtxs, hnone]
    rfl
  rw [pickLottery, hctx]

end Sys2Proof.Machine
end

section
/-! PROOFS. The end of a kernel, and the kernel that is late at an opportunity. -/

namespace Sys2Proof.Machine

open Sys2Proof Sys2Proof.Rules

/-! ### Kernels by their number -/

theorem getKernel_kid {s : State} {n : Nat} {k : Kernel} (h : getKernel s n = some k) : k.kid = n := by
  simpa using List.find?_some h

theorem mem_of_getKernel {s : State} {n : Nat} {k : Kernel} (h : getKernel s n = some k) : k ∈ s.kernels := List.mem_of_find?_eq_some h

theorem getKernel_of_mem {s : State} {k : Kernel} (hd : (s.kernels.map (·.kid)).Nodup) (hk : k ∈ s.kernels) : getKernel s k.kid = some k := by
  obtain ⟨y, hy⟩ := Option.isSome_iff_exists.mp (show (getKernel s k.kid).isSome = true by simpa [getKernel] using ⟨k, hk, rfl⟩)
  rw [hy, List.inj_on_of_nodup_map hd (mem_of_getKernel hy) hk (getKernel_kid hy)]

theorem getKernel_congr {s t : State} (h : launchView t = launchView s) (n : Nat) : getKernel t n = getKernel s n := by
  obtain ⟨_, hkernels, _⟩ := launchView_iff.mp h
  rw [getKernel, getKernel, hkernels]

theorem getKernel_modKernel (s : State) (n m : Nat) {f : Kernel → Kernel} (hf : ∀ k, (f k).kid = k.kid) :
    getKernel (modKernel s n f) m = (getKernel s m).map fun k => if m = n then f k else k := by
  rw [getKernel, modKernel, find?_replaceIf _ _ _ _ fun k => by rw [hf], ← getKernel]
  refine Option.map_congr fun k hk => ?_
  rw [getKernel_kid hk]
  simp

theorem getKernel_modKernel_other (s : State) {n m : Nat} (h : m ≠ n) {f : Kernel → Kernel} (hf : ∀ k, (f k).kid = k.kid) :
    getKernel (modKernel s n f) m = getKernel s m := by
  rw [getKernel_modKernel s n m hf]
  simp [h]

theorem getKernel_modKernel_same {s : State} {n : Nat} {k : Kernel} (hk : getKernel s n = some k) {f : Kernel → Kernel}
    (hf : ∀ k, (f k).kid = k.kid) : getKernel (modKernel s n f) n = some (f k) := by
  rw [getKernel_modKernel s n n hf, hk]
  simp

theorem modKernel_launchView_congr {s t : State} (h : launchView t = launchView s) (n : Nat) (f : Kernel → Kernel) :
    launchView (modKernel t n f) = launchView (modKernel s n f) := by
  obtain ⟨hg, hk, hq, hc, hx⟩ := launchView_iff.mp h
  refine launchView_iff.mpr ⟨hg, ?_, hq, hc, hx⟩
  rw [modKernel_kernels, modKernel_kernels, hk]

/-- What an opportunity goes by besides the kernels themselves: the queues, the time, the contexts' states, the kernels' numbers. -/
def surroundings (s : State) : List Queue × Chron × List (Nat × CState) × List Nat := (s.queues, s.chron, ctxStates s, s.kernels.map (·.kid))

theorem surroundings_congr {s t : State} (h : launchView t = launchView s) : surroundings t = surroundings s := by
  obtain ⟨_, hk, hq, hc, hx⟩ := launchView_iff.mp h
  rw [surroundings, surroundings, hk, hq, hc, hx]

theorem modKernel_surroundings (s : State) (n : Nat) {f : Kernel → Kernel} (hf : ∀ k, (f k).kid = k.kid) :
    surroundings (modKernel s n f) = surroundings s := by
  have hkids : (modKernel s n f).kernels.map (·.kid) = s.kernels.map (·.kid) := by
    rw [modKernel_kernels]
    unfold replaceIf
    rw [List.map_map]
    refine List.map_congr_left fun k _ => ?_
    simp only [Function.comp]
    split
    · exact hf k
    · rfl
  rw [surroundings, hkids]
  rfl

theorem ctxActive_eq (s : State) (ctx : Nat) : ctxActive s ctx = ((ctxStates s).find? fun c => c.1 == ctx).any fun c => c.2 == .active := by
  have hcomp : ((fun c : Nat × CState => c.1 == ctx) ∘ fun c : Context => (c.num, c.cst)) = fun c => c.num == ctx := rfl
  rw [ctxActive, getCtx, ctxStates, List.find?_map, hcomp]
  cases s.contexts.find? fun c => c.num == ctx <;> rfl

/-- Whether a kernel is late unseen depends on what stands around it. -/
theorem newlyLate_congr {s t : State} (h : surroundings t = surroundings s) (k : Kernel) : newlyLate t k = newlyLate s k := by
  simp only [surroundings, Prod.mk.injEq] at h
  obtain ⟨hq, hc, hx, _⟩ := h
  rw [Bool.eq_iff_iff, newlyLate_iff, newlyLate_iff, ctxActive_eq, ctxActive_eq, hc, hx]
  simp only [edfKernel, queueOfCtx, getQueue, hq]

/-! ### The end of a kernel -/

/-- A kernel as it starts to complete. -/
def completed (status detail : Nat) (k : Kernel) : Kernel :=
  { k with kst := .completing, status := BitVec.ofNat 8 status, detail := BitVec.ofNat 24 detail, stall := none, depStall := [], refused := [] }

theorem finishKernel_launchView {s : State} {kid : Nat} {k : Kernel} (hk : getKernel s kid = some k) (h : ¬ (kernelOver k = true ∨ k.kst = .completing))
    (status detail : Nat) : launchView (finishKernel s kid status detail) = launchView (modKernel s kid (completed status detail)) := by
  have hview : launchView (freeGrid (planRestore (if kflag k 4 && endCode status == 1 then clearCapt s k.ctx else s) kid) k) = launchView s := by
    rw [freeGrid_launchView, planRestore_launchView]
    split
    · exact clearCapt_launchView ..
    · rfl
  rw [finishKernel, hk]
  simp only [if_neg h]
  exact modKernel_launchView_congr hview kid (completed status detail)

theorem finishKernel_ended {s : State} {kid : Nat} (h : ∀ k, getKernel s kid = some k → kernelOver k = true ∨ k.kst = .completing) (status detail : Nat) :
    finishKernel s kid status detail = s := by
  rw [finishKernel]
  cases hk : getKernel s kid with
  | none => rfl
  | some k => simp only [if_pos (h k hk)]

theorem finishKernel_surroundings (s : State) (kid status detail : Nat) : surroundings (finishKernel s kid status detail) = surroundings s := by
  by_cases h : ∀ k, getKernel s kid = some k → kernelOver k = true ∨ k.kst = .completing
  · rw [finishKernel_ended h]
  · push Not at h
    obtain ⟨k, hk, hrun⟩ := h
    rw [surroundings_congr (finishKernel_launchView hk (by simpa using hrun) status detail)]
    exact modKernel_surroundings s kid fun _ => rfl

theorem finishKernel_other (s : State) {kid n : Nat} (h : n ≠ kid) (status detail : Nat) :
    getKernel (finishKernel s kid status detail) n = getKernel s n := by
  by_cases hend : ∀ k, getKernel s kid = some k → kernelOver k = true ∨ k.kst = .completing
  · rw [finishKernel_ended hend]
  · push Not at hend
    obtain ⟨k, hk, hrun⟩ := hend
    rw [getKernel_congr (finishKernel_launchView hk (by simpa using hrun) status detail)]
    exact getKernel_modKernel_other s h fun _ => rfl

theorem finishKernel_self {s : State} {kid : Nat} {k : Kernel} (hk : getKernel s kid = some k) (h : ¬ (kernelOver k = true ∨ k.kst = .completing))
    (status detail : Nat) : getKernel (finishKernel s kid status detail) kid = some (completed status detail k) := by
  rw [getKernel_congr (finishKernel_launchView hk h status detail)]
  exact getKernel_modKernel_same hk fun _ => rfl

/-! ### A kernel that has been dropped -/

/-- The kernel completes as dropped for its lateness. -/
def Dropped (s : State) (n : Nat) : Prop := ∃ y, getKernel s n = some y ∧ y.kst = .completing ∧ y.status = 6 ∧ y.late = true

theorem dropped_congr {s t : State} {n : Nat} (h : getKernel t n = getKernel s n) (hs : Dropped s n) : Dropped t n := by
  rwa [Dropped, h]

theorem finishKernel_dropped {s : State} {n : Nat} (h : Dropped s n) (kid status detail : Nat) : Dropped (finishKernel s kid status detail) n := by
  by_cases hn : n = kid
  · obtain ⟨y, hy, hkst, hdropped⟩ := h
    rw [finishKernel_ended fun k hk => ?_]
    · exact ⟨y, hy, hkst, hdropped⟩
    · obtain rfl : y = k := Option.some.inj (hy.symm.trans (by rw [hn, hk]))
      exact .inr hkst
  · exact dropped_congr (finishKernel_other s hn status detail) h

theorem modKernel_dropped {s : State} {n m : Nat} {f : Kernel → Kernel} (hf : ∀ k, (f k).kid = k.kid) (hmn : n ≠ m) (h : Dropped s n) :
    Dropped (modKernel s m f) n :=
  dropped_congr (getKernel_modKernel_other s hmn hf) h

theorem setLate_dropped {s : State} {n : Nat} (h : Dropped s n) (m : Nat) : Dropped (modKernel s m fun k => { k with late := true }) n := by
  obtain ⟨y, hy, hkst, hstatus, hlate⟩ := h
  by_cases hn : n = m
  · subst hn
    exact ⟨{ y with late := true }, getKernel_modKernel_same hy fun _ => rfl, hkst, hstatus, rfl⟩
  · exact modKernel_dropped (fun _ => rfl) hn ⟨y, hy, hkst, hstatus, hlate⟩

/-- A kernel has been seen late, and that is logged. -/
def seenLate (s : State) (k : Kernel) : State :=
  emit (modKernel s k.kid fun k => { k with late := true }) unitHost (some k.ctx) evDeadlineMiss (k.ctx % 1024) 0

theorem seenLate_launchView (s : State) (k : Kernel) :
    launchView (seenLate s k) = launchView (modKernel s k.kid fun k => { k with late := true }) := emit_launchView ..

theorem missDeadline_late {s : State} {k : Kernel} (h : newlyLate s k = true) : missDeadline s k =
    if dropLate (queueOfCtx (seenLate s k) k.ctx k.q) && undispatched k then finishKernel (seenLate s k) k.kid ksLateDrop 0 else seenLate s k := by
  rw [missDeadline, if_pos h]
  rfl

theorem missDeadline_dropped {s : State} {n : Nat} (h : Dropped s n) (k : Kernel) : Dropped (missDeadline s k) n := by
  cases hlate : newlyLate s k
  · rwa [missDeadline_notLate hlate]
  · have hseen : Dropped (seenLate s k) n := dropped_congr (getKernel_congr (seenLate_launchView s k) n) (setLate_dropped h k.kid)
    rw [missDeadline_late hlate]
    split
    · exact finishKernel_dropped hseen ..
    · exact hseen

theorem missDeadline_other (s : State) {k : Kernel} {n : Nat} (h : n ≠ k.kid) :
    getKernel (missDeadline s k) n = getKernel s n ∧ surroundings (missDeadline s k) = surroundings s := by
  have hget : getKernel (seenLate s k) n = getKernel s n :=
    (getKernel_congr (seenLate_launchView s k) n).trans (getKernel_modKernel_other s h fun _ => rfl)
  have hrest : surroundings (seenLate s k) = surroundings s :=
    (surroundings_congr (seenLate_launchView s k)).trans (modKernel_surroundings s k.kid fun _ => rfl)
  cases hlate : newlyLate s k
  · rw [missDeadline_notLate hlate]
    exact ⟨rfl, rfl⟩
  · rw [missDeadline_late hlate]
    split
    · exact ⟨(finishKernel_other _ h ..).trans hget, (finishKernel_surroundings ..).trans hrest⟩
    · exact ⟨hget, hrest⟩

theorem missDeadline_surroundings (s : State) (k : Kernel) : surroundings (missDeadline s k) = surroundings s := by
  obtain ⟨_, h⟩ := missDeadline_other s (k := k) (n := k.kid + 1) (by omega)
  exact h

/-- A kernel that is seen late before its dispatch, under DROPLATE. -/
theorem missDeadline_drops {s : State} {k : Kernel} (hk : getKernel s k.kid = some k) (hlate : newlyLate s k = true)
    (hdrop : (queueOfCtx s k.ctx k.q).cfg.getLsbD 6 = true) (hst : k.kst = .queued ∨ k.kst = .waiting ∨ k.kst = .armed) :
    Dropped (missDeadline s k) k.kid := by
  have hund : undispatched k = true := by rcases hst with h | h | h <;> simp [undispatched, h]
  have hrun : ¬ (kernelOver k = true ∨ k.kst = .completing) := by rcases hst with h | h | h <;> simp [kernelOver, h]
  have hget : getKernel (seenLate s k) k.kid = some { k with late := true } :=
    (getKernel_congr (seenLate_launchView s k) k.kid).trans (getKernel_modKernel_same hk fun _ => rfl)
  have hqueue : queueOfCtx (seenLate s k) k.ctx k.q = queueOfCtx s k.ctx k.q := by
    obtain ⟨_, _, hq, _⟩ := launchView_iff.mp (seenLate_launchView s k)
    rw [queueOfCtx, getQueue, hq]
    rfl
  rw [missDeadline_late hlate, hqueue, hund, dropLate, bit1, hdrop]
  exact ⟨_, finishKernel_self hget hrun ksLateDrop 0, rfl, rfl, rfl⟩

/-! ### The selection of another kernel -/

theorem stallKernel_dropped {s : State} {k : Kernel} {n : Nat} (hn : n ≠ k.kid) (h : Dropped s n) (off a kind level) :
    Dropped (stallKernel s k off a kind level) n :=
  modKernel_dropped (fun _ => rfl) hn (dropped_congr (getKernel_congr (openFault_launchView ..) n) h)

theorem checkDispatch_dropped {s : State} {k : Kernel} {n : Nat} (hn : n ≠ k.kid) (h : Dropped s n) : Dropped (checkDispatch s k) n := by
  have hread := launchRead_launchView s k k.pkt.kdesc 256
  unfold checkDispatch
  split
  · next u hu =>
    rw [hu] at hread
    exact stallKernel_dropped hn (dropped_congr (getKernel_congr hread n) h) ..
  · next u hu =>
    rw [hu] at hread
    have hdropped := dropped_congr (getKernel_congr hread n) h
    split
    · exact finishKernel_dropped hdropped ..
    · refine dropped_congr (getKernel_congr (startReplay_launchView ..) n) ?_
      exact modKernel_dropped (fun _ => rfl) hn hdropped
  · next u _ _ hu =>
    rw [hu] at hread
    exact finishKernel_dropped (dropped_congr ((getKernel_congr (logPacketFault_launchView ..) n).trans (getKernel_congr hread n)) h) ..

theorem selectKernel_dropped {s : State} {k : Kernel} {n : Nat} (hn : n ≠ k.kid) (h : Dropped s n) : Dropped (selectKernel s k) n := by
  have hsel : Dropped (modKernel { s with nextSel := s.nextSel + 1 } k.kid fun k => { k with kst := .dispatching, sel := s.nextSel }) n :=
    modKernel_dropped (fun _ => rfl) hn h
  unfold selectKernel
  dsimp only
  split
  · next x hx => exact checkDispatch_dropped (by rwa [getKernel_kid hx]) hsel
  · exact hsel

/-! ### A late kernel at an opportunity (R127) -/

/-- Comparing the deadlines in turn drops the kernel when its own turn comes. -/
theorem foldl_missDeadline_drops {s : State} {k : Kernel} (hd : (s.kernels.map (·.kid)).Nodup) (hk : k ∈ s.kernels) (hlate : newlyLate s k = true)
    (hdrop : (queueOfCtx s k.ctx k.q).cfg.getLsbD 6 = true) (hst : k.kst = .queued ∨ k.kst = .waiting ∨ k.kst = .armed) :
    Dropped (s.kernels.foldl missDeadline s) k.kid := by
  have hbefore (l : List Kernel) (hl : k.kid ∉ l.map (·.kid)) :
      getKernel (l.foldl missDeadline s) k.kid = some k ∧ surroundings (l.foldl missDeadline s) = surroundings s := by
    refine List.foldlRecOn (motive := fun t => getKernel t k.kid = some k ∧ surroundings t = surroundings s) l _
      ⟨getKernel_of_mem hd hk, rfl⟩ fun t ht x hx => ?_
    obtain ⟨hget, hrest⟩ := ht
    have hne : k.kid ≠ x.kid := fun h => hl (h ▸ List.mem_map_of_mem hx)
    obtain ⟨hget', hrest'⟩ := missDeadline_other t hne
    exact ⟨hget'.trans hget, hrest'.trans hrest⟩
  obtain ⟨a, b, hab⟩ := List.append_of_mem hk
  have hka : k.kid ∉ a.map (·.kid) := by
    rw [hab, List.map_append, List.map_cons, List.nodup_append] at hd
    exact fun h => hd.2.2 _ h _ (by simp) rfl
  obtain ⟨hget, hrest⟩ := hbefore a hka
  have hqueue : queueOfCtx (a.foldl missDeadline s) k.ctx k.q = queueOfCtx s k.ctx k.q := by
    simp only [surroundings, Prod.mk.injEq] at hrest
    rw [queueOfCtx, getQueue, hrest.1]
    rfl
  rw [hab, List.foldl_append, List.foldl_cons]
  refine List.foldlRecOn (motive := fun t => Dropped t k.kid) b _ ?_ fun t ht x _ => missDeadline_dropped ht x
  exact missDeadline_drops hget ((newlyLate_congr hrest k).trans hlate) (hqueue ▸ hdrop) hst

end Sys2Proof.Machine
end

section
/-! PROOFS. The lottery (R128, R129). -/

namespace Sys2Proof.Machine

open Sys2Proof Sys2Proof.Rules

/-! ### Lists in order -/

theorem mem_sortBy {α : Type} (le : α → α → Bool) (l : List α) (a : α) : a ∈ sortBy le l ↔ a ∈ l := (sortBy_perm le l).mem_iff

theorem insertBy_pairwise {l : List Nat} (h : l.Pairwise (· ≤ ·)) (a : Nat) : (insertBy (fun a b => decide (a ≤ b)) a l).Pairwise (· ≤ ·) := by
  induction l with
  | nil => simp [insertBy]
  | cons b r ih =>
    obtain ⟨hb, hr⟩ := List.pairwise_cons.mp h
    simp only [insertBy, decide_eq_true_eq]
    split
    · next hab =>
      refine List.pairwise_cons.mpr ⟨fun c hc => ?_, h⟩
      obtain rfl | hc := List.mem_cons.mp hc
      · exact hab
      · exact hab.trans (hb c hc)
    · refine List.pairwise_cons.mpr ⟨fun c hc => ?_, ih hr⟩
      obtain rfl | hc := List.mem_cons.mp ((insertBy_perm _ a r).mem_iff.mp hc)
      · omega
      · exact hb c hc

theorem mem_sortNat (l : List Nat) (n : Nat) : n ∈ sortNat l ↔ n ∈ l := by rw [sortNat, mem_sortBy, List.mem_dedup]

/-- The numbers of a list in increasing order, each once. -/
theorem sortNat_pairwise (l : List Nat) : (sortNat l).Pairwise (· < ·) := by
  have hle : (sortNat l).Pairwise (· ≤ ·) := by
    unfold sortNat sortBy
    generalize l.dedup = r
    induction r with
    | nil => exact .nil
    | cons a r ih => exact insertBy_pairwise ih a
  have hne : (sortNat l).Pairwise (· ≠ ·) := ((sortBy_perm _ l.dedup).nodup_iff).mpr l.nodup_dedup
  exact hle.imp₂ (fun _ _ hle hne => lt_of_le_of_ne hle hne) hne

/-- A list of numbers below a bound, in order, is the filtered range. -/
theorem sortNat_eq_filter {l : List Nat} {n : Nat} {p : Nat → Bool} (h : ∀ q, q ∈ l ↔ q < n ∧ p q = true) : sortNat l = (List.range n).filter p := by
  refine List.Pairwise.eq_of_mem_iff (sortNat_pairwise l) (List.pairwise_lt_range.filter p) fun q => ?_
  rw [mem_sortNat, h, List.mem_filter, List.mem_range]

/-- What stands before a number in a filtered range. -/
theorem filter_range_split {n q : Nat} {p : Nat → Bool} {a b : List Nat} (h : (List.range n).filter p = a ++ q :: b) :
    a = (List.range q).filter p ∧ (∀ x ∈ a, x < q) ∧ ∀ x ∈ b, q < x := by
  have hsorted : (a ++ q :: b).Pairwise (· < ·) := h ▸ List.pairwise_lt_range.filter p
  obtain ⟨_, hqb, hcross⟩ := List.pairwise_append.mp hsorted
  have ha : ∀ x ∈ a, x < q := fun x hx => hcross x hx q (by simp)
  have hb : ∀ x ∈ b, q < x := (List.pairwise_cons.mp hqb).1
  have hq : q < n := by
    have : q ∈ (List.range n).filter p := by simp [h]
    simpa using (List.mem_filter.mp this).1
  refine ⟨?_, ha, hb⟩
  refine List.Pairwise.eq_of_mem_iff (List.pairwise_append.mp hsorted).1 (List.pairwise_lt_range.filter p) fun x => ?_
  have hx : x ∈ (List.range n).filter p ↔ x ∈ a ++ q :: b := by rw [h]
  simp only [List.mem_filter, List.mem_range, List.mem_append, List.mem_cons] at hx ⊢
  constructor
  · exact fun hxa => ⟨ha x hxa, (hx.mpr (.inl hxa)).2⟩
  · rintro ⟨hlt, hp⟩
    obtain hxa | rfl | hxb := hx.mp ⟨by omega, hp⟩
    · exact hxa
    · omega
    · have := hb x hxb
      omega

/-! ### Queues by their number -/

theorem queueOfCtx_fields (s : State) (ctx q : Nat) : (queueOfCtx s ctx q).ctx = ctx ∧ (queueOfCtx s ctx q).q = q := by
  unfold queueOfCtx
  cases h : getQueue s ctx q with
  | none => exact ⟨rfl, rfl⟩
  | some x => simpa using List.find?_some h

theorem find?_upsert_same {α : Type} {p : α → Bool} {a : α} (ha : p a = true) (l : List α) : (upsert p a l).find? p = some a := by
  unfold upsert
  split
  · next h =>
    induction l with
    | nil => simp at h
    | cons b r ih =>
      rw [List.map_cons, List.find?_cons]
      cases hb : p b
      · simp only [Bool.false_eq_true, if_false, hb]
        exact ih (by simpa [hb] using h)
      · simp only [if_true, ha]
  · next h =>
    rw [List.find?_append, List.find?_eq_none.mpr fun x hx hp => h (List.any_eq_true.mpr ⟨x, hx, hp⟩)]
    simp [ha]

theorem find?_upsert_other {α : Type} {p r : α → Bool} {a : α} (ha : r a = false) (hp : ∀ b, p b = true → r b = false) (l : List α) :
    (upsert p a l).find? r = l.find? r := by
  unfold upsert
  split
  · clear * - ha hp
    induction l with
    | nil => rfl
    | cons b l ih =>
      rw [List.map_cons, List.find?_cons, List.find?_cons, ih]
      cases hb : p b
      · simp only [Bool.false_eq_true, if_false]
      · simp only [if_true, ha, hp b hb]
  · simp [List.find?_append, ha]

theorem queueOfCtx_putQueue (s : State) (x : Queue) (ctx q : Nat) :
    queueOfCtx (putQueue s x) ctx q = if x.ctx = ctx ∧ x.q = q then x else queueOfCtx s ctx q := by
  split
  · next h =>
    obtain ⟨rfl, rfl⟩ := h
    rw [queueOfCtx, getQueue, putQueue, find?_upsert_same (by simp)]
    rfl
  · next h =>
    rw [queueOfCtx, getQueue, putQueue, find?_upsert_other]
    · rfl
    · simpa using h
    · intro y hy
      obtain ⟨hctx, hq⟩ : y.ctx = x.ctx ∧ y.q = x.q := by simpa using hy
      rw [hctx, hq]
      simpa using h

/-- The queues of a list, each with its guard renewed. -/
theorem queueOfCtx_foldl_putQueue (s t : State) (ctx : Nat) (g : Queue → Nat) (l : List Nat) (q : Nat) :
    queueOfCtx ((l.map (queueOfCtx s ctx)).foldl (fun s x => putQueue s { x with guard := g x }) t) ctx q =
      if q ∈ l then { queueOfCtx s ctx q with guard := g (queueOfCtx s ctx q) } else queueOfCtx t ctx q := by
  induction l generalizing t with
  | nil => rfl
  | cons n r ih =>
    obtain ⟨hctx, hq⟩ := queueOfCtx_fields s ctx n
    rw [List.map_cons, List.foldl_cons, ih, queueOfCtx_putQueue]
    by_cases hn : n = q
    · subst hn
      simp [hctx, hq]
    · simp [hq, hn, Ne.symm hn]

theorem foldl_putQueue (qs : List Queue) (f : Queue → Queue) (s : State) :
    qs.foldl (fun s x => putQueue s (f x)) s = { s with queues := (qs.foldl (fun s x => putQueue s (f x)) s).queues } := by
  refine List.foldlRecOn (motive := fun t : State => t = { s with queues := t.queues }) qs _ rfl fun t ht x _ => ?_
  rw [ht]
  rfl

/-! ### The winning queue (R129) -/

/-- The draw takes the queue in whose share of the tickets the number lies. -/
theorem drawWinner_spec {l : List Queue} {x run : Nat} {w : Queue} (h : drawWinner l x run = some w) (hrun : run ≤ x) :
    ∃ a b, l = a ++ w :: b ∧ run + (a.map (·.tickets.toNat)).sum ≤ x ∧ x < run + (a.map (·.tickets.toNat)).sum + w.tickets.toNat := by
  induction l generalizing run with
  | nil => cases h
  | cons q r ih =>
    rw [drawWinner] at h
    split at h
    · cases h
      exact ⟨[], r, rfl, by simpa using hrun, by simpa⟩
    · obtain ⟨a, b, rfl, hlow, hhigh⟩ := ih h (by omega)
      refine ⟨q :: a, b, rfl, ?_, ?_⟩ <;> rw [List.map_cons, List.sum_cons] <;> omega

theorem largestGuard_spec {l : List Queue} {w : Queue} (h : largestGuard l = some w) :
    ∃ a b, l = a ++ w :: b ∧ (∀ y ∈ a, y.guard < w.guard) ∧ ∀ y ∈ b, y.guard ≤ w.guard := by
  have hbest : largestGuard l = best (fun q x => decide (x.guard < q.guard)) l := by
    unfold largestGuard best
    congr 1
    funext b q
    cases b
    · rfl
    · simp only [keep, decide_eq_true_eq]
  rw [hbest] at h
  obtain ⟨a, b, hab, ha, hb⟩ := best_spec (f := fun q : Queue => -(q.guard : Int)) (by intro a b; simp) h
  exact ⟨a, b, hab, fun y hy => by have := ha y hy; omega, fun y hy => by have := hb y hy; omega⟩

/-- The queues that a lottery opportunity of a context draws from. -/
def eligibleQueues (s : State) (ctx : Nat) : List Queue := ((List.range 256).filter (eligibleQ s ctx)).map (queueOfCtx s ctx)

theorem ctxReg_congr {s t : State} (h : t.contexts = s.contexts) (ctx n : Nat) : ctxReg t ctx n = ctxReg s ctx n := by
  rw [ctxReg, getCtx, h]
  rfl

theorem ctxReg_ctxRegWrite {s : State} {ctx : Nat} {c : Context} (hc : getCtx s ctx = some c) (hwf : swf c.sys = true) (n : Nat) (v : W64) :
    ctxReg (ctxRegWrite s ctx n v) ctx n = v := by
  have hsys : ctxReg (modCtxReg s ctx n v) ctx n = v := by
    rw [ctxReg, modCtxReg, getCtx_modCtx hc (f := fun c => { c with sys := sset c.sys n v }) fun _ => rfl]
    exact sget_sset_same _ _ _ hwf
  unfold ctxRegWrite
  rw [hc]
  dsimp only
  split
  · rw [ctxReg_congr (memPutNat_contexts ..)]
    exact hsys
  · exact hsys

theorem ctxRegWrite_lotCtx (s : State) (ctx n : Nat) (v : W64) : (ctxRegWrite s ctx n v).lotCtx = s.lotCtx := by
  unfold ctxRegWrite memPutNat memPut
  dsimp only
  (repeat' split) <;> rfl

/-- What stands around one of the queues drawn from. -/
theorem eligibleQueues_split {s : State} {ctx : Nat} {w : Queue} {a b : List Queue} (h : eligibleQueues s ctx = a ++ w :: b) :
    (w.q < 256 ∧ eligibleQ s ctx w.q = true ∧ w = queueOfCtx s ctx w.q) ∧ (a.map (·.tickets.toNat)).sum = ticketsBelow s ctx w.q ∧
    ∀ q < 256, eligibleQ s ctx q = true → (queueOfCtx s ctx q ∈ a ∧ q < w.q) ∨ q = w.q ∨ (queueOfCtx s ctx q ∈ b ∧ w.q < q) := by
  obtain ⟨a', l, hl, rfl, hrest⟩ := List.map_eq_append_iff.mp h
  obtain ⟨q, b', rfl, rfl, rfl⟩ := List.map_eq_cons_iff.mp hrest
  obtain ⟨_, hq⟩ := queueOfCtx_fields s ctx q
  obtain ⟨ha', hbefore, hafter⟩ := filter_range_split hl
  have hmem (n : Nat) : n < 256 ∧ eligibleQ s ctx n = true ↔ n ∈ a' ∨ n = q ∨ n ∈ b' := by
    rw [← List.mem_range, ← List.mem_filter, hl, List.mem_append, List.mem_cons]
  obtain ⟨hlt, helig⟩ := (hmem q).mpr (.inr (.inl rfl))
  rw [hq]
  refine ⟨⟨hlt, helig, rfl⟩, ?_, fun n hn hen => ?_⟩
  · rw [ticketsBelow, ← ha', List.map_map]
    rfl
  · obtain hna | hnq | hnb := (hmem n).mp ⟨hn, hen⟩
    · exact .inl ⟨List.mem_map_of_mem hna, hbefore n hna⟩
    · exact .inr (.inl hnq)
    · exact .inr (.inr ⟨List.mem_map_of_mem hnb, hafter n hnb⟩)

theorem mem_eligibleQueues {s : State} {ctx q : Nat} (hq : q < 256) (h : eligibleQ s ctx q = true) : queueOfCtx s ctx q ∈ eligibleQueues s ctx :=
  List.mem_map_of_mem (List.mem_filter.mpr ⟨List.mem_range.mpr hq, h⟩)

theorem lotteryWin_launchView (t : State) (ctx : Nat) (l : List Queue) : launchView (lotteryWin t ctx l).2 = launchView t := by
  unfold lotteryWin
  split
  · exact emit_launchView ..
  · dsimp only
    split
    · rfl
    · exact ctxRegWrite_launchView ..

theorem emit_lotCtx (s : State) (unit ctx ev obj payload cause) : (emit s unit ctx ev obj payload cause).lotCtx = s.lotCtx := by
  have h := emit_noted s unit ctx ev obj payload cause
  unfold Noted at h
  rw [h]

section
variable {s t u : State} {ctx : Nat} {w : Queue} (h : lotteryWin t ctx (eligibleQueues s ctx) = (some w, u))
include h

/-- The opportunity of a context leaves the round where it is, and takes one of the queues. -/
theorem lotteryWin_kept : u.lotCtx = t.lotCtx ∧ ∃ a b, eligibleQueues s ctx = a ++ w :: b := by
  unfold lotteryWin at h
  split at h
  · next q hq =>
    cases h
    obtain ⟨_, a, b, hab, _⟩ := List.find?_eq_some_iff_append.mp hq
    exact ⟨emit_lotCtx .., a, b, hab⟩
  · dsimp only at h
    split at h
    · obtain ⟨hw, rfl⟩ := Prod.mk.inj h
      obtain ⟨a, b, hab, _⟩ := largestGuard_spec hw
      exact ⟨rfl, a, b, hab⟩
    · obtain ⟨hw, rfl⟩ := Prod.mk.inj h
      obtain ⟨a, b, hab, _⟩ := drawWinner_spec hw (Nat.zero_le _)
      exact ⟨ctxRegWrite_lotCtx .., a, b, hab⟩

/-- A queue that has been passed over too often wins, the lowest of them. -/
theorem lotteryWin_guard (hg : ∃ q < 256, eligibleQ s ctx q = true ∧ 65536 ≤ (queueOfCtx s ctx q).guard) :
    u.contexts = t.contexts ∧ 65536 ≤ w.guard ∧ ∀ q < 256, eligibleQ s ctx q = true → 65536 ≤ (queueOfCtx s ctx q).guard → w.q ≤ q := by
  obtain ⟨q, hq, helig, hguard⟩ := hg
  unfold lotteryWin at h
  split at h
  · next x hx =>
    obtain ⟨hxw, rfl⟩ := Prod.mk.inj h
    obtain rfl : x = w := Option.some.inj hxw
    obtain ⟨hx, a, b, hab, hbefore⟩ := List.find?_eq_some_iff_append.mp hx
    obtain ⟨_, _, hall⟩ := eligibleQueues_split hab
    refine ⟨noted_contexts (emit_noted ..), by simpa using hx, fun n hn hen hgn => ?_⟩
    obtain ⟨hna, _⟩ | rfl | ⟨_, hlt⟩ := hall n hn hen
    · have := hbefore _ hna
      simp only [Bool.not_eq_true', decide_eq_false_iff_not] at this
      exact absurd hgn this
    · exact Nat.le_refl _
    · exact Nat.le_of_lt hlt
  · next hnone =>
    have := List.find?_eq_none.mp hnone _ (mem_eligibleQueues hq helig)
    simp only [decide_eq_true_eq] at this
    exact absurd hguard this

theorem lotteryWin_total (hg : ∀ q < 256, eligibleQ s ctx q = true → (queueOfCtx s ctx q).guard < 65536) :
    (if ticketsBelow s ctx 256 = 0 then (largestGuard (eligibleQueues s ctx), t)
      else (drawWinner (eligibleQueues s ctx) ((lotStep ((ctxReg t ctx 0x215).setWidth 32)).toNat % ticketsBelow s ctx 256) 0,
        ctxRegWrite t ctx 0x215 ((lotStep ((ctxReg t ctx 0x215).setWidth 32)).zeroExtend 64))) = (some w, u) := by
  have hnone : (eligibleQueues s ctx).find? (fun q => decide (65536 ≤ q.guard)) = none := by
    refine List.find?_eq_none.mpr fun x hx => ?_
    obtain ⟨q, hq, rfl⟩ := List.mem_map.mp hx
    obtain ⟨hrange, helig⟩ := List.mem_filter.mp hq
    have := hg q (List.mem_range.mp hrange) helig
    simp only [decide_eq_true_eq]
    omega
  have htotal : ((eligibleQueues s ctx).map (·.tickets.toNat)).sum = ticketsBelow s ctx 256 := by
    rw [ticketsBelow, eligibleQueues, List.map_map]
    rfl
  unfold lotteryWin at h
  rw [hnone] at h
  dsimp only at h
  rwa [htotal] at h

/-- Without tickets the queue that has waited longest wins. -/
theorem lotteryWin_noTickets (hg : ∀ q < 256, eligibleQ s ctx q = true → (queueOfCtx s ctx q).guard < 65536) (h0 : ticketsBelow s ctx 256 = 0) :
    u = t ∧ ∀ q < 256, eligibleQ s ctx q = true → (queueOfCtx s ctx q).guard < w.guard ∨ (queueOfCtx s ctx q).guard = w.guard ∧ w.q ≤ q := by
  have hwin := lotteryWin_total h hg
  rw [if_pos h0] at hwin
  obtain ⟨hw, hu⟩ := Prod.mk.inj hwin
  obtain ⟨a, b, hab, ha, hb⟩ := largestGuard_spec hw
  obtain ⟨⟨_, _, hweq⟩, _, hall⟩ := eligibleQueues_split hab
  refine ⟨hu.symm, fun q hq helig => ?_⟩
  obtain ⟨hqa, _⟩ | rfl | ⟨hqb, hlt⟩ := hall q hq helig
  · exact .inl (ha _ hqa)
  · exact .inr ⟨by rw [← hweq], Nat.le_refl _⟩
  · have := hb _ hqb
    omega

/-- Otherwise a draw of the generator decides. -/
theorem lotteryWin_draw (hg : ∀ q < 256, eligibleQ s ctx q = true → (queueOfCtx s ctx q).guard < 65536) (h0 : ticketsBelow s ctx 256 ≠ 0) :
    let step := lotStep ((ctxReg t ctx 0x215).setWidth 32)
    u = ctxRegWrite t ctx 0x215 (step.zeroExtend 64) ∧ ticketsBelow s ctx w.q ≤ step.toNat % ticketsBelow s ctx 256 ∧
      step.toNat % ticketsBelow s ctx 256 < ticketsBelow s ctx w.q + w.tickets.toNat := by
  have hwin := lotteryWin_total h hg
  rw [if_neg h0] at hwin
  obtain ⟨hw, hu⟩ := Prod.mk.inj hwin
  obtain ⟨a, b, hab, hlow, hhigh⟩ := drawWinner_spec hw (Nat.zero_le _)
  obtain ⟨_, hsum, _⟩ := eligibleQueues_split hab
  rw [hsum, Nat.zero_add] at hlow hhigh
  exact ⟨hu.symm, hlow, hhigh⟩

end

/-! ### The winning context and kernel (R128) -/

theorem mem_lotteryCtxs (s : State) (ctx : Nat) : ctx ∈ lotteryCtxs s ↔ ∃ y, lotReady s y ∧ y.ctx = ctx := by
  rw [lotteryCtxs, mem_sortNat, List.mem_map]
  simp only [mem_lottery_iff]

/-- The round goes on to the next context above the last one, or starts again at the lowest. -/
theorem nextLotCtx_spec {s : State} {ctx : Nat} (h : nextLotCtx s = some ctx) :
    (∀ y, lotReady s y → s.lotCtx < y.ctx → s.lotCtx < ctx ∧ ctx ≤ y.ctx) ∧
      ((∀ y, lotReady s y → y.ctx ≤ s.lotCtx) → ∀ y, lotReady s y → ctx ≤ y.ctx) := by
  have hsorted : (lotteryCtxs s).Pairwise (· < ·) := sortNat_pairwise _
  have hmem (y : Kernel) (hy : lotReady s y) : y.ctx ∈ lotteryCtxs s := (mem_lotteryCtxs s y.ctx).mpr ⟨y, hy, rfl⟩
  unfold nextLotCtx at h
  dsimp only at h
  split at h
  · next c hc =>
    obtain rfl : c = ctx := Option.some.inj h
    obtain ⟨hlt, a, b, hab, hbefore⟩ := List.find?_eq_some_iff_append.mp hc
    have hlt : s.lotCtx < c := by simpa using hlt
    refine ⟨fun y hy hyc => ⟨hlt, ?_⟩, fun hnone => ?_⟩
    · have hin := hmem y hy
      rw [hab] at hin hsorted
      obtain hya | rfl | hyb : y.ctx ∈ a ∨ y.ctx = c ∨ y.ctx ∈ b := by simpa using hin
      · have := hbefore _ hya
        simp only [Bool.not_eq_true', decide_eq_false_iff_not] at this
        exact absurd hyc this
      · exact Nat.le_refl _
      · obtain ⟨_, hcb, _⟩ := List.pairwise_append.mp hsorted
        exact Nat.le_of_lt ((List.pairwise_cons.mp hcb).1 _ hyb)
    · obtain ⟨y, hy, rfl⟩ := (mem_lotteryCtxs s c).mp (by rw [hab]; simp)
      have := hnone y hy
      omega
  · next hnone =>
    have hno (y : Kernel) (hy : lotReady s y) : ¬ s.lotCtx < y.ctx := by
      simpa using List.find?_eq_none.mp hnone _ (hmem y hy)
    refine ⟨fun y hy hyc => absurd hyc (hno y hy), fun _ y hy => ?_⟩
    have hin := hmem y hy
    cases hl : lotteryCtxs s with
    | nil => simp [hl] at h
    | cons c r =>
      obtain rfl : c = ctx := by simpa [hl] using h
      rw [hl] at hin hsorted
      obtain rfl | hyr := List.mem_cons.mp hin
      · exact Nat.le_refl _
      · exact Nat.le_of_lt ((List.pairwise_cons.mp hsorted).1 _ hyr)

theorem eligibleQ_iff (s : State) (ctx q : Nat) : eligibleQ s ctx q = true ↔ ∃ y, lotReady s y ∧ y.ctx = ctx ∧ y.q = q := by
  simp [eligibleQ, lotReady, and_assoc]

/-- The kernels of a context that a lottery opportunity may take. -/
def lotteryKernels (s : State) (ctx : Nat) : List Kernel := s.kernels.filter fun k => selectable s k && !edfKernel s k && k.ctx == ctx

theorem mem_lotteryKernels (s : State) (ctx : Nat) (k : Kernel) : k ∈ lotteryKernels s ctx ↔ lotReady s k ∧ k.ctx = ctx := by
  simp [lotteryKernels, lotReady, and_assoc]

/-- The queue whose guard restarts, and those that wait once more. -/
def renewedGuard (w q : Queue) : Nat := if q.q = w.q then 0 else q.guard + 1

/-- Their queues, in the order of their numbers. -/
def lotteryQueues (s : State) (ctx : Nat) : List Queue := (sortNat ((lotteryKernels s ctx).map (·.q))).map fun q => queueOfCtx s ctx q

theorem lotteryQueues_eq {s : State} (hq : ∀ y ∈ s.kernels, y.q < 256) (ctx : Nat) : lotteryQueues s ctx = eligibleQueues s ctx := by
  rw [lotteryQueues, eligibleQueues, sortNat_eq_filter fun q => ?_]
  rw [List.mem_map, eligibleQ_iff]
  simp only [mem_lotteryKernels]
  constructor
  · rintro ⟨y, ⟨hy, hyc⟩, rfl⟩
    exact ⟨hq y hy.1, y, hy, hyc, rfl⟩
  · rintro ⟨_, y, hy, hyc, rfl⟩
    exact ⟨y, ⟨hy, hyc⟩, rfl⟩

/-- How a lottery opportunity comes about: the context, the winner among its queues, and the first kernel of that queue. -/
theorem pickLottery_parts {s u : State} {k : Kernel} (h : pickLottery s = some (k, u)) :
    ∃ w v, nextLotCtx s = some k.ctx ∧ lotteryWin { s with lotCtx := k.ctx } k.ctx (lotteryQueues s k.ctx) = (some w, v) ∧ k.q = w.q ∧
      lotReady s k ∧ (∀ y, lotReady s y → y.ctx = k.ctx → y.q = k.q → k.kid ≤ y.kid) ∧
      u = (lotteryQueues s k.ctx).foldl (fun s x => putQueue s { x with guard := renewedGuard w x }) v := by
  unfold pickLottery at h
  split at h
  · cases h
  · next ctx hctx =>
    dsimp only at h
    rw [← lotteryKernels, ← lotteryQueues] at h
    split at h
    · cases h
    · next w v hwin =>
      obtain ⟨x, hx, hxu⟩ := Option.map_eq_some_iff.mp h
      obtain ⟨rfl, rfl⟩ := Prod.mk.inj hxu
      have hbest : best (fun y x : Kernel => decide (y.kid < x.kid)) ((lotteryKernels s ctx).filter fun y => y.q == w.q) = some x := by
        rw [← hx]
        unfold best
        congr 1
        funext b y
        cases b
        · rfl
        · simp only [keep, decide_eq_true_eq]
      obtain ⟨hmem, hleast⟩ := best_le (f := fun y : Kernel => (y.kid : Int)) (by simp) hbest
      obtain ⟨hmem, hxq⟩ := List.mem_filter.mp hmem
      obtain ⟨hready, rfl⟩ := (mem_lotteryKernels s ctx x).mp hmem
      have hxq : x.q = w.q := by simpa using hxq
      refine ⟨w, v, hctx, hwin, hxq, hready, fun y hy hyc hyq => ?_, rfl⟩
      have hle := hleast y (List.mem_filter.mpr ⟨(mem_lotteryKernels s x.ctx y).mpr ⟨hy, hyc⟩, by simp [hyq, hxq]⟩)
      omega

/-- It takes a kernel that is ready, and changes none. -/
theorem pickLottery_kernels {s u : State} {k : Kernel} (h : pickLottery s = some (k, u)) : lotReady s k ∧ u.kernels = s.kernels := by
  obtain ⟨w, v, _, hwin, _, hready, _, hu⟩ := pickLottery_parts h
  have hview := lotteryWin_launchView { s with lotCtx := k.ctx } k.ctx (lotteryQueues s k.ctx)
  rw [hwin] at hview
  obtain ⟨_, hkernels, _⟩ := launchView_iff.mp hview
  have hqueues := foldl_putQueue (lotteryQueues s k.ctx) (fun x => { x with guard := renewedGuard w x }) v
  rw [← hu] at hqueues
  exact ⟨hready, by rw [hqueues]; exact hkernels⟩

theorem getCtx_of_active {s : State} {ctx : Nat} (h : ctxActive s ctx = true) : ∃ c, getCtx s ctx = some c := by
  unfold ctxActive at h
  split at h
  · next c hc => exact ⟨c, hc⟩
  · cases h

theorem pickLottery_spec {s u : State} {k : Kernel} (h : pickLottery s = some (k, u)) (hq : ∀ y ∈ s.kernels, y.q < 256)
    (hwf : ∀ c ∈ s.contexts, swf c.sys = true) :
    let ctx := k.ctx
    let x (q : Nat) : Queue := queueOfCtx s ctx q
    let step := lotStep ((ctxReg s ctx 0x215).setWidth 32)
    let total := ticketsBelow s ctx 256
    let kept := ctxReg u ctx 0x215 = ctxReg s ctx 0x215
    lotReady s k ∧ (∀ y, lotReady s y → y.ctx = ctx → y.q = k.q → k.kid ≤ y.kid) ∧ u.lotCtx = ctx ∧
      (∀ y, lotReady s y → s.lotCtx < y.ctx → s.lotCtx < ctx ∧ ctx ≤ y.ctx) ∧
      ((∀ y, lotReady s y → y.ctx ≤ s.lotCtx) → ∀ y, lotReady s y → ctx ≤ y.ctx) ∧
      (∀ q < 256, eligibleQ s ctx q = true → (queueOfCtx u ctx q).guard = if q = k.q then 0 else (x q).guard + 1) ∧
      ((∃ q < 256, eligibleQ s ctx q = true ∧ 65536 ≤ (x q).guard) →
        kept ∧ 65536 ≤ (x k.q).guard ∧ ∀ q < 256, eligibleQ s ctx q = true → 65536 ≤ (x q).guard → k.q ≤ q) ∧
      ((∀ q < 256, eligibleQ s ctx q = true → (x q).guard < 65536) →
        (total = 0 → kept ∧ ∀ q < 256, eligibleQ s ctx q = true → (x q).guard < (x k.q).guard ∨ (x q).guard = (x k.q).guard ∧ k.q ≤ q) ∧
        (total ≠ 0 → ctxReg u ctx 0x215 = step.zeroExtend 64 ∧ ticketsBelow s ctx k.q ≤ step.toNat % total ∧
          step.toNat % total < ticketsBelow s ctx k.q + (x k.q).tickets.toNat)) := by
  obtain ⟨w, v, hctx, hwin, hkq, hready, hfirst, hu⟩ := pickLottery_parts h
  rw [lotteryQueues_eq hq] at hwin hu
  obtain ⟨hlot, a, b, hab⟩ := lotteryWin_kept hwin
  obtain ⟨⟨_, _, hw⟩, _, _⟩ := eligibleQueues_split hab
  have hqueues := foldl_putQueue (eligibleQueues s k.ctx) (fun x => { x with guard := renewedGuard w x }) v
  rw [← hu] at hqueues
  have hreg (n : Nat) : ctxReg u k.ctx n = ctxReg v k.ctx n := by rw [hqueues]; rfl
  have hround := nextLotCtx_spec hctx
  rw [← hkq] at hw
  dsimp only
  rw [hreg, ← hw]
  refine ⟨hready, hfirst, by rw [hqueues]; exact hlot, hround.1, hround.2, fun q hq helig => ?_, fun hg => ?_, fun hg => ⟨fun h0 => ?_, fun h0 => ?_⟩⟩
  · obtain ⟨_, hnum⟩ := queueOfCtx_fields s k.ctx q
    rw [hu, eligibleQueues, queueOfCtx_foldl_putQueue s v k.ctx (renewedGuard w), if_pos (List.mem_filter.mpr ⟨List.mem_range.mpr hq, helig⟩)]
    simp only [renewedGuard, hnum, hkq]
  · obtain ⟨hctxs, hguard, hlow⟩ := lotteryWin_guard hwin hg
    exact ⟨ctxReg_congr hctxs .., hguard, hkq ▸ hlow⟩
  · obtain ⟨rfl, hlongest⟩ := lotteryWin_noTickets hwin hg h0
    exact ⟨rfl, hkq ▸ hlongest⟩
  · obtain ⟨rfl, hlow, hhigh⟩ := lotteryWin_draw hwin hg h0
    refine ⟨?_, hkq ▸ hlow, hkq ▸ hhigh⟩
    obtain ⟨_, hsel, _⟩ := hready
    simp only [selectable, Bool.and_eq_true] at hsel
    obtain ⟨c, hc⟩ := getCtx_of_active hsel.1.1.2
    exact ctxReg_ctxRegWrite (s := { s with lotCtx := k.ctx }) hc (hwf c (List.mem_of_find?_eq_some hc)) 0x215 _

end Sys2Proof.Machine
end

section
/-! PROOFS. A placement opportunity. -/

namespace Sys2Proof.Machine

open Sys2Proof Sys2Proof.Rules

/-- The launcher selects an armed kernel. -/
theorem chooseKernel_armed {s t : State} {k : Kernel} (h : chooseKernel s = some (k, t)) : k ∈ s.kernels ∧ k.kst = .armed ∧ t.kernels = s.kernels := by
  unfold chooseKernel at h
  have harmed {x : Kernel} (hx : selectable s x = true) : x.kst = .armed := by
    simp only [selectable, Bool.and_eq_true, beq_iff_eq] at hx
    exact hx.1.1.1
  have hedf {x : Kernel} (hx : pickEdf s = some x) : x ∈ s.kernels ∧ x.kst = .armed := by
    obtain ⟨hin, hsel, _⟩ := (mem_edf_iff s x).mp (best_mem (pickEdf_eq s ▸ hx))
    exact ⟨hin, harmed hsel⟩
  have hlot {l : Kernel × State} (hx : pickLottery s = some l) : l.1 ∈ s.kernels ∧ l.1.kst = .armed ∧ l.2.kernels = s.kernels := by
    obtain ⟨⟨hin, hsel, _⟩, hkernels⟩ := pickLottery_kernels hx
    exact ⟨hin, harmed hsel, hkernels⟩
  split at h
  · next e l he hl =>
    split at h
    · cases h
      exact ⟨(hedf he).1, (hedf he).2, rfl⟩
    · cases h
      exact hlot hl
  · next e he _ =>
    cases h
    exact ⟨(hedf he).1, (hedf he).2, rfl⟩
  · next l _ hl =>
    cases h
    exact hlot hl
  · cases h

theorem placementOpportunity_drops {s : State} {k : Kernel} (hchecked : s.kernels.find? unchecked = none) (hrequest : launcherRequest s = none)
    (hroom : opportunity s = true) (hd : (s.kernels.map (·.kid)).Nodup) (hk : k ∈ s.kernels) (hlate : newlyLate s k = true)
    (hdrop : (queueOfCtx s k.ctx k.q).cfg.getLsbD 6 = true) (hst : k.kst = .queued ∨ k.kst = .waiting ∨ k.kst = .armed) :
    ∃ t, exec .placementOpportunity s = .next t ∧ Dropped t k.kid := by
  have hdropped := foldl_missDeadline_drops hd hk hlate hdrop hst
  have hd' : ((s.kernels.foldl missDeadline s).kernels.map (·.kid)).Nodup := by
    have hrest : surroundings (s.kernels.foldl missDeadline s) = surroundings s :=
      List.foldlRecOn (motive := fun t => surroundings t = surroundings s) s.kernels _ rfl fun t ht x _ =>
        (missDeadline_surroundings t x).trans ht
    simp only [surroundings, Prod.mk.injEq] at hrest
    rwa [hrest.2.2.2]
  cases hchoice : chooseKernel (s.kernels.foldl missDeadline s) with
  | none =>
    refine ⟨s.kernels.foldl missDeadline s, ?_, hdropped⟩
    show execPlacementOpportunity s = _
    simp only [execPlacementOpportunity, hchecked, hrequest, hroom, if_true, hchoice]
  | some c =>
    obtain ⟨x, u⟩ := c
    obtain ⟨hx, harmed, hkernels⟩ := chooseKernel_armed hchoice
    refine ⟨selectKernel u x, exec_placementOpportunity hchecked hrequest hroom hchoice, selectKernel_dropped ?_ ?_⟩
    · intro hkid
      obtain ⟨y, hy, hkst, _⟩ := hdropped
      have hxy : y = x := List.inj_on_of_nodup_map hd' (mem_of_getKernel hy) hx ((getKernel_kid hy).trans hkid)
      rw [hxy, harmed] at hkst
      cases hkst
    · exact dropped_congr (by rw [getKernel, getKernel, hkernels]) hdropped

theorem arbitration : Clauses.Arbitration := by
  refine ⟨fun s u k pa b hk hread hb => ⟨fun n st h => placementOpportunity_failed hk hread hb h, placementOpportunity_passed hk hread hb⟩,
    ?edf, ?lottery, ?late, fun s u k h hq hwf => pickLottery_spec h hq hwf⟩
  case edf =>
    intro s e hchecked hrequest hroom hseen he hall hclass
    refine exec_placementOpportunity hchecked hrequest hroom ?_
    rw [foldl_missDeadline hseen]
    exact chooseKernel_edf (pickEdf_earliest he hall) (hclass.imp_left pickLottery_none)
  case lottery =>
    intro s u k hchecked hrequest hroom hseen hlot hclass
    refine exec_placementOpportunity hchecked hrequest hroom ?_
    rw [foldl_missDeadline hseen]
    exact chooseKernel_lottery hlot (hclass.imp_left pickEdf_none)
  case late =>
    intro s k hchecked hrequest hroom hd hk hdue hnew hmarker hedf hctx hdrop hst
    have hover : kernelOver k = false ∧ k.kst ≠ .completing := by rcases hst with h | h | h <;> simp [kernelOver, h]
    obtain ⟨t, ht, y, hy, hkst, hstatus, hlate⟩ := placementOpportunity_drops hchecked hrequest hroom hd hk
      ((newlyLate_iff s k).mpr ⟨hedf, hmarker, hnew, hover.1, hover.2, hctx, hdue⟩) hdrop hst
    exact ⟨t, y, ht, hy, hkst, hstatus, hlate⟩

end Sys2Proof.Machine
end

section
/-! PROOFS. Records dealt, records stolen. -/

namespace Sys2Proof.Machine

open Sys2Proof Sys2Proof.Rules

/-! ### A die deals (R138, R139) -/

theorem exec_recordDeal {die : Nat} (h : die < 4) (s : State) : exec (.recordDeal die) s = .next (dealRecord s die) := by
  show Host.Outcome.next (if die < 4 then dealRecord s die else s) = _
  rw [if_pos h]

/-- The oldest record goes to a core of the die with room for it. -/
theorem recordDeal_passes {s : State} {die : Nat} {g : Group} {l : List Group} (hdie : die < 4) (hready : dieReady s die = g :: l)
    (hcores : dealCores s die ≠ []) : ∃ c ∈ dealCores s die, exec (.recordDeal die) s =
      .next { modGroup s g.gid (fun g => { g with pcore := some c }) with free := s.free + 1, asked := s.asked.filter (· ≠ c) } := by
  have hlen : 0 < (dealCores s die).length := List.length_pos_iff.mpr hcores
  let i := (Config.freeWord s.free).toNat % (dealCores s die).length
  have hi : i < (dealCores s die).length := Nat.mod_lt _ hlen
  refine ⟨(dealCores s die)[i], List.getElem_mem hi, ?_⟩
  have hget : (dealCores s die).getD i 0 = (dealCores s die)[i] := by simp [List.getD, hi]
  have hasked (c : Nat) : s.asked.filter (· != c) = s.asked.filter (· ≠ c) := List.filter_congr fun x _ => Bool.eq_iff_iff.mpr (by simp)
  rw [exec_recordDeal hdie, dealRecord, hready, ← hget]
  cases hc : dealCores s die with
  | nil => exact absurd hc hcores
  | cons c r =>
    simp only [hasked, i, hc]
    rfl

/-- Where there is none to pass on, the die takes the next record of the kernel selected first. -/
theorem recordDeal_takes {s : State} {die : Nat} {k : Kernel} {d : Desc} (hdie : die < 4) (hnone : dieReady s die = [] ∨ dealCores s die = [])
    (hk : dealable s die = some k) (hd : k.desc = some d) (hroom : (dieHeld s die).length < 32) :
    ∃ g : Group, g = { groupFresh s.nextGid k.kid k.ctx (BitVec.ofNat 32 k.dealt) (shapeOfDesc d) g.vals with die := some die } ∧
      exec (.recordDeal die) s = .next (modKernel { s with nextGid := s.nextGid + 1, groups := s.groups ++ [g] } k.kid
        fun k => { k with dealt := k.dealt + 1 }) := by
  refine ⟨{ newGroup s k k.dealt with die := some die }, by rw [newGroup, hd]; rfl, ?_⟩
  rw [exec_recordDeal hdie, dealRecord]
  rcases hnone with h | h
  · simp only [h, hk, if_pos hroom]
  · cases hr : dieReady s die <;> simp only [h, hk, if_pos hroom]

/-! ### A core steals (R139) -/

/-- A search for the longest list leaves out the empty ones. -/
theorem longestList_eq (s : State) (die : Nat) : longestList s die =
    best (fun c x => decide ((pendingList s x).length < (pendingList s c).length))
      (((List.range 32).map (die * 32 + ·)).filter fun c => decide ((pendingList s c).length ≠ 0)) := by
  unfold longestList best
  rw [List.foldl_filter]
  congr 1
  funext b c
  cases b with
  | none => by_cases h : (pendingList s c).length = 0 <;> simp [keep, h]
  | some x => by_cases h : (pendingList s c).length = 0 <;> simp [keep, h]

/-- The longest list, the lowest core on a tie. -/
theorem longestList_some {s : State} {die v : Nat} (hv : v / 32 = die) (hne : pendingList s v ≠ [])
    (hmax : ∀ c, c / 32 = die → (pendingList s c).length < (pendingList s v).length ∨
      (pendingList s c).length = (pendingList s v).length ∧ v ≤ c) : longestList s die = some v := by
  have hsorted : (((List.range 32).map (die * 32 + ·)).filter fun c => decide ((pendingList s c).length ≠ 0)).Pairwise (· < ·) :=
    (List.pairwise_lt_range.map _ fun _ _ h => by omega).filter _
  have hmem : v ∈ ((List.range 32).map (die * 32 + ·)).filter fun c => decide ((pendingList s c).length ≠ 0) := by
    refine List.mem_filter.mpr ⟨List.mem_map.mpr ⟨v % 32, by simp; omega, by omega⟩, by simpa using hne⟩
  rw [longestList_eq]
  obtain ⟨x, hx⟩ := best_isSome (better := fun c x => decide ((pendingList s x).length < (pendingList s c).length))
    (f := fun c => -((pendingList s c).length : Int)) (by intro a b; simp) (List.ne_nil_of_mem hmem)
  rw [hx]
  obtain ⟨a, b, hab, ha, hb⟩ := best_spec (f := fun c => -((pendingList s c).length : Int)) (by intro a b; simp) hx
  rw [hab] at hsorted hmem
  have hxdie : x / 32 = die := by
    have hxin : x ∈ ((List.range 32).map (die * 32 + ·)).filter fun c => decide ((pendingList s c).length ≠ 0) := by rw [hab]; simp
    obtain ⟨i, hi, rfl⟩ := List.mem_map.mp (List.mem_filter.mp hxin).1
    have := List.mem_range.mp hi
    omega
  have hxv := hmax x hxdie
  obtain hva | rfl | hvb : v ∈ a ∨ v = x ∨ v ∈ b := by simpa using hmem
  · have := ha v hva
    omega
  · rfl
  · have hlt := (List.pairwise_cons.mp (List.pairwise_append.mp hsorted).2.1).1 v hvb
    have := hb v hvb
    omega

theorem longestList_none {s : State} {die : Nat} (h : ∀ c, c / 32 = die → pendingList s c = []) : longestList s die = none := by
  rw [longestList_eq, List.filter_eq_nil_iff.mpr fun c hc => ?_]
  · rfl
  · obtain ⟨i, hi, rfl⟩ := List.mem_map.mp hc
    have := List.mem_range.mp hi
    simp [h (die * 32 + i) (by omega)]

/-- The younger half of the longest list, rounded up. -/
theorem stealable_half {s : State} {core v : Nat} (husable : coreUsable s core = true) (hempty : pendingList s core = [])
    (hv : longestList s (dieOf core) = some v) : stealable s core = (pendingList s v).drop ((pendingList s v).length / 2) := by
  have hhalf (n : Nat) : n - ceilDiv n 2 = n / 2 := by
    simp only [ceilDiv]
    omega
  rw [stealable, if_neg (by simp [husable, hempty]), hv]
  simp only [hhalf]

theorem stealable_none {s : State} {core : Nat} (h : longestList s (dieOf core) = none) : stealable s core = [] := by
  rw [stealable, h]
  split <;> rfl

/-- A record in the list of another core. -/
def toCore (core : Nat) (g : Group) : Group := { g with pcore := some core }

/-- Each group of a list gets another core, and nothing else changes. -/
theorem foldl_toCore (s : State) (core : Nat) (l : List Group) :
    let t := l.foldl (fun s g => modGroup s g.gid (toCore core)) s
    t = { s with groups := t.groups } ∧ ∀ n, getGroup t n = (getGroup s n).map fun g => if n ∈ l.map (·.gid) then toCore core g else g := by
  induction l generalizing s with
  | nil => exact ⟨rfl, fun n => by simp⟩
  | cons x r ih =>
    obtain ⟨hrest, hget⟩ := ih (modGroup s x.gid (toCore core))
    refine ⟨hrest, fun n => ?_⟩
    rw [List.foldl_cons, hget, getGroup_modGroup _ _ _ (toCore core) fun _ => rfl, List.map_cons]
    by_cases hn : n = x.gid
    · subst hn
      simp [Function.comp_def, toCore]
    · simp [hn]

theorem exec_stealRequest (core : Nat) (s : State) : exec (.stealRequest core) s = .next
    { (stealable s core).foldl (fun s g => modGroup s g.gid (toCore core)) s with asked := s.asked.filter (· ≠ core) ++ [core] } := by
  have hasked : s.asked.filter (· != core) = s.asked.filter (· ≠ core) := List.filter_congr fun x _ => Bool.eq_iff_iff.mpr (by simp)
  rw [← hasked]
  rfl

theorem mem_pendingList {s : State} {core : Nat} {g : Group} (h : g ∈ pendingList s core) : g ∈ s.groups :=
  (List.mem_filter.mp ((mem_sortBy _ _ g).mp h)).1

/-- A core with an empty list takes the younger half of the longest list of its die. -/
theorem stealRequest_takes {s : State} {core v : Nat} (husable : coreUsable s core = true) (hempty : pendingList s core = [])
    (hd : (s.groups.map (·.gid)).Nodup) (hdie : v / 32 = core / 32)
    (hmax : ∀ c, c / 32 = core / 32 → (pendingList s c).length < (pendingList s v).length ∨
      (pendingList s c).length = (pendingList s v).length ∧ v ≤ c) (hne : pendingList s v ≠ []) :
    let l := pendingList s v
    ∃ t, exec (.stealRequest core) s = .next t ∧ t = { s with groups := t.groups, asked := s.asked.filter (· ≠ core) ++ [core] } ∧
      ∀ gid g, getGroup s gid = some g → getGroup t gid =
        some (if g ∈ l.drop (l.length / 2) then { g with pcore := some core } else g) := by
  have hstolen := stealable_half husable hempty (longestList_some (die := dieOf core) hdie hne hmax)
  obtain ⟨hrest, hget⟩ := foldl_toCore s core (stealable s core)
  refine ⟨_, exec_stealRequest core s, ?_, fun n g hg => ?_⟩
  · generalize (stealable s core).foldl (fun s g => modGroup s g.gid (toCore core)) s = t at hrest ⊢
    rw [hrest]
  · refine (hget n).trans ?_
    have hgid := getGroup_gid hg
    have hiff : n ∈ (stealable s core).map (·.gid) ↔ g ∈ (pendingList s v).drop ((pendingList s v).length / 2) := by
      rw [hstolen, List.mem_map]
      constructor
      · rintro ⟨x, hx, hxn⟩
        rwa [← List.inj_on_of_nodup_map hd (mem_pendingList (List.mem_of_mem_drop hx)) (mem_of_getGroup hg) (hxn.trans hgid.symm)]
      · exact fun hx => ⟨g, hx, hgid⟩
    simp only [hg, Option.map_some, hiff]
    rfl

/-- A steal that meets empty lists takes nothing; the core has asked. -/
theorem stealRequest_none {s : State} {core : Nat} (h : ∀ c, c / 32 = core / 32 → pendingList s c = []) :
    exec (.stealRequest core) s = .next { s with asked := s.asked.filter (· ≠ core) ++ [core] } := by
  rw [exec_stealRequest, stealable_none (longestList_none h)]
  rfl

end Sys2Proof.Machine
end

section
/-! PROOFS. The reservation of a cohort (R103, R108, R140).

The records of the cohort are made in the order of its plan, each with its place; then each starts where its place was reserved. The proof
follows the groups of the kernel through both passes: `cohortRecords_eq` for the first, `startCohort_spec` for the second. -/

namespace Sys2Proof.Machine

open Sys2Proof Sys2Proof.Rules

/-! ### The records -/

/-- The record of a cohort's group, with its place. -/
def cohortRecord (s : State) (k : Kernel) (e : (Pos × List Nat) × Nat) : Group :=
  { newGroup s k e.2 with
    gid := s.nextGid + e.2, cores := e.1.2, die := e.1.2.head?.map dieOf, pcore := e.1.2.head?, part := e.1.1.part,
    lane0 := e.1.1.lane0, regbase := e.1.1.base }

theorem cohortRecords_eq (s : State) (k : Kernel) (l : List (Pos × List Nat)) : cohortRecords s k l =
    { s with nextGid := s.nextGid + l.length, groups := s.groups ++ (l.zip (List.range l.length)).map (cohortRecord s k) } := by
  have hstep (n : Nat) (r : List (Pos × List Nat)) (gs : List Group) :
      (r.zip (List.range' n r.length)).foldl (fun s e =>
        let g := { newGroup s k e.2 with
                   cores := e.1.2, die := e.1.2.head?.map dieOf, pcore := e.1.2.head?, part := e.1.1.part,
                   lane0 := e.1.1.lane0, regbase := e.1.1.base }
        { s with nextGid := s.nextGid + 1, groups := s.groups ++ [g] }) { s with nextGid := s.nextGid + n, groups := gs } =
      { s with nextGid := s.nextGid + n + r.length, groups := gs ++ (r.zip (List.range' n r.length)).map (cohortRecord s k) } := by
    induction r generalizing n gs with
    | nil => simp
    | cons e r ih =>
      rw [List.length_cons, List.range'_succ, List.zip_cons_cons, List.foldl_cons, List.map_cons]
      have hrest := ih (n + 1) (gs ++ [cohortRecord s k (e, n)])
      rw [List.append_assoc, List.singleton_append, show s.nextGid + (n + 1) + r.length = s.nextGid + n + (r.length + 1) by omega] at hrest
      exact hrest
  have hall := hstep 0 l s.groups
  rw [← List.range_eq_range'] at hall
  exact hall

/-! ### The start of a record -/

/-- A kernel with a group that has started (R136). -/
def setRunning (k : Kernel) : Kernel := { k with kst := if k.kst = .dispatching then .running else k.kst }

theorem modGroup_launchView_congr {s t : State} (h : launchView t = launchView s) (n : Nat) (f : Group → Group) :
    launchView (modGroup t n f) = launchView (modGroup s n f) := by
  obtain ⟨hg, hk, hq, hc, hx⟩ := launchView_iff.mp h
  refine launchView_iff.mpr ⟨?_, hk, hq, hc, hx⟩
  rw [modGroup_groups, modGroup_groups, hg]

/-- What the start of a record changes of groups and kernels. -/
theorem placeRecord_launchView {s t : State} {k : Kernel} {d : Desc} {g : Group} {p : Pos} {cores : List Nat}
    (h : placeRecord s k d g p cores = some t) : ∃ (v : State) (r : Nat),
      launchView t = launchView (modKernel (modGroup s g.gid fun g => startedGroup v g k d r p cores) k.kid setRunning) := by
  unfold placeRecord at h
  split at h
  · cases h
  · next r v hr =>
    have hv : launchView (cores.foldl dropClean v) = launchView s :=
      (foldl_launchView _ v fun _ _ => dropClean_launchView ..).trans (reserveRecord_launchView hr)
    refine ⟨v, r, ?_⟩
    rw [← modKernel_launchView_congr (modGroup_launchView_congr hv g.gid fun g => startedGroup v g k d r p cores) k.kid setRunning,
      ← Option.some.inj h]
    refine modKernel_launchView_congr ?_ k.kid setRunning
    exact (barDesched_launchView ..).trans (emitGroup_launchView ..)

/-- The kernel of a cohort whose groups start: its records are counted, and it runs once one has started. -/
def CohortKernel (t : State) (k : Kernel) (some_ : Bool) : Prop :=
  ∃ y, getKernel t k.kid = some y ∧ y.cohort = true ∧ y.dealt = gridSize k ∧ (y.kst = .dispatching ∨ y.kst = .running) ∧
    (some_ = true → y.kst = .running)

/-- The group that a record has become. -/
def Started (t : State) (g : Group) : Prop :=
  ∃ h ∈ t.groups, h.gid = g.gid ∧ h.kid = g.kid ∧ h.lin = g.lin ∧ h.gst = .placing ∧ h.cores = g.cores ∧ h.part = g.part ∧ h.lane0 = g.lane0 ∧
    h.regbase = g.regbase

/-- Which groups there are, of which kernel and at which place of its grid. -/
def census (s : State) : List (Nat × Nat × W32) := s.groups.map fun g => (g.gid, g.kid, g.lin)

theorem modGroup_census (s : State) (n : Nat) {f : Group → Group} (hf : ∀ g, ((f g).gid, (f g).kid, (f g).lin) = (g.gid, g.kid, g.lin)) :
    census (modGroup s n f) = census s := by
  unfold census
  rw [modGroup_groups]
  unfold replaceIf
  rw [List.map_map]
  refine List.map_congr_left fun g _ => ?_
  simp only [Function.comp]
  split
  · exact hf g
  · rfl

section
variable {s t : State} {k : Kernel} {d : Desc} {g : Group}
  (h : placeRecord s k d g { part := g.part, lane0 := g.lane0, base := g.regbase } g.cores = some t)
include h

theorem placeRecord_census : census t = census s := by
  obtain ⟨v, r, hview⟩ := placeRecord_launchView h
  obtain ⟨hgroups, _⟩ := launchView_iff.mp hview
  rw [census, hgroups]
  exact modGroup_census s g.gid fun _ => rfl

theorem placeRecord_started (hin : (g.gid, g.kid, g.lin) ∈ census s) : Started t g := by
  obtain ⟨v, r, hview⟩ := placeRecord_launchView h
  obtain ⟨hgroups, _⟩ := launchView_iff.mp hview
  obtain ⟨x, hx, hid⟩ := List.mem_map.mp hin
  simp only [Prod.mk.injEq] at hid
  obtain ⟨hgid, hkid, hlin⟩ := hid
  refine ⟨startedGroup v x k d r { part := g.part, lane0 := g.lane0, base := g.regbase } g.cores, ?_, hgid, hkid, hlin, rfl, rfl, rfl, rfl, rfl⟩
  rw [hgroups]
  exact List.mem_map.mpr ⟨x, hx, if_pos (by simpa using hgid)⟩

theorem placeRecord_others {x : Group} (hx : Started s x) (hne : x.gid ≠ g.gid) : Started t x := by
  obtain ⟨v, r, hview⟩ := placeRecord_launchView h
  obtain ⟨hgroups, _⟩ := launchView_iff.mp hview
  obtain ⟨y, hy, hgid, hplaced⟩ := hx
  refine ⟨y, ?_, hgid, hplaced⟩
  rw [hgroups]
  exact List.mem_map.mpr ⟨y, hy, if_neg (by simpa [hgid] using hne)⟩

theorem placeRecord_kernel {b : Bool} (hk : CohortKernel s k b) : CohortKernel t k true := by
  obtain ⟨v, r, hview⟩ := placeRecord_launchView h
  obtain ⟨y, hy, hcohort, hdealt, hst, _⟩ := hk
  have hget : getKernel (modKernel (modGroup s g.gid fun x => startedGroup v x k d r { part := g.part, lane0 := g.lane0, base := g.regbase } g.cores) k.kid
      setRunning) k.kid = some (setRunning y) := getKernel_modKernel_same hy fun _ => rfl
  have hrunning : (setRunning y).kst = .running := by rcases hst with hst | hst <;> simp [setRunning, hst]
  exact ⟨setRunning y, (getKernel_congr hview k.kid).trans hget, hcohort, hdealt, .inr hrunning, fun _ => hrunning⟩

end

/-- The groups of a cohort start one after another. -/
def startList (k : Kernel) (d : Desc) (l : List Group) (s : State) : Option State :=
  l.foldl (fun r g => r.bind fun s => placeRecord s k d g { part := g.part, lane0 := g.lane0, base := g.regbase } g.cores) (some s)

theorem startList_spec {s t : State} {k : Kernel} {d : Desc} {l : List Group} (h : startList k d l s = some t) (hd : (l.map (·.gid)).Nodup)
    (hin : ∀ g ∈ l, (g.gid, g.kid, g.lin) ∈ census s) (hk : CohortKernel s k false) :
    census t = census s ∧ CohortKernel t k (decide (l ≠ [])) ∧ ∀ g ∈ l, Started t g := by
  induction l using List.reverseRecOn generalizing t with
  | nil =>
    obtain rfl : s = t := Option.some.inj h
    exact ⟨rfl, hk, by simp⟩
  | append_singleton a g ih =>
    rw [startList, List.foldl_append] at h
    obtain ⟨u, hu, hplace⟩ := Option.bind_eq_some_iff.mp h
    rw [List.map_append, List.nodup_append] at hd
    obtain ⟨hda, _, hcross⟩ := hd
    obtain ⟨hcensus, hkernel, hstarted⟩ := ih hu hda fun x hx => hin x (by simp [hx])
    refine ⟨(placeRecord_census hplace).trans hcensus, ?_, fun x hx => ?_⟩
    · simpa using placeRecord_kernel hplace hkernel
    · obtain hx | rfl : x ∈ a ∨ x = g := by simpa using hx
      · exact placeRecord_others hplace (hstarted x hx) (hcross _ (List.mem_map_of_mem hx) _ (by simp))
      · exact placeRecord_started hplace (hcensus ▸ hin x (by simp))

/-! ### The reservation -/

/-- The state in which the cores start the records. -/
def cohortReserved (s : State) (k : Kernel) (l : List (Pos × List Nat)) : State :=
  let s := cohortRecords s k l
  let s := modKernel s k.kid fun k => { k with cohort := true, dealt := gridSize k }
  let s := if kflag k 0 then makeGrid s k else s
  if kflag k 1 then makeConvoy s k else s

theorem reserveCohort_eq (s : State) {k : Kernel} {d : Desc} (hd : k.desc = some d) (l : List (Pos × List Nat)) :
    reserveCohort s k l = startCohort (cohortReserved s k l) k d := by
  unfold reserveCohort
  rw [hd]
  rfl

theorem cohortReserved_launchView (s : State) (k : Kernel) (l : List (Pos × List Nat)) : launchView (cohortReserved s k l) =
    launchView (modKernel (cohortRecords s k l) k.kid fun k => { k with cohort := true, dealt := gridSize k }) := by
  have hgrid (u : State) : launchView (makeGrid u k) = launchView u := (logBar_launchView ..).trans (putBar_launchView ..)
  have hconvoy (u : State) : launchView (makeConvoy u k) = launchView u := emit_launchView ..
  unfold cohortReserved
  dsimp only
  cases kflag k 0 <;> cases kflag k 1 <;> simp only [Bool.false_eq_true, if_false, if_true, hgrid, hconvoy]

/-- The records of a cohort's plan. -/
def planRecords (s : State) (k : Kernel) (l : List (Pos × List Nat)) : List Group := (l.zip (List.range l.length)).map (cohortRecord s k)

theorem mem_planRecords (s : State) (k : Kernel) {l : List (Pos × List Nat)} {i : Nat} {e : Pos × List Nat} (h : l[i]? = some e) :
    cohortRecord s k (e, i) ∈ planRecords s k l := by
  obtain ⟨hi, _⟩ := List.getElem?_eq_some_iff.mp h
  have hzip : (l.zip (List.range l.length))[i]? = some (e, i) := List.getElem?_zip_eq_some.mpr ⟨h, by simp [hi]⟩
  exact List.mem_map_of_mem (List.mem_of_getElem? hzip)

theorem planRecords_gids (s : State) (k : Kernel) (l : List (Pos × List Nat)) : ((planRecords s k l).map (·.gid)).Nodup := by
  have hgids : (planRecords s k l).map (·.gid) = (List.range l.length).map (s.nextGid + ·) := by
    have hsnd : (l.zip (List.range l.length)).map Prod.snd = List.range l.length := List.map_snd_zip (by simp)
    rw [← congrArg (List.map (s.nextGid + ·)) hsnd, planRecords, List.map_map, List.map_map]
    rfl
  rw [hgids]
  exact List.nodup_range.map fun _ _ h => Nat.add_left_cancel h

theorem planRecords_filter (s : State) (k : Kernel) (l : List (Pos × List Nat)) {p : Group → Bool} (hp : ∀ e, p (cohortRecord s k e) = true) :
    (planRecords s k l).filter p = planRecords s k l := by
  refine List.filter_eq_self.mpr fun g hg => ?_
  obtain ⟨e, _, rfl⟩ := List.mem_map.mp hg
  exact hp e

section
variable {s : State} {k : Kernel} {l : List (Pos × List Nat)}

theorem cohortReserved_groups : (cohortReserved s k l).groups = s.groups ++ planRecords s k l := by
  obtain ⟨hgroups, _⟩ := launchView_iff.mp (cohortReserved_launchView s k l)
  rw [hgroups, modKernel_groups, cohortRecords_eq]
  rfl

/-- Of a kernel that has no groups yet, those that a test picks out are among the records. -/
theorem cohortReserved_filter (hfresh : ∀ g ∈ s.groups, g.kid ≠ k.kid) {p : Group → Bool} (hkid : ∀ g, p g = true → g.kid = k.kid)
    (hp : ∀ e, p (cohortRecord s k e) = true) : (cohortReserved s k l).groups.filter p = planRecords s k l := by
  rw [cohortReserved_groups, List.filter_append, planRecords_filter s k l hp, List.filter_eq_nil_iff.mpr fun g hg hpg => hfresh g hg (hkid g hpg),
    List.nil_append]

theorem cohortReserved_kernel (hk : getKernel s k.kid = some k) (hwaits : cohortWaits k = true) : CohortKernel (cohortReserved s k l) k false := by
  have hget : getKernel (modKernel (cohortRecords s k l) k.kid fun k => { k with cohort := true, dealt := gridSize k }) k.kid =
      some { k with cohort := true, dealt := gridSize k } := by
    refine getKernel_modKernel_same ?_ fun _ => rfl
    rw [cohortRecords_eq]
    exact hk
  refine ⟨_, (getKernel_congr (cohortReserved_launchView s k l) k.kid).trans hget, rfl, rfl, ?_, by simp⟩
  simp only [cohortWaits, Bool.and_eq_true, Bool.or_eq_true, beq_iff_eq] at hwaits
  exact hwaits.2

theorem reserveCohort_spec {t : State} {d : Desc} (hk : getKernel s k.kid = some k) (hwaits : cohortWaits k = true) (hd : k.desc = some d)
    (hfresh : ∀ g ∈ s.groups, g.kid ≠ k.kid) (hlen : l.length = gridSize k) (h : reserveCohort s k l = some t) :
    ∃ y, getKernel t k.kid = some y ∧ y.cohort = true ∧ (k.kst = .dispatching → l ≠ [] → y.kst = .running) ∧
      y.dealt = gridSize k ∧ (t.groups.filter fun g => g.kid == k.kid).length = y.dealt ∧
      ∀ i e, l[i]? = some e → ∃ g ∈ t.groups, g.kid = k.kid ∧ g.gid = s.nextGid + i ∧ g.lin = BitVec.ofNat 32 i ∧ g.gst = .placing ∧
        g.cores = e.2 ∧ g.part = e.1.part ∧ g.lane0 = e.1.lane0 ∧ g.regbase = e.1.base := by
  have hrecord (e : (Pos × List Nat) × Nat) : ((cohortRecord s k e).kid == k.kid && (cohortRecord s k e).gst == .pending) = true := by
    show (k.kid == k.kid && GState.pending == .pending) = true
    simp
  rw [reserveCohort_eq s hd, startCohort, cohortReserved_filter hfresh (by simp +contextual) fun e => hrecord e] at h
  obtain ⟨hcensus, ⟨y, hy, hcohort, hdealt, _, hrun⟩, hstarted⟩ := startList_spec h (planRecords_gids s k l)
    (fun g hg => List.mem_map.mpr ⟨g, by rw [cohortReserved_groups]; simp [hg], rfl⟩) (cohortReserved_kernel hk hwaits)
  have hcount : (t.groups.filter fun g => g.kid == k.kid).length = l.length := by
    have hfilter (u : State) : (u.groups.filter fun g => g.kid == k.kid).length = ((census u).filter fun e => e.2.1 == k.kid).length := by
      rw [census, List.filter_map, List.length_map]
      rfl
    rw [hfilter, hcensus, ← hfilter, cohortReserved_filter hfresh (by simp) fun e => beq_self_eq_true k.kid]
    simp [planRecords]
  refine ⟨y, hy, hcohort, fun _ hl => hrun ?_, hdealt, by rw [hcount, hdealt, hlen], fun i e he => ?_⟩
  · have hne : planRecords s k l ≠ [] := by
      rw [← List.length_pos_iff, planRecords, List.length_map, List.length_zip, List.length_range, Nat.min_self]
      exact List.length_pos_iff.mpr hl
    simpa using hne
  · obtain ⟨g, hg, hgid, hkid, hlin, hplaced⟩ := hstarted _ (mem_planRecords s k he)
    exact ⟨g, hg, hkid, hgid, hlin, hplaced⟩

end

/-! ### The event -/

section
variable {s : State} {k : Kernel} {d : Desc} (hk : getKernel s k.kid = some k)
include hk

theorem cohortReservation_stays (h : ctxPlaces s k.ctx = false ∨ cohortPlan s k = none) : exec (.cohortReservation k.kid) s = .next s := by
  show execCohortReservation k.kid s = _
  rw [execCohortReservation, hk]
  rcases h with h | h
  · simp only [h, Bool.and_false, Bool.false_eq_true, if_false]
  · simp only [h]
    split <;> rfl

variable (hwaits : cohortWaits k = true) (hd : k.desc = some d)
include hwaits hd

theorem exec_cohortReservation {l : List (Pos × List Nat)} (hplaces : ctxPlaces s k.ctx = true) (hplan : cohortPlan s k = some l) :
    exec (.cohortReservation k.kid) s =
      .next (if controlPoisoned s k.ctx then raiseCtxFatal s k.ctx 1 else (reserveCohort s k l).getD (logSpace s k)) := by
  show execCohortReservation k.kid s = _
  rw [execCohortReservation, hk]
  simp only [hwaits, hd, hplaces, hplan, Option.isSome_some, Bool.and_self, if_true]

end

theorem cohortPlan_length {s : State} {k : Kernel} {l : List (Pos × List Nat)} (h : cohortPlan s k = some l) : l.length = gridSize k := by
  unfold cohortPlan at h
  split at h
  · cases h
  · dsimp only at h
    split at h
    · next hl =>
      cases h
      exact hl.1
    · cases h

/-- A change of a kernel beside what is logged. -/
theorem modKernel_noted {s t : State} (h : Noted s t) (n : Nat) (f : Kernel → Kernel) : Noted (modKernel s n f) (modKernel t n f) := by
  unfold Noted at h
  rw [h]
  rfl

theorem logSpace_noted (s : State) (k : Kernel) :
    Noted (if k.spaceLogged then s else modKernel s k.kid fun k => { k with spaceLogged := true }) (logSpace s k) := by
  unfold logSpace
  split
  · exact noted_refl s
  · exact modKernel_noted (emit_noted ..) ..

theorem cohortWait_late {s : State} {k : Kernel} {d : Desc} (hk : getKernel s k.kid = some k) (hwaits : cohortWaits k = true) (hd : k.desc = some d)
    (hnew : k.waitLogged = false) (hlate : k.holdSince + 1000000 ≤ s.chron.ns.toNat) :
    Answers (.cohortWait k.kid) s (modKernel s k.kid fun k => { k with waitLogged := true }) := by
  have hdue : cohortLate s k = true := by
    rw [cohortLate, hwaits, hd, hnew, now, decide_eq_true hlate]
    rfl
  refine ⟨_, ?_, modKernel_noted (emit_noted s unitHost (some k.ctx) evCohortWait (k.ctx % 1024) 0 0) k.kid _⟩
  show execCohortWait k.kid s = _
  rw [execCohortWait, hk]
  simp only [hdue, if_true]

theorem cohortWait_early {s : State} {k : Kernel} (hk : getKernel s k.kid = some k)
    (h : k.waitLogged = true ∨ s.chron.ns.toNat < k.holdSince + 1000000) : exec (.cohortWait k.kid) s = .next s := by
  have hdue : cohortLate s k = false := by
    rcases h with h | h
    · simp [cohortLate, h]
    · rw [cohortLate, now, decide_eq_false (Nat.not_le.mpr h), Bool.and_false]
  show execCohortWait k.kid s = _
  rw [execCohortWait, hk]
  simp only [hdue, Bool.false_eq_true, if_false]

theorem dealing : Clauses.Dealing := by
  refine ⟨fun s die g l hdie hready hcores => recordDeal_passes hdie hready hcores, fun s die k d hdie hnone hk hd hroom => ?_,
    fun s core v husable hempty hd hdie hmax hne => stealRequest_takes husable hempty hd hdie hmax hne,
    fun s core h => stealRequest_none h, ?cohort⟩
  · refine recordDeal_takes hdie (hnone.imp_left fun h => ?_) hk hd hroom
    rw [dieReady, List.filter_eq_nil_iff.mpr fun g hg => by simp [h g hg]]
    rfl
  case cohort =>
    intro s kid k d hk hkid hwaits hd
    subst hkid
    refine ⟨cohortReservation_stays hk, fun l hplaces hplan hfresh => ?_, cohortWait_late hk hwaits hd, cohortWait_early hk⟩
    have hexec := exec_cohortReservation hk hwaits hd hplaces hplan
    refine ⟨fun hpoison => ?_, fun hclean hfull => ?_, fun hclean t ht => ?_⟩
    · rw [hexec, if_pos hpoison]
    · refine ⟨_, hexec, ?_⟩
      rw [hclean, hfull]
      exact logSpace_noted s k
    · refine ⟨by rw [hexec, hclean, ht]; rfl, ?_⟩
      exact reserveCohort_spec hk hwaits hd (fun g hg => (hfresh g hg).1) (cohortPlan_length hplan) ht

/-- Settles O55: the kernel that a placement opportunity takes, and how its groups come to cores. -/
theorem arbitrationAndDealing : Obligations.ArbitrationAndDealing := ⟨arbitration, dealing⟩

end Sys2Proof.Machine
end

section
/-! PROOFS. Taking a trap and entering its handler.

`enterHandler_eq` says once what an executor that enters its handler saves; the clauses of a trap outside a handler follow from it with
the trap slot that `freeSlot` finds. -/

namespace Sys2Proof.Machine

open Sys2Proof Sys2Proof.Rules

/-! ### The trap slot (R153) -/

theorem freeSlot_lowest {g : Group} {n : Nat} (hn : n < 32) (hfree : ∀ x ∈ g.strands, x.slot ≠ some n)
    (hlow : ∀ m < n, ∃ x ∈ g.strands, x.slot = some m) : freeSlot g = some n := by
  refine List.find?_range_eq_some.mpr ⟨?_, List.mem_range.mpr hn, fun m hm => ?_⟩
  · simpa using hfree
  · simpa using hlow m hm

theorem freeSlot_none {g : Group} (h : ∀ n < 32, ∃ x ∈ g.strands, x.slot = some n) : freeSlot g = none := by
  refine List.find?_range_eq_none.mpr fun n hn => ?_
  simpa using h n hn

/-! ### What a trap saves (R113, R191, R362) -/

theorem fld_low {n : Nat} (x : BitVec n) (hi : Nat) : fld x hi 0 = (x.setWidth (hi + 1)).toNat := by simp [fld]

theorem writeTrapRegs_eq (t : Thread) (ti : TrapInfo) : writeTrapRegs t ti =
    { t with tcause := ti.cause, taddrlo := ti.addr.setWidth 64, taddrhi := (ti.addr >>> 64).setWidth 8, tinfo := ti.info } := by
  have hlo : BitVec.ofNat 64 (fld ti.addr 63 0) = ti.addr.setWidth 64 := by rw [fld_low, BitVec.ofNat_toNat, BitVec.setWidth_eq]
  have hhi : BitVec.ofNat 8 (fld ti.addr 71 64) = (ti.addr >>> 64).setWidth 8 := BitVec.eq_of_toNat_eq (by simp [fld])
  rw [writeTrapRegs, hlo, hhi]

/-- A thread that enters its handler, with the trap slot that it holds there. -/
def trapSaved (ti : TrapInfo) (slot : Option Nat) (t : Thread) : Thread :=
  { t with tcause := ti.cause, taddrlo := ti.addr.setWidth 64, taddrhi := (ti.addr >>> 64).setWidth 8, tinfo := ti.info,
           tpc := trapResume t ti.resume, inh := true, slot := slot, ptrap := none, fixed := endFixed t.fixed,
           caps := t.caps.map fun c => { c with mode := .suspended, intents := [], path := 0 } }

theorem suspendCapsule_eq (t : Thread) :
    suspendCapsule t = { t with caps := t.caps.map fun c => { c with mode := .suspended, intents := [], path := 0 } } := by
  obtain ⟨⟩ := t
  next caps _ _ _ _ _ => cases caps <;> rfl

theorem trapSaved_eq (ti : TrapInfo) (slot : Option Nat) (t : Thread) : trapSaved ti slot t = suspendCapsule { writeTrapRegs t ti with
    tpc := trapResume t ti.resume, inh := true, slot := slot, ptrap := none, fixed := endFixed t.fixed } := by
  rw [suspendCapsule_eq, writeTrapRegs_eq]
  rfl

/-- The state in which an executor has saved its trap, with the record of it. -/
def trapLogged (s : State) (id : ThreadId) (g : Group) (t : Thread) (ti : TrapInfo) (slot : Option Nat) : State :=
  emitExec (modThread s id (trapSaved ti slot)) (modThreadOf g id.who (trapSaved ti slot)) id.who evTrap g.lin.toNat
    (ti.cause.toNat * 2 ^ 40 + ((trapResume t ti.resume).setWidth 40).toNat)

theorem getGroup_modThread {s : State} {id : ThreadId} {g : Group} (hg : getGroup s id.gid = some g) (f : Thread → Thread) :
    getGroup (modThread s id f) id.gid = some (modThreadOf g id.who f) := by
  rw [modThread, getGroup_modGroup _ _ _ _ fun g => modThreadOf_gid g id.who f, if_pos rfl, hg, Option.map_some]

theorem modThreadOf_lin (g : Group) (w : Who) (f : Thread → Thread) : (modThreadOf g w f).lin = g.lin := by cases w <;> rfl

section
variable {s : State} {id : ThreadId} {g : Group} {t : Thread} (hg : getGroup s id.gid = some g) (ht : getThread g id.who = some t)
include hg ht

theorem enterHandler_eq (slot : Option Nat) (ti : TrapInfo) :
    enterHandler s id slot ti = enterVector (trapLogged s id g t ti slot) id := by
  unfold enterHandler
  simp only [← trapSaved_eq, getGroup_modThread hg, modNth_pilot_some g id.who t _ ht, modThreadOf_lin, fld_low]
  rfl

/-! ### A trap (R152, R153, R196) -/

/-- A trap outside a handler, where the trap slot that the executor needs is free. -/
theorem takeTrap_enters (hi : t.inh = false) {slot : Option Nat} (ti : TrapInfo)
    (h : id.who = .pilot ∧ slot = none ∨ (∃ k, id.who = .strand k) ∧ freeSlot g = slot ∧ slot.isSome = true) :
    takeTrap s id ti = enterVector (trapLogged s id g t ti slot) id := by
  rw [← enterHandler_eq hg ht]
  obtain ⟨gid, who⟩ := id
  rcases h with ⟨rfl, rfl⟩ | ⟨⟨k, rfl⟩, hslot, hsome⟩
  · simp only [takeTrap, hg, ht, hi]
    rfl
  · obtain ⟨n, rfl⟩ := Option.isSome_iff_exists.mp hsome
    simp only [takeTrap, hg, ht, hi, hslot]
    rfl

theorem takeTrap_waits (hi : t.inh = false) {k : Nat} (hw : id.who = .strand k) (hslot : freeSlot g = none) (ti : TrapInfo) :
    takeTrap s id ti = modThread s id fun t => { t with run := .stalled .trapSlot, ptrap := some ti, fixed := endFixed t.fixed } := by
  obtain ⟨gid, who⟩ := id
  subst hw
  simp only [takeTrap, hg, ht, hi, hslot]
  rfl

theorem takeTrap_nested (hi : t.inh = true) {k : Nat} (hw : id.who = .strand k) (ti : TrapInfo) : takeTrap s id ti =
    settleHalt (emitExec (modThread s id fun t => { writeTrapRegs t ti with run := .trapped, fixed := endFixed t.fixed })
      g id.who evNestedTrap g.lin.toNat (ti.cause.toNat * 2 ^ 40 + fld ti.addr 39 0)) id.gid := by
  obtain ⟨gid, who⟩ := id
  subst hw
  simp only [takeTrap, hg, ht, hi, if_true]

theorem takeTrap_pilotNested (hi : t.inh = true) (hw : id.who = .pilot) (ti : TrapInfo) : takeTrap s id ti =
    groupFault (emitExec s g .pilot evNestedTrap g.lin.toNat (ti.cause.toNat * 2 ^ 40 + fld ti.addr 39 0)) id.gid 1 := by
  obtain ⟨gid, who⟩ := id
  subst hw
  simp only [takeTrap, hg, ht, hi, if_true]

end

/-! ### The vector (R152, R191) -/

/-- The vector at which an executor enters its handler. -/
def vectorOf (g : Group) (w : Who) : W64 := match w with | .pilot => g.vals.ptvec | .strand _ => g.vals.tvec

section
variable {s : State} {id : ThreadId} {g : Group} {t : Thread} (hg : getGroup s id.gid = some g) (ht : getThread g id.who = some t)
include hg ht

theorem enterVector_passes {u : State} (hreaches : refusedAt t.failed (vaOf g.vals.tvreach (vectorOf g id.who)) .fetch = none)
    (hpass : landingCheck s g id.who g.vals.tvreach (vectorOf g id.who) 0xFF = (.pass, u)) :
    enterVector s id = modThread u id fun t => { t with pc := vectorOf g id.who, run := .ready, failed := none } := by
  obtain ⟨gid, who⟩ := id
  cases who with
  | pilot =>
    dsimp only [vectorOf] at hreaches hpass
    simp only [enterVector, hg, ht, hreaches, hpass, Option.isSome_none, Bool.false_eq_true, if_false]
    rfl
  | strand k =>
    dsimp only [vectorOf] at hreaches hpass
    simp only [enterVector, hg, ht, hreaches, hpass, Option.isSome_none, Bool.false_eq_true, if_false]
    rfl

theorem enterVector_refused (hrefused : refusedAt t.failed (vaOf g.vals.tvreach (vectorOf g id.who)) .fetch ≠ none) :
    enterVector s id = groupFault (emitGroup s g evTrapvecBad 0).2 id.gid 2 := by
  simp only [enterVector, hg, ht]
  exact if_pos (Option.isSome_iff_ne_none.mpr hrefused)

end

/-! ### The obligation -/

theorem trapEntry : Clauses.TrapEntry := by
  intro s id g t ti hg ht
  refine ⟨?pilot, ?strand, ?waits, ?nested, ?pilotNested⟩
  case pilot => exact fun hi hw => takeTrap_enters hg ht hi ti (.inl ⟨hw, rfl⟩)
  case strand =>
    exact fun hi hw n hn hfree hlow => takeTrap_enters hg ht hi ti (.inr ⟨hw, freeSlot_lowest hn hfree hlow, rfl⟩)
  case waits =>
    rintro hi ⟨k, hw⟩ hfull
    exact takeTrap_waits hg ht hi hw (freeSlot_none hfull) ti
  case nested =>
    rintro hi ⟨k, hw⟩
    simp only [takeTrap_nested hg ht hi hw, writeTrapRegs_eq, fld_low]
  case pilotNested =>
    intro hi hw
    rw [takeTrap_pilotNested hg ht hi hw, fld_low]

theorem handlerEntry : Clauses.HandlerEntry := fun _ _ _ _ _ hg ht => ⟨enterVector_passes hg ht, enterVector_refused hg ht⟩

/-- Settles O37, from what a trap does outside and inside a handler and from the landing check at the vector. -/
theorem trapsAndHandlers : Obligations.TrapsAndHandlers := ⟨trapEntry, handlerEntry⟩

end Sys2Proof.Machine
end

section
/-! PROOFS. RELEASE, the decision queue and PHALT.

`popEntry_entry` and `popEntry_empty` say once what a pop does with the group that it finds, and `exec_popGang` carries that to the
instruction. A RELEASE visits the strands one after another (`foldl_releaseOne`, `foldl_modNth`). -/

namespace Sys2Proof.Machine

open Sys2Proof Sys2Proof.Rules

/-! ### The group of the executor that issues -/

theorem solo_group {s : State} {f : Fields} {v : View} (h : Solo s f v) : getGroup s v.g.gid = some v.g := by
  obtain ⟨hv, -⟩ := h
  obtain ⟨g, hviews, hg, -⟩ := viewsOf_spec hv
  obtain ⟨-, rfl, -⟩ := hviews v (by simp)
  exact hg

/-- The executor's group once it has gone on to the next instruction. -/
def pastGroup (v : View) : Group := modThreadOf v.g v.who fun t => { t with pc := nextPc v }

theorem getGroup_past {s : State} {f : Fields} {v : View} (h : Solo s f v) : getGroup (past s v) v.g.gid = some (pastGroup v) :=
  getGroup_modThread (id := vid v) (solo_group h) _

theorem pastGroup_dq (v : View) : (pastGroup v).dq = v.g.dq := by unfold pastGroup; cases v.who <;> rfl

theorem pilotHalted_pastGroup (v : View) : pilotHalted (pastGroup v) = pilotHalted v.g := by unfold pastGroup; cases v.who <;> rfl

theorem groupAcquire_pastGroup (s : State) (v : View) : groupAcquire s (pastGroup v) v.who = groupAcquire s v.g v.who := by
  unfold pastGroup
  cases v.who <;> rfl

/-! ### RELEASE (R166) -/

/-- Strand k after a RELEASE of a range. -/
def releasedIn (sentry : W64) (first n k : Nat) (x : Thread) : Thread :=
  if first ≤ k ∧ k < first + n ∧ x.run = .new then { x with run := .ready, pc := sentry } else x

/-- What a RELEASE of a range does at one strand. -/
def releaseOne (first n : Nat) (g : Group) (k : Nat) : Group :=
  if first ≤ k ∧ k < first + n then
    modThreadOf g (.strand k) fun t => if t.run = .new then { t with run := .ready, pc := g.sentry } else t
  else g

theorem modNth_id {α : Type} (l : List α) (k : Nat) : modNth l k (fun x => x) = l := by
  refine List.ext_getElem? fun j => ?_
  rw [getElem?_modNth]
  split <;> simp

theorem releaseOne_eq (first n : Nat) (g : Group) (k : Nat) :
    releaseOne first n g k = { g with strands := modNth g.strands k (releasedIn g.sentry first n k) } := by
  unfold releaseOne
  split
  · next hin =>
    have hstart : releasedIn g.sentry first n k = fun t => if t.run = .new then { t with run := .ready, pc := g.sentry } else t :=
      funext fun x => by simp [releasedIn, hin]
    rw [hstart, modThreadOf]
  · next hout =>
    have hsame : releasedIn g.sentry first n k = fun x => x := funext fun x => if_neg fun ⟨hlo, hhi, _⟩ => hout ⟨hlo, hhi⟩
    rw [hsame, modNth_id]

theorem foldl_releaseOne (first n : Nat) (ks : List Nat) (g : Group) : ks.foldl (releaseOne first n) g =
    { g with strands := ks.foldl (fun l k => modNth l k (releasedIn g.sentry first n k)) g.strands } := by
  induction ks generalizing g with
  | nil => rfl
  | cons k ks ih => rw [List.foldl_cons, ih, releaseOne_eq, List.foldl_cons]

theorem getElem?_foldl_modNth {α : Type} (f : Nat → α → α) (l : List α) (m j : Nat) :
    ((List.range m).foldl (fun l k => modNth l k (f k)) l)[j]? = l[j]?.map fun x => if j < m then f j x else x := by
  induction m with
  | zero => simp
  | succ m ih =>
    rw [List.range_succ, List.foldl_append, List.foldl_cons, List.foldl_nil, getElem?_modNth, ih]
    rcases Nat.lt_trichotomy j m with hj | rfl | hj
    · simp [hj, hj.ne, Nat.lt_succ_of_lt hj]
    · simp
    · simp [hj.ne', Nat.not_lt_of_gt hj, Nat.not_lt.mpr hj]

/-- Each entry of a list replaced, one after another. -/
theorem foldl_modNth {α : Type} (f : Nat → α → α) (l : List α) :
    (List.range l.length).foldl (fun l k => modNth l k (f k)) l = l.mapIdx f := by
  refine (List.mapIdx_eq_iff.mpr fun j => ?_).symm
  rw [getElem?_foldl_modNth]
  refine Option.map_congr fun x hx => ?_
  obtain ⟨hj, -⟩ := List.getElem?_eq_some_iff.mp hx
  rw [if_pos hj]

/-! ### Pops of the decision queue (R167) -/

/-- The predicate of the .nb form of a pop. -/
def popPred (nb : Option Nat) (b : Bool) : List (RegId × W64) := match nb with | some n => writesP n b | none => []

theorem readyPusher_eq (g : Group) : readyPusher g =
    { g with pilot := { g.pilot with run := if g.pilot.run = .stalled .decisionQueue then .ready else g.pilot.run } } := by
  unfold readyPusher
  split <;> rfl

theorem popped_nextPark (s : State) (v : View) (r : List W64) : (popped s v r).nextPark = s.nextPark := by
  unfold popped groupAcquire acquireTo
  split <;> rfl

section
variable {f : Fields} {s : State} {v : View} (h : Solo s f v)
include h

theorem popEntry_entry {x : W64} {r : List W64} (hdq : v.g.dq = x :: r) (nb : Option Nat) : popEntry v nb (past s v) =
    applyPend (popped (past s v) v r) v { effNone with writes := writesD v 64 x.toNat ++ popPred nb true } 0 := by
  have hgid : (pastGroup v).gid = v.g.gid := modThreadOf_gid ..
  simp only [popEntry, getGroup_past h, pastGroup_dq, hdq, groupAcquire_pastGroup, hgid, readyPusher_eq]
  rfl

theorem popEntry_empty (hdq : v.g.dq = []) (nb : Option Nat) : popEntry v nb (past s v) =
    if nb.isSome then applyPend (past s v) v { effNone with writes := popPred nb false } 0
    else if pilotHalted v.g then applyPend (past s v) v { effNone with writes := writesD v 64 (2 ^ 64 - 1) } 0
    else parkAt (past s v) v (.dqpop s.nextPark) := by
  simp only [popEntry, getGroup_past h, pastGroup_dq, hdq, pilotHalted_pastGroup]
  rfl

theorem exec_popGang {i : Instr} {nb : Option Nat} {t : State} (hi : exec i s = popGang f s nb) (he : popEntry v nb (past s v) = t)
    (hpark : t.nextPark = s.nextPark) : exec i s = .next (issued s v fun _ => { t with nextPark := s.nextPark + 1 }) := by
  rw [hi, popGang, issued_gang f s v _ h, ← hpark, ← he]
  rfl

end

/-! ### A strand that parks -/

theorem modThread_noted {s t : State} (h : Noted s t) (id : ThreadId) (f : Thread → Thread) : Noted (modThread s id f) (modThread t id f) := by
  unfold Noted at h ⊢
  rw [h]
  rfl

theorem withNextPark_noted {s t : State} (h : Noted s t) (n : Nat) : Noted { s with nextPark := n } { t with nextPark := n } := by
  unfold Noted at h ⊢
  rw [h]

theorem issued_noted {s : State} {v : View} {p q : State → State} (h : Noted (p (past s v)) (q (past s v))) : Noted (issued s v p) (issued s v q) := by
  have hissued := modThread_noted h (vid v) (ageExecuted v)
  unfold Noted at hissued
  unfold issued tickFree
  unfold past at hissued
  rw [hissued]
  rfl

theorem parkAt_noted (s : State) (v : View) (p : ParkOn) : Noted
    (modThread s (vid v) fun t => { t with pc := v.t.pc, run := .parked p, fixed := endFixed t.fixed, since := now s }) (parkAt s v p) :=
  modThread_noted (countEvent_noted ..) ..

theorem parkAt_nextPark (s : State) (v : View) (p : ParkOn) : (parkAt s v p).nextPark = s.nextPark := by
  have hpark := parkAt_noted s v p
  unfold Noted at hpark
  rw [hpark]
  rfl

/-! ### PHALT (R168) -/

theorem pilotHalt_allReleased {v : View} (h : ∀ x ∈ v.g.strands, x.run ≠ .new) (s : State) : pilotHalt v s =
    afterExit (wakePops (modThread s (vid v) fun t => { t with run := .exited, fixed := endFixed t.fixed, pend := [] })
      v.g.gid v.g.strands.length) v.g.gid := by
  unfold pilotHalt
  generalize hnews : List.filter _ (List.range v.g.strands.length) = news
  have hnone : news = [] := by
    refine hnews ▸ List.filter_eq_nil_iff.mpr fun k _ => ?_
    split
    · next t ht => simpa using h t (List.mem_of_getElem? ht)
    · simp
  simp only [hnone, List.foldl_nil, List.isEmpty_nil, if_true, exitThread]

/-! ### The obligation -/

/-- Settles O14: RELEASE through the strands that it visits, the pops through the group that they find, the others by their body's cases. -/
theorem pilotAndDecisionQueue : Obligations.PilotAndDecisionQueue := by
  intro f s v h
  have hnb : exec (.dqpopNb f) s = popGang f s (some (f.a.setWidth 3).toNat) := congrArg (fun n => popGang f s (some n)) (fld_low f.a 2)
  refine ⟨?release, fun hroom => ?push, fun hfull => ?pushStalls, fun hroom => ?pushNb, fun hfull => ?pushNbFails,
    fun x r hdq => ⟨?pop, ?popNb⟩, fun hdq => ?popNbEmpty, fun hdq hended _ => ?popEnded, fun hdq hlive _ => ?popParks, fun _ hnew => ?phalt⟩
  case release =>
    refine exec_issued rfl h ?_
    refine congrArg (modGroup _ v.g.gid) (funext fun g => ?_)
    exact (foldl_releaseOne ..).trans (congrArg (fun l => { g with strands := l }) (foldl_modNth ..))
  case push => exact exec_issued rfl h (if_pos hroom)
  case pushStalls => exact exec_issued rfl h (if_neg (Nat.not_lt.mpr hfull))
  case pushNb =>
    refine exec_issued rfl h ?_
    simp only [hroom, fld_low, writesP]
    rfl
  case pushNbFails =>
    refine exec_issued rfl h ?_
    simp only [Nat.not_lt.mpr hfull, fld_low, writesP]
    rfl
  case pop =>
    rw [exec_popGang h (nb := none) rfl (popEntry_entry h hdq none) (popped_nextPark (past s v) v r), popPred, List.append_nil]
    rfl
  case popNb => exact exec_popGang h hnb (popEntry_entry h hdq _) (popped_nextPark (past s v) v r)
  case popNbEmpty => exact exec_popGang h hnb (popEntry_empty h hdq _) rfl
  case popEnded =>
    have hhalted : pilotHalted v.g = true := by simp [pilotHalted, hended]
    exact exec_popGang h rfl ((popEntry_empty h hdq none).trans (if_pos hhalted)) rfl
  case popParks =>
    have hrunning : ¬ pilotHalted v.g = true := by simp [pilotHalted, hlive]
    exact ⟨_, exec_popGang h rfl ((popEntry_empty h hdq none).trans (if_neg hrunning)) (parkAt_nextPark (past s v) v (.dqpop s.nextPark)),
      issued_noted (withNextPark_noted (parkAt_noted (past s v) v (.dqpop s.nextPark)) _)⟩
  case phalt => exact exec_issued rfl h (pilotHalt_allReleased hnew _)

end Sys2Proof.Machine
end

section
/-! PROOFS. What a halt leaves running.

A halt stops executors at instruction boundaries. One whose request is out stands at none: it is marked, and stops once its
instruction has completed. The clause of HALT and HALTF says of every executor of a RUNNING group that it has stopped with the
command, and has no premise against an instruction that waits for its response. -/

namespace Sys2Proof.Machine

open Sys2Proof Sys2Proof.Rules

/-- The pilot of the placed group has sent a request, for whose response it waits. -/
def awaitingGroup : Group := { placeGroup with pilot := { placeGroup.pilot with run := .stalled (.remote 7) } }

/-- Debug slot 0 of context 1 names that group: DBGSEL holds context 1, kernel 0 and index 0. -/
def awaitingResponse : State :=
  { State.reset with
    contexts := [{ placeContext with sys := [(0x400, 1)] }]
    groups := [awaitingGroup]
    nextTag := 8
    remotes := [{ tag := 7, ctx := 1, t := .inl { gid := 1, who := .pilot }, since := 0 }] }

theorem commands_awaitingResponse : Commands awaitingResponse 1 0 awaitingGroup :=
  ⟨by decide, ⟨_, rfl, rfl⟩, by decide +kernel, rfl, .inl (by decide +kernel)⟩

/-- Whether the pilot of group 1 has stopped in a next state. -/
def pilotStopped (o : Host.Outcome State Fault Refusal) : Option Bool :=
  match o with | .next t => (getGroup t 1).map (·.pilot.stopped) | _ => none

/-- The command leaves the pilot waiting for its response. -/
theorem pilotStopped_debugHaltf : pilotStopped (exec (.debugHaltf 1 0) awaitingResponse) = some false := by decide +kernel

/-- Refutes O25: in `awaitingResponse` the clause of HALTF has the pilot stopped, whose request is out; in the model that instruction
completes first. -/
theorem not_debugCountersLog : ¬ Obligations.DebugCountersLog := by
  rintro ⟨hdebug, -⟩
  obtain ⟨-, -, hcommands⟩ := hdebug awaitingResponse 1 0
  obtain ⟨-, hhalts, -⟩ := hcommands awaitingGroup commands_awaitingResponse (by decide)
  obtain ⟨-, -, -, hrunning⟩ := hhalts (.debugHaltf 1 0, true) (by simp)
  obtain ⟨t, h, hexec, hgroup, hthreads, -⟩ := hrunning rfl
  obtain ⟨y, hy, -, -, hstopped⟩ := hthreads .pilot awaitingGroup.pilot rfl
  have hpilot : h.pilot.stopped = true := Option.some.inj hy ▸ hstopped (.inl rfl)
  have hleft := pilotStopped_debugHaltf
  rw [hexec, pilotStopped] at hleft
  simp only [show getGroup t 1 = some h from hgroup, Option.map_some, hpilot] at hleft
  exact absurd hleft (by decide)

end Sys2Proof.Machine
end

section
/-! PROOFS. Floating instructions.

The rules take SUB and the modifier word apart bit by bit, the model by fields: one lemma for each says that they agree. `delivered_eq` says
once that the model's delivery of an exact result is the one of R218, and `computes_each` that an instruction which applies an effect at each
executor computes it; each instruction is then its exact result. -/

namespace Sys2Proof.Machine

open Sys2Proof Sys2Proof.Rules

/-! ### The fields of a floating instruction (R31, R38, R217) -/

theorem fcode_eq (v : View) : Rules.fcode v = fcode v.f := (fld_low v.f.sub 1).symm

theorem ffmt_eq (v : View) : Rules.ffmt v = ffmt v.f := congrArg fmtOf (fcode_eq v)

theorem mode_eq (v : View) : mode v = fRm v.f := by
  have hcode : ((v.f.sub >>> 2).setWidth 2).toNat = fld v.f.sub 3 2 := by simp [fld]
  have hlt : fld v.f.sub 3 2 < 4 := Nat.mod_lt _ (by decide)
  rw [mode, fRm, hcode]
  interval_cases fld v.f.sub 3 2 <;> rfl

theorem ftz_eq (v : View) : ftz v = fFtz v.f := rfl

theorem subBit_eq (v : View) (i : Nat) : subBit v i = bit1 v.f.sub i := rfl

theorem topCode_eq (v : View) : topCode v = fld v.f.sub 7 5 := by
  have hlt := v.f.sub.isLt
  simp only [topCode, fld, BitVec.toNat_ushiftRight, Nat.shiftRight_eq_div_pow]
  omega

theorem topCode_lt (v : View) : topCode v < 8 := by
  rw [topCode_eq]
  exact Nat.mod_lt _ (by decide)

theorem topCode_half (v : View) : topCode v / 2 = fld v.f.sub 7 6 := by
  rw [topCode_eq]
  simp only [fld, Nat.shiftRight_eq_div_pow]
  omega

theorem fltLatency_eq (f : Fields) : fltLatency f = fltLat f := by
  rw [fltLatency, fltLat, fcode, fld_low]

theorem zeroSign_eq (v : View) : zeroSign v = rdnZero (fRm v.f) := by
  rw [zeroSign, mode_eq]
  cases fRm v.f <;> rfl

/-- The register of a format's values (R75). -/
theorem fmtRegW_fmtOf (c : Nat) : fmtRegW (fmtOf c) = if fmtW (fmtOf c) = 64 then 64 else 32 := by
  unfold fmtOf
  split <;> rfl

theorem fmtRegW_ffmt (f : Fields) : fmtRegW (ffmt f) = if fmtW (ffmt f) = 64 then 64 else 32 := fmtRegW_fmtOf (fcode f)

/-! ### Inputs and their flags (R76, R216, R218) -/

theorem inA_eq (v : View) (fm : FloatFmt) (neg abs : Bool) :
    inA v fm neg abs = readFloat fm (fFtz v.f) neg abs (fbitsA v fm) := rfl

/-- What the reading of an input raises is nothing or DN. -/
theorem readFloat_fl (fm : FloatFmt) (b neg abs : Bool) (x : Nat) :
    (readFloat fm b neg abs x).fl = 0 ∨ (readFloat fm b neg abs x).fl = flDN := by
  unfold readFloat flagIf
  dsimp only
  split_ifs <;> simp

/-- The inputs have been read: their flags are nothing or DN. -/
def HasRead (ins : List FIn) : Prop := ∀ x ∈ ins, x.fl = 0 ∨ x.fl = flDN

theorem hasRead_nil : HasRead [] := by simp [HasRead]

section
variable {v : View} {fm : FloatFmt} {neg abs : Bool} {ins : List FIn} (h : HasRead ins)
include h

theorem HasRead.cons {b : Bool} {x : Nat} : HasRead (readFloat fm b neg abs x :: ins) := List.forall_mem_cons.mpr ⟨readFloat_fl .., h⟩

theorem HasRead.consA : HasRead (inA v fm neg abs :: ins) := h.cons
theorem HasRead.consB : HasRead (inB v fm neg abs :: ins) := h.cons
theorem HasRead.consC : HasRead (inC v fm neg :: ins) := h.cons

end

theorem flagIf_or (a b : Bool) (fl : BitVec 6) : flagIf (a || b) fl = flagIf a fl ||| flagIf b fl := by
  cases a <;> cases b <;> simp [flagIf]

theorem zero_or_flags (fl : BitVec 6) : 0 ||| fl = fl := BitVec.zero_or

theorem fl_eq_flagIf {x : FIn} (hx : x.fl = 0 ∨ x.fl = flDN) : x.fl = flagIf (x.fl != 0) flDN := by
  rcases hx with h | h <;> rw [h] <;> rfl

theorem inputFlags_cons {x : FIn} (hx : x.fl = 0 ∨ x.fl = flDN) (ins : List FIn) :
    inputFlags (x :: ins) = x.fl ||| flagIf x.snan flNV ||| inputFlags ins := by
  calc inputFlags (x :: ins)
      = (flagIf (x.fl != 0) flDN ||| flagIf (ins.any fun y => y.fl != 0) flDN) |||
          (flagIf x.snan flNV ||| flagIf (ins.any (·.snan)) flNV) := by rw [← flagIf_or, ← flagIf_or]; rfl
    _ = (x.fl ||| flagIf x.snan flNV) ||| (flagIf (ins.any fun y => y.fl != 0) flDN ||| flagIf (ins.any (·.snan)) flNV) := by
      rw [← fl_eq_flagIf hx]; ac_rfl

theorem foldl_inputFlags {ins : List FIn} (h : HasRead ins) (fl : BitVec 6) :
    ins.foldl (fun a x => a ||| x.fl ||| flagIf x.snan flNV) fl = fl ||| inputFlags ins := by
  induction ins generalizing fl with
  | nil => simp [inputFlags]
  | cons x r ih =>
    obtain ⟨hx, hr⟩ := List.forall_mem_cons.mp h
    rw [List.foldl_cons, ih hr, inputFlags_cons hx, BitVec.or_assoc, BitVec.or_assoc, BitVec.or_assoc]

theorem inputFlags_eq {ins : List FIn} (h : HasRead ins) :
    ins.foldl (fun a x => a ||| x.fl ||| flagIf x.snan flNV) 0 = inputFlags ins :=
  (foldl_inputFlags h 0).trans (zero_or_flags _)

/-! ### Results (R45, R46, R218) -/

/-- The model's delivery of an exact result is the one of R218. -/
theorem delivered_eq (v : View) (c : Nat) (flush : Bool) {ins : List FIn} (hins : HasRead ins) (r : Ext) (fl : BitVec 6) :
    fltEff v (fmtOf c) (fRm v.f) flush ins r fl = Rules.delivered v (fmtOf c) flush ins r fl := by
  simp only [fltEff, Rules.delivered, inputFlags_eq hins, fmtRegW_fmtOf, mode_eq, Bool.and_eq_true]
  rfl

theorem effOk_delivered (v : View) (fm : FloatFmt) (flush : Bool) (ins : List FIn) (r : Ext) (fl : BitVec 6) :
    EffOk v (Rules.delivered v fm flush ins r fl) := effOk_writesD ..

/-- An instruction that applies an effect at each executor computes that effect. -/
theorem computes_each {i : Instr} {f : Fields} {lat : Nat} {eff spec : View → Eff} (hi : ∀ s, exec i s = issueAlu lat f s eff)
    (he : ∀ v, v.f = f → eff v = spec v) (hok : ∀ v, EffOk v (spec v)) : Computes i f lat fun _ v => spec v :=
  computes_alu i f lat eff _ hi (fun _ v hm hf _ => he v (hf v hm)) fun _ v _ => hok v

/-- An instruction that delivers an exact result at each executor. -/
theorem computes_delivered {i : Instr} {f : Fields} {lat : Nat} {eff : View → Eff} {c : View → Nat} {flush : View → Bool}
    {ins : View → List FIn} {r : View → Ext} {fl : View → BitVec 6} (hi : ∀ s, exec i s = issueAlu lat f s eff)
    (he : ∀ v, v.f = f → eff v = fltEff v (fmtOf (c v)) (fRm v.f) (flush v) (ins v) (r v) (fl v)) (hins : ∀ v, HasRead (ins v)) :
    Computes i f lat fun _ v => Rules.delivered v (fmtOf (c v)) (flush v) (ins v) (r v) (fl v) :=
  computes_each hi (fun v hv => (he v hv).trans (delivered_eq v _ _ (hins v) _ _)) fun _ => effOk_delivered ..

/-! ### Sums and products (R219) -/

/-- Settles O4: the sign of a zero sum is the model's (`zeroSign_eq`), and each instruction delivers its exact result. -/
theorem floatArithmetic : Obligations.FloatArithmetic := by
  intro f
  simp only [zeroSign_eq, fltLatency_eq]
  refine ⟨?fadd, ?fsub, ?fmul, ?ffma⟩
  case fadd => exact computes_delivered (fun _ => rfl) (by rintro v rfl; rfl) fun _ => hasRead_nil.consB.consA
  case fsub => exact computes_delivered (fun _ => rfl) (by rintro v rfl; rfl) fun _ => hasRead_nil.consB.consA
  case fmul => exact computes_delivered (fun _ => rfl) (by rintro v rfl; rfl) fun _ => hasRead_nil.consB.consA
  case ffma => exact computes_delivered (fun _ => rfl) (by rintro v rfl; rfl) fun _ => hasRead_nil.consC.consB.consA

end Sys2Proof.Machine
end

section
/-! PROOFS. Floating minimum, maximum, compares and class.

Each function of the model that these instructions share equals the one of its rule, for any two inputs that have been read. -/

namespace Sys2Proof.Machine

open Sys2Proof Sys2Proof.Rules

/-! ### Minimum and maximum (R220) -/

theorem isNanE_eq (e : Ext) : isNanE e = (e == .nan) := by cases e <;> rfl

theorem minMaxNum_fst (fm : FloatFmt) (greater : Bool) (x y : FIn) : (minMaxNum fm greater x y).1 = chosen fm greater x y := by
  unfold minMaxNum chosen
  cases x.val <;> cases y.val <;> simp [isNanE]

/-- The flags of two inputs in the order in which the model raises them. -/
theorem inputFlags_pair {x y : FIn} (h : HasRead [x, y]) : inputFlags [x, y] = flagIf (x.snan || y.snan) flNV ||| x.fl ||| y.fl := by
  rw [← inputFlags_eq h, flagIf_or]
  simp only [List.foldl_cons, List.foldl_nil, zero_or_flags]
  ac_rfl

theorem computes_minMax {i : Instr} {f : Fields} {greater : Bool} (hi : ∀ s, exec i s = fltMinMax greater f s) :
    Computes i f (fltLat f) fun _ v =>
      let x := inA v (Rules.ffmt v) false (subBit v 5)
      let y := inB v (Rules.ffmt v) false (subBit v 6)
      { writes := writesD v (if fmtW (Rules.ffmt v) = 64 then 64 else 32) (chosen (Rules.ffmt v) greater x y)
        flags := inputFlags [x, y], ovf := 0 } := by
  refine computes_each hi ?_ fun v => effOk_writesD ..
  rintro v rfl
  dsimp only
  rw [inputFlags_pair hasRead_nil.consB.consA, ← minMaxNum_fst, ffmt_eq, fmtRegW_ffmt]
  rfl

/-! ### Compares (R221) -/

theorem fltCond_fst {cc : Nat} (hcc : cc < 8) (x y : FIn) : (fltCond cc x y).1 = compared cc x y := by
  unfold fltCond compared
  simp only [isNanE_eq]
  interval_cases cc <;> rfl

theorem fltCond_snd {cc : Nat} (hcc : cc < 8) {x y : FIn} (h : HasRead [x, y]) :
    (fltCond cc x y).2 ||| x.fl ||| y.fl = comparedFlags cc x y := by
  have hinputs : x.fl ||| y.fl = flagIf (x.fl != 0 || y.fl != 0) flDN := by
    rw [flagIf_or, ← fl_eq_flagIf (h x (by simp)), ← fl_eq_flagIf (h y (by simp))]
  rw [BitVec.or_assoc, hinputs]
  unfold fltCond comparedFlags
  simp only [isNanE_eq]
  interval_cases cc <;> rfl

theorem fltCompare_eq (v : View) : fltCompare v =
    (compared (topCode v) (inA v (Rules.ffmt v) false false) (inB v (Rules.ffmt v) false false),
      comparedFlags (topCode v) (inA v (Rules.ffmt v) false false) (inB v (Rules.ffmt v) false false)) := by
  have hcc : fld v.f.sub 7 5 < 8 := Nat.mod_lt _ (by decide)
  rw [topCode_eq, ffmt_eq, ← fltCond_fst hcc, ← fltCond_snd hcc hasRead_nil.consB.consA]
  rfl

/-! ### Class (R222) -/

theorem fltClass_eq (fm : FloatFmt) (x : Nat) : fltClass fm x = classBit fm x := by
  have hquiet : ffrac fm x / 2 ^ (fm.fb - 1) = 0 ↔ ffrac fm x < 2 ^ (fm.fb - 1) := Nat.div_eq_zero_iff_lt (by positivity)
  unfold fltClass classBit fIsSnan fIsNan fIsInf fIsSub
  by_cases htop : fexp fm x = 2 ^ fm.eb - 1 <;> by_cases hfrac : ffrac fm x = 0
  · simp [htop, hfrac]
  · simp [htop, hfrac, hquiet]
  · grind
  · grind

/-! ### The obligation -/

/-- Settles O5, by the model's own choice (`minMaxNum_fst`), conditions (`fltCond_fst`, `fltCond_snd`) and classes (`fltClass_eq`). -/
theorem floatMinMaxAndCompares : Obligations.FloatMinMaxAndCompares := by
  intro f
  simp only [fltLatency_eq]
  refine ⟨computes_minMax fun _ => rfl, computes_minMax fun _ => rfl, ?fcmp, ?fset, ?fclass⟩
  case fcmp =>
    refine computes_each (fun _ => rfl) ?_ fun v => effOk_pred ..
    rintro v rfl
    rw [fltCompare_eq, fld_low]
    rfl
  case fset =>
    refine computes_each (fun _ => rfl) ?_ fun v => effOk_writesD ..
    rintro v rfl
    dsimp only
    rw [fltCompare_eq, ffmt_eq, fmtRegW_ffmt]
  case fclass =>
    refine computes_each (fun _ => rfl) ?_ fun v => effOk_writesD ..
    rintro v rfl
    rw [fltClass_eq, ffmt_eq]
    rfl

end Sys2Proof.Machine
end

section
/-! PROOFS. Floating division, root, rounding and scaling.

Rounding to a multiple of 1 is rounding to an integer (`roundGrid_zero`): a number is an integer, or lies strictly between two neighbouring
ones, whose lower one is its floor. -/

namespace Sys2Proof.Machine

open Sys2Proof Sys2Proof.Rules

/-! ### Rounding to an integral value (R82, R226) -/

theorem ceil_eq_intCeil (x : Rat) : x.ceil = ⌈x⌉ := by
  rw [Rat.ceil_eq_neg_floor_neg, floor_eq_intFloor, Int.floor_neg, neg_neg]

/-- A rounding mode of SUB, none of them stochastic. -/
theorem fRm_ne_sr (f : Fields) (u : Nat) : fRm f ≠ .sr u := by
  unfold fRm rmOf
  split <;> simp

theorem toIntegral_intCast (n : Int) (m : Rm) : toIntegral m n = n := by
  cases m <;> simp [toIntegral, floor_eq_intFloor, ceil_eq_intCeil]

section
variable {x : Rat} {n : Int} (hlo : n < x) (hhi : x < n + 1)
include hlo hhi

theorem floor_between : x.floor = n := Int.floor_eq_iff.mpr ⟨hlo.le, hhi⟩

theorem ceil_between : x.ceil = n + 1 := by
  rw [ceil_eq_intCeil, Int.ceil_eq_iff]
  push_cast
  exact ⟨by simpa using hlo, hhi.le⟩

theorem roundGrid_zero_between {m : Rm} (hm : ∀ u, m ≠ .sr u) : roundGrid x 0 m = toIntegral m x := by
  have hlo' : n * (2 : Rat) ^ (0 : Int) < x := by simpa using hlo
  have hhi' : x < (n + 1) * (2 : Rat) ^ (0 : Int) := by simpa using hhi
  cases m with
  | sr u => exact absurd rfl (hm u)
  | rup => simp [roundGrid_rup hlo' hhi', toIntegral, ceil_between hlo hhi]
  | rdn => simp [roundGrid_rdn hlo' hhi', toIntegral, floor_between hlo hhi]
  | rtz =>
    have hx : x ≠ 0 := by
      rintro rfl
      have hneg : n < 0 := by exact_mod_cast hlo
      have hpos : 0 < n + 1 := by exact_mod_cast hhi
      omega
    simp only [roundGrid_rtz hlo' hhi', toIntegral, floor_between hlo hhi, ceil_between hlo hhi, hx.symm.le_iff_lt, zpow_zero, mul_one]
    split_ifs <;> simp
  | rne =>
    have hnear : x - n < n + 1 - x ↔ x - n < 1 / 2 := by constructor <;> intro h <;> linarith
    have hfar : n + 1 - x < x - n ↔ 1 / 2 < x - n := by constructor <;> intro h <;> linarith
    simp only [roundGrid_rne hlo' hhi', toIntegral, floor_between hlo hhi, zpow_zero, mul_one, hnear, hfar]
    rcases lt_trichotomy (x - n) (1 / 2) with h | h | h
    · rw [if_pos h, if_pos (.inl h)]
    · rw [if_neg h.not_lt, if_neg h.not_gt]
      simp [h]
    · rw [if_neg h.not_gt, if_pos h, if_neg (not_or.mpr ⟨h.not_gt, fun he => h.ne' he.1⟩), Int.cast_add, Int.cast_one]

end

/-- Rounding to a multiple of 1 is rounding to an integer. -/
theorem roundGrid_zero (x : Rat) {m : Rm} (hm : ∀ u, m ≠ .sr u) : roundGrid x 0 m = toIntegral m x := by
  obtain ⟨n, rfl | ⟨hlo, hhi⟩⟩ := multiple_or_between x 0
  · rw [roundGrid_multiple, zpow_zero, mul_one, toIntegral_intCast]
  · rw [zpow_zero, mul_one] at hlo hhi
    exact roundGrid_zero_between hlo hhi hm

theorem ratOf_eq (neg : Bool) (m : Rat) : ratOf neg m = signedVal neg m := rfl

theorem absR_eq_abs (x : Rat) : absR x = |x| := by
  unfold absR
  split_ifs with h
  · rw [abs_of_neg h]
  · rw [abs_of_nonneg (not_lt.mp h)]

/-- The rounded magnitude as the model forms it. -/
theorem magnitude_intCast (y : Int) : (if (y : Rat) < 0 then -(y : Rat) else y) = y.natAbs := by
  rw [Nat.cast_natAbs, Int.cast_abs, ← absR_eq_abs, absR]

theorem inputFlags_single {x : FIn} (h : HasRead [x]) : inputFlags [x] = x.fl ||| flagIf x.snan flNV := by
  rw [← inputFlags_eq h, List.foldl_cons, List.foldl_nil, zero_or_flags]

/-! ### Signed fields -/

/-- The low n bits as a signed integer. -/
theorem sxNat_eq {n : Nat} (hn : 0 < n) (x : Nat) : sxNat n x = (BitVec.ofNat n x).toInt := by
  obtain ⟨k, rfl⟩ := Nat.exists_eq_add_one.mpr hn
  have hhalf (u : Nat) : u < 2 ^ k ↔ 2 * u < 2 ^ (k + 1) := by rw [pow_succ]; omega
  rw [BitVec.toInt_eq_toNat_cond, BitVec.toNat_ofNat, sxNat, if_neg k.succ_ne_zero, Nat.add_sub_cancel]
  simp only [hhalf]

/-! ### The obligation -/

/-- Settles O6: FRND rounds to an integer as the rule does (`roundGrid_zero`), and the others deliver their exact results. -/
theorem floatDivisionAndScaling : Obligations.FloatDivisionAndScaling := by
  intro f
  simp only [fltLatency_eq]
  refine ⟨?fdiv, ?frcp, ?fsqrt, ?frnd, ?fscale⟩
  case fdiv => exact computes_delivered (fun _ => rfl) (by rintro v rfl; rfl) fun _ => hasRead_nil.consB.consA
  case frcp => exact computes_delivered (fun _ => rfl) (by rintro v rfl; rfl) fun _ => hasRead_nil.consA
  case fsqrt => exact computes_delivered (fun _ => rfl) (by rintro v rfl; rfl) fun _ => hasRead_nil.consA
  case frnd =>
    refine computes_each (fun _ => rfl) ?_ fun v => ?_
    · rintro v rfl
      dsimp only
      rw [inputFlags_single hasRead_nil.consA, ffmt_eq, mode_eq, fmtRegW_ffmt, inA, ftz_eq]
      generalize readFloat (ffmt v.f) (fFtz v.f) false false (fbitsA v (ffmt v.f)) = x
      obtain ⟨bits, val, fl, snan⟩ := x
      cases val with
      | nan => simp [flagIf]
      | inf neg => simp [flagIf]
      | fin neg m =>
        dsimp only
        rw [roundGrid_zero _ (fRm_ne_sr v.f), magnitude_intCast, ratOf_eq, subBit_eq]
        simp only [flagIf, Bool.and_eq_true, bne_iff_ne, ne_eq, and_comm]
    · split <;> exact effOk_writesD ..
  case fscale =>
    simp only [← sxNat_eq (show 0 < 32 by decide), ← pow2_eq]
    refine computes_delivered (fun _ => rfl) ?_ fun _ => hasRead_nil.consA
    rintro v rfl
    rfl

end Sys2Proof.Machine
end

section
/-! PROOFS. Conversions of formats and of integers, and the two-way dot product.

The range and the register image of an integer type are those of its rule (`satInt_fst`, `image_eq`), so that `toIntF` clamps, counts and
flags as R82 says. -/

namespace Sys2Proof.Machine

open Sys2Proof Sys2Proof.Rules

/-! ### Integer types (R31, R72, R73, R197) -/

section
variable {t : Nat} (ht : t < 8)
include ht

theorem width_eq : width t = tyW t := by interval_cases t <;> rfl

theorem regWidth_eq : regWidth t = tyRegW t := by interval_cases t <;> rfl

theorem tyW_pos : 0 < tyW t := by interval_cases t <;> decide

theorem least_eq : least t = minOf t := by
  rw [least, minOf, width_eq ht]
  push_cast
  rfl

theorem greatest_eq : greatest t = maxOf t := by
  rw [greatest, maxOf, width_eq ht]
  push_cast
  rfl

theorem asInt_eq (x : Nat) : asInt t x = readInt t x := by
  rw [asInt, readInt, width_eq ht]
  simp only [sxNat_eq (tyW_pos ht), BitVec.toNat_ofNat]
  rfl

theorem image_eq (x : Int) : image t x = intImage t x := by
  have hlow : (BitVec.ofInt (tyW t) x).toNat = wrapInt (tyW t) x := BitVec.toNat_ofInt ..
  have hsigned : sxNat (tyW t) (wrapInt (tyW t) x) = (BitVec.ofInt (tyW t) x).toInt := by
    rw [sxNat_eq (tyW_pos ht), ← hlow, BitVec.ofNat_toNat, BitVec.setWidth_eq]
  rw [image, intImage, width_eq ht, regWidth_eq ht, hsigned, ← hlow, BitVec.signExtend, BitVec.toNat_ofInt]
  rfl

theorem minOf_le_maxOf : minOf t ≤ maxOf t := by interval_cases t <;> decide

theorem satInt_fst (x : Int) : (satInt t x).1 = clamped t x := by
  have hle := minOf_le_maxOf ht
  rw [clamped, least_eq ht, greatest_eq ht, satInt]
  split_ifs <;> dsimp only <;> omega

theorem satInt_snd (x : Int) : (satInt t x).2 = true ↔ clamped t x ≠ x := by
  have hle := minOf_le_maxOf ht
  rw [clamped, least_eq ht, greatest_eq ht, satInt]
  split_ifs <;> simp only [ne_eq, true_iff, false_iff] <;> omega

end

/-! ### Conversion to an integer (R82, R229) -/

theorem floor_intCast (n : Int) : (n : Rat).floor = n := by rw [floor_eq_intFloor, Int.floor_intCast]

theorem toIntF_nan (t : Nat) (m : Rm) : toIntF t m .nan = (0, flNV, false) := rfl

theorem toIntF_inf {t : Nat} (ht : t < 8) (m : Rm) (neg : Bool) :
    toIntF t m (.inf neg) = (if neg then least t else greatest t, flNV, true) := by
  rw [toIntF, least_eq ht, greatest_eq ht]

theorem toIntF_fin {t : Nat} (ht : t < 8) {m : Rm} (hm : ∀ u, m ≠ .sr u) (neg : Bool) (mag : Rat) :
    toIntF t m (.fin neg mag) =
      if clamped t (toIntegral m (ratOf neg mag)) ≠ toIntegral m (ratOf neg mag) then
        (clamped t (toIntegral m (ratOf neg mag)), flNV, true)
      else (toIntegral m (ratOf neg mag), if (toIntegral m (ratOf neg mag) : Rat) ≠ ratOf neg mag then flNX else 0, false) := by
  simp only [toIntF, ← ratOf_eq, roundGrid_zero _ hm, floor_intCast, satInt_fst ht, satInt_snd ht, flagIf, bne_iff_ne]
  split
  · rfl
  · next h => rw [not_not.mp h]

/-- What FCVTI writes and raises for a converted value. -/
theorem intResult_eq {v : View} {t : Nat} (ht : t < 8) {x : FIn} (hx : HasRead [x]) (y : Int) (fl : BitVec 6) (c : Bool) :
    ({ writes := writesD v (tyRegW t) (intImage t y), flags := fl ||| x.fl, ovf := if c && ovcBit v.f then 1 else 0 } : Eff) =
      { writes := writesD v (regWidth t) (image t y), flags := fl ||| (if x.fl != 0 then flDN else 0)
        ovf := if c = true ∧ ovc v = true then 1 else 0 } := by
  have hdn : x.fl = if x.fl != 0 then flDN else 0 := fl_eq_flagIf (hx x (by simp))
  rw [← regWidth_eq ht, ← image_eq ht, ← hdn]
  simp only [Bool.and_eq_true]
  rfl

/-! ### Halves of an operand (R231) -/

theorem wrapInt_lt (w : Nat) (x : Int) : wrapInt w x < 2 ^ w := by
  have hpos : 0 < 2 ^ w := Nat.two_pow_pos w
  have hlt := Int.emod_lt_of_pos x (show (0 : Int) < (2 ^ w : Nat) by omega)
  unfold wrapInt
  omega

theorem specVal_lt (v : View) (t : Option Thread) (x : BitVec 10) (w : Nat) : specVal v t x w (wrapInt w) < 2 ^ w := by
  have hpos : 0 < 2 ^ w := Nat.two_pow_pos w
  unfold specVal
  split
  · exact Nat.mod_lt _ hpos
  · split
    · split
      · split <;> exact Nat.mod_lt _ hpos
      · exact hpos
    · split <;> exact Nat.mod_lt _ hpos
    · split
      · omega
      · exact Nat.mod_lt _ hpos
    · exact wrapInt_lt ..

theorem readB_lt (v : View) (w : Nat) : readB v w < 2 ^ w := specVal_lt ..

theorem readC_lt (v : View) (w : Nat) : readC v w < 2 ^ w := specVal_lt ..

theorem half_low (x : Nat) : x / 65536 ^ 0 % 65536 = x % 65536 := by rw [pow_zero, Nat.div_one]

theorem half_high {x : Nat} (hx : x < 2 ^ 32) : x / 65536 ^ 1 % 65536 = x / 65536 := by omega

/-! ### The obligation -/

/-- Settles O7: FCVTI by what `toIntF` gives for each kind of value, the others by the exact result that they deliver. -/
theorem floatConversions : Obligations.FloatConversions := by
  intro f
  refine ⟨?fcvt, ?fcvti, ?icvtf, ?fdot2⟩
  case fcvt =>
    refine computes_delivered (fun _ => rfl) ?_ fun _ => hasRead_nil.consA
    rintro v rfl
    have hsource : ((v.f.sub >>> 5).setWidth 2).toNat = fld v.f.sub 6 5 := by simp [fld]
    rw [hsource]
    rfl
  case fcvti =>
    refine computes_each (fun _ => rfl) ?_ fun v => ?_
    · rintro v rfl
      have ht := topCode_lt v
      dsimp only
      rw [← topCode_eq, intResult_eq ht hasRead_nil.cons, ← inA_eq, mode_eq, ffmt_eq]
      cases (inA v (ffmt v.f) false false).val with
      | nan => rw [toIntF_nan]
      | inf neg => rw [toIntF_inf ht]
      | fin neg m =>
        rw [toIntF_fin ht (fRm_ne_sr v.f)]
        dsimp only
        split <;> rfl
    · dsimp only
      split
      · exact effOk_writesD ..
      · exact effOk_writesD ..
      · split <;> exact effOk_writesD ..
  case icvtf =>
    refine computes_delivered (fun _ => rfl) ?_ fun _ => hasRead_nil
    rintro v rfl
    rw [regWidth_eq (topCode_lt v), asInt_eq (topCode_lt v), topCode_eq]
    rfl
  case fdot2 =>
    simp only [zeroSign_eq]
    refine computes_delivered (c := fun _ => 0) (fun _ => rfl) ?_ fun _ => hasRead_nil.consC.cons.cons.cons.cons
    rintro v rfl
    simp only [half_low, half_high (readA_lt v 32), half_high (readB_lt v 32)]
    rfl

end Sys2Proof.Machine
end

section
/-! PROOFS. The narrow family.

`narrowBody` is what an executor does once it has read its format-table entry, with one lemma for each outcome of the read: a poisoned
entry, one that is not narrow, and a narrow one, for which an instruction's own effect follows. -/

namespace Sys2Proof.Machine

open Sys2Proof Sys2Proof.Rules

/-! ### The format-table entry (R86, R103, R232) -/

/-- What one executor of a narrow instruction does. -/
def narrowBody (op : Nat) (f : Fields) (body : NarrowFmt → View → State → State) (v : View) (s : State) : State :=
  if formatPoisoned v.s v.g.ctx (fld f.sub 5 0) then raiseCtxFatal (retryAt s v) v.g.ctx fcFormat
  else match formatOf v.s v.g.ctx (fld f.sub 5 0) with
  | .invalid => signalTrap s v causeIllop 0 (op * 256 + 0x0A)
  | .standard _ => signalTrap s v causeIllop 0 (op * 256 + 0x0B)
  | .narrow n => body n v s

theorem narrowIssue_eq (op : Nat) (f : Fields) (s : State) (body : NarrowFmt → View → State → State) :
    narrowIssue op f s body = issueEach f s (narrowBody op f body) := rfl

section
variable {op : Nat} {body : NarrowFmt → View → State → State} {v : View}

theorem entryK_eq (v : View) : formatOf v.s v.g.ctx (fld v.f.sub 5 0) = entryK v := by rw [fld_low]; rfl

theorem soundK_eq (v : View) : formatPoisoned v.s v.g.ctx (fld v.f.sub 5 0) = false ↔ soundK v := by rw [fld_low]; rfl

theorem narrowBody_poisoned (h : ¬ soundK v) (s : State) :
    narrowBody op v.f body v s = raiseCtxFatal (modThread s (vid v) fun t => { t with pc := v.t.pc }) v.g.ctx 2 := by
  rw [← soundK_eq, Bool.not_eq_false] at h
  rw [narrowBody, if_pos h]
  rfl

theorem narrowBody_refused (h : soundK v) (hentry : ∀ n, entryK v ≠ .narrow n) (s : State) :
    narrowBody op v.f body v s = signalTrap s v causeIllop 0 (op * 256 + (if entryK v = .invalid then 0x0A else 0x0B)) := by
  rw [← soundK_eq] at h
  rw [narrowBody, h, entryK_eq]
  cases he : entryK v with
  | invalid => rfl
  | standard wid => rfl
  | narrow n => exact absurd he (hentry n)

theorem narrowBody_narrow (h : narrowHere v) (s : State) : narrowBody op v.f body v s = body (narrowK v) v s := by
  obtain ⟨hsound, hentry⟩ := h
  rw [← soundK_eq] at hsound
  rw [narrowBody, hsound, entryK_eq, hentry]
  rfl

end

/-- The width of a narrow format (R86). -/
theorem fmtEntry_width {x : W32} {n : NarrowFmt} (h : fmtEntry x = .narrow n) : n.w ≤ 8 := by
  unfold fmtEntry at h
  dsimp only at h
  generalize (if bit1 x 4 then 1 else 0) = sign at h
  split_ifs at h with hwid
  obtain rfl := FmtEntry.narrow.inj h
  exact hwid.2

theorem narrowK_width {v : View} (h : narrowHere v) : (narrowK v).w ≤ 8 := by
  obtain ⟨-, hentry⟩ := h
  unfold entryK formatOf at hentry
  split at hentry
  · exact fmtEntry_width hentry
  · cases hentry

/-! ### Narrow instructions -/

section
variable {i : Instr} {f : Fields} {op : Nat} {body : NarrowFmt → View → State → State} (hi : ∀ s, exec i s = narrowIssue op f s body)
include hi

/-- A narrow instruction computes its effect where the entry is narrow. -/
theorem computes_narrow {ok : View → Prop} {spec : View → Eff} (hok : ∀ v, ok v → narrowHere v)
    (hb : ∀ v u, v.f = f → ok v → body (narrowK v) v u = applyFixed u v 5 (spec v)) (heff : ∀ v, EffOk v (spec v)) :
    ComputesWhen i f 5 ok fun _ v => spec v :=
  computes_when i f 5 ok (fun _ _ v u => narrowBody op f body v u) _ (fun s => (hi s).trans (narrowIssue_eq ..))
    (fun _ _ v u hm hf _ ho => by
      obtain ⟨rfl, -⟩ := hf v hm
      exact (narrowBody_narrow (hok v ho) u).trans (hb v u rfl ho))
    fun _ v _ => heff v

theorem narrow_refused {s : State} {v : View} (h : Solo s f v) :
    (soundK v → (∀ n, entryK v ≠ .narrow n) → exec i s = .next (issued s v fun u =>
      signalTrap u v causeIllop 0 (op * 256 + (if entryK v = .invalid then 0x0A else 0x0B)))) ∧
    (¬ soundK v → exec i s = .next (issued s v fun u =>
      raiseCtxFatal (modThread u (vid v) fun t => { t with pc := v.t.pc }) v.g.ctx 2)) := by
  obtain rfl := solo_fields h
  exact ⟨fun hsound hentry => exec_issued ((hi s).trans (narrowIssue_eq ..)) h (narrowBody_refused hsound hentry _),
    fun hsound => exec_issued ((hi s).trans (narrowIssue_eq ..)) h (narrowBody_poisoned hsound _)⟩

theorem narrow_issued {s : State} {v : View} {effect : State → State} (h : Solo s f v) (hn : narrowHere v)
    (he : ∀ u, body (narrowK v) v u = effect u) : exec i s = .next (issued s v effect) := by
  obtain rfl := solo_fields h
  exact exec_issued ((hi s).trans (narrowIssue_eq ..)) h ((narrowBody_narrow hn _).trans (he _))

end

/-! ### Patterns bit by bit (R236) -/

theorem bitsNat_lt (n : Nat) (p : Nat → Bool) : bitsNat n p < 2 ^ n := by
  induction n with
  | zero => exact Nat.one_pos
  | succ k ih =>
    rw [bitsNat, pow_succ]
    split_ifs <;> omega

theorem testBit_bitsNat (n : Nat) (p : Nat → Bool) (i : Nat) : (bitsNat n p).testBit i = (decide (i < n) && p i) := by
  induction n with
  | zero => simp [bitsNat]
  | succ k ih =>
    have hor : bitsNat k p + (if p k then 2 ^ k else 0) = (if p k then 2 ^ k else 0) ||| bitsNat k p := by
      split_ifs
      · simpa [add_comm] using Nat.two_pow_add_eq_or_of_lt (bitsNat_lt k p) 1
      · simp
    rw [bitsNat, hor, Nat.testBit_or, ih]
    rcases lt_trichotomy i k with h | rfl | h
    · split_ifs <;> simp [h, h.ne', Nat.lt_succ_of_lt h]
    · by_cases hp : p i <;> simp [hp]
    · split_ifs <;> simp [h.ne, h.not_gt, show ¬ i < k + 1 by omega]

theorem toNat_byBit (n : Nat) (p : Nat → Bool) : (byBit n p).toNat = bitsNat n p := by
  refine Nat.eq_of_testBit_eq fun i => ?_
  rw [testBit_bitsNat, byBit, BitVec.toNat_ofNat, Nat.testBit_mod_two_pow, BitVec.testBit_toNat, BitVec.getLsbD_ofBoolListLE]
  by_cases hi : i < n <;> simp [hi]

theorem pattern_byBit (v : View) (n : Nat) (p : Nat → Bool) : pattern v (byBit n p) = bitsEff v n (bitsNat n p) := by
  rw [pattern, toNat_byBit]
  rfl

theorem nbit_eq (x i : Nat) : nbit x i = x.testBit i := by
  rw [nbit, Nat.testBit_eq_decide_div_mod_eq]
  rfl

theorem isPilot_iff (v : View) : isPilot v = true ↔ v.who = .pilot := by
  unfold isPilot
  cases v.who <;> simp

/-- The bits of a code of w bits at a place in a pool of 128 bits. -/
theorem unpacked_eq {w : Nat} (hw : w ≤ 32) {pool : Nat} (hpool : pool < 2 ^ 128) (p : Nat) :
    pool / 2 ^ min p 128 % 2 ^ w = bitsNat 32 fun j => decide (j < w) && pool.testBit (p + j) := by
  refine Nat.eq_of_testBit_eq fun j => ?_
  have hlow : (decide (j < 32) && decide (j < w)) = decide (j < w) := by
    rw [Bool.and_eq_right_iff_imp, decide_eq_true_eq, decide_eq_true_eq]
    omega
  rw [testBit_bitsNat, Nat.testBit_mod_two_pow, Nat.testBit_div_two_pow, ← Bool.and_assoc, hlow]
  rcases le_total p 128 with hp | hp
  · rw [min_eq_left hp, add_comm]
  · have hout (k : Nat) (hk : 128 ≤ k) : pool.testBit k = false :=
      Nat.testBit_lt_two_pow (hpool.trans_le (Nat.pow_le_pow_right (by decide) hk))
    rw [min_eq_right hp, hout _ (by omega), hout _ (by omega)]

/-! ### The obligation -/

/-- Settles O11, by the three outcomes of the read of the entry. The zero high bits of NUNPK in pilot code are the model's choice (log
entry 22). -/
theorem narrowFormats : Obligations.NarrowFormats := by
  intro f
  refine ⟨?ncvt, ?stochastic, ?nexp, ?bscale, ?npack, ?nunpk, ?refused⟩
  case ncvt =>
    refine computes_narrow (fun _ => rfl) (fun _ h => h.1) ?_ fun v => effOk_writesD ..
    rintro v u rfl ⟨-, hmode⟩
    rw [topCode_half] at hmode ⊢
    simp only [if_neg hmode, Bool.and_eq_true]
    rfl
  case stochastic =>
    intro s v h hn hmode
    refine narrow_issued (fun _ => rfl) h hn fun u => ?_
    obtain rfl := solo_fields h
    rw [topCode_half] at hmode
    simp only [if_pos hmode, Bool.and_eq_true]
    rfl
  case nexp =>
    refine computes_narrow (fun _ => rfl) (fun _ h => h) ?_ fun v => effOk_writesD ..
    rintro v u rfl -
    simp only [Bool.and_eq_true]
    rfl
  case bscale =>
    refine computes_narrow (fun _ => rfl) (fun _ h => h) ?_ fun v => effOk_writesD ..
    rintro v u rfl -
    rfl
  case npack =>
    refine computes_narrow (fun _ => rfl) (fun _ h => h) ?_ fun v => effOk_writesD ..
    rintro v u rfl -
    dsimp only
    rw [pattern_byBit, packBits, sxNat_eq (by decide)]
    simp only [nbit_eq, sub_nonneg, sub_lt_iff_lt_add']
  case nunpk =>
    refine computes_narrow (fun _ => rfl) (fun _ h => h) ?_ fun v => effOk_writesD ..
    rintro v u rfl hn
    have hpilot : (isPilot v && v.f.c == 0) = true ↔ v.who = .pilot ∧ v.f.c = 0 := by simp [isPilot_iff]
    have hhigh : (if v.who = .pilot ∧ v.f.c = 0 then 0 else readC v 64) < 2 ^ 64 := by
      split_ifs
      · decide
      · exact readC_lt ..
    have hpool : readA v 64 + 2 ^ 64 * (if v.who = .pilot ∧ v.f.c = 0 then 0 else readC v 64) < 2 ^ 128 := by
      have hlow := readA_lt v 64
      omega
    dsimp only
    rw [pattern_byBit, ← unpacked_eq ((narrowK_width hn).trans (by decide)) hpool]
    simp only [hpilot, mul_comm]
  case refused =>
    intro i op hmem s v h
    simp only [List.mem_cons, Prod.mk.injEq, List.not_mem_nil, or_false] at hmem
    rcases hmem with ⟨rfl, rfl⟩ | ⟨rfl, rfl⟩ | ⟨rfl, rfl⟩ | ⟨rfl, rfl⟩ | ⟨rfl, rfl⟩ <;> exact narrow_refused (fun _ => rfl) h

end Sys2Proof.Machine
end

section
/-! PROOFS. The approximated functions.

A power of two that a format holds as a normal is rounded to itself (`roundF_pow2`), and no other value of a pattern stands for it
(`eq_pow2_of_candVal`), so that a configured result within a bound of 0 is the power itself. -/

namespace Sys2Proof.Machine

open Sys2Proof Sys2Proof.Rules

/-! ### Powers of two -/

theorem ilog2_zpow (k : Int) : ilog2 (2 ^ k) = k := by
  rw [ilog2_eq (by positivity)]
  exact_mod_cast Int.log_zpow (R := Rat) one_lt_two k

theorem isPow2_zpow (k : Int) : isPow2 (2 ^ k) = true := by
  rw [isPow2, ilog2_zpow, pow2_eq, beq_self_eq_true]

/-! ### Special inputs and exact results (R224) -/

theorem rsqFn_pow4 (fm wide : FloatFmt) (k : Int) : rsqFn fm wide (.fin false (4 ^ k)) = .exact (.fin false (2 ^ (-k))) 0 := by
  have hpow : (4 : Rat) ^ k = 2 ^ (2 * k) := by rw [zpow_mul]; norm_num
  have hne : (2 : Rat) ^ (2 * k) ≠ 0 := by positivity
  rw [hpow]
  simp [rsqFn, hne, isPow2_zpow, ilog2_zpow, pow2_eq]

theorem signedVal_intCast (k : Int) : signedVal (decide (k < 0)) (k.natAbs : Rat) = k := by
  rw [signedVal, Nat.cast_natAbs, Int.cast_abs]
  rcases lt_or_ge k 0 with h | h
  · simp [h, abs_of_neg (show (k : Rat) < 0 by exact_mod_cast h)]
  · simp [h.not_gt, abs_of_nonneg (show (0 : Rat) ≤ k by exact_mod_cast h)]

theorem exp2Fn_int (fm wide : FloatFmt) {k : Int} (hlo : fmtEmin wide ≤ k) (hhi : k ≤ fmtBias wide) :
    exp2Fn fm wide (.fin (decide (k < 0)) (k.natAbs : Rat)) = .near (2 ^ k) 0 false := by
  have hrange : (fmtEmin wide : Rat) ≤ k ∧ (k : Rat) ≤ fmtBias wide := ⟨by exact_mod_cast hlo, by exact_mod_cast hhi⟩
  simp only [exp2Fn, signedVal_intCast]
  rw [if_pos ⟨Rat.den_intCast k, decide_eq_true hrange⟩, Rat.num_intCast, pow2_eq]

theorem log2Fn_pow2 (fm wide : FloatFmt) (k : Int) :
    log2Fn fm wide (.fin false (2 ^ k)) = .exact (.fin (decide (k < 0)) (k.natAbs : Rat)) 0 := by
  have hne : (2 : Rat) ^ k ≠ 0 := by positivity
  simp [log2Fn, hne, isPow2_zpow, ilog2_zpow]

theorem tanhFn_large (fm wide : FloatFmt) (s : Bool) {m : Rat} (h : 91 / 10 ≤ m) : tanhFn fm wide (.fin s m) = .exact (.fin s 1) 0 := by
  have hne : m ≠ 0 := by rintro rfl; norm_num at h
  rw [tanhFn, if_neg hne, if_pos h]

theorem approximatedSpecials : Clauses.ApproximatedSpecials := by
  intro fm wide s
  exact ⟨by simp [rsqFn], rfl, fun m hm => by simp [rsqFn, hm.ne'], rfl, rsqFn_pow4 fm wide,
    rfl, rfl, fun k => exp2Fn_int fm wide,
    by simp [log2Fn], rfl, fun m hm => by simp [log2Fn, hm.ne'], rfl, log2Fn_pow2 fm wide,
    by simp [sinFn], by simp [cosFn, oneE], rfl, rfl,
    by simp [tanhFn], rfl, fun m hm => tanhFn_large fm wide s hm⟩

/-! ### A power of two that a format holds as a normal (R80) -/

theorem zpow_two_not_neg (k : Int) : ¬ (2 : Rat) ^ k < 0 := not_lt.mpr (by positivity)

theorem decodeF_mag_nonneg {fm : FloatFmt} {x : Nat} {s : Bool} {m : Rat} (h : decodeF fm x = .fin s m) : 0 ≤ m := by
  unfold decodeF at h
  split_ifs at h <;> (obtain ⟨-, rfl⟩ := Ext.fin.inj h; rw [pow2_eq]; positivity)

/-- 2^k is a normal of the format. -/
def HoldsPow2 (fm : FloatFmt) (k : Int) : Prop := fmtEmin fm ≤ k ∧ k ≤ fmtBias fm

section
variable {fm : FloatFmt} {k : Int} (hk : HoldsPow2 fm k)
include hk

theorem pow2_le_maxf : (2 : Rat) ^ k ≤ fmtMaxf fm := by
  have htop : 2 ^ fm.fb ≤ 2 ^ (fm.fb + 1) - 1 := by
    have hpos := Nat.two_pow_pos fm.fb
    rw [pow_succ]
    omega
  calc (2 : Rat) ^ k ≤ 2 ^ (fmtBias fm : Int) := zpow_le_zpow_right₀ one_le_two hk.2
    _ = (2 ^ fm.fb : Nat) * 2 ^ ((fmtBias fm : Int) - fm.fb) := by rw [← zpow_natCast_add, add_sub_cancel]
    _ ≤ fmtMaxf fm := by
      rw [fmtMaxf, pow2_eq]
      gcongr

theorem roundMag_pow2 (rm : Rm) : roundMag false (2 ^ k) fm.fb (fmtEmin fm) none (fmtMaxf fm) rm = { ovf := false, mag := 2 ^ k, fl := 0 } := by
  have hround : roundGrid (2 ^ k) (k - fm.fb) rm = 2 ^ k := by
    have h := roundGrid_multiple (2 ^ fm.fb : Nat) (k - fm.fb) rm
    rwa [Int.cast_natCast, ← zpow_natCast_add, add_sub_cancel] at h
  simp only [roundMag, signedVal, Bool.false_eq_true, if_false, ilog2_zpow, max_eq_left hk.1, hround, if_neg (zpow_two_not_neg k),
    if_neg (pow2_le_maxf hk).not_gt, bne_self_eq_false, Bool.false_and, flagIf]
  rfl

/-- It is delivered as it is, whatever the options. -/
theorem roundF_pow2 (o : ROpt) : roundF fm o (.fin false (2 ^ k)) = { val := .fin false (2 ^ k), fl := 0, clamped := false } := by
  have hne : (2 : Rat) ^ k ≠ 0 := by positivity
  have hnormal : ¬ (2 : Rat) ^ k < pow2 (fmtEmin fm) := by
    rw [pow2_eq, not_lt]
    exact zpow_le_zpow_right₀ one_le_two hk.1
  simp only [roundF, if_neg hne, roundMag_pow2 hk, Bool.false_eq_true, if_false, hnormal, and_false]

/-- A value that stands for 2^k and has no negative magnitude is 2^k itself. -/
theorem eq_pow2_of_candVal {e : Ext} (he : ∀ s m, e = .fin s m → 0 ≤ m) (h : candVal fm e = some (2 ^ k)) : e = .fin false (2 ^ k) := by
  have hpos : (0 : Rat) < 2 ^ k := by positivity
  cases e with
  | nan => cases h
  | inf s =>
    have htop : (2 : Rat) ^ k < pow2 ((fmtBias fm : Int) + 1) := by
      rw [pow2_eq]
      exact zpow_lt_zpow_right₀ one_lt_two (by linarith [hk.2])
    cases s
    · exact absurd (Option.some.inj h) htop.ne'
    · have hneg : -pow2 ((fmtBias fm : Int) + 1) = 2 ^ k := Option.some.inj h
      linarith
  | fin s m =>
    cases s
    · rw [show m = 2 ^ k from Option.some.inj h]
    · have hneg : -m = 2 ^ k := Option.some.inj h
      linarith [he true m rfl]

/-- With a bound of 0 the configured result is taken only where it is 2^k, and the nearest value is 2^k. -/
theorem pickApprox_pow2 (cand : Nat) : pickApprox fm (2 ^ k) 0 false cand = .fin false (2 ^ k) := by
  unfold pickApprox
  dsimp only
  split_ifs with hok
  · cases hc : candVal fm (decodeF fm (cand % 2 ^ fmtW fm)) with
    | none => simp [hc] at hok
    | some y =>
      have hy : y = 2 ^ k := by simpa [hc, absR_eq_abs, sub_eq_zero] using hok
      exact eq_pow2_of_candVal hk (fun _ _ => decodeF_mag_nonneg) (hc.trans (congrArg some hy))
  · simp only [absR, zpow_two_not_neg k, decide_false, if_false, roundF_pow2 hk]

end

/-- FP32 holds the powers of two that a 16-bit format holds. -/
theorem holdsPow2_wide {c : Nat} (hc : c < 4) {k : Int} (hk : HoldsPow2 (fmtOf c) k) : HoldsPow2 (if c = 1 then fp64 else fp32) k := by
  have hrange : fmtEmin (if c = 1 then fp64 else fp32) ≤ fmtEmin (fmtOf c) ∧ fmtBias (fmtOf c) ≤ fmtBias (if c = 1 then fp64 else fp32) := by
    interval_cases c <;> decide
  obtain ⟨hlo, hhi⟩ := hk
  exact ⟨hrange.1.trans hlo, hhi.trans (by exact_mod_cast hrange.2)⟩

theorem approxEff_pow2 (v : View) (code : Nat) (x : FIn) {k : Int} (hk : HoldsPow2 (ffmt v.f) k) :
    approxEff v code x (.near (2 ^ k) 0 false) =
      { writes := writesD v (fmtRegW (ffmt v.f)) (encodeF (ffmt v.f) (.fin false (2 ^ k)))
        flags := x.fl ||| (if x.snan then flNV else 0), ovf := 0 } := by
  have hwide : HoldsPow2 (if fcode v.f = 1 then fp64 else fp32) k := holdsPow2_wide (Nat.mod_lt _ (by decide)) hk
  simp only [approxEff, absR, zpow_two_not_neg k, decide_false, if_false, roundF_pow2 hwide, roundF_pow2 hk, pickApprox_pow2 hwide, isInfE,
    Bool.false_eq_true, if_true, Bool.false_and, flagIf, zero_or_flags]

/-! ### The obligation -/

theorem effOk_approxEff (v : View) (code : Nat) (x : FIn) (r : Approx) : EffOk v (approxEff v code x r) := by
  cases r <;> exact effOk_writesD ..

theorem computes_approx {i : Instr} {f : Fields} {code : Nat} {fn : FloatFmt → FloatFmt → Ext → Approx}
    (hi : ∀ s, exec i s = approxAlu code f s fn) :
    Computes i f 0 fun _ v =>
      let x := inA v (Rules.ffmt v) false false
      approxEff v code x (if x.val = .nan then .exact .nan 0 else fn (Rules.ffmt v) (if Rules.fcode v = 1 then fp64 else fp32) x.val) := by
  refine computes_each hi ?_ fun _ => effOk_approxEff ..
  rintro v rfl
  dsimp only
  rw [← inA_eq, ffmt_eq, fcode_eq]
  cases (inA v (ffmt v.f) false false).val <;> rfl

theorem approximatedFunctions : Clauses.ApproximatedFunctions := fun _ =>
  ⟨computes_approx fun _ => rfl, computes_approx fun _ => rfl, computes_approx fun _ => rfl, computes_approx fun _ => rfl,
    computes_approx fun _ => rfl, computes_approx fun _ => rfl, fun v x _ hlo hhi => approxEff_pow2 v 1 x ⟨hlo, hhi⟩⟩

/-- Settles O35, by the special inputs and by the functions as their instructions deliver them. -/
theorem approximations : Obligations.Approximations := ⟨approximatedSpecials, approximatedFunctions⟩

end Sys2Proof.Machine
end
